-- ==== Sys2Proof/Word.lean ====
section
/-! DEFINITION. The widths of the part's words (00_scope, "Address space and default placement", "Time"). -/

namespace Sys2Proof

/-- A byte of memory or of the radio line. -/
abbrev Byte := BitVec 8

/-- A word of the 16-bit data path. -/
abbrev Word := BitVec 16

/-- A station time or an uptime: a wrapping 32-bit count of seconds (R14, R15). -/
abbrev Time := BitVec 32

end Sys2Proof
end

