-- ==== Sys2Proof/Syntax.lean ====
section
/-! DEFINITION. The commands of the part: one constructor of `Instr` per row of spec/opcode_table.json. -/

namespace Sys2Proof

/-- The two states of an input contact (R1). -/
inductive Contact where
  | opened
  | closed
deriving DecidableEq, Repr

/-- The lanes of an access (00; R123): a word on an even address, or a byte on one lane. -/
inductive Lanes where
  | word
  | low
  | high
deriving DecidableEq, Repr

/-- The two settings ranges (09 section 9.1). -/
inductive SettingsRange where
  | stored
  | trial
deriving DecidableEq, Repr

/-- One processor access as the upstream port takes it (R123): PA[23:1], the lanes, the direction
and, for a write, the data on PD. -/
structure Access where
  wordAddr : BitVec 23
  write    : Bool
  lanes    : Lanes
  data     : Word
deriving DecidableEq, Repr

/-- One character at its stop bit (R151, R152): eight data bits, the parity bit (not looked at with
parity NONE), the stop bit (`true` is mark), and whether LRTS was raised at its start bit. -/
structure LineChar where
  data      : Byte
  parityBit : Bool
  stopBit   : Bool
  underRts  : Bool
deriving DecidableEq, Repr

/-- The commands. Pumps 1 to 6, screens 1 and 2, weirs 1 to 3 are counted from 0 here. -/
inductive Instr where
  -- resets and start-up
  | powerUp
  | panelReset
  | upstreamReset
  | uprstRelease
  | loadStage1End
  | loadEnd
  -- field lines, levels, clock
  | secondsTick
  | rawContactChange (line : Fin 30) (contact : Contact)
  | debounceExpiry (line : Fin 30)
  | beaconFlashPhase
  | scanStart
  | exchangeReply (reply : Word)
  | exchangeTimeout
  | clockSetLowWrite (value : Word)
  | clockSetHighWrite (value : Word)
  | clockStagingExpiry
  -- station mode
  | modeRequestNone (rest : BitVec 14)
  | modeRequestAuto (rest : BitVec 14)
  | modeRequestLocal (rest : BitVec 14)
  | modeRequestBadCode (rest : BitVec 14)
  | freshnessWrite (value : Word)
  | freshnessExpiry
  -- pumps
  | pumpOos (pump : Fin 6) (word : Word)
  | pumpReset (pump : Fin 6) (word : Word)
  | pumpRun (pump : Fin 6) (word : Word)
  | feedbackTimeout (pump : Fin 6)
  | minimumRunExpiry (pump : Fin 6)
  | minimumOffExpiry (pump : Fin 6)
  | staggerExpiry
  | startHistoryAgeOut (pump : Fin 6)
  -- screens
  | screenRake (screen : Fin 2) (word : Word)
  | screenOos (screen : Fin 2) (word : Word)
  | screenReset (screen : Fin 2) (word : Word)
  | intervalExpiry (screen : Fin 2)
  | cycleTimeout (screen : Fin 2)
  | reverseExpiry (screen : Fin 2)
  | holdExpiry (screen : Fin 2)
  -- weirs
  | startConfirmExpiry (weir : Fin 3)
  | endConfirmExpiry (weir : Fin 3)
  -- alarms
  | ackPoint (point : Fin 40)
  | ackLevel (level : Fin 4)
  | ackAll
  | ackBadCode (value : Word)
  -- event log
  | stagingOpen (value : Word)
  | stagingWord (place : Fin 8) (value : Word)
  | stagingCommit (value : Word)
  | stagingByteWrite (place : Fin 10) (highLane : Bool) (value : Byte)
  | logAdvance (count : Word)
  | logEntryRead (place : Fin 16) (lanes : Lanes)
  | logWriteGrant
  | logWriteComplete
  -- bus path
  | upstreamAccess (access : Access)
  | upstreamGrant
  | upstreamComplete
  | correctorGrant
  | correctionComplete
  | depositGrant
  | depositComplete
  | reportReaderGrant
  | entryReadComplete
  -- settings
  | settingsEnable (range : SettingsRange) (value : Word)
  | settingsSectionWord (range : SettingsRange) (offset : Fin 2048) (lanes : Lanes) (value : Word)
  | lockWordWrite (value : Word)
  | freezeWordWrite (value : Word)
  | settingsIdleExpiry
  -- town link line
  | characterReceived (char : LineChar)
  | gapTimerExpiry
  | keyUp
  | keyUpExpiry
  | transmitComplete
  | ldcdChange (active : Bool)
  -- reports to town
  | poll (tag : Byte) (ack : BitVec 32)
  | townAlarmAck (tag : Byte) (payload : List Byte)
  | townClockSet (broadcast : Bool) (tag : Byte) (time : Time)
  | frameRejected (broadcast : Bool) (kind tag : Byte) (payload : List Byte)
  | linkTimerExpiry
  | pollWaitExpiry
  | alertCycleStart
  | alertTimerExpiry
  | lineReturnsToMark
deriving DecidableEq, Repr

end Sys2Proof
end

