-- ==== Sys2Proof/Config.lean ====
section
/-! DEFINITION. What the spec leaves to chance: the part of a burst that a reset leaves in memory. -/

namespace Sys2Proof

/-- R110, R132: a reset in the middle of a burst leaves the region "partly written". Whether byte
`i` of the `n`-th burst so cut off had reached memory is free (log 8); nothing constrains it. -/
opaque Config.cutLanded (n i : Nat) : Bool

/-- R110, R132: the "check word then fails". The word that stands as the check word of the `n`-th burst cut off, where the
bytes that had landed leave none that fails, is free (log 8); the machine keeps it from passing. -/
opaque Config.cutCheck (n : Nat) : BitVec 16

end Sys2Proof
end

