-- ==== Sys2Proof/Machine/Memory.lean ====
section
/-! DEFINITION. Station memory as a canonical list of cells, and accesses to it (00, "Address space"). -/

namespace Sys2Proof.Machine

/-- The 24-bit byte-addressed station memory: the bytes that differ from what an unlisted address reads as. -/
abbrev Memory := List Host.Cell

/-- What an address that is not listed reads as. The spec gives memory no contents before the first
write; 0x00 is a DESIGN CHOICE (log 7), so that never-written memory is no checked block (R171). -/
def unlistedByte : Byte := 0x00

/-- The canonical form: addresses strictly rising, no entry equal to what an unlisted address reads as. -/
abbrev Memory.wf (m : Memory) : Prop :=
  m.Pairwise (fun x y => x.1 < y.1) ∧ ∀ c ∈ m, c.2 ≠ unlistedByte

/-- The byte at an address below 2^24 (the address bus has 24 bits). -/
def Memory.read (m : Memory) (a : Nat) : Byte :=
  match m with
  | [] => unlistedByte
  | (k, b) :: rest => if k = a then b else if a < k then unlistedByte else Memory.read rest a

/-- Store one byte, keeping the canonical form. -/
def Memory.write (m : Memory) (a : Nat) (b : Byte) : Memory :=
  match m with
  | [] => if b = unlistedByte then [] else [(a, b)]
  | (k, c) :: rest =>
    if a < k then (if b = unlistedByte then (k, c) :: rest else (a, b) :: (k, c) :: rest)
    else if a = k then (if b = unlistedByte then rest else (a, b) :: rest)
    else (k, c) :: Memory.write rest a b

/-- The word at an even address, low byte first (00: little-endian). -/
def Memory.readWord (m : Memory) (a : Nat) : Word :=
  m.read (a + 1) ++ m.read a

/-- `n` bytes from address `a`. -/
def Memory.readBytes (m : Memory) (a : Nat) : Nat → List Byte
  | 0 => []
  | n + 1 => m.read a :: Memory.readBytes m (a + 1) n

/-- `n` words from the even address `a`. -/
def Memory.readWords (m : Memory) (a : Nat) : Nat → List Word
  | 0 => []
  | n + 1 => m.readWord a :: Memory.readWords m (a + 2) n

/-- Store bytes at successive addresses. -/
def Memory.writeBytes (m : Memory) (a : Nat) : List Byte → Memory
  | [] => m
  | b :: rest => Memory.writeBytes (m.write a b) (a + 1) rest

/-- Store those bytes of a burst for which `landed` holds; byte `i` is the first one's number. -/
def Memory.writeLanded (landed : Nat → Bool) (m : Memory) (a i : Nat) : List Byte → Memory
  | [] => m
  | b :: rest =>
    Memory.writeLanded landed (if landed i then m.write a b else m) (a + 1) (i + 1) rest

/-- The two bytes of a word, low byte first. -/
def wordBytes (w : Word) : List Byte := [w.extractLsb' 0 8, w.extractLsb' 8 8]

/-- The bytes of a block of words. -/
def wordsBytes (ws : List Word) : List Byte := ws.flatMap wordBytes

/-- `k` bytes of a number, low byte first. -/
def natBytes (k n : Nat) : List Byte :=
  match k with
  | 0 => []
  | k + 1 => BitVec.ofNat 8 n :: natBytes k (n / 256)

/-- The number that bytes spell, low byte first. -/
def bytesNat : List Byte → Nat
  | [] => 0
  | b :: rest => b.toNat + 256 * bytesNat rest

/-- The words that bytes spell, low byte first. -/
def bytesWords : List Byte → List Word
  | lo :: hi :: rest => (hi ++ lo) :: bytesWords rest
  | _ => []

/-- The 16-bit wrapping sum of a block (00 "Check words", R171). -/
def blockSum (ws : List Word) : Word := ws.foldl (· + ·) 0

/-- R171: the block is valid when all its words sum to 0xFFFF. -/
def blockValid (ws : List Word) : Bool := blockSum ws == 0xFFFF

/-- R171: the check word of the words before it. -/
def checkWord (ws : List Word) : Word := 0xFFFF - blockSum ws

/-- A block of `n` words: the given ones, zeros, and the check word last. -/
def sealBlock (n : Nat) (ws : List Word) : List Word :=
  let body := ws ++ List.replicate (n - 1 - ws.length) 0
  body ++ [checkWord body]

end Sys2Proof.Machine
end

