-- ==== Sys2Proof/Machine/Defaults.lean ====
section
/-! DEFINITION. The default settings sections, as each chapter gives them and 12.5 places them (R139). -/

namespace Sys2Proof.Machine

/-- The words of a section (09 section 9.1). -/
def sectionLength (i : Fin 9) : Nat :=
  match i with
  | 0 => 64 | 1 => 128 | 2 => 128 | 3 => 64 | 4 => 64 | 5 => 256 | 6 => 128 | 7 => 64 | 8 => 16

/-- A section's first byte offset in either settings range (09 section 9.1). -/
def sectionOffset (i : Fin 9) : Nat :=
  match i with
  | 0 => 0x100 | 1 => 0x200 | 2 => 0x300 | 3 => 0x400 | 4 => 0x480 | 5 => 0x500 | 6 => 0x700
  | 7 => 0x800 | 8 => 0x000

/-- S0: the default table of R125 (LOG_RING 3, COMMAND 1, LOG_PORT 4, STATUS 2). -/
def defaultS0 : List Word :=
  [3, 0x0000, 0x000F, 15, 1, 0x8000, 0x000F, 8, 4, 0x8100, 0x000F, 8, 2, 0x8400, 0x000F, 10]

/-- One pump record of S1 (03 section 3.1). -/
def defaultPumpRecord : List Word := [1, 4, 120, 180, 6, 10, 0, 0, 0, 0, 0, 0, 0, 0, 0, 0]

/-- One channel of S2: zero, span, low and high fault codes (R8, R9). -/
def defaultChannelRecord : List Word := [0, 5000, 200, 4000]

/-- S2 as 12.5 lists it. -/
def defaultS2 : List Word :=
  [0, 0, 50] ++ (List.replicate 8 defaultChannelRecord).flatten ++
    [5, 24, 12, 2500, 200, 2, 15, 1200, 1600, 2000, 2300, 2600, 2900, 600, 900, 1200, 1500, 1800, 2100]

/-- One rake record of S3 (04 section 4.1). -/
def defaultRakeRecord : List Word := [1, 2, 150, 400, 1800, 120, 5, 3, 600, 0, 0, 0, 0, 0, 0, 0]

/-- One weir record of S4 (05 section 5.1). -/
def defaultWeirRecord : List Word := [1, 1500, 20, 30, 120, 0, 0, 0]

/-- One curve of S5, absent (05 section 5.1). -/
def defaultCurve : List Word := 0xFFFF :: List.replicate 31 0

/-- S6: level in bits 1:0 and LATCH in bit 8 for each class in the order of 6.1; line mask; beacon mask (R95). -/
def defaultS6 : List Word :=
  [0x101, 0x003, 0x101, 0x002, 0x002, 0x100, 0x102, 0x101, 0x001, 0x100, 0x101, 0x003, 0x102,
   0x102, 0x102, 0x003, 0x002, 0x003, 0x0007, 0x0003]

/-- S7: 9600, NONE, 40 ms, address 1, 300 s, 60 s, 30 s, all classes reported (10, 11). -/
def defaultS7 : List Word := [3, 0, 40, 1, 300, 60, 30, 0x1FF]

/-- H: marker, layout version, empty lock mask (12.5). -/
def defaultH : List Word := [0x4752, 1, 0]

/-- A section's defaults with unused words zero and the check word computed (R139). -/
def defaultSection (i : Fin 9) : List Word :=
  sealBlock (sectionLength i)
    (match i with
     | 0 => defaultS0
     | 1 => (List.replicate 6 defaultPumpRecord).flatten
     | 2 => defaultS2
     | 3 => (List.replicate 2 defaultRakeRecord).flatten
     | 4 => (List.replicate 3 defaultWeirRecord).flatten
     | 5 => (List.replicate 3 defaultCurve).flatten
     | 6 => defaultS6
     | 7 => defaultS7
     | 8 => defaultH)

end Sys2Proof.Machine
end

