-- ==== Sys2Proof/Machine/State.lean ====
section
/-! DEFINITION. The state of the part as plain data, and the state after power-up. INVENTORY.md lists
each field with its rule. -/

namespace Sys2Proof.Machine

/-- R14: a timer is stopped, runs with the ticks still to come (0: it has run out and its expiry is
due), or is paused with the ticks it keeps. -/
inductive Timer where
  | stopped
  | running (left : Nat)
  | paused (left : Nat)
deriving DecidableEq, Repr

/-! Clock (R14 to R16). -/

structure Clock where
  uptime    : Time
  station   : Time
  clockSet  : Bool
  phase     : Nat
  stagedLow : Option Word
  staging   : Timer
deriving DecidableEq, Repr

/-! Field lines (R1 to R5). The pump and rake outputs are computed from their owners' states. -/

inductive BeaconDemand where
  | off
  | steady
  | flash
deriving DecidableEq, Repr

structure LineUnit where
  raw         : Vector Contact 30
  debounced   : Vector Contact 30
  stability   : Vector Timer 30
  beaconOn    : Bool
  beaconTimer : Timer
deriving DecidableEq, Repr

/-! Level unit (R6 to R13). -/

inductive FaultCause where
  | start
  | converter
  | badSample
deriving DecidableEq, Repr

inductive ChannelState where
  | good
  | fault (cause : FaultCause)
deriving DecidableEq, Repr

structure Channel where
  ring      : List Nat
  goodCount : Nat
  state     : ChannelState
  value     : Option Nat
  stale     : Bool
deriving DecidableEq, Repr

/-- A scan in progress: the codes of the channels below `codes.length`, and the exchange timer of the next. -/
structure Scan where
  codes : List Nat
  timer : Timer
deriving DecidableEq, Repr

structure LevelUnit where
  channels  : Vector Channel 8
  failCount : Nat
  scan      : Option Scan
  period    : Timer
deriving DecidableEq, Repr

/-! Station mode unit (R17 to R34). -/

inductive Mode where
  | load
  | auto
  | localControl
deriving DecidableEq, Repr

inductive ModeCause where
  | none
  | start
  | lapse
  | upstream
  | commanded
deriving DecidableEq, Repr

inductive Supply where
  | mains
  | generator
deriving DecidableEq, Repr

structure ModeUnit where
  mode       : Mode
  cause      : ModeCause
  freshLast  : Word
  freshTimer : Timer
  freshLimit : Nat
  fresh      : Bool
  supply     : Supply
  storm      : Bool
  wetWell    : Bool
  overflow   : Bool
  floatHigh  : Bool
  loadShed   : Bool
deriving DecidableEq, Repr

/-! Load budget (R26). Holders 0 to 5 are pumps 1 to 6, holders 6 and 7 are screens 1 and 2. -/

inductive ClaimStatus where
  | none
  | waiting
  | held
deriving DecidableEq, Repr

structure Claim where
  status : ClaimStatus
  units  : Nat
deriving DecidableEq, Repr

/-! Pumps (R35). -/

inductive PumpState where
  | absent
  | off
  | resting
  | starting
  | running
  | tripped
  | outOfService
deriving DecidableEq, Repr

inductive TripCause where
  | feedback
  | feedbackLost
  | fault
deriving DecidableEq, Repr

structure Pump where
  state      : PumpState
  tripCause  : TripCause
  tripUptime : Option Time
  lastStart  : Option Time
  deferred   : Bool
  feedback   : Timer
  minRun     : Timer
  minOff     : Timer
  history    : List Time
deriving DecidableEq, Repr

/-! Screens (R63). -/

inductive RakeState where
  | absent
  | idle
  | waiting
  | raking
  | reversing
  | suspended
  | jammed
  | outOfService
deriving DecidableEq, Repr

inductive Trigger where
  | differential
  | interval
  | command
  | storm
deriving DecidableEq, Repr

inductive JamCause where
  | overload
  | timeout
deriving DecidableEq, Repr

structure Rake where
  state         : RakeState
  fromReversing : Bool          -- suspended-from state: REVERSING, else RAKING
  trigger       : Trigger
  attempts      : Nat
  homeLeave     : Bool
  jamCause      : JamCause
  cycleStart    : Option Time
  cycle         : Timer
  reverse       : Timer
  interval      : Timer
  hold          : Timer
  differential  : Int
  counts        : Bool
  held          : Bool
  blinded       : Bool
deriving DecidableEq, Repr

/-! Weirs (R79, 05 section 5.3). -/

inductive WeirState where
  | normal
  | rising
  | overflowing
  | falling
deriving DecidableEq, Repr

structure RecordFlags where
  curveChanged : Bool
  channelFault : Bool
  beyondCurve  : Bool
  resumed      : Bool
  clockChanged : Bool
deriving DecidableEq, Repr

structure OverflowRecord where
  startTime   : Time
  startUptime : Time
  duration    : Option Time
  endTime     : Option Time
  peak        : Nat
  peakTime    : Time
  volume      : Option Nat
  flags       : RecordFlags
deriving DecidableEq, Repr

structure Weir where
  state        : WeirState
  startConfirm : Timer
  endConfirm   : Timer
  faultHold    : Bool
  openRecord   : Option OverflowRecord
  lastClosed   : Option OverflowRecord
  litres       : Nat
  resume       : Bool
  channelGood  : Bool           -- channel state last delivered (R78)
  level        : Option Nat     -- filtered value last delivered (R78)
deriving DecidableEq, Repr

/-! Alarms (R94 to R103). -/

inductive PointState where
  | normal
  | activeUnack
  | activeAcked
  | returnedUnack
deriving DecidableEq, Repr

structure AlarmPoint where
  condition : Bool
  state     : PointState
deriving DecidableEq, Repr

structure AlarmUnit where
  points   : Vector AlarmPoint 40
  firstOut : Option (Fin 40)
  identity : Option (Fin 40)
  aline    : Bool
  demand   : BeaconDemand
deriving DecidableEq, Repr

/-! Settings shadows (R139). -/

inductive SettingsSource where
  | stored
  | trial
  | default
deriving DecidableEq, Repr

structure SettingsShadow where
  words         : List Word
  source        : SettingsSource
  storedDiffers : Bool
  pendingReset  : Bool
deriving DecidableEq, Repr

/-- An append as the appending block gives it (R108), with its urgent mark (R167). -/
structure Draft where
  source : Byte
  kind   : Byte
  detail : List Byte
  urgent : Bool
deriving DecidableEq, Repr

/-- The blocks that act on the plant, with the settings they read, the command shadow they own and
the entries they hand to the log unit. -/
structure Plant where
  clock    : Clock
  lines    : LineUnit
  levels   : LevelUnit
  mode     : ModeUnit
  claims   : Vector Claim 8
  pumps    : Vector Pump 6
  queue    : List (Fin 6)
  stagger  : Timer
  rotation : List (Fin 6)
  desired  : Nat
  rakes    : Vector Rake 2
  weirs    : Vector Weir 3
  alarms   : AlarmUnit
  sections : Vector SettingsShadow 9
  shadow   : Vector Word 32
  corr     : List (Fin 32)      -- the pending-correction set, in the order the words joined (R134)
  out      : List Draft         -- the model's own: appends of the present step, taken by the log unit at its end
  marks    : List (Fin 16)      -- the model's own: pages that the present step has marked, taken at its end (log 10)
deriving DecidableEq, Repr

/-! Log unit (R107 to R121). -/

inductive RefusalCause where
  | byteWrite | readOnly | shielded | noTransaction | locked | frozen | busy | orderBroken | badCode
  | notTrial | pumpAbsent | pumpTripped | pumpOos | startLimit | dryWell | modeRefused | kindReserved
  | emptyAdvance
deriving DecidableEq, Repr

inductive CommitResult where
  | none
  | assigned (seq : Nat)
  | dropped
  | refused (cause : RefusalCause)
deriving DecidableEq, Repr

/-- An entry as it was assigned (R108): its number, its 32 bytes, and whether it is urgent (R167). -/
structure QueuedEntry where
  seq    : Nat
  bytes  : List Byte
  urgent : Bool
deriving DecidableEq, Repr

structure LogUnit where
  a          : Nat
  t          : Nat
  o          : Nat
  p          : Nat
  w          : Nat
  s          : Nat
  pmiss      : Nat
  tmiss      : Nat
  dropped    : Bool
  dropCount  : Nat
  queue      : List QueuedEntry
  staging    : Option (List Word)   -- open with the words staged; the next offset is twice their number (R114)
  lastCommit : CommitResult
deriving DecidableEq, Repr

/-! Settings unit (09 sections 9.2, 9.3). -/

inductive SettingsResult where
  | commit
  | orderBroken
  | timeout
  | upstream
  | check
  | content
deriving DecidableEq, Repr

structure Transaction where
  range     : SettingsRange
  sec       : Fin 9
  next      : Nat
  received  : Nat
  forwarded : Nat
  staging   : List Word
  idle      : Timer
deriving DecidableEq, Repr

structure LastSettings where
  sec    : Fin 9
  range  : SettingsRange
  result : SettingsResult
deriving DecidableEq, Repr

structure SettingsUnit where
  lock   : BitVec 9             -- bits 0 to 7 for S0 to S7, bit 8 for H (R146)
  freeze : Bool
  txn    : Option Transaction
  last   : Option LastSettings
deriving DecidableEq, Repr

/-! The upstream port, the window table and the memory port (08). -/

inductive WindowKind where
  | none
  | command
  | status
  | logRing
  | logPort
  | shield
deriving DecidableEq, Repr

structure Window where
  kind : WindowKind
  base : Nat
  exp  : Nat
deriving DecidableEq, Repr

/-- R128: the outcome of an access, with what it sends to memory or the cause it is refused with. -/
inductive Verdict where
  | forward
  | rewrite (data : Word)
  | trim (data : Word) (cause : RefusalCause)
  | translate (address : Nat)
  | absorb
  | refuse (cause : RefusalCause)
deriving DecidableEq, Repr

inductive UpstreamPort where
  | idle
  | waiting (access : Access)
  | granted (access : Access) (verdict : Verdict)
deriving DecidableEq, Repr

/-- What a report reader's entry read is for (R164, R169). -/
inductive ReadUse where
  | build
  | alert
deriving DecidableEq, Repr

/-- What holds the memory port (R131, R132). A read whose result is to be discarded is not `live` (R161, R169). -/
inductive Holder where
  | free
  | upstream
  | corrector (word : Fin 32) (value : Word)
  | logWriter (entry : QueuedEntry)
  | deposit (page : Fin 16) (image : List Byte)
  | reader (seq : Nat) (use : ReadUse) (live : Bool)
deriving DecidableEq, Repr

inductive Side where
  | upstream
  | internal
deriving DecidableEq, Repr

/-- The internal group, in ring order (R132). -/
inductive Member where
  | corrector
  | logWriter
  | deposit
  | reader
deriving DecidableEq, Repr

structure LastRefusal where
  address : Nat
  lanes   : Lanes
  data    : Word
  cause   : RefusalCause
  time    : Time
deriving DecidableEq, Repr

structure LoggedRefusal where
  cause   : RefusalCause
  address : Nat
  uptime  : Time
deriving DecidableEq, Repr

structure RefusalRecord where
  count   : Nat
  last    : Option LastRefusal
  repeats : Nat
  logged  : Option LoggedRefusal
deriving DecidableEq, Repr

structure DepositAgent where
  dirty   : Vector Bool 16
  gen     : Vector Word 16
  scanPos : Nat
deriving DecidableEq, Repr

/-! Link line (10). -/

inductive RxState where
  | hunt
  | header
  | payload
  | check
deriving DecidableEq, Repr

structure Receiver where
  state   : RxState
  crc     : BitVec 16
  header  : List Byte           -- address, kind, tag, length as received
  payload : List Byte
  crcHigh : Option Byte
  gap     : Option Nat          -- the gap timer's bit periods, while it runs
  inBreak : Bool                -- a break has been judged and the line is not yet back at mark
deriving DecidableEq, Repr

inductive TxOwner where
  | reply
  | alert
  | disowned                    -- an ALERT whose cycle has ended (R169)
deriving DecidableEq, Repr

structure TxFrame where
  address : Byte
  kind    : Byte
  tag     : Byte
  payload : List Byte
  owner   : TxOwner
deriving DecidableEq, Repr

inductive Transmitter where
  | idle
  | pending (frame : TxFrame)
  | keying (frame : TxFrame) (timer : Timer)
  | sending (frame : TxFrame)
deriving DecidableEq, Repr

structure LinkCounts where
  good      : Nat
  foreign   : Nat
  breaks    : Nat
  framing   : Nat
  parity    : Nat
  gap       : Nat
  length    : Nat
  crc       : Nat
  noise     : Nat
  discarded : Nat
deriving DecidableEq, Repr

/-- A good frame as the link line hands it to the reporter (R155). -/
structure TownFrame where
  broadcast : Bool
  kind      : Byte
  tag       : Byte
  payload   : List Byte
deriving DecidableEq, Repr

structure Link where
  s7        : List Word
  pendingS7 : Option (List Word)
  rx        : Receiver
  tx        : Transmitter
  ldcd      : Bool
  counts    : LinkCounts
  inbox     : List TownFrame
deriving DecidableEq, Repr

/-! Reporter (11). -/

structure Build where
  tag      : Byte
  mask     : Word               -- the report mask in force at the start of the build (R170)
  gap      : Option Nat
  items    : List (List Byte)
  next     : Nat                -- the sequence number examined next
  examined : Nat
deriving DecidableEq, Repr

structure Reply where
  kind    : Byte
  tag     : Byte
  payload : List Byte
  next    : Nat
  ofPoll  : Bool
  gap     : Option Nat
deriving DecidableEq, Repr

inductive Slot where
  | none
  | preparing (build : Build)
  | ready (reply : Reply)
  | held (reply : Reply)
deriving DecidableEq, Repr

/-- Where the present send of an alert cycle stands (R169). -/
inductive AlertPhase where
  | timing                          -- the alert timer runs
  | lineWait                        -- expired, waiting for LDCD and quiet
  | fetching (seq : Nat)
  | ready (payload : List Byte)     -- refused BUSY, to be asked for again
  | sending
deriving DecidableEq, Repr

structure AlertCycle where
  sends : Nat
  phase : AlertPhase
  timer : Timer
deriving DecidableEq, Repr

structure ReportCounts where
  polls      : Nat
  rejected   : Nat
  disorders  : Nat
  superseded : Nat
  unreadable : Nat
  alerts     : Nat
deriving DecidableEq, Repr

structure Reporter where
  linkUp    : Bool
  linkTimer : Timer
  pollTimer : Timer
  slot      : Slot
  waiting   : Option TownFrame
  readReq   : Option (Nat × ReadUse)
  gapRecord : Option (Nat × Nat)
  urgent    : List (Nat × Bool)     -- sequence number and alerted mark, ascending (R167)
  cycle     : Option AlertCycle
  counts    : ReportCounts
deriving DecidableEq, Repr

/-- R148, R149: where the start-up load stands, and whether a panel reset began it. -/
inductive LoadStage where
  | none
  | stage1 (panel : Bool)
  | stage2 (panel : Bool)
deriving DecidableEq, Repr

/-- A SETTINGS_DEFAULT entry the loader keeps (R148). -/
structure KeptDefault where
  sec     : Fin 9
  content : Bool                -- cause CONTENT, else CHECK
deriving DecidableEq, Repr

structure State where
  pending    : List Instr
  load       : LoadStage
  kept       : List KeptDefault
  uprst      : Bool
  ldcdPin    : Bool
  mem        : Memory
  port       : UpstreamPort
  prdy       : Bool
  pd         : Word
  verdict    : Option Verdict   -- the model's own record of the outcome last judged (R128)
  holder     : Holder
  lastWinner : Side
  rotation   : Member
  windows    : List Window
  plant      : Plant
  log        : LogUnit
  settings   : SettingsUnit
  refusals   : RefusalRecord
  deposits   : DepositAgent
  link       : Link
  reporter   : Reporter
  freeCount  : Nat              -- the model's own: how many free values a cut burst has used (log 8)
deriving DecidableEq, Repr

/-- Why the machine could stop: no rule of the spec stops the part, so there is no reason (log 11). -/
inductive Fault
deriving DecidableEq, Repr

/-- Why a command has no meaning. -/
inductive Refusal where
  /-- Raised by `exec` for a command whose meaning is not written yet; safe, the model stops. -/
  | notModelled (mnemonic : String)
deriving DecidableEq, Repr

/-! The state after power-up. Values the spec does not give are logs 7 to 10. -/

def Clock.reset : Clock :=
  { uptime := 0, station := 0, clockSet := false, phase := 0, stagedLow := none, staging := .stopped }

def LineUnit.reset : LineUnit :=
  { raw := Vector.replicate 30 .opened, debounced := Vector.replicate 30 .opened,
    stability := Vector.replicate 30 .stopped, beaconOn := false, beaconTimer := .stopped }

def Channel.reset : Channel :=
  { ring := [], goodCount := 0, state := .fault .start, value := none, stale := false }

def LevelUnit.reset : LevelUnit :=
  { channels := Vector.replicate 8 Channel.reset, failCount := 0, scan := none, period := .stopped }

def ModeUnit.reset : ModeUnit :=
  { mode := .load, cause := .none, freshLast := 0, freshTimer := .stopped, freshLimit := 0,
    fresh := false, supply := .mains, storm := false, wetWell := false, overflow := false,
    floatHigh := false, loadShed := false }

def Pump.reset : Pump :=
  { state := .resting, tripCause := .feedback, tripUptime := none, lastStart := none,
    deferred := false, feedback := .stopped, minRun := .stopped, minOff := .stopped, history := [] }

def Rake.reset : Rake :=
  { state := .idle, fromReversing := false, trigger := .differential, attempts := 0,
    homeLeave := false, jamCause := .overload, cycleStart := none, cycle := .stopped,
    reverse := .stopped, interval := .stopped, hold := .stopped, differential := 0, counts := false,
    held := false, blinded := false }

def Weir.reset : Weir :=
  { state := .normal, startConfirm := .stopped, endConfirm := .stopped, faultHold := false,
    openRecord := none, lastClosed := none, litres := 0, resume := false, channelGood := false,
    level := none }

def AlarmUnit.reset : AlarmUnit :=
  { points := Vector.replicate 40 { condition := false, state := .normal }, firstOut := none,
    identity := none, aline := false, demand := .off }

def SettingsShadow.reset (i : Fin 9) : SettingsShadow :=
  { words := defaultSection i, source := .default, storedDiffers := false, pendingReset := false }

def Plant.reset : Plant :=
  { clock := Clock.reset, lines := LineUnit.reset, levels := LevelUnit.reset, mode := ModeUnit.reset,
    claims := Vector.replicate 8 { status := .none, units := 0 }, pumps := Vector.replicate 6 Pump.reset,
    queue := [], stagger := .stopped, rotation := [0, 1, 2, 3, 4, 5], desired := 0,
    rakes := Vector.replicate 2 Rake.reset, weirs := Vector.replicate 3 Weir.reset,
    alarms := AlarmUnit.reset, sections := Vector.ofFn SettingsShadow.reset,
    shadow := Vector.replicate 32 0, corr := [], out := [], marks := [] }

def LogUnit.reset : LogUnit :=
  { a := 1, t := 1, o := 1, p := 1, w := 1, s := 1, pmiss := 0, tmiss := 0, dropped := false,
    dropCount := 0, queue := [], staging := none, lastCommit := .none }

/-- R125: the default window table. -/
def defaultWindows : List Window :=
  [ { kind := .logRing, base := 0x0F0000, exp := 15 }, { kind := .command, base := 0x0F8000, exp := 8 },
    { kind := .logPort, base := 0x0F8100, exp := 8 }, { kind := .status, base := 0x0F8400, exp := 10 },
    { kind := .none, base := 0, exp := 0 }, { kind := .none, base := 0, exp := 0 },
    { kind := .none, base := 0, exp := 0 }, { kind := .none, base := 0, exp := 0 } ]

def DepositAgent.reset : DepositAgent :=
  { dirty := Vector.replicate 16 false, gen := Vector.replicate 16 0, scanPos := 0 }

def Receiver.reset : Receiver :=
  { state := .hunt, crc := 0xFFFF, header := [], payload := [], crcHigh := none, gap := none,
    inBreak := false }

def LinkCounts.reset : LinkCounts :=
  { good := 0, foreign := 0, breaks := 0, framing := 0, parity := 0, gap := 0, length := 0, crc := 0,
    noise := 0, discarded := 0 }

def Link.reset : Link :=
  { s7 := defaultSection 7, pendingS7 := none, rx := Receiver.reset, tx := .idle, ldcd := false,
    counts := LinkCounts.reset, inbox := [] }

def Reporter.reset : Reporter :=
  { linkUp := false, linkTimer := .stopped, pollTimer := .stopped, slot := .none, waiting := none,
    readReq := none, gapRecord := none, urgent := [], cycle := none,
    counts := { polls := 0, rejected := 0, disorders := 0, superseded := 0, unreadable := 0, alerts := 0 } }

/-- The part right after power-up, at the start of LOAD stage 1 (R148), its queue empty. -/
def State.reset : State :=
  { pending := [], load := .stage1 false, kept := [], uprst := false, ldcdPin := false, mem := [],
    port := .idle, prdy := true, pd := 0, verdict := none, holder := .free, lastWinner := .upstream,
    rotation := .corrector, windows := defaultWindows, plant := Plant.reset, log := LogUnit.reset,
    settings := { lock := 0, freeze := false, txn := none, last := none },
    refusals := { count := 0, last := none, repeats := 0, logged := none },
    deposits := DepositAgent.reset, link := Link.reset, reporter := Reporter.reset, freeCount := 0 }

end Sys2Proof.Machine
end

