-- ==== Sys2Proof/Machine/Ops.lean ====
section
/-! DEFINITION. The named operations: vectors, timers, entries, the command shadow and the log unit's append. -/

namespace Sys2Proof.Machine

/-- Replace one member of a fixed group. -/
def vset {α : Type} {n : Nat} (v : Vector α n) (i : Fin n) (x : α) : Vector α n := v.set i.val x i.isLt

def allPumps : List (Fin 6) := [0, 1, 2, 3, 4, 5]
def allRakes : List (Fin 2) := [0, 1]
def allWeirs : List (Fin 3) := [0, 1, 2]
def allChannels : List (Fin 8) := [0, 1, 2, 3, 4, 5, 6, 7]
def allHolders : List (Fin 8) := [0, 1, 2, 3, 4, 5, 6, 7]
def allSections : List (Fin 9) := [0, 1, 2, 3, 4, 5, 6, 7, 8]
def allPages : List (Fin 16) := [0, 1, 2, 3, 4, 5, 6, 7, 8, 9, 10, 11, 12, 13, 14, 15]
def allWords : List (Fin 32) := List.finRange 32
def allPoints : List (Fin 40) := List.finRange 40
def allLines : List (Fin 30) := List.finRange 30

/-- The input lines in ascending order (01 section 1.1). -/
def inputLines : List (Fin 30) :=
  [6, 7, 8, 9, 10, 11, 12, 13, 14, 15, 16, 17, 22, 23, 24, 25, 26, 27, 28]

/-- Counts that hold at 65535 (R107, R129, R159, R170). -/
def bump (n : Nat) : Nat := if n < 65535 then n + 1 else n

/-! Timers (R14). -/

/-- One tick: a running timer comes one tick nearer to its end. -/
def Timer.tick : Timer → Timer
  | .running (n + 1) => .running n
  | t => t

/-- The timer has run out and its expiry has not been taken yet. -/
def Timer.due : Timer → Bool
  | .running 0 => true
  | _ => false

def Timer.isRunning : Timer → Bool
  | .running _ => true
  | _ => false

def Timer.isPaused : Timer → Bool
  | .paused _ => true
  | _ => false

/-- The ticks still to come; 0 for a stopped timer (R172). -/
def Timer.left : Timer → Nat
  | .stopped => 0
  | .running n => n
  | .paused n => n

def Timer.pause : Timer → Timer
  | .running n => .paused n
  | t => t

def Timer.resume : Timer → Timer
  | .paused n => .running n
  | t => t

/-- R14: a timer of D milliseconds counts D / 10 ticks of 10 ms, truncating. -/
def Timer.ofMs (ms : Nat) : Timer := .running (ms / 10)

/-! Detail bytes (R172): one byte for a named value, two for a count, four for a time. -/

def detail1 (n : Nat) : List Byte := natBytes 1 n
def detail2 (n : Nat) : List Byte := natBytes 2 n
def detail3 (n : Nat) : List Byte := natBytes 3 n
def detail4 (n : Nat) : List Byte := natBytes 4 n

/-- A bit as a number. -/
def bit (b : Bool) : Nat := if b then 1 else 0

/-- A word packed from fields (value, lowest bit, width). -/
def packWord (fields : List (Nat × Nat × Nat)) : Word :=
  BitVec.ofNat 16 ((fields.map (fun f => f.1 % 2 ^ f.2.2 * 2 ^ f.2.1)).sum)

/-- The low and the high word of a 32-bit value. -/
def words32 (n : Nat) : List Word := [BitVec.ofNat 16 n, BitVec.ofNat 16 (n / 65536)]

/-! Appends and corrections of the plant's blocks. -/

/-- Hand an entry to the log unit in the present step (R109). -/
def Plant.append (p : Plant) (source kind : Byte) (detail : List Byte) (urgent : Bool := false) : Plant :=
  { p with out := p.out ++ [{ source := source, kind := kind, detail := detail, urgent := urgent }] }

/-- Pages marked dirty in the present step by a change that the step may yet undo (R4, R33, R62). -/
def Plant.mark (p : Plant) (pages : List (Fin 16)) : Plant := { p with marks := p.marks ++ pages }

/-- R134: a word joins the pending-correction set at its end, and keeps its place if it is a member. -/
def joinCorr (corr : List (Fin 32)) (i : Fin 32) : List (Fin 32) :=
  if i ∈ corr then corr else corr ++ [i]

def Plant.queueCorrection (p : Plant) (i : Fin 32) : Plant := { p with corr := joinCorr p.corr i }

/-- Set a shadow word, the correction set untouched (a processor write, R133). -/
def Plant.setShadow (p : Plant) (i : Fin 32) (w : Word) : Plant := { p with shadow := vset p.shadow i w }

/-- The owner changes a shadow word by itself: it joins the pending-correction set (R134). -/
def Plant.correctShadow (p : Plant) (i : Fin 32) (w : Word) : Plant :=
  if p.shadow.get i = w then p else (p.setShadow i w).queueCorrection i

/-- Set one bit of a word. -/
def setBit (w : Word) (i : Nat) (b : Bool) : Word :=
  if b then w ||| (BitVec.ofNat 16 (2 ^ i)) else w &&& ~~~(BitVec.ofNat 16 (2 ^ i))

/-- An age in seconds of uptime (R14). -/
def Plant.since (p : Plant) (t : Time) : Nat := (p.clock.uptime - t).toNat

/-- Start-up load: no event, condition or demand is taken (R5, R17, R105). -/
def Plant.loading (p : Plant) : Bool := p.mode.mode == .load

/-! The append of the log unit (R108, R109). -/

/-- The sixteen words of an entry: fields of 12.4 and the check word. -/
def entryBytes (seq : Nat) (time : Time) (source kind : Byte) (flags : Nat) (detail : List Byte) : List Byte :=
  let body := natBytes 4 seq ++ natBytes 4 time.toNat ++ [source, kind, BitVec.ofNat 8 flags,
    BitVec.ofNat 8 detail.length] ++ (detail ++ List.replicate (18 - detail.length) 0)
  body ++ wordBytes (checkWord (bytesWords body))

/-- The append queue's places (R109). -/
def queuePlaces : Nat := 16

/-- The first sequence number that is never assigned (R108, R109). -/
def lastSequence : Nat := 4294967295

/-- R109: the append finds a place in the queue and a number. -/
def LogUnit.accepts (l : LogUnit) : Bool := l.queue.length < queuePlaces && l.a < lastSequence

/-- R109: an append is numbered, stamped and queued, or dropped. -/
def LogUnit.append (l : LogUnit) (c : Clock) (d : Draft) : LogUnit :=
  if l.accepts then
    { l with
      a := l.a + 1
      dropped := false
      queue := l.queue ++
        [{ seq := l.a
           bytes := entryBytes l.a c.station d.source d.kind (bit l.dropped + 2 * bit (!c.clockSet)) d.detail
           urgent := d.urgent }] }
  else { l with dropped := true, dropCount := bump l.dropCount }

/-- The entries of the present step join the queue in the order they were handed (R109). -/
def flush (s : State) : State :=
  { s with log := s.plant.out.foldl (fun l d => l.append s.plant.clock d) s.log
           plant := { s.plant with out := [] } }

/-- Put a changed plant in place. -/
def State.withPlant (s : State) (p : Plant) : State := { s with plant := p }

/-- Act on the plant alone. -/
def State.onPlant (s : State) (f : Plant → Plant) : State := { s with plant := f s.plant }

/-- Mark a status page dirty (R136); the set is empty through LOAD. -/
def markPage (s : State) (i : Fin 16) : State :=
  if s.plant.loading then s else { s with deposits := { s.deposits with dirty := vset s.deposits.dirty i true } }

end Sys2Proof.Machine
end

