-- ==== Sys2Proof/Machine/Operands.lean ====
section
/-! DEFINITION. What the blocks read: settings by section and word (12.5), field-line readings (R1),
the fields of command words (12.2), and the codes of named values (R172). -/

namespace Sys2Proof.Machine

/-! Settings in the shadows (R139). -/

/-- Word `k` of a section's shadow. -/
def Plant.setting (p : Plant) (i : Fin 9) (k : Nat) : Word := (p.sections.get i).words.getD k 0

def Plant.settingN (p : Plant) (i : Fin 9) (k : Nat) : Nat := (p.setting i k).toNat

/-- S1: word `k` of a pump's record. -/
def Plant.s1 (p : Plant) (n : Fin 6) (k : Nat) : Nat := p.settingN 1 (16 * n.val + k)

def Plant.pumpPresent (p : Plant) (n : Fin 6) : Bool := p.s1 n 0 == 1
def Plant.pumpUnits (p : Plant) (n : Fin 6) : Nat := p.s1 n 1
def Plant.minRunTime (p : Plant) (n : Fin 6) : Nat := p.s1 n 2
def Plant.minOffTime (p : Plant) (n : Fin 6) : Nat := p.s1 n 3
def Plant.startsPerHour (p : Plant) (n : Fin 6) : Nat := p.s1 n 4
def Plant.feedbackTime (p : Plant) (n : Fin 6) : Nat := p.s1 n 5

/-- S2 by word number. -/
def Plant.s2 (p : Plant) (k : Nat) : Nat := p.settingN 2 k

def Plant.debounceTime (p : Plant) : Nat := p.s2 2
def Plant.zero (p : Plant) (c : Fin 8) : Nat := p.s2 (3 + 4 * c.val)
def Plant.span (p : Plant) (c : Fin 8) : Nat := p.s2 (4 + 4 * c.val)
def Plant.lowCode (p : Plant) (c : Fin 8) : Nat := p.s2 (5 + 4 * c.val)
def Plant.highCode (p : Plant) (c : Fin 8) : Nat := p.s2 (6 + 4 * c.val)
def Plant.freshnessLimit (p : Plant) : Nat := p.s2 35
def Plant.mainsBudget (p : Plant) : Nat := p.s2 36
def Plant.generatorBudget (p : Plant) : Nat := p.s2 37
def Plant.stormLevel (p : Plant) : Nat := p.s2 38
def Plant.stormHysteresis (p : Plant) : Nat := p.s2 39
def Plant.stormAllowance (p : Plant) : Nat := p.s2 40
def Plant.staggerTime (p : Plant) : Nat := p.s2 41
def Plant.startLevels (p : Plant) : List Nat := (List.range 6).map (fun k => p.s2 (42 + k))
def Plant.stopLevels (p : Plant) : List Nat := (List.range 6).map (fun k => p.s2 (48 + k))

/-- R25: the present budget is the budget of the present supply. -/
def Plant.budget (p : Plant) : Nat :=
  match p.mode.supply with
  | .mains => p.mainsBudget
  | .generator => p.generatorBudget

/-- S3: word `k` of a rake's record. -/
def Plant.s3 (p : Plant) (n : Fin 2) (k : Nat) : Nat := p.settingN 3 (16 * n.val + k)

def Plant.rakePresent (p : Plant) (n : Fin 2) : Bool := p.s3 n 0 == 1
def Plant.rakeUnits (p : Plant) (n : Fin 2) : Nat := p.s3 n 1
def Plant.diffTrigger (p : Plant) (n : Fin 2) : Nat := p.s3 n 2
def Plant.blindLevel (p : Plant) (n : Fin 2) : Nat := p.s3 n 3
def Plant.intervalTime (p : Plant) (n : Fin 2) : Nat := p.s3 n 4
def Plant.cycleTime (p : Plant) (n : Fin 2) : Nat := p.s3 n 5
def Plant.reverseTime (p : Plant) (n : Fin 2) : Nat := p.s3 n 6
def Plant.retryLimit (p : Plant) (n : Fin 2) : Nat := p.s3 n 7
def Plant.maximumHold (p : Plant) (n : Fin 2) : Nat := p.s3 n 8

/-- S4: word `k` of a weir's record. -/
def Plant.s4 (p : Plant) (n : Fin 3) (k : Nat) : Nat := p.settingN 4 (8 * n.val + k)

def Plant.weirPresent (p : Plant) (n : Fin 3) : Bool := p.s4 n 0 == 1
def Plant.crest (p : Plant) (n : Fin 3) : Nat := p.s4 n 1
def Plant.startMargin (p : Plant) (n : Fin 3) : Nat := p.s4 n 2
def Plant.startConfirmTime (p : Plant) (n : Fin 3) : Nat := p.s4 n 3
def Plant.endConfirmTime (p : Plant) (n : Fin 3) : Nat := p.s4 n 4

/-- S5: head and flow of a curve's point. -/
def Plant.curvePoint (p : Plant) (n : Fin 3) (k : Nat) : Nat × Nat :=
  (p.settingN 5 (32 * n.val + 2 * k), p.settingN 5 (32 * n.val + 2 * k + 1))

/-- A weir's discharge curve; none when its first head is 0xFFFF (05 section 5.1). -/
def Plant.curve (p : Plant) (n : Fin 3) : Option (List (Nat × Nat)) :=
  if p.settingN 5 (32 * n.val) = 0xFFFF then none
  else some ((List.range 16).map (p.curvePoint n))

/-- S6: an alarm class's level and latch setting, and the two level masks (12.5). -/
def Plant.classLevel (p : Plant) (cls : Nat) : Nat := p.settingN 6 cls % 4
def Plant.classLatches (p : Plant) (cls : Nat) : Bool := (p.setting 6 cls).getLsbD 8
def Plant.lineEnabled (p : Plant) (level : Nat) : Bool := (p.setting 6 18).getLsbD level
def Plant.beaconEnabled (p : Plant) (level : Nat) : Bool := (p.setting 6 19).getLsbD level

/-- S7 in force at the link (R158), by word number. -/
def Link.s7N (l : Link) (k : Nat) : Nat := (l.s7.getD k 0).toNat

def Link.rateCode (l : Link) : Nat := l.s7N 0
def Link.evenParity (l : Link) : Bool := l.s7N 1 == 1
def Link.keyUpDelay (l : Link) : Nat := l.s7N 2
def Link.stationAddress (l : Link) : Byte := BitVec.ofNat 8 (l.s7N 3)
def Link.linkTimeout (l : Link) : Nat := l.s7N 4
def Link.alertWait (l : Link) : Nat := l.s7N 5
def Link.alertInterval (l : Link) : Nat := l.s7N 6

/-- 12.5: the report mask of the S7 in force. -/
def Link.reportMask (l : Link) : Word := l.s7.getD 7 0

/-- The class is reported: its bit of the report mask is 1 (12.4, 12.5; DEDUCED, log 20). -/
def reported (mask : Word) (cls : Nat) : Bool := mask.getLsbD cls

/-! Field lines (R1). -/

/-- The sense of a line: OPEN_ACTIVE when its bit of the polarity mask is 1 (12.5). -/
def Plant.openActive (p : Plant) (l : Fin 30) : Bool :=
  if l.val < 16 then (p.setting 2 0).getLsbD l.val else (p.setting 2 1).getLsbD (l.val - 16)

/-- R1: the reading of an input from its debounced contact and its sense. -/
def Plant.active (p : Plant) (l : Fin 30) : Bool :=
  (p.lines.debounced.get l == .closed) != p.openActive l

def feedbackLine (n : Fin 6) : Fin 30 := ⟨6 + n.val, by omega⟩
def faultLine (n : Fin 6) : Fin 30 := ⟨12 + n.val, by omega⟩
def homeLine (n : Fin 2) : Fin 30 := ⟨22 + n.val, by omega⟩
def overloadLine (n : Fin 2) : Fin 30 := ⟨24 + n.val, by omega⟩

def Plant.feedbackActive (p : Plant) (n : Fin 6) : Bool := p.active (feedbackLine n)
def Plant.faultActive (p : Plant) (n : Fin 6) : Bool := p.active (faultLine n)
def Plant.homeActive (p : Plant) (n : Fin 2) : Bool := p.active (homeLine n)
def Plant.overloadActive (p : Plant) (n : Fin 2) : Bool := p.active (overloadLine n)
def Plant.floatHighActive (p : Plant) : Bool := p.active 26
def Plant.lowLowActive (p : Plant) : Bool := p.active 27
def Plant.onGenerator (p : Plant) : Bool := p.active 28

/-- R4: an output line is ON by its owner's state alone. -/
def Plant.outputOn (p : Plant) (l : Fin 30) : Bool :=
  if h : l.val < 6 then
    let st := (p.pumps.get ⟨l.val, h⟩).state
    st == .starting || st == .running
  else if l.val = 18 then (p.rakes.get 0).state == .raking
  else if l.val = 19 then (p.rakes.get 1).state == .raking
  else if l.val = 20 then (p.rakes.get 0).state == .reversing
  else if l.val = 21 then (p.rakes.get 1).state == .reversing
  else if l.val = 29 then p.lines.beaconOn
  else false

/-! Command words (12.2). -/

/-- The shadow place of a pump's command word: offset 0x10 + 2(n − 1). -/
def pumpWord (n : Fin 6) : Fin 32 := ⟨8 + n.val, by omega⟩

/-- The shadow place of a screen's command word: offset 0x20 + 2(n − 1). -/
def screenWord (n : Fin 2) : Fin 32 := ⟨16 + n.val, by omega⟩

def runField (w : Word) : Bool := w.getLsbD 0
def oosField (w : Word) : Bool := w.getLsbD 1
def resetField (w : Word) : Bool := w.getLsbD 2
def rakeField (w : Word) : Bool := w.getLsbD 0

/-- R36: the demand for a pump is the RUN field of its shadow word. -/
def Plant.demand (p : Plant) (n : Fin 6) : Bool := runField (p.shadow.get (pumpWord n))

def Plant.pumpOosSet (p : Plant) (n : Fin 6) : Bool := oosField (p.shadow.get (pumpWord n))
def Plant.screenOosSet (p : Plant) (n : Fin 2) : Bool := oosField (p.shadow.get (screenWord n))

/-- The 32 words of the command window that an owner or the classifier keeps (R127): spare words. -/
def spareWord (i : Fin 32) : Bool :=
  (5 ≤ i.val && i.val ≤ 7) || (14 ≤ i.val && i.val ≤ 15) || 18 ≤ i.val

/-! Codes of named values (R172 and the tables of 12). -/

def Mode.code : Mode → Nat
  | .load => 0 | .auto => 1 | .localControl => 2

def ModeCause.code : ModeCause → Nat
  | .none => 0 | .start => 1 | .lapse => 2 | .upstream => 3 | .commanded => 4

/-- 12.2: the mode word from its three fields; the other bits are zero (R172). -/
def modeWord (requested : Nat) (m : Mode) (c : ModeCause) : Word :=
  packWord [(requested, 0, 2), (m.code, 4, 2), (c.code, 8, 3)]

def Supply.code : Supply → Nat
  | .mains => 0 | .generator => 1

def ClaimStatus.code : ClaimStatus → Nat
  | .none => 0 | .waiting => 1 | .held => 2

def PumpState.code : PumpState → Nat
  | .absent => 0 | .off => 1 | .resting => 2 | .starting => 3 | .running => 4 | .tripped => 5
  | .outOfService => 6

def TripCause.code : TripCause → Nat
  | .feedback => 0 | .feedbackLost => 1 | .fault => 2

def RakeState.code : RakeState → Nat
  | .absent => 0 | .idle => 1 | .waiting => 2 | .raking => 3 | .reversing => 4 | .suspended => 5
  | .jammed => 6 | .outOfService => 7

def Trigger.code : Trigger → Nat
  | .differential => 0 | .interval => 1 | .command => 2 | .storm => 3

def JamCause.code : JamCause → Nat
  | .overload => 0 | .timeout => 1

def WeirState.code : WeirState → Nat
  | .normal => 0 | .rising => 1 | .overflowing => 2 | .falling => 3

def PointState.code : PointState → Nat
  | .normal => 0 | .activeUnack => 1 | .activeAcked => 2 | .returnedUnack => 3

def FaultCause.code : FaultCause → Nat
  | .start => 0 | .converter => 1 | .badSample => 2

def BeaconDemand.code : BeaconDemand → Nat
  | .off => 0 | .steady => 1 | .flash => 2

def SettingsSource.code : SettingsSource → Nat
  | .stored => 0 | .trial => 1 | .default => 2

def rangeCode : SettingsRange → Nat
  | .stored => 0 | .trial => 1

def SettingsResult.code : SettingsResult → Nat
  | .commit => 1 | .orderBroken => 2 | .timeout => 3 | .upstream => 4 | .check => 5 | .content => 6

/-- The refusal causes in the order of R129, from 1 (R172). -/
def RefusalCause.code : RefusalCause → Nat
  | .byteWrite => 1 | .readOnly => 2 | .shielded => 3 | .noTransaction => 4 | .locked => 5
  | .frozen => 6 | .busy => 7 | .orderBroken => 8 | .badCode => 9 | .notTrial => 10
  | .pumpAbsent => 11 | .pumpTripped => 12 | .pumpOos => 13 | .startLimit => 14 | .dryWell => 15
  | .modeRefused => 16 | .kindReserved => 17 | .emptyAdvance => 18

/-- 12.3: WORD 1, LOW 2, HIGH 3. -/
def lanesCode : Lanes → Nat
  | .word => 1 | .low => 2 | .high => 3

def RxState.code : RxState → Nat
  | .hunt => 0 | .header => 1 | .payload => 2 | .check => 3

/-- The source codes of 12.4. -/
def srcSystem : Byte := 0x01
def srcMode : Byte := 0x02
def srcPump (n : Fin 6) : Byte := BitVec.ofNat 8 (0x11 + n.val)
def srcScreen (n : Fin 2) : Byte := BitVec.ofNat 8 (0x21 + n.val)
def srcWeir (n : Fin 3) : Byte := BitVec.ofNat 8 (0x31 + n.val)
def srcAlarm : Byte := 0x40
def srcSettings : Byte := 0x50
def srcBus : Byte := 0x60
def srcProcessor : Byte := 0x70

/-- The class of a kind code, in the order of the table of 12.4; none for a code of no class. -/
def kindClass (k : Byte) : Option Nat :=
  let n := k.toNat
  if 0x01 ≤ n && n ≤ 0x04 then some 0
  else if 0x10 ≤ n && n ≤ 0x14 then some 1
  else if 0x20 ≤ n && n ≤ 0x24 then some 2
  else if 0x30 ≤ n && n ≤ 0x35 then some 3
  else if n = 0x40 || n = 0x41 then some 4
  else if 0x50 ≤ n && n ≤ 0x52 then some 5
  else if 0x60 ≤ n && n ≤ 0x64 then some 6
  else if n = 0x70 then some 7
  else if 0x80 ≤ n && n ≤ 0xFE then some 8
  else none

end Sys2Proof.Machine
end

