-- ==== Sys2Proof/Machine/Flags.lean ====
section
/-! DEFINITION. The alarm unit: conditions handed to it, the annunciation sequence, acknowledgement,
first-out, identity, ALINE and the beacon demand (06). -/

namespace Sys2Proof.Machine

/-- The class of a point, counted in the table order of 6.1. -/
def pointClass (k : Fin 40) : Nat :=
  let n := k.val
  if n ≤ 5 then 0 else if n ≤ 11 then 1 else if n ≤ 13 then 2 else if n ≤ 15 then 3
  else if n ≤ 17 then 4 else if n ≤ 20 then 5 else if n ≤ 28 then 6 else n - 22

/-- What a point stands for inside its class: pump, screen or weir from 1, channel from 0. The spec calls the instance
of points 29 to 39 'station' and gives it no code; the model writes 0 (log 46). -/
def pointPlace (k : Fin 40) : Nat :=
  let n := k.val
  if n ≤ 5 then n + 1 else if n ≤ 11 then n - 5 else if n ≤ 13 then n - 11 else if n ≤ 15 then n - 13
  else if n ≤ 17 then n - 15 else if n ≤ 20 then n - 17 else if n ≤ 28 then n - 21 else 0

/-- R95: a point has the level of its class in the S6 in force. -/
def Plant.pointLevel (p : Plant) (k : Fin 40) : Nat := p.classLevel (pointClass k)

/-- R95: and its latch setting. -/
def Plant.pointLatches (p : Plant) (k : Fin 40) : Bool := p.classLatches (pointClass k)

/-- 06 section 6.2: a point is unacknowledged in ACTIVE_UNACK and in RETURNED_UNACK. -/
def PointState.unacked : PointState → Bool
  | .activeUnack => true
  | .returnedUnack => true
  | .normal => false
  | .activeAcked => false

def Plant.pointUnacked (p : Plant) (k : Fin 40) : Bool := (p.alarms.points.get k).state.unacked

/-- R101: the unacknowledged point of the lowest level, the lowest number among equals. -/
def Plant.identityNow (p : Plant) : Option (Fin 40) :=
  (List.range 4).findSome? (fun level =>
    allPoints.find? (fun k => p.pointUnacked k && p.pointLevel k == level))

/-- R102: some point at a line-enabled level is unacknowledged. -/
def Plant.alineNow (p : Plant) : Bool :=
  allPoints.any (fun k => p.pointUnacked k && p.lineEnabled (p.pointLevel k))

/-- R103: the demand for the beacon. -/
def Plant.demandNow (p : Plant) : BeaconDemand :=
  if allPoints.any (fun k => p.pointUnacked k && p.beaconEnabled (p.pointLevel k)) then .flash
  else if allPoints.any (fun k =>
      (p.alarms.points.get k).state == .activeAcked && p.beaconEnabled (p.pointLevel k)) then .steady
  else .off

/-- R4: F29 takes a changed demand at once; a flash starts with its ON period of 500 ms. -/
def LineUnit.takeDemand (l : LineUnit) (d : BeaconDemand) : LineUnit :=
  match d with
  | .flash => { l with beaconOn := true, beaconTimer := .ofMs 500 }
  | .steady => { l with beaconOn := true, beaconTimer := .stopped }
  | .off => { l with beaconOn := false, beaconTimer := .stopped }

/-- R101 to R103: identity, ALINE and the beacon demand are computed again; a changed demand is
handed to the field line unit, and a beacon that changes with it marks page 1 (R4). -/
def Plant.annunciate (p : Plant) : Plant :=
  let d := p.demandNow
  let lines := if d = p.alarms.demand then p.lines else p.lines.takeDemand d
  { p with
    alarms := { p.alarms with identity := p.identityNow, aline := p.alineNow, demand := d }
    lines := lines
    marks := p.marks ++ if lines.beaconOn = p.lines.beaconOn then [] else [1] }

/-- R100: first-out is NONE once no point is unacknowledged. -/
def Plant.clearFirstOut (p : Plant) : Plant :=
  if allPoints.any p.pointUnacked then p else { p with alarms := { p.alarms with firstOut := none } }

def Plant.setPoint (p : Plant) (k : Fin 40) (x : AlarmPoint) : Plant :=
  { p with alarms := { p.alarms with points := vset p.alarms.points k x } }

/-- R100: the point would open an episode: no other point is unacknowledged. -/
def Plant.opensEpisode (p : Plant) (k : Fin 40) : Bool :=
  allPoints.all (fun j => j = k || !p.pointUnacked j)

/-- R96: a condition goes ACTIVE. The entry says whether the point has become first-out by 1 for yes and 0 for no
(log 46). -/
def Plant.pointOn (p : Plant) (k : Fin 40) : Plant :=
  let was := (p.alarms.points.get k).state
  let first := p.opensEpisode k
  let p1 := p.setPoint k { condition := true, state := .activeUnack }
  let p2 := p1.append srcAlarm 0x50
    (detail1 k.val ++ detail1 (pointClass k) ++ detail1 (pointPlace k) ++ detail1 (p.pointLevel k) ++
      detail1 was.code ++ detail1 (bit first)) (p.pointLevel k == 0)
  let p3 := if first then { p2 with alarms := { p2.alarms with firstOut := some k } } else p2
  p3.annunciate

/-- R97: the state a point goes to when its condition returns. -/
def Plant.returnState (p : Plant) (k : Fin 40) : PointState :=
  if (p.alarms.points.get k).state = .activeUnack && p.pointLatches k then .returnedUnack else .normal

/-- R97: a condition goes INACTIVE. -/
def Plant.pointOff (p : Plant) (k : Fin 40) : Plant :=
  let next := p.returnState k
  let p1 := p.setPoint k { condition := false, state := next }
  let p2 := p1.append srcAlarm 0x51
    (detail1 k.val ++ detail1 (pointClass k) ++ detail1 (pointPlace k) ++ detail1 (p.pointLevel k) ++
      detail1 next.code)
  p2.clearFirstOut.annunciate

/-- R94: an owner hands a condition; one equal to the kept condition does nothing, and through LOAD
none is taken (R105). -/
def Plant.hand (p : Plant) (k : Fin 40) (active : Bool) : Plant :=
  if p.loading || (p.alarms.points.get k).condition == active then p
  else if active then p.pointOn k else p.pointOff k

/-- R98: the state an acknowledge takes a point to. -/
def PointState.acked : PointState → PointState
  | .activeUnack => .activeAcked
  | .returnedUnack => .normal
  | .normal => .normal
  | .activeAcked => .activeAcked

/-- R98: one acknowledge step of a group; `town` is the acknowledger. -/
def Plant.ackStep (p : Plant) (town : Bool) (k : Fin 40) : Plant :=
  let x := p.alarms.points.get k
  if x.state.unacked then
    (p.setPoint k { x with state := x.state.acked }).append srcAlarm 0x52
      (detail1 k.val ++ detail1 (pointClass k) ++ detail1 (pointPlace k) ++ detail1 (p.pointLevel k) ++
        detail1 x.state.acked.code ++ detail1 (bit town))
  else p

/-- R98, R99, R165: acknowledge points in the order given; first-out, identity, ALINE and the beacon
are computed after the last step. -/
def Plant.acknowledge (p : Plant) (town : Bool) (ks : List (Fin 40)) : Plant :=
  (ks.foldl (fun q k => q.ackStep town k) p).clearFirstOut.annunciate

/-! The conditions that hold (06 section 6.1), each computed from its owner's state. -/

/-- R43, R47, R52, R54: the pump unit's conditions. -/
def Plant.tripCondition (p : Plant) (n : Fin 6) : Bool := (p.pumps.get n).state == .tripped

/-- R47: the current limit of a pump. -/
def Plant.currentLimit (p : Plant) (n : Fin 6) : Nat :=
  p.startsPerHour n + (if p.mode.storm then p.stormAllowance else 0)

/-- R47: the start-history count is at or above the current limit. -/
def Plant.atLimit (p : Plant) (n : Fin 6) : Bool := p.currentLimit n ≤ (p.pumps.get n).history.length

/-- R47, R60: START_LIMIT; inactive for a pump that is absent. -/
def Plant.limitCondition (p : Plant) (n : Fin 6) : Bool :=
  (p.pumps.get n).state != .absent && p.atLimit n

/-- R23: LOCAL_MODE. -/
def Plant.localModeCondition (p : Plant) : Bool :=
  p.mode.mode == .localControl && (p.mode.cause == .lapse || p.mode.cause == .upstream)

/-- R9: a channel is in FAULT with cause BAD_SAMPLE. -/
def Plant.channelCondition (p : Plant) (c : Fin 8) : Bool :=
  (p.levels.channels.get c).state == .fault .badSample

/-- R7: three or more consecutive scans have failed. -/
def Plant.converterCondition (p : Plant) : Bool := 3 ≤ p.levels.failCount

/-- R139: some section is DEFAULT. -/
def Plant.defaultedCondition (p : Plant) : Bool :=
  allSections.any (fun i => (p.sections.get i).source == .default)

/-- R139: some section is TRIAL or flagged. -/
def Plant.differCondition (p : Plant) : Bool :=
  allSections.any (fun i =>
    (p.sections.get i).source == .trial || (p.sections.get i).storedDiffers ||
      (p.sections.get i).pendingReset)

def tripPoint (n : Fin 6) : Fin 40 := ⟨n.val, by omega⟩
def limitPoint (n : Fin 6) : Fin 40 := ⟨6 + n.val, by omega⟩
def jamPoint (n : Fin 2) : Fin 40 := ⟨12 + n.val, by omega⟩
def blindedPoint (n : Fin 2) : Fin 40 := ⟨14 + n.val, by omega⟩
def heldPoint (n : Fin 2) : Fin 40 := ⟨16 + n.val, by omega⟩
def overflowPoint (n : Fin 3) : Fin 40 := ⟨18 + n.val, by omega⟩
def channelPoint (c : Fin 8) : Fin 40 := ⟨21 + c.val, by omega⟩

/-- R94: a condition that one event has led through several values is handed with each of them in turn; `views` are
the plants of the event in the order in which it passed through them. -/
def Plant.handEach (p : Plant) (views : List Plant) (k : Fin 40) (condition : Plant → Bool) : Plant :=
  views.foldl (fun q v => q.hand k (condition v)) p

/-- The pump unit hands its conditions in ascending point number (R43, R47, R52, R54, R94). -/
def Plant.handPumps (p : Plant) (views : List Plant) : Plant :=
  let p1 := allPumps.foldl (fun q n => q.handEach views (tripPoint n) (fun v => v.tripCondition n)) p
  let p2 := allPumps.foldl (fun q n => q.handEach views (limitPoint n) (fun v => v.limitCondition n)) p1
  (p2.handEach views 31 Plant.floatHighActive).handEach views 32 Plant.lowLowActive

/-- The screen unit hands its conditions in ascending point number (R64, R70, R73, R94). -/
def Plant.handRakes (p : Plant) (views : List Plant) : Plant :=
  let p1 := allRakes.foldl (fun q n => q.handEach views (jamPoint n) (fun v => (v.rakes.get n).state == .jammed)) p
  let p2 := allRakes.foldl (fun q n => q.handEach views (blindedPoint n) (fun v => (v.rakes.get n).blinded)) p1
  allRakes.foldl (fun q n => q.handEach views (heldPoint n) (fun v => (v.rakes.get n).held)) p2

/-- The level unit hands its conditions (R11). -/
def Plant.handLevels (p : Plant) : Plant :=
  let p1 := allChannels.foldl (fun q c => q.hand (channelPoint c) (q.channelCondition c)) p
  p1.hand 29 p1.converterCondition

/-- The settings unit hands its conditions (R139). -/
def Plant.handSettings (p : Plant) : Plant :=
  let p1 := p.hand 36 p.defaultedCondition
  p1.hand 37 p1.differCondition

end Sys2Proof.Machine
end

