-- ==== Sys2Proof/Machine/PumpOps.lean ====
section
/-! DEFINITION. Operations of the pump unit: states, trips and stops, the queue and gate, level control (03). -/

namespace Sys2Proof.Machine

/-- R35: STARTING and RUNNING, in which the run output is ON and the claim is HELD. -/
def PumpState.inMotion : PumpState → Bool
  | .starting => true
  | .running => true
  | _ => false

def Plant.pump (p : Plant) (n : Fin 6) : Pump := p.pumps.get n

/-- Pages 2 to 7 are those of pumps 1 to 6 (12.3). -/
def pumpPageNumber (n : Fin 6) : Fin 16 := ⟨2 + n.val, by omega⟩

/-- The count of pumps in STARTING or RUNNING (R55). -/
def Plant.runningCount (p : Plant) : Nat := allPumps.countP (fun n => (p.pump n).state.inMotion)

/-! The pages of the pumps (R62). A change that its event may yet undo marks the pages that show it. -/

/-- A place in a list counted from 1, 0 when absent. -/
def placeOf (n : Fin 6) (l : List (Fin 6)) : Nat :=
  match l.findIdx? (fun m => m == n) with
  | some i => i + 1
  | none => 0

/-- What a pump's page shows of the pump itself: numbers, oldest history uptime, trip uptime and last-start uptime. -/
def Pump.shown (q : Pump) : List Nat × Option Time × Option Time × Option Time :=
  ([q.state.code, if q.state = .tripped then q.tripCause.code else 0, bit q.deferred, q.feedback.left, q.minRun.left,
     q.minOff.left, q.history.length], q.history.head?, q.tripUptime, q.lastStart)

/-- The page of a pump that changes from `q` to `r`, and page 1 where its run output switches (R4, R62). -/
def pumpMarks (n : Fin 6) (q r : Pump) : List (Fin 16) :=
  (if q.shown = r.shown then [] else [pumpPageNumber n]) ++ if q.state.inMotion = r.state.inMotion then [] else [1]

/-- The pages of the pumps whose place in a list has changed. -/
def placeMarks (was now : List (Fin 6)) : List (Fin 16) :=
  (allPumps.filter (fun n => placeOf n was != placeOf n now)).map pumpPageNumber

/-- The start queue takes a new value; page 2 shows its length (R62). -/
def Plant.setQueue (p : Plant) (l : List (Fin 6)) : Plant :=
  { p with queue := l, marks := p.marks ++ placeMarks p.queue l ++ if p.queue.length = l.length then [] else [2] }

/-- The rotation list takes a new value; page 2 shows the lead (R62). -/
def Plant.setRotation (p : Plant) (l : List (Fin 6)) : Plant :=
  { p with rotation := l, marks := p.marks ++ placeMarks p.rotation l ++ if p.rotation.head? = l.head? then [] else [2] }

/-- The desired count takes a new value; page 2 shows it (R62). -/
def Plant.putDesired (p : Plant) (d : Nat) : Plant :=
  { p with desired := d, marks := p.marks ++ if p.desired = d then [] else [2] }

/-- R55: the lead moves to the end of the rotation list. -/
def rotateLead : List (Fin 6) → List (Fin 6)
  | [] => []
  | n :: rest => rest ++ [n]

/-- A pump's new state. R55: where the count of pumps in STARTING or RUNNING falls to 0, the lead moves. -/
def Plant.setPump (p : Plant) (n : Fin 6) (q : Pump) : Plant :=
  let p1 := { p with pumps := vset p.pumps n q, marks := p.marks ++ pumpMarks n (p.pump n) q }
  if 0 < p.runningCount && p1.runningCount == 0 then p1.setRotation (rotateLead p1.rotation) else p1

/-! The claim table (R26). -/

def pumpHolder (n : Fin 6) : Fin 8 := ⟨n.val, by omega⟩
def rakeHolder (n : Fin 2) : Fin 8 := ⟨6 + n.val, by omega⟩

def Plant.claim (p : Plant) (h : Fin 8) : Claim := p.claims.get h

/-- The pages that show a claim entry: page 0, and a screen's page its status (R26, R77). -/
def claimPages (h : Fin 8) : List (Fin 16) := if 6 ≤ h.val then [0, ⟨2 + h.val, by omega⟩] else [0]

/-- A claim entry takes a new value; one that differs marks the pages that show it (R26). -/
def Plant.setClaim (p : Plant) (h : Fin 8) (c : Claim) : Plant :=
  { p with claims := vset p.claims h c, marks := p.marks ++ if p.claim h = c then [] else claimPages h }

/-- A release or a withdrawal: the entry returns to NONE (R26, R27, R29). An entry with status NONE holds and shows 0
units (log 60). -/
def Plant.dropClaim (p : Plant) (h : Fin 8) : Plant := p.setClaim h { status := .none, units := 0 }

/-- R26: the units of the HELD entries. -/
def Plant.heldUnits (p : Plant) : Nat :=
  (allHolders.map (fun h => if (p.claim h).status = .held then (p.claim h).units else 0)).sum

/-- R26: the present budget less the held units. -/
def Plant.freeUnits (p : Plant) : Nat := p.budget - p.heldUnits

/-! The start queue and gate (R37, R38). -/

def Plant.joinQueue (p : Plant) (n : Fin 6) : Plant :=
  if n ∈ p.queue then p else p.setQueue (p.queue ++ [n])

/-- R38: a pump leaves the queue; a claim of the head not yet granted is withdrawn. -/
def Plant.leaveQueue (p : Plant) (n : Fin 6) : Plant :=
  let p1 := p.setQueue (p.queue.filter (fun m => m != n))
  if (p.claim (pumpHolder n)).status = .waiting then p1.dropClaim (pumpHolder n) else p1

/-- R37: no pump is in STARTING and the stagger timer is not running. -/
def Plant.gateFree (p : Plant) : Bool :=
  allPumps.all (fun n => (p.pump n).state != .starting) && !p.stagger.isRunning

/-! Demands (R36). -/

/-- The part sets or clears a RUN field; a change is queued for correction and marks the pump's page (R36, R62). -/
def Plant.setRun (p : Plant) (n : Fin 6) (b : Bool) : Plant :=
  (p.correctShadow (pumpWord n) (setBit (p.shadow.get (pumpWord n)) 0 b)).mark
    (if p.demand n = b then [] else [pumpPageNumber n])

/-- R43: a trip from the pump's present state. -/
def Plant.trip (p : Plant) (n : Fin 6) (cause : TripCause) : Plant :=
  let q := p.pump n
  let p1 := p.setPump n
    { q with state := .tripped, tripCause := cause, tripUptime := some p.clock.uptime,
             deferred := false, feedback := .stopped, minRun := .stopped, minOff := .stopped }
  let p2 := (p1.leaveQueue n).dropClaim (pumpHolder n)
  (p2.setRun n false).append (srcPump n) 0x23 (detail1 cause.code ++ detail1 q.state.code)

/-- R42: a pump enters RESTING for `off` seconds, its units released; an ACTIVE fault input trips it (R43). -/
def Plant.enterResting (p : Plant) (n : Fin 6) (off : Nat) : Plant :=
  let p1 := p.setPump n
    { p.pump n with state := .resting, deferred := false, feedback := .stopped, minRun := .stopped,
                    minOff := .running off }
  let p2 := (p1.leaveQueue n).dropClaim (pumpHolder n)
  if p2.faultActive n then p2.trip n .fault else p2

/-- The PUMP_STOP reasons of 12.4. -/
inductive StopReason where
  | demand
  | dryWell
  | shed
  | outOfService
  | absent
deriving DecidableEq, Repr

def StopReason.code : StopReason → Nat
  | .demand => 0 | .dryWell => 1 | .shed => 2 | .outOfService => 3 | .absent => 4

def Plant.logStop (p : Plant) (n : Fin 6) (r : StopReason) : Plant :=
  p.append (srcPump n) 0x22 (detail1 r.code)

/-- R40 to R42: a stop to RESTING for the full minimum off. -/
def Plant.stopPump (p : Plant) (n : Fin 6) (r : StopReason) : Plant :=
  (p.logStop n r).enterResting n (p.minOffTime n)

/-- R42, R47: a pump enters OFF; with a demand it joins the queue, or loses the demand at its limit. -/
def Plant.enterOff (p : Plant) (n : Fin 6) : Plant :=
  let p1 := p.setPump n { p.pump n with state := .off, minOff := .stopped }
  if p1.faultActive n then p1.trip n .fault
  else if p1.demand n then (if p1.atLimit n then p1.setRun n false else p1.joinQueue n)
  else p1

/-- R36: what a pump does when its demand has been cleared. -/
def Plant.demandCleared (p : Plant) (n : Fin 6) : Plant :=
  match (p.pump n).state with
  | .off => p.leaveQueue n
  | .starting => p.stopPump n .demand
  | .running =>
    if (p.pump n).minRun.isRunning then p.setPump n { p.pump n with deferred := true }
    else p.stopPump n .demand
  | .absent => p
  | .resting => p
  | .tripped => p
  | .outOfService => p

/-- R36: what a pump does when its demand has been set. -/
def Plant.demandSet (p : Plant) (n : Fin 6) : Plant :=
  match (p.pump n).state with
  | .off => p.joinQueue n
  | .running => p.setPump n { p.pump n with deferred := false }
  | .starting => p
  | .absent => p
  | .resting => p
  | .tripped => p
  | .outOfService => p

/-- The part withdraws a demand (R43, R47, R57). -/
def Plant.withdrawDemand (p : Plant) (n : Fin 6) : Plant :=
  if p.demand n then (p.setRun n false).demandCleared n else p

/-- The part gives a demand (R56). -/
def Plant.giveDemand (p : Plant) (n : Fin 6) : Plant := (p.setRun n true).demandSet n

/-- R40: STARTING to RUNNING. -/
def Plant.enterRunning (p : Plant) (n : Fin 6) : Plant :=
  (p.setPump n
    { p.pump n with state := .running, feedback := .stopped, minRun := .running (p.minRunTime n),
                    deferred := false }).append (srcPump n) 0x21 []

/-- R39: the head's claim is granted and the pump enters STARTING. -/
def Plant.startPump (p : Plant) (n : Fin 6) : Plant :=
  let q := p.pump n
  let history := q.history ++ [p.clock.uptime]
  let p1 := { p.setQueue (p.queue.filter (fun m => m != n)) with stagger := .running p.staggerTime }
  let p2 := p1.setClaim (pumpHolder n) { p.claim (pumpHolder n) with status := .held }
  let p3 := p2.setPump n
    { q with state := .starting, feedback := .running (p.feedbackTime n), lastStart := some p.clock.uptime,
             history := history, deferred := false }
  let p4 := p3.append (srcPump n) 0x20
    (detail1 (n.val + 1) ++ detail2 history.length ++ detail2 (p.currentLimit n))
  if p4.feedbackActive n then p4.enterRunning n else p4

/-! Level control (R53 to R58). -/

def Plant.presentCount (p : Plant) : Nat := allPumps.countP (fun n => p.pumpPresent n)

/-- R53: the desired count from the floats and the wet-well level. -/
def Plant.desiredNow (p : Plant) : Nat :=
  let c := p.levels.channels.get 0
  if p.lowLowActive then 0
  else if p.floatHighActive then p.presentCount
  else match c.state, c.value with
    | .good, some v =>
      let lower := p.startLevels.countP (fun x => x ≤ v)
      let upper := p.stopLevels.countP (fun x => x ≤ v)
      min (max p.desired lower) upper
    | _, _ => p.desired

/-- The count of pumps with a standing demand. -/
def Plant.demandedCount (p : Plant) : Nat := allPumps.countP (fun n => p.demand n)

def Plant.lastStartN (p : Plant) (n : Fin 6) : Nat := ((p.pump n).lastStart.getD 0).toNat

/-- Of the pumps listed, the one that entered STARTING last. -/
def Plant.latestStart (p : Plant) (ns : List (Fin 6)) : Option (Fin 6) :=
  ns.foldl (fun best n =>
    match best with
    | none => some n
    | some m => if p.lastStartN m < p.lastStartN n then some n else some m) none

/-- Of the pumps listed, the one that entered STARTING first. -/
def Plant.earliestStart (p : Plant) (ns : List (Fin 6)) : Option (Fin 6) :=
  ns.foldl (fun best n =>
    match best with
    | none => some n
    | some m => if p.lastStartN n < p.lastStartN m then some n else some m) none

/-- R56: the pump that gets the next demand. -/
def Plant.nextToDemand (p : Plant) : Option (Fin 6) :=
  match p.latestStart (allPumps.filter (fun n => (p.pump n).state == .running && (p.pump n).deferred)) with
  | some n => some n
  | none => p.rotation.find? (fun n => (p.pump n).state == .off && !p.demand n && !p.atLimit n)

/-- R56: demands are given one at a time up to the desired count; six pumps bound the rounds. -/
def Plant.raiseDemands (p : Plant) : Nat → Plant
  | 0 => p
  | k + 1 =>
    if p.demandedCount < p.desired then
      match p.nextToDemand with
      | some n => Plant.raiseDemands (p.giveDemand n) k
      | none => p
    else p

/-- R57: the pump that loses the next demand. -/
def Plant.nextToWithdraw (p : Plant) : Option (Fin 6) :=
  match p.queue.getLast? with
  | some n => some n
  | none =>
    match (p.rotation.filter (fun n => (p.pump n).state == .resting && p.demand n)).getLast? with
    | some n => some n
    | none => p.earliestStart (allPumps.filter (fun n => (p.pump n).state.inMotion && p.demand n))

/-- R57: demands are withdrawn one at a time down to the desired count. -/
def Plant.lowerDemands (p : Plant) : Nat → Plant
  | 0 => p
  | k + 1 =>
    if p.desired < p.demandedCount then
      match p.nextToWithdraw with
      | some n => Plant.lowerDemands (p.withdrawDemand n) k
      | none => p
    else p

def Plant.inLocal (p : Plant) : Bool := p.mode.mode == .localControl

/-- R56, in LOCAL. -/
def Plant.reexamine (p : Plant) : Plant := if p.inLocal then p.raiseDemands 6 else p

/-- R56: level control re-examines the demands if the part withdrew pump `n`'s between `was` and `p`. -/
def Plant.reexamineAfter (was p : Plant) (n : Fin 6) : Plant :=
  if was.demand n && !p.demand n then p.reexamine else p

/-- R53: the desired count takes its value; in LOCAL a fall acts under R57 and a change under R56. -/
def Plant.setDesired (p : Plant) (d : Nat) : Plant :=
  let p1 := p.putDesired d
  if d = p.desired || !p.inLocal then p1
  else if d < p.desired then (p1.lowerDemands 6).raiseDemands 6
  else p1.raiseDemands 6

def Plant.evaluateDesired (p : Plant) : Plant := p.setDesired p.desiredNow

/-- R52, R58: the queue is flushed and a claim of the head that is WAITING is withdrawn. -/
def Plant.flushQueue (p : Plant) : Plant := allPumps.foldl (fun q n => q.leaveQueue n) p

/-- R52: the low-low float becomes ACTIVE. The pumps stop, and their words join the correction set, in ascending pump
number (log 48). -/
def Plant.dryWell (p : Plant) : Plant :=
  let p1 := allPumps.foldl (fun q n => if (q.pump n).state.inMotion then q.stopPump n .dryWell else q) p
  let p2 := allPumps.foldl (fun q n => q.setRun n false) p1.flushQueue
  p2.putDesired 0

/-- R58: the words whose RUN field differs between two plants join the correction set, in ascending pump number (log 48).
Step 5 is read as the net change of the four steps before it: a field cleared and set again queues none (log 61). -/
def Plant.correctRuns (before after : Plant) : Plant :=
  { after with
    corr := allPumps.foldl (fun c n =>
      if before.demand n = after.demand n then c else joinCorr c (pumpWord n)) before.corr }

/-- R58: running pumps are adopted, the other RUN fields cleared, the queue flushed, and the demands
rebuilt under R57 and then R56. -/
def Plant.adopt (p : Plant) : Plant :=
  let p1 := (allPumps.foldl (fun q n =>
    if (q.pump n).state.inMotion then (q.setRun n true).setPump n { q.pump n with deferred := false }
    else q.setRun n false) p).flushQueue
  p.correctRuns ((p1.lowerDemands 6).raiseDemands 6)

/-- R47: after a change of the limits, the pumps in OFF at their limit lose their demands, in ascending pump number
(log 48). -/
def Plant.limitsChanged (p : Plant) : Plant :=
  let hit := allPumps.filter (fun n => (p.pump n).state == .off && p.demand n && p.atLimit n)
  let p1 := hit.foldl (fun q n => q.withdrawDemand n) p
  if hit.isEmpty then p1 else p1.reexamine

/-- R46: the capacity of a pump's start history. -/
def Plant.historyCapacity (p : Plant) (n : Fin 6) : Nat := p.startsPerHour n + p.stormAllowance

/-- R46: a lowered capacity removes the oldest entries. -/
def Plant.trimHistories (p : Plant) : Plant :=
  allPumps.foldl (fun q n =>
    let x := q.pump n
    q.setPump n { x with history := x.history.drop (x.history.length - q.historyCapacity n) }) p

/-- R46: entries that have reached an age of 3600 s leave the front of the list. -/
def Plant.ageOut (p : Plant) (n : Fin 6) : Plant :=
  let x := p.pump n
  p.setPump n { x with history := x.history.dropWhile (fun t => 3600 ≤ p.since t) }

/-- A start-history entry has reached its age and has not been removed yet. -/
def Plant.ageDue (p : Plant) (n : Fin 6) : Bool :=
  match (p.pump n).history with
  | [] => false
  | t :: _ => 3600 ≤ p.since t

/-! OOS and RESET (R44, R45, R60). -/

/-- R45, R60: a pump is taken out of service or made absent. -/
def Plant.takeOut (p : Plant) (n : Fin 6) (st : PumpState) (r : StopReason) : Plant :=
  let q := p.pump n
  let p0 := if q.state.inMotion then p.logStop n r else p
  let p1 := p0.setPump n
    { q with state := st, deferred := false, feedback := .stopped, minRun := .stopped, minOff := .stopped }
  ((p1.leaveQueue n).dropClaim (pumpHolder n)).setRun n false

/-- R45: OOS changes from clear to set. -/
def Plant.oosSet (p : Plant) (n : Fin 6) : Plant :=
  match (p.pump n).state with
  | .absent => p
  | .outOfService => p
  | .off => p.takeOut n .outOfService .outOfService
  | .resting => p.takeOut n .outOfService .outOfService
  | .starting => p.takeOut n .outOfService .outOfService
  | .running => p.takeOut n .outOfService .outOfService
  | .tripped => p.takeOut n .outOfService .outOfService

/-- R45: OOS changes from set to clear. -/
def Plant.oosCleared (p : Plant) (n : Fin 6) : Plant :=
  if (p.pump n).state = .outOfService then p.enterResting n (p.minOffTime n) else p

/-- R44: RESET is taken: minimum off is timed from the trip; with nothing left the pump passes to OFF. -/
def Plant.resetTripped (p : Plant) (n : Fin 6) : Plant :=
  let elapsed := match (p.pump n).tripUptime with
    | some t => p.since t
    | none => 0
  let p1 := p.append (srcPump n) 0x24 []
  if p.minOffTime n ≤ elapsed then ((p1.enterResting n 0).enterOff n).reexamine
  else p1.enterResting n (p.minOffTime n - elapsed)

/-- R44: RESET refused: TRIPPED with the fault input ACTIVE. -/
def Plant.resetRefused (p : Plant) (n : Fin 6) : Bool := p.tripCondition n && p.faultActive n

def Plant.resetField (p : Plant) (n : Fin 6) : Plant :=
  if p.tripCondition n && !p.faultActive n then p.resetTripped n else p

/-! The events of the pump inputs (R40, R41, R43, R52). -/

/-- R40, R41: a change of a running feedback. -/
def Plant.feedbackChange (p : Plant) (n : Fin 6) (active : Bool) : Plant :=
  match (p.pump n).state with
  | .starting => if active then p.enterRunning n else p
  | .running => if active then p else p.reexamineAfter (p.trip n .feedbackLost) n
  | .absent => p
  | .off => p
  | .resting => p
  | .tripped => p
  | .outOfService => p

/-- R43: a change of a fault input. -/
def Plant.faultChange (p : Plant) (n : Fin 6) (active : Bool) : Plant :=
  if active then
    match (p.pump n).state with
    | .off => p.reexamineAfter (p.trip n .fault) n
    | .resting => p.reexamineAfter (p.trip n .fault) n
    | .starting => p.reexamineAfter (p.trip n .fault) n
    | .running => p.reexamineAfter (p.trip n .fault) n
    | .absent => p
    | .tripped => p
    | .outOfService => p
  else p

end Sys2Proof.Machine
end

