-- ==== Sys2Proof/Machine/ScreenOps.lean ====
section
/-! DEFINITION. Operations of the screen unit: triggers, the rake cycle, standing down, differentials (04). -/

namespace Sys2Proof.Machine

def Plant.rake (p : Plant) (n : Fin 2) : Rake := p.rakes.get n

/-- R26: the rakes in motion are those in RAKING or REVERSING. -/
def RakeState.inMotion : RakeState → Bool
  | .raking => true
  | .reversing => true
  | _ => false

/-- A trigger has meaning from the trigger to the end of the cycle. -/
def Rake.inCycle (r : Rake) : Bool :=
  r.state == .waiting || r.state == .raking || r.state == .reversing || r.state == .suspended

/-- What a screen's page shows of the rake itself (R77). -/
def Rake.shown (r : Rake) : List Nat × Int × Option Time :=
  ([r.state.code, bit (r.state == .suspended && r.fromReversing), if r.state = .jammed then r.jamCause.code else 0,
     if r.inCycle then r.trigger.code else 0, r.attempts, bit r.homeLeave, bit r.cycle.isPaused, bit r.counts,
     bit r.held, bit r.blinded, r.cycle.left, r.reverse.left, r.interval.left, r.hold.left], r.differential, r.cycleStart)

/-- The page of a rake that changes from `q` to `r`, and page 1 where an output switches (R4, R77). -/
def rakeMarks (n : Fin 2) (q r : Rake) : List (Fin 16) :=
  (if q.shown = r.shown then [] else [⟨8 + n.val, by omega⟩]) ++
    if (q.state == .raking) = (r.state == .raking) ∧ (q.state == .reversing) = (r.state == .reversing) then [] else [1]

def Plant.setRake (p : Plant) (n : Fin 2) (r : Rake) : Plant :=
  { p with rakes := vset p.rakes n r, marks := p.marks ++ rakeMarks n (p.rake n) r }

/-- The cycle duration: present uptime less cycle-start uptime (R68). -/
def Plant.cycleDuration (p : Plant) (n : Fin 2) : Nat := p.since ((p.rake n).cycleStart.getD p.clock.uptime)

/-- R65: a trigger moves an IDLE rake to WAITING and enters its claim. -/
def Plant.triggerRake (p : Plant) (n : Fin 2) (t : Trigger) : Plant :=
  (p.setRake n
    { p.rake n with state := .waiting, trigger := t, interval := .stopped,
                    hold := .running (p.maximumHold n) }).setClaim (rakeHolder n)
    { status := .waiting, units := p.rakeUnits n }

/-- R69: an overload in RAKING sends the rake to REVERSING. -/
def Plant.reverseRake (p : Plant) (n : Fin 2) : Plant :=
  let r := p.rake n
  (p.setRake n
    { r with state := .reversing, cycle := .stopped, attempts := r.attempts + 1,
             reverse := .running (p.reverseTime n) }).append (srcScreen n) 0x32 (detail2 (r.attempts + 1))

/-- R69: RAKING with the overload input ACTIVE passes on to REVERSING. -/
def Plant.checkOverload (p : Plant) (n : Fin 2) : Plant :=
  if p.overloadActive n then p.reverseRake n else p

/-- R67: the claim of a WAITING rake is granted and the cycle starts. RAKE_START gives the home reading in one byte,
ACTIVE 1 and INACTIVE 0 (log 46). -/
def Plant.startRake (p : Plant) (n : Fin 2) : Plant :=
  let r := p.rake n
  let p1 := p.setRake n
    { r with state := .raking, hold := .stopped, held := false, attempts := 0,
             homeLeave := !p.homeActive n, cycleStart := some p.clock.uptime,
             cycle := .running (p.cycleTime n) }
  (p1.append (srcScreen n) 0x30 (detail1 r.trigger.code ++ detail1 (bit (p.homeActive n)))).checkOverload n

/-- R66: the interval timer at an entry into IDLE; interval 0 starts none. -/
def Plant.intervalStart (p : Plant) (n : Fin 2) : Timer :=
  if p.intervalTime n = 0 then .stopped else .running (p.intervalTime n)

/-- R65: a rake that stands in IDLE while storm posture is active triggers with STORM at once. -/
def Plant.standingTrigger (p : Plant) (n : Fin 2) : Plant :=
  if p.mode.storm && (p.rake n).state == .idle then p.triggerRake n .storm else p

/-- R65: a rake enters IDLE, its interval timer started. Standing storm triggers are taken by the load
budget's round after the release has been served (R68). -/
def Plant.enterIdle (p : Plant) (n : Fin 2) : Plant :=
  p.setRake n
    { p.rake n with state := .idle, cycle := .stopped, reverse := .stopped, hold := .stopped,
                    held := false, interval := p.intervalStart n }

/-- R68: the end of a cycle. -/
def Plant.endCycle (p : Plant) (n : Fin 2) : Plant :=
  let r := p.rake n
  ((p.append (srcScreen n) 0x31
    (detail1 0 ++ detail1 r.trigger.code ++ detail2 r.attempts ++ detail4 (p.cycleDuration n))).dropClaim
      (rakeHolder n)).enterIdle n

/-- R70: a rake enters JAMMED. -/
def Plant.jamRake (p : Plant) (n : Fin 2) (cause : JamCause) : Plant :=
  let r := p.rake n
  ((p.setRake n
    { r with state := .jammed, jamCause := cause, cycle := .stopped, reverse := .stopped,
             interval := .stopped, hold := .stopped }).dropClaim (rakeHolder n)).append
    (srcScreen n) 0x35 (detail1 cause.code ++ detail2 r.attempts ++ detail4 (p.cycleDuration n))

/-- R71: a suspension order. The claim turns to WAITING with the units it was entered with. The suspended-from state
is coded as R172 orders its two names: RAKING 0, REVERSING 1. A cycle timer that has run out, its expiry not yet taken,
is paused with 0 ticks (log 49). -/
def Plant.suspendRake (p : Plant) (n : Fin 2) : Plant :=
  let r := p.rake n
  let reversing := r.state == .reversing
  ((p.setRake n
    { r with state := .suspended, fromReversing := reversing, cycle := r.cycle.pause,
             reverse := .stopped, hold := .running (p.maximumHold n) }).setClaim (rakeHolder n)
    { p.claim (rakeHolder n) with status := .waiting }).append
    (srcScreen n) 0x33 (detail1 (bit reversing) ++ detail2 r.attempts)

/-- R68, R69, R72: a rake is again in RAKING, back from SUSPENDED or from REVERSING. With the home-leave flag set and the
home input ACTIVE it reached home meanwhile, and the cycle ends; else the overload input is checked. R72 gives this order
at a resumption; the model takes it after a reverse too (log 47). -/
def Plant.backInRaking (p : Plant) (n : Fin 2) : Plant :=
  if (p.rake n).homeLeave && p.homeActive n then p.endCycle n else p.checkOverload n

/-- R72: a suspended rake resumes. RAKE_RESUME gives the state resumed by its code among the rake states (log 46). -/
def Plant.resumeRake (p : Plant) (n : Fin 2) : Plant :=
  let r := p.rake n
  if r.fromReversing then
    (p.setRake n
      { r with state := .reversing, hold := .stopped, held := false,
               reverse := .running (p.reverseTime n) }).append
      (srcScreen n) 0x34 (detail1 RakeState.reversing.code)
  else
    ((p.setRake n
      { r with state := .raking, hold := .stopped, held := false, cycle := r.cycle.resume }).append
      (srcScreen n) 0x34 (detail1 RakeState.raking.code)).backInRaking n

/-- The load budget grants a rake's claim (R29, R67, R72). -/
def Plant.grantRake (p : Plant) (n : Fin 2) : Plant :=
  let p1 := p.setClaim (rakeHolder n) { p.claim (rakeHolder n) with status := .held }
  match (p.rake n).state with
  | .waiting => p1.startRake n
  | .suspended => p1.resumeRake n
  | .absent => p
  | .idle => p
  | .raking => p
  | .reversing => p
  | .jammed => p
  | .outOfService => p

/-- R75, R76: a rake stands down; `reason` is the RAKE_END reason. -/
def Plant.standDown (p : Plant) (n : Fin 2) (st : RakeState) (reason : Nat) : Plant :=
  let r := p.rake n
  let p0 := if r.state.inMotion || r.state == .suspended then
      p.append (srcScreen n) 0x31 (detail1 reason ++ detail2 r.attempts ++ detail4 (p.cycleDuration n))
    else p
  (p0.setRake n
    { r with state := st, cycle := .stopped, reverse := .stopped, interval := .stopped,
             hold := .stopped, held := false }).dropClaim (rakeHolder n)

/-- R75: OOS changes from clear to set. -/
def Plant.rakeOosSet (p : Plant) (n : Fin 2) : Plant :=
  match (p.rake n).state with
  | .absent => p
  | .outOfService => p
  | .idle => p.standDown n .outOfService 1
  | .waiting => p.standDown n .outOfService 1
  | .raking => p.standDown n .outOfService 1
  | .reversing => p.standDown n .outOfService 1
  | .suspended => p.standDown n .outOfService 1
  | .jammed => p.standDown n .outOfService 1

/-- R75: OOS changes from set to clear. -/
def Plant.rakeOosCleared (p : Plant) (n : Fin 2) : Plant :=
  if (p.rake n).state = .outOfService then p.enterIdle n else p

/-- R74: RESET is taken in JAMMED with the overload input INACTIVE. -/
def Plant.rakeReset (p : Plant) (n : Fin 2) : Plant :=
  if (p.rake n).state == .jammed && !p.overloadActive n then p.enterIdle n else p

/-- R68, R69: a change of a home input. -/
def Plant.homeChange (p : Plant) (n : Fin 2) (active : Bool) : Plant :=
  let r := p.rake n
  let left := p.setRake n { r with homeLeave := true }
  match r.state with
  | .raking => if active then (if r.homeLeave then p.endCycle n else p) else left
  | .reversing => if active then p else left
  | .suspended => if active then p else left
  | .absent => p
  | .idle => p
  | .waiting => p
  | .jammed => p
  | .outOfService => p

/-- R69: a change of an overload input. -/
def Plant.overloadChange (p : Plant) (n : Fin 2) (active : Bool) : Plant :=
  if active && (p.rake n).state == .raking then p.reverseRake n else p

/-- R69: the reverse timer expires. At or below the retry limit the rake is again in RAKING, where an arrival home that
REVERSING left unacted on is taken (R68). -/
def Plant.reverseDone (p : Plant) (n : Fin 2) : Plant :=
  let r := p.rake n
  if r.attempts ≤ p.retryLimit n then
    (p.setRake n
      { r with state := .raking, reverse := .stopped, cycle := .running (p.cycleTime n) }).backInRaking n
  else p.jamRake n .overload

/-- The two channels of a rake: upstream and downstream (04). -/
def upstreamChannel (n : Fin 2) : Fin 8 := ⟨1 + 2 * n.val, by omega⟩
def downstreamChannel (n : Fin 2) : Fin 8 := ⟨2 + 2 * n.val, by omega⟩

/-- R64: the differential, while both channels are GOOD. -/
def Plant.differentialNow (p : Plant) (n : Fin 2) : Option Int :=
  let u := p.levels.channels.get (upstreamChannel n)
  let d := p.levels.channels.get (downstreamChannel n)
  match u.state, u.value, d.state, d.value with
  | .good, some x, .good, some y => some ((x : Int) - (y : Int))
  | _, _, _, _ => none

/-- R64: a rake takes the levels of its two channels as they stand; SCREEN_BLINDED follows a differential that
counts, in every state but ABSENT. -/
def Plant.takeDifferential (p : Plant) (n : Fin 2) : Plant :=
  let r := p.rake n
  match p.differentialNow n with
  | none => p.setRake n { r with counts := false }
  | some d =>
    p.setRake n
      { r with differential := d, counts := true,
               blinded := r.state != .absent && decide ((p.blindLevel n : Int) ≤ d) }

/-- R65: the differential that counts is at or above the trigger of an IDLE rake. -/
def Plant.diffTriggers (p : Plant) (n : Fin 2) : Bool :=
  (p.rake n).state == .idle && (p.rake n).counts && decide ((p.diffTrigger n : Int) ≤ (p.rake n).differential)

/-- R64, R65: a rake takes a level-updated event. -/
def Plant.rakeLevel (p : Plant) (n : Fin 2) : Plant :=
  let p1 := p.takeDifferential n
  if p1.diffTriggers n then p1.triggerRake n .differential else p1

end Sys2Proof.Machine
end

