-- ==== Sys2Proof/Machine/BudgetOps.lean ====
section
/-! DEFINITION. The load budget: claims, grants, suspension orders and the shed (R26 to R31). -/

namespace Sys2Proof.Machine

/-- R27: at most one pump claim is WAITING, the head's. -/
def Plant.waitingPump (p : Plant) : Option (Fin 6) :=
  allPumps.find? (fun n => (p.claim (pumpHolder n)).status == .waiting)

/-- R28: the rakes in motion are those whose entries are HELD. -/
def Plant.rakesInMotion (p : Plant) : List (Fin 2) :=
  allRakes.filter (fun n => (p.claim (rakeHolder n)).status == .held)

def Plant.rakeHeldUnits (p : Plant) : Nat :=
  (p.rakesInMotion.map (fun n => (p.claim (rakeHolder n)).units)).sum

/-- The units fit in the free units. -/
def Plant.fits (p : Plant) (h : Fin 8) : Bool :=
  p.heldUnits + (p.claim h).units ≤ p.budget

/-- R28: every rake in motion is ordered to suspend. -/
def Plant.suspendRakes (p : Plant) : Plant := p.rakesInMotion.foldl (fun q n => q.suspendRake n) p

/-- R27: the claim of the head of the start queue, once the gate is free. -/
def Plant.claimToEnter (p : Plant) : Option (Fin 6) :=
  if p.gateFree then p.queue.head? else none

/-- R29: the first rake claim, in screen order, that is WAITING and fits. -/
def Plant.rakeToGrant (p : Plant) : Option (Fin 2) :=
  allRakes.find? (fun n => (p.claim (rakeHolder n)).status == .waiting && p.fits (rakeHolder n))

/-- R65: a rake that stands in IDLE while storm posture is active triggers with STORM. -/
def Plant.stormTrigger (p : Plant) : Option (Fin 2) :=
  if p.mode.storm then allRakes.find? (fun n => (p.rake n).state == .idle) else none

/-- The next thing the load budget and the units do on their own inside an event: a WAITING pump claim
is served first (R27, R28), then the head's claim is entered (R38), then rake claims are granted (R29),
and last a rake back in IDLE triggers again (R68). None when nothing is left to do. -/
def Plant.serveOnce (p : Plant) : Option Plant :=
  let storm := p.stormTrigger.map (fun n => p.triggerRake n .storm)
  match p.waitingPump with
  | some n =>
    let u := (p.claim (pumpHolder n)).units
    if p.fits (pumpHolder n) then some (p.startPump n)
    else if p.heldUnits + u ≤ p.budget + p.rakeHeldUnits then some p.suspendRakes
    else storm
  | none =>
    match p.claimToEnter with
    | some n => some (p.setClaim (pumpHolder n) { status := .waiting, units := p.pumpUnits n })
    | none =>
      match p.rakeToGrant with
      | some n => some (p.grantRake n)
      | none => storm

/-- Serve until nothing is left to do. One event leads to at most one pump start, one suspension order
and a few grants and triggers per rake, well below the bound the callers give. -/
def Plant.serve (p : Plant) : Nat → Plant
  | 0 => p
  | k + 1 =>
    match p.serveOnce with
    | some q => Plant.serve q k
    | none => p

/-- Rounds enough for any one event. -/
def serveBound : Nat := 32

/-- The end of an event at the plant's units, which has led through `views` to `p`: the load budget serves what the
event left to serve, and the pump and screen units hand their conditions, each once through the event and in ascending
point number (R94; log 12). Nothing is claimed in LOAD (R17). -/
def Plant.concludeAfter (p : Plant) (views : List Plant) : Plant :=
  if p.loading then p
  else
    let q := p.serve serveBound
    (q.handPumps (views ++ [p, q])).handRakes (views ++ [p, q])

/-- The end of an event that has led to `p` in one go. -/
def Plant.conclude (p : Plant) : Plant := p.concludeAfter []

/-- R30, step 2: stop the pump that entered STARTING last, until the held units fit; `stopped` lists those stopped. A
stopped pump that trips on its fault input (R42) loses its demand, and level control re-examines the demands (R56). -/
def Plant.shedPumps (p : Plant) (stopped : List (Fin 6)) : Nat → Plant × List (Fin 6)
  | 0 => (p, stopped)
  | k + 1 =>
    if p.budget < p.heldUnits then
      match p.latestStart (allPumps.filter (fun n => (p.pump n).state.inMotion)) with
      | some n => Plant.shedPumps (p.reexamineAfter (p.stopPump n .shed) n) (stopped ++ [n]) k
      | none => (p, stopped)
    else (p, stopped)

/-- R30, R31: the shed after a change of the present budget. -/
def Plant.shed (p : Plant) : Plant :=
  if p.heldUnits ≤ p.budget then p
  else
    let rakes := p.rakesInMotion
    let (p1, pumps) := p.suspendRakes.shedPumps [] 6
    let p2 := p1.append srcMode 0x14 (rakes.map srcScreen ++ pumps.map srcPump ++ detail2 p1.budget)
    ({ p2 with mode := { p2.mode with loadShed := true } }).hand 34 true

end Sys2Proof.Machine
end

