-- ==== Sys2Proof/Machine/ModeOps.lean ====
section
/-! DEFINITION. The station mode unit: modes, freshness, supply and storm posture (R17 to R34). -/

namespace Sys2Proof.Machine

/-- R108: the kind of a storm entry and the conditions holding after the change (12.4). -/
def Plant.stormBits (p : Plant) : Nat :=
  bit p.mode.wetWell + 2 * bit p.mode.overflow + 4 * bit p.mode.floatHigh

/-- The pages of the pumps, whose current limits a storm allowance above 0 moves with the posture (R47, R62). -/
def Plant.limitPages (p : Plant) : List (Fin 16) := if p.stormAllowance = 0 then [] else allPumps.map pumpPageNumber

/-- R32, R33: storm posture from its three conditions; a change is logged and handed to the pump unit
(limits) and the screen unit (triggers). -/
def Plant.stormRecompute (p : Plant) : Plant :=
  let now := p.mode.wetWell || p.mode.overflow || p.mode.floatHigh
  if now = p.mode.storm then p
  else
    let p1 := { p with mode := { p.mode with storm := now }, marks := p.marks ++ p.limitPages }
    let p2 := (p1.append srcMode (if now then 0x11 else 0x12) (detail1 p1.stormBits)).limitsChanged
    allRakes.foldl (fun q n => q.standingTrigger n) p2

/-- R32: the wet-well condition with its hysteresis; a channel in FAULT keeps it. -/
def Plant.wetWellNow (p : Plant) : Bool :=
  let c := p.levels.channels.get 0
  match c.state, c.value with
  | .good, some v =>
    if p.stormLevel ≤ v then true
    else if v < p.stormLevel - p.stormHysteresis then false
    else p.mode.wetWell
  | _, _ => p.mode.wetWell

/-- R32, R33: the wet-well condition is evaluated; LEVEL_HIGH is the condition itself. -/
def Plant.evaluateWetWell (p : Plant) : Plant :=
  let w := p.wetWellNow
  if w = p.mode.wetWell then p
  else (({ p with mode := { p.mode with wetWell := w } }).stormRecompute).hand 30 w

/-- R32: the overflow condition: some overflow record is open. -/
def Plant.anyRecordOpen (p : Plant) : Bool := allWeirs.any (fun n => (p.weirs.get n).openRecord.isSome)

/-- R32, R83, R85: the overflow condition is handed to the mode unit; a change of it marks page 0 (R33). -/
def Plant.evaluateOverflow (p : Plant) : Plant :=
  ({ p with
    mode := { p.mode with overflow := p.anyRecordOpen }
    marks := p.marks ++ if p.anyRecordOpen = p.mode.overflow then [] else [0] }).stormRecompute

/-- R32: the float-high condition follows F26. -/
def Plant.evaluateFloatHigh (p : Plant) : Plant :=
  ({ p with mode := { p.mode with floatHigh := p.floatHighActive } }).stormRecompute

/-- R167: a MODE_CHANGE to LOCAL with cause LAPSE or UPSTREAM is urgent. -/
def modeChangeUrgent (m : Mode) (c : ModeCause) : Bool :=
  m == .localControl && (c == .lapse || c == .upstream)

/-- The requested-mode field of the mode word's shadow (R17). -/
def Plant.requestedCode (p : Plant) : Nat := (p.shadow.get 0).toNat % 4

/-- R18: a mode change: shadow and correction, MODE_CHANGE, the pump unit (R58), LOCAL_MODE (R23). -/
def Plant.changeMode (p : Plant) (m : Mode) (c : ModeCause) (byPart : Bool) : Plant :=
  let requested := if byPart then 0 else p.requestedCode
  let p1 := { p with mode := { p.mode with mode := m, cause := c } }
  let p2 := (p1.setShadow 0 (modeWord requested m c)).queueCorrection 0
  let p3 := p2.append srcMode 0x10
    (detail1 p.mode.mode.code ++ detail1 p.mode.cause.code ++ detail1 m.code ++ detail1 c.code)
    (modeChangeUrgent m c)
  let p4 := if m = .localControl ∧ p.mode.mode ≠ .localControl then p3.adopt else p3
  p4.hand 35 p4.localModeCondition

/-- R20: the freshness timer runs for the limit in force. -/
def Plant.restartFreshness (p : Plant) (value : Word) : Plant :=
  { p with mode := { p.mode with freshLast := value, freshTimer := .running p.freshnessLimit,
                                 freshLimit := p.freshnessLimit, fresh := true } }

/-- R20: a write to the freshness word; only a value that differs is fresh. -/
def Plant.freshnessTaken (p : Plant) (value : Word) : Plant :=
  if value = p.mode.freshLast then p else p.restartFreshness value

/-- R21: the freshness timer has expired. -/
def Plant.freshnessLapse (p : Plant) : Plant :=
  let p1 := { p with mode := { p.mode with freshTimer := .stopped, fresh := false } }
  if p.mode.mode = .auto then p1.changeMode .localControl .lapse true else p1

/-- R20: a committed limit changes the remaining time of a running timer; zero or less expires at the commit. -/
def Plant.freshnessLimitChanged (p : Plant) : Plant :=
  match p.mode.freshTimer with
  | .running left =>
    if p.freshnessLimit = p.mode.freshLimit then p
    else
      let elapsed := p.mode.freshLimit - left
      if p.freshnessLimit ≤ elapsed then p.freshnessLapse
      else { p with mode := { p.mode with freshTimer := .running (p.freshnessLimit - elapsed),
                                          freshLimit := p.freshnessLimit } }
  | .stopped => p
  | .paused _ => p

def supplyOf (generator : Bool) : Supply := if generator then .generator else .mains

/-- R24, R31: a change of supply is logged, its conditions handed, and the new budget acted on (R30). -/
def Plant.changeSupply (p : Plant) (generator : Bool) : Plant :=
  let now := supplyOf generator
  if now = p.mode.supply then p
  else
    let p1 := (p.append srcMode 0x13 (detail1 p.mode.supply.code ++ detail1 now.code))
    let p2 := ({ p1 with mode := { p1.mode with supply := now } }).hand 33 generator
    let p3 := if generator then p2
      else ({ p2 with mode := { p2.mode with loadShed := false } }).hand 34 false
    p3.shed

end Sys2Proof.Machine
end

