-- ==== Sys2Proof/Machine/WeirOps.lean ====
section
/-! DEFINITION. Operations of the overflow unit: states, records, volume and peak (05). -/

namespace Sys2Proof.Machine

def Plant.weir (p : Plant) (n : Fin 3) : Weir := p.weirs.get n

def Plant.setWeir (p : Plant) (n : Fin 3) (w : Weir) : Plant := { p with weirs := vset p.weirs n w }

/-- A weir's level channel: 5 to 7. -/
def weirChannel (n : Fin 3) : Fin 8 := ⟨5 + n.val, by omega⟩

def RecordFlags.none : RecordFlags :=
  { curveChanged := false, channelFault := false, beyondCurve := false, resumed := false, clockChanged := false }

/-- 12.3: CURVE_CHANGED, CHANNEL_FAULT, BEYOND_CURVE, RESUMED, CLOCK_CHANGED from bit 0. -/
def RecordFlags.code (f : RecordFlags) : Nat :=
  bit f.curveChanged + 2 * bit f.channelFault + 4 * bit f.beyondCurve + 8 * bit f.resumed +
    16 * bit f.clockChanged

/-- The level last delivered for the weir channel. -/
def Weir.levelN (w : Weir) : Nat := w.level.getD 0

/-- R83: a weir opens a record. -/
def Plant.openRecord (p : Plant) (n : Fin 3) : Plant :=
  let w := p.weir n
  let flags := { RecordFlags.none with resumed := w.resume }
  let r : OverflowRecord :=
    { startTime := p.clock.station, startUptime := p.clock.uptime, duration := none, endTime := none,
      peak := w.levelN, peakTime := p.clock.station, volume := some 0, flags := flags }
  let p1 := p.setWeir n
    { w with state := .overflowing, startConfirm := .stopped, openRecord := some r, litres := 0, resume := false }
  let p2 := p1.append (srcWeir n) 0x40
    (detail1 flags.code ++ detail4 p.clock.uptime.toNat ++ detail2 w.levelN ++ detail2 (p.crest n)) true
  (p2.hand (overflowPoint n) true).evaluateOverflow

/-- The volume as an entry or a page carries it: 0xFFFFFF for absent (R172). -/
def volumeCode : Option Nat → Nat
  | some v => v
  | none => 0xFFFFFF

/-- R85: a record is closed; the weir enters NORMAL. The litre accumulator, which has meaning while a record is open (R79),
is put back to 0 (log 54). -/
def Plant.closeRecord (p : Plant) (n : Fin 3) : Plant :=
  let w := p.weir n
  match w.openRecord with
  | none => p.setWeir n { w with state := .normal, endConfirm := .stopped, faultHold := false }
  | some r =>
    let duration := p.clock.uptime - r.startUptime
    let closed := { r with duration := some duration, endTime := some p.clock.station }
    let p1 := p.setWeir n
      { w with state := .normal, endConfirm := .stopped, faultHold := false, openRecord := none,
               lastClosed := some closed, litres := 0 }
    let p2 := p1.append (srcWeir n) 0x41
      (detail1 r.flags.code ++ detail4 r.startTime.toNat ++ detail4 duration.toNat ++ detail2 r.peak ++
        detail4 r.peakTime.toNat ++ detail3 (volumeCode r.volume))
    (p2.hand (overflowPoint n) false).evaluateOverflow

/-- R80: a start confirm time of 0 passes through RISING at once. -/
def Plant.enterRising (p : Plant) (n : Fin 3) : Plant :=
  let p1 := p.setWeir n { p.weir n with state := .rising, startConfirm := .running (p.startConfirmTime n) }
  if p.startConfirmTime n = 0 then p1.openRecord n else p1

/-- R81: an end confirm time of 0 passes through FALLING at once. -/
def Plant.enterFalling (p : Plant) (n : Fin 3) : Plant :=
  let p1 := p.setWeir n { p.weir n with state := .falling, endConfirm := .running (p.endConfirmTime n) }
  if p.endConfirmTime n = 0 then p1.closeRecord n else p1

/-- R84: a level above the peak of the open record becomes the peak. -/
def Weir.updatePeak (w : Weir) (now : Time) (level : Nat) : Weir :=
  match w.openRecord with
  | some r => if r.peak < level then { w with openRecord := some { r with peak := level, peakTime := now } } else w
  | none => w

/-- R82: a channel fault marks the open record, its volume absent (R88). An end confirm timer that has run out and whose
expiry has not been taken yet is paused with 0 ticks (log 49). -/
def Weir.markFault (w : Weir) : Weir :=
  { w with
    faultHold := true
    endConfirm := w.endConfirm.pause
    openRecord := w.openRecord.map (fun r =>
      { r with volume := none, flags := { r.flags with channelFault := true } }) }

/-- R80, R81, R91: a weir judges a GOOD level. The resume mark is judged by the state the event finds: it stays at the
event that takes the weir from RISING to NORMAL (log 50). -/
def Plant.weirGood (p : Plant) (n : Fin 3) (level : Nat) : Plant :=
  let w := ({ p.weir n with faultHold := false }).updatePeak p.clock.station level
  match w.state with
  | .normal =>
    let p1 := p.setWeir n { w with resume := w.resume && decide (p.crest n ≤ level) }
    if p.crest n + p.startMargin n ≤ level then p1.enterRising n else p1
  | .rising =>
    if p.crest n + p.startMargin n ≤ level then p.setWeir n w
    else p.setWeir n { w with state := .normal, startConfirm := .stopped }
  | .overflowing =>
    if level < p.crest n then (p.setWeir n w).enterFalling n else p.setWeir n w
  | .falling =>
    if p.crest n ≤ level then p.setWeir n { w with state := .overflowing, endConfirm := .stopped }
    else p.setWeir n { w with endConfirm := w.endConfirm.resume }

/-- R82: a weir takes a level-updated event with its channel in FAULT. -/
def Plant.weirFault (p : Plant) (n : Fin 3) : Plant :=
  let w := p.weir n
  match w.state with
  | .normal => p
  | .rising => p.setWeir n { w with state := .normal, startConfirm := .stopped }
  | .overflowing => p.setWeir n w.markFault
  | .falling => p.setWeir n w.markFault

/-- The channel's state and value as delivered (R78). -/
def Plant.deliverWeir (p : Plant) (n : Fin 3) : Plant :=
  let c := p.levels.channels.get (weirChannel n)
  p.setWeir n { p.weir n with channelGood := c.state == .good, level := c.value }

/-- R78: a present weir takes a level-updated event. -/
def Plant.weirLevel (p : Plant) (n : Fin 3) : Plant :=
  if p.weirPresent n then
    let p1 := p.deliverWeir n
    match (p1.weir n).channelGood, (p1.weir n).level with
    | true, some v => p1.weirGood n v
    | _, _ => p1.weirFault n
  else p

/-! The volume (R86 to R88). -/

/-- R87: the flow for a head at or above point (h1, q1), with the points that follow it; the mark is set
when the head lies above the last point. -/
def flowFrom (head : Int) (h1 q1 : Nat) : List (Nat × Nat) → Nat × Bool
  | [] => (q1, decide ((h1 : Int) < head))
  | (h2, q2) :: more =>
    if head < (h2 : Int) then (q1 + (head.toNat - h1) * (q2 - q1) / (h2 - h1), false)
    else flowFrom head h2 q2 more

/-- R87: the flow for a head, and whether the head lies above the last point. -/
def flowAt (curve : List (Nat × Nat)) (head : Int) : Nat × Bool :=
  match curve with
  | [] => (0, false)
  | (h1, q1) :: rest => if head < (h1 : Int) then (0, false) else flowFrom head h1 q1 rest

/-- R88: the litre accumulator holds here. -/
def litresBound : Nat := 16777214999

/-- R86: one volume step of a weir with an open record whose volume is present. -/
def Plant.volumeStep (p : Plant) (n : Fin 3) : Plant :=
  let w := p.weir n
  match w.state, w.openRecord with
  | .normal, _ => p
  | .rising, _ => p
  | _, none => p
  | _, some r =>
    match r.volume with
    | none => p
    | some _ =>
      match p.curve n, w.channelGood, w.level with
      | some curve, true, some level =>
        let (flow, beyond) := flowAt curve ((level : Int) - (p.crest n : Int))
        let litres := min (w.litres + flow) litresBound
        p.setWeir n
          { w with
            litres := litres
            openRecord := some { r with volume := some (litres / 1000)
                                        flags := { r.flags with beyondCurve := r.flags.beyondCurve || beyond } } }
      | _, _, _ => p.setWeir n { w with openRecord := some { r with volume := none } }

/-- A volume step is due at this tick (R86). -/
def Weir.steps (w : Weir) : Bool :=
  (w.state == .overflowing || w.state == .falling) &&
    (match w.openRecord with
     | some r => r.volume.isSome
     | none => false)

/-- Set a flag on every open record (R89, R90). -/
def Plant.flagRecords (p : Plant) (f : RecordFlags → RecordFlags) : Plant :=
  allWeirs.foldl (fun q n =>
    let w := q.weir n
    q.setWeir n { w with openRecord := w.openRecord.map (fun r => { r with flags := f r.flags }) }) p

/-- R15, R90: station time is set; `town` is the setter. The entry is stamped after the set. -/
def Plant.setStationTime (p : Plant) (t : Time) (town : Bool) : Plant :=
  let p1 := { p with clock := { p.clock with station := t, clockSet := true } }
  (p1.append srcSystem 0x04 (detail4 p.clock.station.toNat ++ detail4 t.toNat ++ detail1 (bit town))).flagRecords
    (fun f => { f with clockChanged := true })

end Sys2Proof.Machine
end

