-- ==== Sys2Proof/Machine/LevelOps.lean ====
section
/-! DEFINITION. The level unit's scans and samples, and the delivery of events to the job blocks
(R2, R6 to R12). -/

namespace Sys2Proof.Machine

/-- R6: the exchange time limit: 20 ms. -/
def exchangeTicks : Nat := 2

/-- R6: the scan period: 100 ms. -/
def scanTicks : Nat := 10

/-- R6: the channel of the exchange in progress: the exchanges of a scan go in channel order. -/
def Scan.channel (x : Scan) : Nat := x.codes.length

/-- 12.7: the select word of the exchange in progress: the channel in bits 2:0, the other bits zero. -/
def Scan.select (x : Scan) : Word := packWord [(x.channel, 0, 3)]

/-- R6, 12.7: the channel select that the part sends in the exchange in progress; none is sent between scans. -/
def LevelUnit.selectSent (l : LevelUnit) : Option Word := l.scan.map Scan.select

/-- R6: a scan starts with the exchange of channel 0. -/
def Plant.startScan (p : Plant) : Plant :=
  { p with levels := { p.levels with scan := some { codes := [], timer := .running exchangeTicks } } }

def Plant.setChannel (p : Plant) (c : Fin 8) (x : Channel) : Plant :=
  { p with levels := { p.levels with channels := vset p.levels.channels c x } }

/-- R8, R10: zero + (sum of the four codes) × span / (4 × 4095), truncated. -/
def Plant.filtered (p : Plant) (c : Fin 8) (ring : List Nat) : Nat :=
  p.zero c + ring.sum * p.span c / 16380

/-- R9: a bad sample. -/
def Channel.bad (x : Channel) : Channel :=
  match x.state with
  | .good => { x with state := .fault .badSample, ring := [], goodCount := 0, stale := true }
  | .fault _ => { x with state := .fault .badSample, ring := [], goodCount := 0 }

/-- R10: a good sample. -/
def Plant.goodSample (p : Plant) (c : Fin 8) (code : Nat) : Channel :=
  let x := p.levels.channels.get c
  match x.state with
  | .good =>
    let ring := x.ring.drop (x.ring.length - 3) ++ [code]
    { x with ring := ring, value := some (p.filtered c ring), stale := false }
  | .fault _ =>
    let ring := x.ring ++ [code]
    if x.goodCount + 1 = 4 then
      { ring := ring, goodCount := 4, state := .good, value := some (p.filtered c ring), stale := false }
    else { x with ring := ring, goodCount := x.goodCount + 1 }

/-- R9, R10: a channel takes its code of a successful scan. The fault codes are those in force at the scan's completion, for
a scan that a commit of S2 finds in progress too (log 55). -/
def Plant.takeSample (p : Plant) (c : Fin 8) (code : Nat) : Plant :=
  if code < p.lowCode c || p.highCode c < code then p.setChannel c (p.levels.channels.get c).bad
  else p.setChannel c (p.goodSample c code)

/-- R7: what the third failed scan in a row does to a channel. -/
def Channel.converterFail (x : Channel) : Channel :=
  match x.state with
  | .good => { x with state := .fault .converter, stale := true, ring := [], goodCount := 0 }
  | .fault _ => { x with ring := [], goodCount := 0 }

/-- R12: a level-updated event goes to the station mode unit, the pump unit, the screen unit and the
overflow unit, in that order (log 12). No event is delivered in LOAD (R13). -/
def Plant.levelUpdated (p : Plant) : Plant :=
  if p.loading then p
  else
    let mode := p.evaluateWetWell
    let screens := allRakes.foldl (fun q n => q.rakeLevel n) mode.evaluateDesired
    let weir1 := screens.weirLevel 0
    let weir2 := weir1.weirLevel 1
    (weir2.weirLevel 2).concludeAfter [mode, weir1, weir2]

/-- R6, R9, R10: a scan has succeeded with these eight codes. -/
def Plant.scanSucceeded (p : Plant) (codes : List Nat) : Plant :=
  let p1 := { p with levels := { p.levels with failCount := 0, scan := none } }
  (allChannels.foldl (fun q c => q.takeSample c (codes.getD c.val 0)) p1).handLevels.levelUpdated

/-- R7: a scan has failed. -/
def Plant.scanFailed (p : Plant) : Plant :=
  let n := if p.levels.failCount < 255 then p.levels.failCount + 1 else 255
  let p1 := { p with levels := { p.levels with failCount := n, scan := none } }
  if n = 3 then
    ({ p1 with levels := { p1.levels with channels := p1.levels.channels.map Channel.converterFail } }).handLevels.levelUpdated
  else p1

/-- R6, 12.7: the reply of the exchange of channel `c` is good: valid marker, and the echo of the channel. -/
def replyGood (reply : Word) (c : Nat) : Bool :=
  reply.getLsbD 15 && (reply.extractLsb' 12 3).toNat == c

/-- R6, 12.7: the code is in bits 11:0 of the reply. -/
def replyCode (reply : Word) : Nat := (reply.extractLsb' 0 12).toNat

/-- R6: a reply arrives. A good one leads to the exchange of the next channel, whose select is sent at once. -/
def Plant.takeReply (p : Plant) (reply : Word) : Plant :=
  match p.levels.scan with
  | none => p
  | some sc =>
    if replyGood reply sc.channel then
      let codes := sc.codes ++ [replyCode reply]
      if codes.length = 8 then p.scanSucceeded codes
      else { p with levels :=
        { p.levels with scan := some { codes := codes, timer := .running exchangeTicks } } }
    else p.scanFailed

/-! Field-line events (R2, R3). -/

/-- R52, R53: the low-low float changes. At its return the desired count is evaluated again, but in LOCAL, where it
waits for the next level-updated event (R52; log 13). -/
def Plant.lowLowChange (p : Plant) (active : Bool) : Plant :=
  if active then p.dryWell else if p.inLocal then p else p.evaluateDesired

/-- R2: a change event of a line acts at each owner of the line (01 section 1.1). -/
def Plant.lineAct (p : Plant) (l : Fin 30) (active : Bool) : Plant :=
  match l.val with
  | 6 => p.feedbackChange 0 active
  | 7 => p.feedbackChange 1 active
  | 8 => p.feedbackChange 2 active
  | 9 => p.feedbackChange 3 active
  | 10 => p.feedbackChange 4 active
  | 11 => p.feedbackChange 5 active
  | 12 => p.faultChange 0 active
  | 13 => p.faultChange 1 active
  | 14 => p.faultChange 2 active
  | 15 => p.faultChange 3 active
  | 16 => p.faultChange 4 active
  | 17 => p.faultChange 5 active
  | 22 => p.homeChange 0 active
  | 23 => p.homeChange 1 active
  | 24 => p.overloadChange 0 active
  | 25 => p.overloadChange 1 active
  | 26 => p.evaluateFloatHigh.evaluateDesired
  | 27 => p.lowLowChange active
  | 28 => p.changeSupply active
  | _ => p

/-- R2: a change event of a line, taken whole. -/
def Plant.lineChange (p : Plant) (l : Fin 30) (active : Bool) : Plant := (p.lineAct l active).conclude

/-- R2, R5: the debounced state takes the raw value; a changed reading is an event outside LOAD. -/
def Plant.debounce (p : Plant) (l : Fin 30) : Plant :=
  let was := p.active l
  let p1 := { p with lines :=
    { p.lines with debounced := vset p.lines.debounced l (p.lines.raw.get l)
                   stability := vset p.lines.stability l .stopped } }
  if p1.loading || p1.active l == was then p1 else p1.lineChange l (p1.active l)

/-- R2: a sample of a contact. -/
def Plant.sampleContact (p : Plant) (l : Fin 30) (c : Contact) (debouncing : Bool) : Plant :=
  let timer := p.lines.stability.get l
  let timer' :=
    if c = p.lines.debounced.get l then .stopped
    else if timer.isRunning then timer
    else .ofMs p.debounceTime
  { p with lines :=
    { p.lines with raw := vset p.lines.raw l c
                   stability := if debouncing then vset p.lines.stability l timer' else p.lines.stability } }

end Sys2Proof.Machine
end

