-- ==== Sys2Proof/Machine/SettingsOps.lean ====
section
/-! DEFINITION. The settings unit: window tables, content checks, and what a committed section does
(R125, R139, R143 to R145, R60, R76, R93). -/

namespace Sys2Proof.Machine

/-! The window table (R125). -/

/-- The kind a code names; none for a value that is no code. -/
def windowKind : Nat → Option WindowKind
  | 0 => some .none
  | 1 => some .command
  | 2 => some .status
  | 3 => some .logRing
  | 4 => some .logPort
  | 5 => some .shield
  | _ => none

/-- Entry `e` of a table's words (12.5); a NONE entry's base and size are not examined. -/
def windowEntry (ws : List Word) (e : Nat) : Window :=
  let w (k : Nat) := (ws.getD (4 * e + k) 0).toNat
  match windowKind (w 0) with
  | some .none => { kind := .none, base := 0, exp := 0 }
  | some k => { kind := k, base := w 1 + 65536 * (w 2 % 256), exp := w 3 }
  | none => { kind := .none, base := 0, exp := 0 }

def windowTable (ws : List Word) : List Window := (List.range 8).map (windowEntry ws)

def Window.size (w : Window) : Nat := 2 ^ w.exp

/-- 08 section 8.2: the permitted size exponents of a kind. -/
def Window.expAllowed (w : Window) : Bool :=
  match w.kind with
  | .none => true
  | .command => 8 ≤ w.exp && w.exp ≤ 12
  | .status => w.exp == 10
  | .logRing => 10 ≤ w.exp && w.exp ≤ 16
  | .logPort => w.exp == 8
  | .shield => 8 ≤ w.exp && w.exp ≤ 22

/-- The window covers the address. -/
def Window.covers (w : Window) (a : Nat) : Bool :=
  w.kind != .none && w.base ≤ a && a < w.base + w.size

def windowsApart (x y : Window) : Bool :=
  x.kind == .none || y.kind == .none || x.base + x.size ≤ y.base || y.base + y.size ≤ x.base

/-- The two settings ranges as one stretch of addresses: 0x0FE000 to 0x0FFFFF. -/
def Window.clearOfSettings (w : Window) : Bool :=
  w.kind == .none || w.base + w.size ≤ 0x0FE000 || 0x100000 ≤ w.base

def pairwiseApart : List Window → Bool
  | [] => true
  | w :: rest => rest.all (windowsApart w) && pairwiseApart rest

def kindCount (k : WindowKind) (t : List Window) : Nat := t.countP (fun w => w.kind == k)

/-- R125: the rules of a window table, but for the check word. -/
def windowTableValid (ws : List Word) : Bool :=
  let t := windowTable ws
  (List.range 8).all (fun e => (windowKind (ws.getD (4 * e) 0).toNat).isSome) &&
    kindCount .command t == 1 && kindCount .status t == 1 && kindCount .logRing t == 1 &&
    kindCount .logPort t == 1 && kindCount .shield t ≤ 4 &&
    t.all (fun w => w.expAllowed && (w.kind == .none || w.base % w.size == 0)) &&
    pairwiseApart t && t.all Window.clearOfSettings

/-! Content checks (R144). -/

def within (n lo hi : Nat) : Bool := lo ≤ n && n ≤ hi

/-- Strictly rising. -/
def rising : List Nat → Bool
  | x :: y :: rest => x < y && rising (y :: rest)
  | _ => true

/-- Not falling. -/
def notFalling : List Nat → Bool
  | x :: y :: rest => x ≤ y && notFalling (y :: rest)
  | _ => true

/-- The word of a section as a number. -/
def wordN (ws : List Word) (k : Nat) : Nat := (ws.getD k 0).toNat

/-- R144: the checks of H. That its lock mask word names no section beyond H is read as bits 15:9 being 0, though R172 does
not examine bits outside a word's fields and 12.5 gives the mask bits 8:0: the model's choice (log 65). -/
def headerContent (ws : List Word) : Bool :=
  wordN ws 0 == 0x4752 && wordN ws 1 == 1 && wordN ws 2 < 512

def pumpContent (ws : List Word) (b : Nat) : Bool :=
  within (wordN ws b) 0 1 && within (wordN ws (b + 1)) 1 8 && within (wordN ws (b + 2)) 10 1800 &&
    within (wordN ws (b + 3)) 10 1800 && within (wordN ws (b + 4)) 1 30 && within (wordN ws (b + 5)) 1 30

def channelContent (ws : List Word) (b : Nat) : Bool :=
  within (wordN ws b) 0 9999 && within (wordN ws (b + 1)) 1 9999 && wordN ws b + wordN ws (b + 1) ≤ 9999 &&
    within (wordN ws (b + 2)) 0 4095 && within (wordN ws (b + 3)) 0 4095 && wordN ws (b + 2) < wordN ws (b + 3)

/-- S2. Chapter 3.7 gives the start and stop levels no range: their order alone is checked (log 19). -/
def stationContent (ws : List Word) : Bool :=
  let starts := (List.range 6).map (fun k => wordN ws (42 + k))
  let stops := (List.range 6).map (fun k => wordN ws (48 + k))
  within (wordN ws 2) 10 500 && (List.range 8).all (fun c => channelContent ws (3 + 4 * c)) &&
    within (wordN ws 35) 1 60 && within (wordN ws 36) 1 48 && within (wordN ws 37) 1 48 &&
    within (wordN ws 38) 0 9999 && within (wordN ws 39) 0 1000 && wordN ws 39 ≤ wordN ws 38 &&
    within (wordN ws 40) 0 10 && within (wordN ws 41) 2 120 &&
    rising starts && rising stops &&
    (List.range 6).all (fun k => wordN ws (48 + k) < wordN ws (42 + k))

def rakeContent (ws : List Word) (b : Nat) : Bool :=
  within (wordN ws b) 0 1 && within (wordN ws (b + 1)) 1 8 && within (wordN ws (b + 2)) 50 2000 &&
    within (wordN ws (b + 3)) 100 3000 && wordN ws (b + 2) < wordN ws (b + 3) &&
    (wordN ws (b + 4) == 0 || within (wordN ws (b + 4)) 60 14400) && within (wordN ws (b + 5)) 30 600 &&
    within (wordN ws (b + 6)) 2 30 && within (wordN ws (b + 7)) 1 5 && within (wordN ws (b + 8)) 60 3600

def weirContent (ws : List Word) (b : Nat) : Bool :=
  within (wordN ws b) 0 1 && within (wordN ws (b + 1)) 0 9999 && within (wordN ws (b + 2)) 0 200 &&
    wordN ws (b + 1) + wordN ws (b + 2) ≤ 9999 && within (wordN ws (b + 3)) 0 300 &&
    within (wordN ws (b + 4)) 0 1800

def curveContent (ws : List Word) (b : Nat) : Bool :=
  let heads := (List.range 16).map (fun k => wordN ws (b + 2 * k))
  let flows := (List.range 16).map (fun k => wordN ws (b + 2 * k + 1))
  wordN ws b == 0xFFFF || (heads.all (fun x => x ≤ 9999) && rising heads && notFalling flows)

/-- S6: the two bits of each class's level always name a level from 0 to 3. -/
def alarmContent (ws : List Word) : Bool := (List.range 18).all (fun k => within (wordN ws k % 4) 0 3)

def linkContent (ws : List Word) : Bool :=
  within (wordN ws 0) 0 5 && within (wordN ws 1) 0 1 && within (wordN ws 2) 0 500 &&
    within (wordN ws 3) 1 254 && within (wordN ws 4) 30 3600 && within (wordN ws 5) 10 3600 &&
    within (wordN ws 6) 10 600

/-- R144: the content checks of a section, the same for a commit and for the load. -/
def contentGood (i : Fin 9) (ws : List Word) : Bool :=
  match i with
  | 0 => windowTableValid ws
  | 1 => (List.range 6).all (fun n => pumpContent ws (16 * n))
  | 2 => stationContent ws
  | 3 => (List.range 2).all (fun n => rakeContent ws (16 * n))
  | 4 => (List.range 3).all (fun n => weirContent ws (8 * n))
  | 5 => (List.range 3).all (fun n => curveContent ws (32 * n))
  | 6 => alarmContent ws
  | 7 => linkContent ws
  | 8 => headerContent ws

/-! What a committed section does (R145). -/

def Plant.setSection (p : Plant) (i : Fin 9) (x : SettingsShadow) : Plant :=
  { p with sections := vset p.sections i x }

/-- R60: a commit of S1 at one pump; `was` is the plant before the commit. -/
def Plant.pumpPresence (was : Plant) (p : Plant) (n : Fin 6) : Plant :=
  if was.pumpPresent n && !p.pumpPresent n then
    let p1 := p.takeOut n .absent .absent
    p1.setRotation (p1.rotation.filter (fun m => m != n))
  else if !was.pumpPresent n && p.pumpPresent n then
    let p1 := p.setRotation (p.rotation.filter (fun m => m != n) ++ [n])
    if p1.pumpOosSet n then p1.setPump n { p1.pump n with state := .outOfService }
    else p1.enterResting n (p1.minOffTime n)
  else p

/-- R60, R46, R47: a commit of S1, pump by pump in ascending number; level control re-examines the demands once, after all
the pumps that the commit takes away (R56; log 28). -/
def Plant.commitPumps (was p : Plant) : Plant :=
  let p1 := allPumps.foldl (fun q n => was.pumpPresence q n) p
  let p2 := if p1.demandedCount < p.demandedCount then p1.reexamine else p1
  p2.trimHistories.limitsChanged.conclude

/-- R3: a line whose reading a changed sense flips delivers its change event. -/
def Plant.flipLine (was p : Plant) (l : Fin 30) : Plant :=
  if was.active l = p.active l then p else p.lineAct l (p.active l)

/-- R3: the lines of the pump unit and the screen unit that flip, in ascending line number (log 28). -/
def Plant.flipLines (was p : Plant) : Plant :=
  (inputLines.filter (fun l => l != 28)).foldl (fun q l => was.flipLine q l) p

/-- R25, R30: a commit that changes the present budget acts as a change of the budget. -/
def Plant.budgetChanged (was p : Plant) : Plant :=
  let before := match p.mode.supply with
    | .mains => was.mainsBudget
    | .generator => was.generatorBudget
  if before = p.budget then p else p.shed

/-- R145: a commit of S2. The station mode unit acts first (storm levels, supply and budget with their shed, freshness
limit: its points 30, 33, 34 and 35 in ascending order, R94), then the flipped lines, the storm allowance and the start
and stop levels; the load budget serves once all of it is in force (log 28). -/
def Plant.commitStation (was p : Plant) : Plant :=
  let storm := if was.stormLevel = p.stormLevel ∧ was.stormHysteresis = p.stormHysteresis then p
    else p.evaluateWetWell
  let mode := (was.budgetChanged (was.flipLine storm 28)).freshnessLimitChanged
  let lines := was.flipLines mode
  let limits := if was.stormAllowance = p.stormAllowance then lines else lines.trimHistories.limitsChanged
  let levels := if was.startLevels = p.startLevels ∧ was.stopLevels = p.stopLevels then limits
    else limits.evaluateDesired
  levels.concludeAfter [storm, mode, lines]

/-- R76: a commit of S3 at one rake. -/
def Plant.rakePresence (was : Plant) (p : Plant) (n : Fin 2) : Plant :=
  if was.rakePresent n && !p.rakePresent n then
    let p1 := p.standDown n .absent 2
    p1.setRake n { p1.rake n with blinded := false }
  else if !was.rakePresent n && p.rakePresent n then
    if p.screenOosSet n then p.setRake n { p.rake n with state := .outOfService } else p.enterIdle n
  else p

def Plant.commitScreens (was p : Plant) : Plant :=
  (allRakes.foldl (fun q n => was.rakePresence q n) p).conclude

/-- R89, R93: a commit of S4 at one weir. One that takes the weir away closes its record without CURVE_CHANGED, though the
crest changes too (log 57). -/
def Plant.weirPresence (was : Plant) (p : Plant) (n : Fin 3) : Plant :=
  let w := p.weir n
  if was.weirPresent n && !p.weirPresent n then
    let p1 := if w.openRecord.isSome then p.closeRecord n else p
    p1.setWeir n
      { p1.weir n with state := .normal, startConfirm := .stopped, endConfirm := .stopped,
                       faultHold := false, resume := false }
  else if !was.weirPresent n && p.weirPresent n then
    p.setWeir n { w with state := .normal, resume := false }
  else if was.crest n ≠ p.crest n then
    p.setWeir n { w with openRecord := w.openRecord.map (fun r =>
      { r with flags := { r.flags with curveChanged := true } }) }
  else p

def Plant.commitWeirs (was p : Plant) : Plant :=
  (allWeirs.foldl (fun q n => was.weirPresence q n) p).conclude

/-- R145: the new section is handed to the blocks that read it; S7 goes to the link line by itself (R158).
H has no effect, and S0 none but PENDING_RESET. -/
def Plant.applySection (was p : Plant) (i : Fin 9) : Plant :=
  match i with
  | 0 => p
  | 1 => was.commitPumps p
  | 2 => was.commitStation p
  | 3 => was.commitScreens p
  | 4 => was.commitWeirs p
  | 5 => p.flagRecords (fun f => { f with curveChanged := true })
  | 6 => p.annunciate
  | 7 => p
  | 8 => p

/-- R143, R145: a section passes and is committed; `inForce` is the window table in force. R94 lets conditions of different
owners be taken in either order: the settings unit hands its own (points 36 and 37, R139) after every entry and condition of
the blocks that took the section (the model's choice, log 28). -/
def Plant.commitSection (p : Plant) (inForce : List Window) (i : Fin 9) (range : SettingsRange)
    (words : List Word) : Plant :=
  let old := p.sections.get i
  let source : SettingsSource := match range with
    | .stored => .stored
    | .trial => .trial
  let p1 := p.setSection i
    { words := words, source := source
      storedDiffers := old.storedDiffers && range == .trial
      pendingReset := if i = 0 then windowTable words != inForce else old.pendingReset }
  let p2 := p1.append srcSettings 0x60 (detail1 i.val ++ detail1 (rangeCode range) ++ detail1 old.source.code)
  (p.applySection p2 i).handSettings

/-- R142, R143: an abandonment is logged; a STORED one with words in memory sets STORED_DIFFERS. -/
def Plant.abandonSection (p : Plant) (t : Transaction) (why : SettingsResult) : Plant :=
  let old := p.sections.get t.sec
  let p1 := if t.range = .stored ∧ 0 < t.forwarded
    then p.setSection t.sec { old with storedDiffers := true } else p
  (p1.append srcSettings 0x61
    (detail1 t.sec.val ++ detail1 (rangeCode t.range) ++ detail1 why.code ++ detail2 t.received ++
      detail2 t.forwarded)).handSettings

/-! The transaction (R141 to R143). -/

/-- The transaction closes with a result. -/
def State.closeTxn (s : State) (t : Transaction) (r : SettingsResult) : State :=
  { s with settings := { s.settings with txn := none, last := some { sec := t.sec, range := t.range, result := r } } }

/-- R142: an open transaction is abandoned. -/
def State.abandonTxn (s : State) (why : SettingsResult) : State :=
  match s.settings.txn with
  | none => s
  | some t => (s.onPlant (fun p => p.abandonSection t why)).closeTxn t why

end Sys2Proof.Machine
end

