-- ==== Sys2Proof/Machine/LogOps.lean ====
section
/-! DEFINITION. The log unit: cursors and retirement, the town's requests, recovery at start-up
(R107 to R121). -/

namespace Sys2Proof.Machine

/-- The window of a kind in the table in force. -/
def findWindow (t : List Window) (k : WindowKind) : Window :=
  (t.find? (fun w => w.kind == k)).getD { kind := k, base := 0, exp := 0 }

def State.window (s : State) (k : WindowKind) : Window := findWindow s.windows k

/-- R107: C is the ring's size divided by 32. -/
def ringCapacity (t : List Window) : Nat := (findWindow t .logRing).size / 32

def State.capacity (s : State) : Nat := ringCapacity s.windows

/-- R107: the slot of sequence number x. -/
def slotAddress (t : List Window) (x : Nat) : Nat :=
  (findWindow t .logRing).base + x % ringCapacity t * 32

/-- R111: the oldest retained entry is retired. -/
def LogUnit.retire (l : LogUnit) : LogUnit :=
  let o := l.o + 1
  let l1 := if l.p = l.o then { l with p := o, pmiss := bump l.pmiss } else l
  let l2 := if l.w = l.o then { l1 with w := o, s := max l.s o, tmiss := bump l.tmiss } else l1
  { l2 with o := o }

/-- R111: the ring is full. -/
def LogUnit.full (l : LogUnit) (capacity : Nat) : Bool := l.t - l.o == capacity

/-- R113: set W to a value. -/
def LogUnit.setW (l : LogUnit) (v : Nat) : LogUnit := { l with w := min (max v l.o) l.s }

/-- R113: set S to a value. -/
def LogUnit.setS (l : LogUnit) (v : Nat) : LogUnit := { l with s := min (max v l.w) l.t }

/-- R113: lower tmiss by a count. -/
def LogUnit.lowerMissed (l : LogUnit) (g : Nat) : LogUnit := { l with tmiss := l.tmiss - g }

/-- R118: move the processor cursor. -/
def LogUnit.advance (l : LogUnit) (k : Nat) : LogUnit := { l with p := l.p + min k (l.t - l.p) }

/-- R112: LOG_OVERRUN is handed to the alarm unit. -/
def State.handOverrun (s : State) : State := s.onPlant (fun p => p.hand 39 (decide (0 < s.log.tmiss)))

/-- R115: the staged words as kind, detail length and detail bytes 0 to 16. -/
def stagedKind (ws : List Word) : Byte := (ws.getD 0 0).extractLsb' 0 8
def stagedLength (ws : List Word) : Nat := (ws.getD 1 0).toNat % 256
def stagedDetail (ws : List Word) : List Byte := (wordsBytes (ws.drop 1)).drop 1

/-! Recovery (R119, R120). -/

/-- R119: the sequence number a slot validly holds. -/
def slotSequence (m : Memory) (t : List Window) (i : Nat) : Option Nat :=
  let words := m.readWords (slotAddress t i) 16
  let seq := bytesNat (m.readBytes (slotAddress t i) 4)
  if blockValid words && seq != 0 && seq % ringCapacity t == i % ringCapacity t then some seq else none

/-- R119: the highest valid sequence number, 0 when no slot is valid. -/
def highestSequence (m : Memory) (t : List Window) : Nat → Nat
  | 0 => 0
  | k + 1 => max (highestSequence m t k) ((slotSequence m t k).getD 0)

/-- R119: the lowest x such that every number from x to the given one lies valid in its own slot. -/
def oldestSequence (m : Memory) (t : List Window) (x : Nat) : Nat → Nat
  | 0 => x
  | k + 1 => if slotSequence m t (x - 1) = some (x - 1) then oldestSequence m t (x - 1) k else x

/-- R119: T and O from the ring. -/
def recoverTail (m : Memory) (t : List Window) : Nat × Nat :=
  let high := highestSequence m t (ringCapacity t)
  if high = 0 then (1, 1) else (high + 1, oldestSequence m t (high + 1) (ringCapacity t))

/-- R120: P and W from status page 15 as it stands in memory, or O. -/
def recoverCursors (m : Memory) (t : List Window) (tail oldest : Nat) : Nat × Nat :=
  let base := (findWindow t .status).base + 64 * 15
  let p := bytesNat (m.readBytes (base + 2 * 7) 4)
  let w := bytesNat (m.readBytes (base + 2 * 9) 4)
  if blockValid (m.readWords base 32) && oldest ≤ p && p ≤ tail && oldest ≤ w && w ≤ tail then (p, w)
  else (oldest, oldest)

/-- R119 to R121: the log unit after recovery. -/
def recoverLog (m : Memory) (t : List Window) : LogUnit :=
  let (tail, oldest) := recoverTail m t
  let (p, w) := recoverCursors m t tail oldest
  { a := tail, t := tail, o := oldest, p := p, w := w, s := w, pmiss := 0, tmiss := 0, dropped := false,
    dropCount := 0, queue := [], staging := none, lastCommit := .none }

/-- R91, R120: the newest OVERFLOW_START or OVERFLOW_END of a weir among the entries below `x` is an
OVERFLOW_START; `k` entries are looked at. -/
def unmatchedStart (m : Memory) (t : List Window) (n : Fin 3) (x : Nat) : Nat → Bool
  | 0 => false
  | k + 1 =>
    let a := slotAddress t (x - 1)
    if m.read (a + 8) = srcWeir n ∧ m.read (a + 9) = 0x40 then true
    else if m.read (a + 8) = srcWeir n ∧ m.read (a + 9) = 0x41 then false
    else unmatchedStart m t n (x - 1) k

end Sys2Proof.Machine
end

