-- ==== Sys2Proof/Machine/Pages.lean ====
section
/-! DEFINITION. The status pages (12.3), and the end of a command: entries are taken by the log unit
and pages whose content has changed are marked dirty. -/

namespace Sys2Proof.Machine

/-- A 32-bit value or its absence (R172). -/
def timeWords : Option Time → List Word
  | some t => words32 t.toNat
  | none => [0xFFFF, 0xFFFF]

/-- Pad a page's words 1 onwards to words 1 to 30. -/
def pageBody (ws : List Word) : List Word := ws ++ List.replicate (30 - ws.length) 0

def claimByte (c : Claim) : Nat := c.status.code + 16 * (c.units % 16)

def claimWords (p : Plant) : List Word :=
  [packWord [(claimByte (p.claim 0), 0, 8), (claimByte (p.claim 1), 8, 8)],
   packWord [(claimByte (p.claim 2), 0, 8), (claimByte (p.claim 3), 8, 8)],
   packWord [(claimByte (p.claim 4), 0, 8), (claimByte (p.claim 5), 8, 8)],
   packWord [(claimByte (p.claim 6), 0, 8), (claimByte (p.claim 7), 8, 8)]]

def refusalWords (address : Nat) (lanes cause : Nat) : List Word :=
  [BitVec.ofNat 16 address, packWord [(address / 65536, 0, 8), (lanes, 8, 2), (cause, 11, 5)]]

/-- 12.3: with no refusal yet the address and the data are 0 (log 63). -/
def lastRefusalWords : Option LastRefusal → List Word
  | some r => refusalWords r.address (lanesCode r.lanes) r.cause.code ++ [r.data] ++ words32 r.time.toNat
  | none => [0, 0, 0, 0xFFFF, 0xFFFF]

/-- 12.3: with no refusal logged yet the address is 0 (log 63). -/
def loggedRefusalWords : Option LoggedRefusal → List Word
  | some r => refusalWords r.address 0 r.cause.code ++ words32 r.uptime.toNat
  | none => [0, 0, 0xFFFF, 0xFFFF]

def sectionNibble (x : SettingsShadow) : Nat := x.source.code + 4 * bit x.storedDiffers + 8 * bit x.pendingReset

def sectionWords (p : Plant) : List Word :=
  let n (i : Fin 9) := sectionNibble (p.sections.get i)
  [packWord [(n 0, 0, 4), (n 1, 4, 4), (n 2, 8, 4), (n 3, 12, 4)],
   packWord [(n 4, 0, 4), (n 5, 4, 4), (n 6, 8, 4), (n 7, 12, 4)],
   packWord [(n 8, 0, 4)]]

/-- 12.3: with no transaction open the count, the section and the kind are 0 (log 63). -/
def txnWord : Option Transaction → Word
  | some t => packWord [(t.received, 0, 9), (t.sec.val, 9, 4), (rangeCode t.range, 13, 1), (1, 14, 1)]
  | none => 0

/-- 12.3: with no result yet the section and the kind are 0 (log 63). -/
def lastSettingsWord : Option LastSettings → Word
  | some r => packWord [(r.sec.val, 0, 4), (rangeCode r.range, 4, 1), (r.result.code, 5, 3)]
  | none => 0

/-- Page 0, station. `count` is the pending-correction count, in word 7. -/
def page0 (s : State) (count : Nat) : List Word :=
  let p := s.plant
  let m := p.mode
  words32 p.clock.station.toNat ++ words32 p.clock.uptime.toNat ++
  [packWord [(bit p.clock.clockSet, 0, 1), (bit m.fresh, 1, 1), (m.supply.code, 2, 1), (bit m.storm, 3, 1),
     (bit m.wetWell, 4, 1), (bit m.overflow, 5, 1), (bit m.floatHigh, 6, 1), (bit s.settings.freeze, 7, 1)],
   modeWord p.requestedCode m.mode m.cause,
   packWord [(m.freshTimer.left, 0, 6), (count, 8, 6)],
   packWord [(p.budget, 0, 6), (p.heldUnits, 8, 6)]] ++
  claimWords p ++ [BitVec.ofNat 16 s.refusals.count, BitVec.ofNat 16 s.refusals.repeats] ++
  lastRefusalWords s.refusals.last ++ loggedRefusalWords s.refusals.logged ++ sectionWords p ++
  [s.settings.lock.setWidth 16, txnWord s.settings.txn, lastSettingsWord s.settings.last]

/-- 12.3: the fault cause has meaning in FAULT alone (R10); in GOOD its bits are 0 (log 46). -/
def channelWord (c : Channel) : Word :=
  match c.state with
  | .good => packWord [(bit c.stale, 3, 1), (c.goodCount, 4, 3)]
  | .fault cause => packWord [(1, 0, 1), (cause.code, 1, 2), (bit c.stale, 3, 1), (c.goodCount, 4, 3)]

/-- The low and the high word of the bits of the lines for which `f` holds. -/
def lineWords (ls : List (Fin 30)) (f : Fin 30 → Bool) : List Word :=
  words32 ((ls.map (fun l => if f l then 2 ^ l.val else 0)).sum)

/-- Page 1, levels and field lines. -/
def page1 (s : State) : List Word :=
  let p := s.plant
  (allChannels.map (fun c => BitVec.ofNat 16 ((p.levels.channels.get c).value.getD 0xFFFF))) ++
  (allChannels.map (fun c => channelWord (p.levels.channels.get c))) ++
  [BitVec.ofNat 16 p.levels.failCount] ++
  lineWords inputLines (fun l => p.lines.raw.get l == .closed) ++
  lineWords inputLines (fun l => p.lines.debounced.get l == .closed) ++
  lineWords allLines p.outputOn

/-- Pages 2 to 7, pumps 1 to 6. -/
def pumpPage (p : Plant) (n : Fin 6) : List Word :=
  let q := p.pump n
  [packWord [(q.state.code, 0, 3), (if q.state = .tripped then q.tripCause.code else 0, 3, 2),
     (bit (p.demand n), 5, 1), (bit q.deferred, 6, 1), (bit (p.feedbackActive n), 7, 1),
     (bit (p.faultActive n), 8, 1), (bit q.state.inMotion, 9, 1)],
   packWord [(placeOf n p.queue, 0, 3), (placeOf n p.rotation, 4, 3)],
   BitVec.ofNat 16 q.feedback.left, BitVec.ofNat 16 q.minRun.left, BitVec.ofNat 16 q.minOff.left,
   packWord [(q.history.length, 0, 8), (p.currentLimit n, 8, 8)]] ++
  timeWords q.history.head? ++ timeWords q.tripUptime ++ timeWords q.lastStart ++
  (if n = 0 then
    [packWord [(p.desired, 0, 3), (p.queue.length, 4, 3), (bit p.gateFree, 7, 1),
       ((match p.rotation with
         | m :: _ => m.val + 1
         | [] => 0), 8, 4)],
     BitVec.ofNat 16 p.stagger.left]
   else [])

/-- Pages 8 and 9, screens 1 and 2. -/
def rakePage (p : Plant) (n : Fin 2) : List Word :=
  let r := p.rake n
  [packWord [(r.state.code, 0, 3), (bit (r.state == .suspended && r.fromReversing), 3, 1),
     (if r.state = .jammed then r.jamCause.code else 0, 4, 1),
     (if r.inCycle then r.trigger.code else 0, 5, 2), (r.attempts, 7, 3), (bit r.homeLeave, 10, 1),
     (bit r.cycle.isPaused, 11, 1), (bit r.counts, 12, 1)],
   packWord [(bit (p.homeActive n), 0, 1), (bit (p.overloadActive n), 1, 1),
     (bit (r.state == .raking), 2, 1), (bit (r.state == .reversing), 3, 1),
     ((p.claim (rakeHolder n)).status.code, 4, 2), (bit (r.state == .jammed), 6, 1), (bit r.held, 7, 1),
     (bit r.blinded, 8, 1)],
   BitVec.ofInt 16 r.differential,
   BitVec.ofNat 16 r.cycle.left, BitVec.ofNat 16 r.reverse.left, BitVec.ofNat 16 r.interval.left,
   BitVec.ofNat 16 r.hold.left] ++ timeWords r.cycleStart

def volumeWords (v : Option Nat) : List Word := words32 (volumeCode v)

/-- An overflow record in short form, ten words; zero for none (12.3). -/
def shortRecord (n : Fin 3) : Option OverflowRecord → List Word
  | none => List.replicate 10 0
  | some r =>
    [packWord [(r.flags.code, 0, 5), (n.val + 1, 8, 2)]] ++ words32 r.startTime.toNat ++
    words32 r.startUptime.toNat ++ [BitVec.ofNat 16 r.peak] ++ words32 r.peakTime.toNat ++ volumeWords r.volume

/-- An overflow record in full form, fourteen words; zero for none. -/
def fullRecord (n : Fin 3) : Option OverflowRecord → List Word
  | none => List.replicate 14 0
  | some r =>
    [packWord [(r.flags.code, 0, 5), (n.val + 1, 8, 2)]] ++ words32 r.startTime.toNat ++
    words32 r.startUptime.toNat ++ timeWords r.duration ++ timeWords r.endTime ++
    [BitVec.ofNat 16 r.peak] ++ words32 r.peakTime.toNat ++ volumeWords r.volume

/-- Pages 10 to 12, weirs 1 to 3. With no level delivered there is no head, and its word is 0 (log 46). -/
def weirPage (p : Plant) (n : Fin 3) : List Word :=
  let w := p.weir n
  let head : Word := match w.level with
    | some v => BitVec.ofInt 16 ((v : Int) - (p.crest n : Int))
    | none => 0
  [packWord [(bit (p.weirPresent n), 0, 1), (w.state.code, 1, 2), (bit w.faultHold, 3, 1),
     (bit w.resume, 4, 1), (bit w.endConfirm.isPaused, 5, 1), (bit (!w.channelGood), 6, 1),
     (bit w.openRecord.isSome, 7, 1), (bit w.lastClosed.isSome, 8, 1)],
   BitVec.ofNat 16 (max w.startConfirm.left w.endConfirm.left),
   BitVec.ofNat 16 (w.level.getD 0xFFFF), head, BitVec.ofNat 16 (w.litres % 1000)] ++
  shortRecord n w.openRecord ++ fullRecord n w.lastClosed

def pointNibble (x : AlarmPoint) : Nat := x.state.code + 4 * bit x.condition

def pointWord (p : Plant) (k : Nat) : Word :=
  let n (j : Nat) := if h : 4 * k + j < 40 then pointNibble (p.alarms.points.get ⟨4 * k + j, h⟩) else 0
  packWord [(n 0, 0, 4), (n 1, 4, 4), (n 2, 8, 4), (n 3, 12, 4)]

def pointCode : Option (Fin 40) → Nat
  | some k => k.val
  | none => 0xFF

def Plant.unackedAt (p : Plant) (level : Nat) : Nat :=
  allPoints.countP (fun k => p.pointUnacked k && p.pointLevel k == level)

/-- Page 13, alarms. -/
def page13 (s : State) : List Word :=
  let p := s.plant
  ((List.range 10).map (pointWord p)) ++
  [packWord [(pointCode p.alarms.firstOut, 0, 8), (pointCode p.alarms.identity, 8, 8)],
   packWord [(bit p.alarms.aline, 0, 1), (p.alarms.demand.code, 1, 2)],
   packWord [(p.unackedAt 0, 0, 8), (p.unackedAt 1, 8, 8)],
   packWord [(p.unackedAt 2, 0, 8), (p.unackedAt 3, 8, 8)]]

def Transmitter.code : Transmitter → Nat
  | .idle => 0
  | .pending _ => 1
  | .keying _ _ => 2
  | .sending _ => 3

/-- R156: LRTS is raised in KEYING and SENDING. -/
def Transmitter.lrts : Transmitter → Bool
  | .idle => false
  | .pending _ => false
  | .keying _ _ => true
  | .sending _ => true

def Slot.code : Slot → Nat
  | .none => 0
  | .preparing _ => 1
  | .ready _ => 2
  | .held _ => 3

/-- R170: the sends made; with no cycle running 0 (log 63). -/
def cycleSends : Option AlertCycle → Nat
  | some c => c.sends
  | none => 0

def cycleLeft : Option AlertCycle → Nat
  | some c => c.timer.left
  | none => 0

def alertedMarks (l : List (Nat × Bool)) : Nat :=
  match l with
  | [] => 0
  | x :: rest => bit x.2 + 2 * alertedMarks rest

/-- Page 14, link. -/
def page14 (s : State) : List Word :=
  let l := s.link
  let r := s.reporter
  let c := l.counts
  let d := r.counts
  [packWord [(l.tx.code, 0, 2), (l.rx.state.code, 2, 2), (bit l.tx.lrts, 4, 1), (bit l.ldcd, 5, 1),
     (bit (!r.linkUp), 6, 1), (r.slot.code, 7, 2), (bit r.waiting.isSome, 9, 1), (bit r.cycle.isSome, 10, 1),
     (cycleSends r.cycle, 11, 2), (bit l.pendingS7.isSome, 13, 1)],
   packWord [(l.stationAddress.toNat, 0, 8), (l.rateCode, 8, 3), (bit l.evenParity, 11, 1)],
   BitVec.ofNat 16 l.keyUpDelay] ++
  ([c.good, c.foreign, c.breaks, c.framing, c.parity, c.gap, c.length, c.crc, c.noise, c.discarded,
    d.polls, d.rejected, d.disorders, d.superseded, d.unreadable, d.alerts, r.linkTimer.left,
    r.pollTimer.left, cycleLeft r.cycle].map (BitVec.ofNat 16)) ++
  (match r.gapRecord with
   | some (g, next) => [BitVec.ofNat 16 g] ++ words32 next
   | none => [0, 0, 0]) ++
  words32 ((r.urgent.head?.map Prod.fst).getD 0) ++ words32 ((r.urgent.getLast?.map Prod.fst).getD 0) ++
  [packWord [(r.urgent.length, 0, 4), (alertedMarks r.urgent, 8, 8)]]

def commitWord : CommitResult → Word
  | .none => 0
  | .assigned _ => 1
  | .dropped => 2
  | .refused c => packWord [(3, 0, 8), (c.code, 8, 8)]

def commitSeq : CommitResult → Nat
  | .none => 0
  | .assigned n => n
  | .dropped => 0
  | .refused _ => 0

/-- R114: the next offset divided by 2; 0 while the staging is closed (log 46). -/
def stagingPlace : Option (List Word) → Nat
  | some ws => ws.length
  | none => 0

/-- Page 15, log. -/
def page15 (s : State) : List Word :=
  let l := s.log
  words32 l.a ++ words32 l.t ++ words32 l.o ++ words32 l.p ++ words32 l.w ++ words32 l.s ++
  [BitVec.ofNat 16 l.pmiss, BitVec.ofNat 16 l.tmiss, BitVec.ofNat 16 s.capacity,
   packWord [(l.queue.length, 0, 5), (bit l.dropped, 5, 1), (bit l.staging.isSome, 6, 1),
     (stagingPlace l.staging, 8, 4)],
   BitVec.ofNat 16 l.dropCount, commitWord l.lastCommit] ++ words32 (commitSeq l.lastCommit)

/-- Words 1 to 30 of a page, with the pending-correction count of page 0 given. -/
def pageWords (s : State) (count : Nat) (i : Fin 16) : List Word :=
  pageBody
    (match i.val with
     | 0 => page0 s count
     | 1 => page1 s
     | 2 => pumpPage s.plant 0
     | 3 => pumpPage s.plant 1
     | 4 => pumpPage s.plant 2
     | 5 => pumpPage s.plant 3
     | 6 => pumpPage s.plant 4
     | 7 => pumpPage s.plant 5
     | 8 => rakePage s.plant 0
     | 9 => rakePage s.plant 1
     | 10 => weirPage s.plant 0
     | 11 => weirPage s.plant 1
     | 12 => weirPage s.plant 2
     | 13 => page13 s
     | 14 => page14 s
     | _ => page15 s)

/-- R136: the snapshot of a page under a generation count: 64 bytes with the check word last. -/
def pageImage (s : State) (i : Fin 16) (gen : Word) : List Byte :=
  let body := gen :: pageWords s s.plant.corr.length i
  wordsBytes (body ++ [checkWord body])

/-- A page shows something else than before. No block marks a page for the pending-correction count. -/
def pageChanged (s t : State) (i : Fin 16) : Bool := pageWords s 0 i != pageWords t 0 i

/-- The pages that show something else in `t` than in `s` are marked dirty in `t` (R62, R106, R122, R136). -/
def markChanged (s t : State) : State :=
  if t.plant.loading then t
  else { t with deposits :=
    { t.deposits with dirty := Vector.ofFn (fun i => t.deposits.dirty.get i || pageChanged s t i) } }

/-- The page of the pump, screen or weir that a source code names. -/
def sourcePage (source : Byte) : List (Fin 16) :=
  (allPumps.filter (fun n => srcPump n == source)).map pumpPageNumber ++
    (allRakes.filter (fun n => srcScreen n == source)).map (fun n => ⟨8 + n.val, by omega⟩) ++
    (allWeirs.filter (fun n => srcWeir n == source)).map (fun n => ⟨10 + n.val, by omega⟩)

/-- The pages that the change an entry records marks dirty, whatever follows in the same event (R18, R24, R33, R35, R63,
R79, R96 to R98). Claims, outputs, pumps and rakes mark their own pages as they change. -/
def Draft.pages (d : Draft) : List (Fin 16) :=
  if d.source = srcAlarm then [13]
  else if d.source = srcMode then [0]
  else sourcePage d.source

/-- The pages of the changes that the step's entries record, and those that the step has marked itself, are marked
dirty. -/
def markEntries (s : State) : State :=
  if s.plant.loading then s
  else { s with deposits :=
    { s.deposits with dirty := Vector.ofFn (fun i =>
        s.deposits.dirty.get i || s.plant.out.any (fun d => d.pages.contains i) || s.plant.marks.contains i) } }

/-- The marks that a step has made in the plant have been taken: those of before it are there again. -/
def takeMarks (s t : State) : State := { t with plant := { t.plant with marks := s.plant.marks } }

/-- The end of a command that took the part from `s` to `t`: the pages of the changes that its entries record are
marked, the log unit takes the entries in the order they were handed, and the pages that show a change are marked. -/
def finish (s t : State) : State := markChanged s (takeMarks s (flush (markEntries t)))

end Sys2Proof.Machine
end

