-- ==== Sys2Proof/WellFormed.lean ====
section
/-! DEFINITION. Which commands are spellings of their row: the checks that the operand types leave open. -/

namespace Sys2Proof

/-- The nineteen input lines of 01 section 1.1: F6 to F17 and F22 to F28. -/
def isInputLine (l : Fin 30) : Bool :=
  (6 ≤ l.val && l.val ≤ 17) || (22 ≤ l.val && l.val ≤ 28)

/-- R99: the acknowledge values that name a point, a level or all points. -/
def ackCodeListed (v : Word) : Bool :=
  v.toNat ≤ 0x27 || (0x80 ≤ v.toNat && v.toNat ≤ 0x83) || v.toNat == 0xFF

/-- 09 section 9.1: the section (0 to 7 for S0 to S7, 8 for H) whose words hold the word at this
word offset of a settings range, if any. -/
def sectionAt (offset : Fin 2048) : Option (Fin 9) :=
  let b := 2 * offset.val
  if b < 0x020 then some 8
  else if 0x100 ≤ b && b < 0x180 then some 0
  else if 0x200 ≤ b && b < 0x300 then some 1
  else if 0x300 ≤ b && b < 0x400 then some 2
  else if 0x400 ≤ b && b < 0x480 then some 3
  else if 0x480 ≤ b && b < 0x500 then some 4
  else if 0x500 ≤ b && b < 0x700 then some 5
  else if 0x700 ≤ b && b < 0x800 then some 6
  else if 0x800 ≤ b && b < 0x880 then some 7
  else none

/-- R160: an ALARM_ACK payload judged good. -/
def alarmAckPayloadGood (payload : List Byte) : Bool :=
  payload == [0xFF] ||
    (1 ≤ payload.length && payload.length ≤ 40 && payload.all (fun b => b.toNat ≤ 39))

/-- R160: the frame is valid by its kind (POLL 0x01, ALARM_ACK 0x02, CLOCK_SET 0x03) and payload. -/
def frameValid (kind : Byte) (payload : List Byte) : Bool :=
  if kind = 0x01 then payload.length == 4
  else if kind = 0x02 then alarmAckPayloadGood payload
  else if kind = 0x03 then payload.length == 4
  else false

/-- R160: the frame is taken: valid, and by broadcast only when it is a CLOCK_SET. -/
def frameTaken (broadcast : Bool) (kind : Byte) (payload : List Byte) : Bool :=
  frameValid kind payload && (!broadcast || kind == 0x03)

/-- The command is one that its row describes. -/
def WellFormed : Instr → Bool
  | .rawContactChange line _ => isInputLine line
  | .debounceExpiry line => isInputLine line
  | .pumpReset _ word => word.getLsbD 2
  | .screenRake _ word => word.getLsbD 0
  | .screenReset _ word => word.getLsbD 2
  | .ackBadCode value => !ackCodeListed value
  | .settingsSectionWord _ offset _ _ => (sectionAt offset).isSome
  | .townAlarmAck _ payload => alarmAckPayloadGood payload
  | .frameRejected broadcast kind _ payload => !frameTaken broadcast kind payload
  | _ => true

end Sys2Proof
end

