-- ==== Sys2Proof/Machine/BusOps.lean ====
section
/-! DEFINITION. The bus path: regions and owners of an access, the arbiter, the refusal record, the
grant and completion of an access (08). -/

namespace Sys2Proof.Machine

/-! Accesses. -/

/-- The byte address on PA, bit 0 being 0 (R123). -/
def accessAddress (a : Access) : Nat := 2 * a.wordAddr.toNat

def accessIsWord (a : Access) : Bool := a.lanes == .word

def wordWrite (address : Nat) (data : Word) : Access :=
  { wordAddr := BitVec.ofNat 23 (address / 2), write := true, lanes := .word, data := data }

/-- R129: the data of a write, a byte in its lane and zero in the other. -/
def laneData (lanes : Lanes) (data : Word) : Word :=
  match lanes with
  | .word => data
  | .low => data &&& 0x00FF
  | .high => data &&& 0xFF00

/-- What the port takes of an access: for a write the data of its lanes, for a read none (R123, R129). -/
def normalAccess (a : Access) : Access :=
  { a with data := if a.write then laneData a.lanes a.data else 0 }

/-- A write of the lanes of a word to memory. -/
def writeLanes (m : Memory) (address : Nat) (lanes : Lanes) (data : Word) : Memory :=
  match lanes with
  | .word => m.writeBytes address (wordBytes data)
  | .low => m.write address (data.extractLsb' 0 8)
  | .high => m.write (address + 1) (data.extractLsb' 8 8)

/-- The lanes of a word put over another word: a byte read drives its own lane of PD. -/
def mergeLanes (old new : Word) (lanes : Lanes) : Word :=
  match lanes with
  | .word => new
  | .low => (old &&& 0xFF00) ||| (new &&& 0x00FF)
  | .high => (old &&& 0x00FF) ||| (new &&& 0xFF00)

/-! Regions (R126). Word places are offsets from the window's base divided by 2. -/

inductive Region where
  | plain
  | commandWord (i : Fin 32)
  | commandBeyond
  | status
  | logRing
  | staging (place : Nat)
  | entry (place : Nat)
  | advance
  | portOther
  | shield
  | settings (range : SettingsRange) (offset : Nat)
deriving DecidableEq, Repr

/-- Where an offset of the LOG_PORT window lies (R126). -/
def portRegion (off : Nat) : Region :=
  if off < 0x14 then .staging (off / 2)
  else if 0x40 ≤ off ∧ off < 0x60 then .entry ((off - 0x40) / 2)
  else if 0x70 ≤ off ∧ off < 0x72 then .advance
  else .portOther

def commandRegion (off : Nat) : Region :=
  if h : off / 2 < 32 then .commandWord ⟨off / 2, h⟩ else .commandBeyond

/-- R126: the region an address lies in. -/
def regionOf (t : List Window) (a : Nat) : Region :=
  if 0x0FE000 ≤ a ∧ a < 0x0FF000 then .settings .trial (a - 0x0FE000)
  else if 0x0FF000 ≤ a ∧ a < 0x100000 then .settings .stored (a - 0x0FF000)
  else match t.find? (fun w => w.covers a) with
    | none => .plain
    | some w =>
      match w.kind with
      | .none => .plain
      | .command => commandRegion (a - w.base)
      | .status => .status
      | .logRing => .logRing
      | .logPort => portRegion (a - w.base)
      | .shield => .shield

/-- R99: the command an acknowledge value spells. -/
def ackCommand (v : Word) : Instr :=
  if h : v.toNat < 40 then .ackPoint ⟨v.toNat, h⟩
  else if h : 0x80 ≤ v.toNat ∧ v.toNat < 0x84 then .ackLevel ⟨v.toNat - 0x80, by omega⟩
  else if v = 0xFF then .ackAll
  else .ackBadCode v

/-- R19: the command a mode word's requested field spells. -/
def modeCommand (v : Word) : Instr :=
  let rest := v.extractLsb' 2 14
  match (v.extractLsb' 0 2).toNat with
  | 0 => .modeRequestNone rest
  | 1 => .modeRequestAuto rest
  | 2 => .modeRequestLocal rest
  | _ => .modeRequestBadCode rest

/-- R48: a pump word write is named after the first field it asks for in judging order. -/
def pumpCommand (p : Plant) (n : Fin 6) (v : Word) : Instr :=
  if oosField v != p.pumpOosSet n then .pumpOos n v
  else if Sys2Proof.Machine.resetField v then .pumpReset n v
  else .pumpRun n v

/-- R74: likewise a screen word write; one that asks for nothing is a change of OOS that changes nothing. -/
def screenCommand (p : Plant) (n : Fin 2) (v : Word) : Instr :=
  if oosField v != p.screenOosSet n then .screenOos n v
  else if Sys2Proof.Machine.resetField v then .screenReset n v
  else if rakeField v then .screenRake n v
  else .screenOos n v

/-- R127: the owner's command that a word write to a command word is, none for a spare word. -/
def commandWordCommand (p : Plant) (i : Fin 32) (v : Word) : Option Instr :=
  if i = 0 then some (modeCommand v)
  else if i = 1 then some (.freshnessWrite v)
  else if i = 2 then some (.clockSetLowWrite v)
  else if i = 3 then some (.clockSetHighWrite v)
  else if i = 4 then some (ackCommand v)
  else if h : 8 ≤ i.val ∧ i.val < 14 then some (pumpCommand p ⟨i.val - 8, by omega⟩ v)
  else if h : 16 ≤ i.val ∧ i.val < 18 then some (screenCommand p ⟨i.val - 16, by omega⟩ v)
  else none

/-- R114: the command that a word write to a staging offset is. -/
def stagingCommand (place : Nat) (v : Word) : Instr :=
  if place = 0 then .stagingOpen v
  else if h : 1 ≤ place ∧ place < 9 then .stagingWord ⟨place - 1, by omega⟩ v
  else .stagingCommit v

/-- R138: the command that a write to a settings range is, none for those without an owner command of their own. -/
def settingsCommand (range : SettingsRange) (offset : Nat) (a : Access) : Option Instr :=
  if h : offset / 2 < 2048 then
    if (sectionAt ⟨offset / 2, h⟩).isSome then some (.settingsSectionWord range ⟨offset / 2, h⟩ a.lanes a.data)
    else if !accessIsWord a then none
    else if offset = 0x20 then some (.settingsEnable range a.data)
    else if offset = 0x22 ∧ range = .stored then some (.lockWordWrite a.data)
    else if offset = 0x24 ∧ range = .stored then some (.freezeWordWrite a.data)
    else none
  else none

/-- The byte a byte write carries. -/
def laneByte (a : Access) : Byte :=
  if a.lanes = Lanes.high then a.data.extractLsb' 8 8 else a.data.extractLsb' 0 8

/-- R126, R127, R138: the owner's command that a waiting access is; none for an access that the path
classifier completes by itself (UPSTREAM_GRANT). -/
def ownerCommand (s : State) (a : Access) : Option Instr :=
  match regionOf s.windows (accessAddress a) with
  | .entry place => if a.write then none else if h : place < 16 then some (.logEntryRead ⟨place, h⟩ a.lanes) else none
  | .commandWord i => if a.write && accessIsWord a then commandWordCommand s.plant i a.data else none
  | .staging place =>
    if !a.write then none
    else if accessIsWord a then some (stagingCommand place a.data)
    else if h : place < 10 then some (.stagingByteWrite ⟨place, h⟩ (a.lanes == Lanes.high) (laneByte a)) else none
  | .advance => if a.write && accessIsWord a then some (.logAdvance a.data) else none
  | .settings range offset => if a.write then settingsCommand range offset a else none
  | .plain => none
  | .commandBeyond => none
  | .status => none
  | .logRing => none
  | .portOther => none
  | .shield => none

/-! The refusal record (R129, R130). -/

/-- R130: the refusal repeats the last logged one within 60 s of uptime. -/
def coalesced (p : Plant) (r : RefusalRecord) (address : Nat) (cause : RefusalCause) : Bool :=
  match r.logged with
  | some x => x.cause == cause && x.address == address && decide (p.since x.uptime < 60)
  | none => false

/-- R129, R130: a refusal or a trim is recorded, logged or coalesced, and page 0 is marked dirty. -/
def State.recordRefusal (s : State) (a : Access) (cause : RefusalCause) : State :=
  let r := s.refusals
  let data := laneData a.lanes a.data
  let r1 := { r with
    count := bump r.count
    last := some { address := (accessAddress a), lanes := a.lanes, data := data, cause := cause
                   time := s.plant.clock.station } }
  markPage
    (if coalesced s.plant r (accessAddress a) cause then { s with refusals := { r1 with repeats := bump r.repeats } }
     else
      { s with
        refusals := { r1 with repeats := 0
                              logged := some { cause := cause, address := (accessAddress a)
                                               uptime := s.plant.clock.uptime } }
        plant := s.plant.append srcBus 0x70
          (detail4 (accessAddress a) ++ detail1 (lanesCode a.lanes) ++ detail2 data.toNat ++ detail1 cause.code ++
            detail2 r.repeats) }) 0

/-! The downstream arbiter (R131, R132). -/

/-- The part is outside LOAD. -/
def State.running (s : State) : Bool := s.load == .none

def UpstreamPort.isWaiting : UpstreamPort → Bool
  | .waiting _ => true
  | .idle => false
  | .granted _ _ => false

/-- The upstream port asks while an access is in WAITING, outside LOAD. -/
def State.upstreamAsks (s : State) : Bool := s.running && s.port.isWaiting

/-- The internal members ask outside LOAD, each while it has work (08 section 8.5). -/
def State.memberAsks (s : State) (m : Member) : Bool :=
  s.running &&
    match m with
    | .corrector => !s.plant.corr.isEmpty
    | .logWriter => !s.log.queue.isEmpty
    | .deposit => allPages.any (fun i => s.deposits.dirty.get i)
    | .reader => s.reporter.readReq.isSome

/-- R132: the ring of the internal group. -/
def Member.next : Member → Member
  | .corrector => .logWriter
  | .logWriter => .deposit
  | .deposit => .reader
  | .reader => .corrector

def Member.ring (m : Member) : List Member := [m, m.next, m.next.next, m.next.next.next]

/-- R132: the first waiting member from the rotation position onwards. -/
def State.memberChosen (s : State) : Option Member := s.rotation.ring.find? s.memberAsks

/-- R131: the side granted at a free port. -/
def State.sideChosen (s : State) : Option Side :=
  if s.holder != .free then none
  else match s.upstreamAsks, s.memberChosen.isSome with
    | true, true => if s.lastWinner = .upstream then some .internal else some .upstream
    | true, false => some .upstream
    | false, true => some .internal
    | false, false => none

/-- The arbiter grants the upstream port now. -/
def State.grantsUpstream (s : State) : Bool := s.sideChosen == some .upstream

/-- The arbiter grants this member now. -/
def State.grantsMember (s : State) (m : Member) : Bool :=
  s.sideChosen == some .internal && s.memberChosen == some m

/-- R131, R132: a member takes the port with its burst. -/
def State.grantMember (s : State) (m : Member) (h : Holder) : State :=
  { s with holder := h, lastWinner := .internal, rotation := m.next }

/-! The grant of an access (R123, R128). -/

/-- R123, R124: an access that arrives in IDLE enters WAITING, PRDY withheld. While UPRST is asserted an access that arrives
is ignored, and PRDY is not given for it: the model withholds it until the next completion (log 42). -/
def State.present (s : State) (a : Access) : State :=
  if s.uprst then { s with prdy := false }
  else if s.port = .idle then { s with port := .waiting (normalAccess a), prdy := false }
  else s

/-- R128: what an outcome sends to memory as data. -/
def Verdict.data (v : Verdict) (a : Access) : Word :=
  match v with
  | .rewrite d => d
  | .trim d _ => d
  | .forward => a.data
  | .translate _ => a.data
  | .absorb => a.data
  | .refuse _ => a.data

/-- R128: the address of an outcome's memory cycle. -/
def Verdict.address (v : Verdict) (a : Access) : Nat :=
  match v with
  | .translate x => x
  | .forward => (accessAddress a)
  | .rewrite _ => (accessAddress a)
  | .trim _ _ => (accessAddress a)
  | .absorb => (accessAddress a)
  | .refuse _ => (accessAddress a)

/-- R123, R128: within the grant the access has been judged. One that reaches memory holds the port; the
others complete at once, PRDY given. Refusals and trims are recorded (R129), a REFUSAL entry after those that the
judgment has appended (log 58). -/
def State.judged (s : State) (a : Access) (v : Verdict) : State :=
  let s1 := { s with lastWinner := .upstream, verdict := some v }
  match v with
  | .forward => { s1 with port := .granted a v, holder := .upstream }
  | .rewrite _ => { s1 with port := .granted a v, holder := .upstream }
  | .translate _ => { s1 with port := .granted a v, holder := .upstream }
  | .trim _ cause => ({ s1 with port := .granted a v, holder := .upstream }).recordRefusal a cause
  | .absorb => { s1 with port := .idle, prdy := true }
  | .refuse cause => ({ s1 with port := .idle, prdy := true }).recordRefusal a cause

/-- The waiting access is this one and the arbiter grants it now. -/
def State.granting (s : State) (a : Access) : Bool := s.port == .waiting a && s.grantsUpstream

/-- An owner's command as one step: the access arrives if the port is IDLE, and is judged if the arbiter
grants it; else it stays in WAITING (log 2). -/
def State.accessStep (s : State) (a : Access) (judge : State → State × Verdict) : State :=
  let s1 := s.present a
  if s1.granting (normalAccess a) then
    let (s2, v) := judge s1
    finish s (s2.judged (normalAccess a) v)
  else s1

/-- R134: the shadow place of an address in the first 64 bytes of the COMMAND window. -/
def State.shadowPlace (s : State) (address : Nat) : Option (Fin 32) :=
  match regionOf s.windows address with
  | .commandWord i => some i
  | .plain => none
  | .commandBeyond => none
  | .status => none
  | .logRing => none
  | .staging _ => none
  | .entry _ => none
  | .advance => none
  | .portOther => none
  | .shield => none
  | .settings _ _ => none

/-- R133: at the completion of a write, the word joins the pending-correction set when the data written
differs from its shadow. -/
def State.settleWrite (s : State) (address : Nat) (data : Word) : State :=
  match s.shadowPlace address with
  | some i => if s.plant.shadow.get i = data then s else s.onPlant (fun p => p.queueCorrection i)
  | none => s

/-- R123: the memory cycle of the granted access completes. -/
def State.completeAccess (s : State) (a : Access) (v : Verdict) : State :=
  let address := v.address a
  let s1 := { s with port := .idle, prdy := true, holder := .free }
  if a.write then
    ({ s1 with mem := writeLanes s.mem address a.lanes (v.data a) }).settleWrite address (v.data a)
  else { s1 with pd := mergeLanes s.pd (s.mem.readWord address) a.lanes }

/-! Verdicts of the path classifier itself (R126, R138). -/

/-- R126: a write to a spare word sets its shadow and goes to memory. -/
def State.spareWrite (s : State) (i : Fin 32) (data : Word) : State × Verdict :=
  (s.onPlant (fun p => p.setShadow i data), .forward)

/-- R138: writes to a settings range that have no owner command of their own. -/
def State.settingsVerdict (s : State) (range : SettingsRange) (offset : Nat) (a : Access) : Verdict :=
  if offset = 0x20 ∨ offset = 0x22 ∨ offset = 0x24 then
    (if accessIsWord a then .refuse .notTrial else .refuse .byteWrite)
  else if range = .stored ∧ s.settings.freeze = true then .refuse .frozen
  else .forward

/-- R126: the outcome of an access without an owner command of its own. -/
def State.classify (s : State) (a : Access) : State × Verdict :=
  if !a.write then (s, .forward)
  else match regionOf s.windows (accessAddress a) with
    | .plain => (s, .forward)
    | .commandBeyond => (s, .forward)
    | .commandWord i => if accessIsWord a then s.spareWrite i a.data else (s, .refuse .byteWrite)
    | .status => (s, .refuse .readOnly)
    | .logRing => (s, .refuse .readOnly)
    | .entry _ => (s, .refuse .readOnly)
    | .portOther => (s, .refuse .readOnly)
    | .staging _ => (s, .refuse .orderBroken)
    | .advance => (s, .refuse .byteWrite)
    | .shield => (s, .refuse .shielded)
    | .settings range offset => (s, s.settingsVerdict range offset a)

end Sys2Proof.Machine
end

