-- ==== Sys2Proof/Machine/FieldEvents.lean ====
section
/-! DEFINITION. Field lines, level scans and the clock: the meanings of the commands of 01. -/

namespace Sys2Proof.Machine

/-- Every command takes the part to a next state. -/
abbrev Result := Host.Outcome State Fault Refusal

/-- An event at the blocks of the plant, taken when it can occur (log 1): it acts, the conditions and
claims it leads to are settled, and the entries and pages follow. -/
def State.plantEvent (s : State) (occurs : Bool) (act : Plant → Plant) : State :=
  if occurs then finish s (s.onPlant (fun p => (act p).conclude)) else s

/-- A word write to a command word, by its place in the COMMAND window (R127). -/
def State.commandWrite (s : State) (i : Fin 32) (v : Word) : Access :=
  wordWrite ((s.window .command).base + 2 * i.val) v

/-! Seconds tick (R14, R15, R86). -/

def Pump.tick (q : Pump) : Pump :=
  { q with feedback := q.feedback.tick, minRun := q.minRun.tick, minOff := q.minOff.tick }

def Rake.tick (r : Rake) : Rake :=
  { r with cycle := r.cycle.tick, reverse := r.reverse.tick, interval := r.interval.tick, hold := r.hold.tick }

def Weir.tick (w : Weir) : Weir :=
  { w with startConfirm := w.startConfirm.tick, endConfirm := w.endConfirm.tick }

def Clock.tick (c : Clock) : Clock :=
  { c with uptime := c.uptime + 1, station := c.station + 1, phase := 0, staging := c.staging.tick }

/-- R86: the volume steps come first, in the states the weirs held before the tick; then the clock and
the job timers of the plant take the tick. -/
def Plant.secondsTick (p : Plant) : Plant :=
  let p1 := allWeirs.foldl (fun q n => q.volumeStep n) p
  { p1 with
    clock := p1.clock.tick
    mode := { p1.mode with freshTimer := p1.mode.freshTimer.tick }
    pumps := p1.pumps.map Pump.tick
    stagger := p1.stagger.tick
    rakes := p1.rakes.map Rake.tick
    weirs := p1.weirs.map Weir.tick }

def AlertCycle.tick (c : AlertCycle) : AlertCycle := { c with timer := c.timer.tick }

def Reporter.tick (r : Reporter) : Reporter :=
  { r with linkTimer := r.linkTimer.tick, pollTimer := r.pollTimer.tick, cycle := r.cycle.map AlertCycle.tick }

def Transaction.tick (t : Transaction) : Transaction := { t with idle := t.idle.tick }

def SettingsUnit.tick (u : SettingsUnit) : SettingsUnit := { u with txn := u.txn.map Transaction.tick }

def weirPageNumber (n : Fin 3) : Fin 16 := ⟨10 + n.val, by omega⟩

/-- R15, R86: page 0 and the pages of the weirs that stepped are marked dirty. -/
def State.markTick (before s : State) : State :=
  allWeirs.foldl (fun t n => if (before.plant.weir n).steps then markPage t (weirPageNumber n) else t)
    (markPage s 0)

/-- R14, R15, R86: a seconds tick. Countdowns mark no page. -/
def State.secondsTick (s : State) : State :=
  State.markTick s
    { s with plant := s.plant.secondsTick, settings := s.settings.tick, reporter := s.reporter.tick }

/-- SECONDS_TICK (R15): commanded, it is the tick at which the hundredth 10 ms tick falls (log 6). -/
def execSecondsTick (s : State) : Result := .next s.secondsTick

/-! Field lines (R2, R4). -/

/-- RAW_CONTACT_CHANGE (R2, R5): a sample of an input contact; debouncing runs from the end of LOAD stage 1. -/
def execRawContactChange (line : Fin 30) (contact : Contact) (s : State) : Result :=
  .next
    (if isInputLine line then
      finish s (s.onPlant (fun p => p.sampleContact line contact
        (match s.load with
         | .stage1 _ => false
         | .stage2 _ => true
         | .none => true)))
    else s)

/-- DEBOUNCE_EXPIRY (R2): the stability timer has run out. -/
def execDebounceExpiry (line : Fin 30) (s : State) : Result :=
  .next
    (if isInputLine line && (s.plant.lines.stability.get line).due then
      finish s (s.onPlant (fun p => p.debounce line))
    else s)

/-- R4: the beacon toggles and the next phase of 500 ms starts. -/
def LineUnit.togglePhase (l : LineUnit) : LineUnit :=
  { l with beaconOn := !l.beaconOn, beaconTimer := .ofMs 500 }

/-- BEACON_FLASH_PHASE (R4): a phase of 500 ms of a FLASH demand ends. -/
def execBeaconFlashPhase (s : State) : Result :=
  .next
    (if s.plant.lines.beaconTimer.due then
      finish s (s.onPlant (fun p => { p with lines := p.lines.togglePhase }))
    else s)

/-! Level scans (R6). -/

/-- R6: the period elapses and begins again; a scan starts unless one is in progress. -/
def Plant.scanPeriod (p : Plant) : Plant :=
  let p1 := { p with levels := { p.levels with period := .running scanTicks } }
  if p.levels.scan.isSome then p1 else p1.startScan

/-- SCAN_START (R6). -/
def execScanStart (s : State) : Result :=
  .next (if s.plant.levels.period.due then finish s (s.onPlant Plant.scanPeriod) else s)

/-- EXCHANGE_REPLY (R6): a reply outside a scan changes nothing. -/
def execExchangeReply (reply : Word) (s : State) : Result :=
  .next (finish s (s.onPlant (fun p => p.takeReply reply)))

/-- The exchange in progress has had its 20 ms (R6). -/
def Plant.exchangeDue (p : Plant) : Bool :=
  match p.levels.scan with
  | some sc => sc.timer.due
  | none => false

/-- EXCHANGE_TIMEOUT (R6). -/
def execExchangeTimeout (s : State) : Result :=
  .next (if s.plant.exchangeDue then finish s (s.onPlant Plant.scanFailed) else s)

/-! The clock-set words (R16). -/

/-- R16: the staging timer runs for 10 s. -/
def stagingTime : Nat := 10

def Plant.stageLow (p : Plant) (v : Word) : Plant :=
  { p with clock := { p.clock with stagedLow := some v, staging := .running stagingTime } }

def Plant.dropStaged (p : Plant) : Plant :=
  { p with clock := { p.clock with stagedLow := none, staging := .stopped } }

/-- CLOCK_SET_LOW_WRITE (R16): absorbed; the value is staged. -/
def execClockSetLowWrite (value : Word) (s : State) : Result :=
  .next (s.accessStep (s.commandWrite 2 value) (fun t => (t.onPlant (fun p => p.stageLow value), .absorb)))

/-- R16: the high word sets station time with the staged low word, or is refused. -/
def State.clockSetHigh (s : State) (value : Word) : State × Verdict :=
  match s.plant.clock.stagedLow with
  | some low =>
    (markPage (s.onPlant (fun p => (p.setStationTime (value ++ low) false).dropStaged)) 0, .absorb)
  | none => (s, .refuse .orderBroken)

/-- CLOCK_SET_HIGH_WRITE (R16). -/
def execClockSetHighWrite (value : Word) (s : State) : Result :=
  .next (s.accessStep (s.commandWrite 3 value) (fun t => t.clockSetHigh value))

/-- CLOCK_STAGING_EXPIRY (R16): the staged value is discarded, without a set and without an entry. -/
def execClockStagingExpiry (s : State) : Result :=
  .next (if s.plant.clock.staging.due then s.onPlant Plant.dropStaged else s)

end Sys2Proof.Machine
end

