-- ==== Sys2Proof/Machine/ModeCommands.lean ====
section
/-! DEFINITION. The station mode unit: the meanings of the commands of 02. -/

namespace Sys2Proof.Machine

/-- R19: AUTO is granted from LOCAL while the freshness condition holds and UPRST is inactive. -/
def State.autoAllowed (s : State) : Bool :=
  s.plant.mode.mode == .localControl && s.plant.mode.fresh && !s.uprst

/-- R19: the mode word as it is sent: the requested field given, the other fields the mode unit's. -/
def Plant.setModeWord (p : Plant) (requested : Nat) : Plant :=
  p.setShadow 0 (modeWord requested p.mode.mode p.mode.cause)

/-- R19, LOCAL requested. -/
def Plant.requestLocal (p : Plant) : Plant :=
  if p.mode.mode = .auto then (p.changeMode .localControl .commanded false).conclude else p

/-- R19: a mode word judged by its requested field; the fields current mode and cause are not looked at. -/
def State.judgeMode (s : State) (v : Word) : State × Verdict :=
  let sent (p : Plant) (requested : Nat) : State × Verdict :=
    let q := p.setModeWord requested
    (s.withPlant q, .rewrite (q.shadow.get 0))
  let refused (cause : RefusalCause) : State × Verdict :=
    let q := s.plant.setModeWord 0
    (s.withPlant q, .trim (q.shadow.get 0) cause)
  match (v.extractLsb' 0 2).toNat with
  | 0 => sent s.plant 0
  | 1 =>
    if s.plant.mode.mode = .auto then sent s.plant 1
    else if s.autoAllowed then sent (s.plant.changeMode .auto .none false).conclude 1
    else refused .modeRefused
  | 2 => sent s.plant.requestLocal 2
  | _ => refused .badCode

/-- A write to the mode word. -/
def State.modeWrite (s : State) (v : Word) : State := s.accessStep (s.commandWrite 0 v) (fun t => t.judgeMode v)

/-- MODE_REQUEST_NONE (R19): requested field 0. -/
def execModeRequestNone (rest : BitVec 14) (s : State) : Result := .next (s.modeWrite (rest ++ 0#2))

/-- MODE_REQUEST_AUTO (R19): requested field 1. -/
def execModeRequestAuto (rest : BitVec 14) (s : State) : Result := .next (s.modeWrite (rest ++ 1#2))

/-- MODE_REQUEST_LOCAL (R19): requested field 2. -/
def execModeRequestLocal (rest : BitVec 14) (s : State) : Result := .next (s.modeWrite (rest ++ 2#2))

/-- MODE_REQUEST_BAD_CODE (R19): requested field 3. -/
def execModeRequestBadCode (rest : BitVec 14) (s : State) : Result := .next (s.modeWrite (rest ++ 3#2))

/-- R20: the freshness word is judged and forwarded; its shadow takes the written value. -/
def State.judgeFreshness (s : State) (v : Word) : State × Verdict :=
  (s.onPlant (fun p => (p.setShadow 1 v).freshnessTaken v), .forward)

/-- FRESHNESS_WRITE (R20). -/
def execFreshnessWrite (value : Word) (s : State) : Result :=
  .next (s.accessStep (s.commandWrite 1 value) (fun t => t.judgeFreshness value))

/-- FRESHNESS_EXPIRY (R21). -/
def execFreshnessExpiry (s : State) : Result :=
  .next (s.plantEvent s.plant.mode.freshTimer.due Plant.freshnessLapse)

end Sys2Proof.Machine
end

