-- ==== Sys2Proof/Machine/PumpCommands.lean ====
section
/-! DEFINITION. The pump unit: the judging of pump command words and the meanings of the commands of 03. -/

namespace Sys2Proof.Machine

/-! Judging a pump command word (R48 to R51). -/

/-- R45, R48: OOS as written, acted on when it differs from the shadow. -/
def Plant.judgeOos (p : Plant) (n : Fin 6) (w : Word) : Plant :=
  if oosField w = p.pumpOosSet n then p
  else
    let p1 := p.setShadow (pumpWord n) (setBit (p.shadow.get (pumpWord n)) 1 (oosField w))
    if oosField w then p.reexamineAfter (p1.oosSet n) n else p1.oosCleared n

/-- R44: a set RESET, judged on the pump as OOS has left it. -/
def Plant.judgeReset (p : Plant) (n : Fin 6) (w : Word) : Plant × Option RefusalCause :=
  if !Sys2Proof.Machine.resetField w then (p, none)
  else if p.resetRefused n then (p, some .pumpTripped)
  else (p.resetField n, none)

/-- R50: why a set RUN is trimmed, by the first matching row. -/
def Plant.runRefusal (p : Plant) (n : Fin 6) : Option RefusalCause :=
  let st := (p.pump n).state
  if st = .absent then some .pumpAbsent
  else if st = .tripped then some .pumpTripped
  else if st = .outOfService then some .pumpOos
  else if p.lowLowActive then some .dryWell
  else if st = .off ∧ p.atLimit n = true then some .startLimit
  else none

/-- R36, R50: a processor write sets the demand; no correction is queued. -/
def Plant.writeRun (p : Plant) (n : Fin 6) (b : Bool) : Plant :=
  if p.demand n = b then p
  else
    let p1 := p.setShadow (pumpWord n) (setBit (p.shadow.get (pumpWord n)) 0 b)
    if b then p1.demandSet n else p1.demandCleared n

/-- R50 in AUTO, R51 otherwise. -/
def Plant.judgeRun (p : Plant) (n : Fin 6) (w : Word) : Plant × Option RefusalCause :=
  if p.mode.mode ≠ .auto then (p, none)
  else if !runField w then (p.writeRun n false, none)
  else match p.runRefusal n with
    | some cause => (p.writeRun n false, some cause)
    | none => (p.writeRun n true, none)

/-- R48: the shadow word after the write: OOS as written, RESET clear, RUN as decided, the rest as written. -/
def Plant.pumpShadow (p : Plant) (n : Fin 6) (w : Word) : Word := setBit (setBit w 2 false) 0 (p.demand n)

/-- R48: the outcome, by the first rule that applies. -/
def pumpOutcome (pendingAtGrant inLocal : Bool) (refused : Option RefusalCause) (w shadow : Word) : Verdict :=
  match refused with
  | some cause => .trim shadow cause
  | none =>
    if pendingAtGrant then .rewrite shadow
    else if inLocal && runField w != runField shadow then .rewrite shadow
    else .forward

/-- R48: a write to a pump command word, judged OOS, RESET, RUN. -/
def State.judgePump (s : State) (n : Fin 6) (w : Word) : State × Verdict :=
  let (p1, refusedReset) := (s.plant.judgeOos n w).judgeReset n w
  let (p2, refusedRun) := p1.judgeRun n w
  let shadow := p2.pumpShadow n w
  let p3 := (p2.setShadow (pumpWord n) shadow).conclude
  (s.withPlant p3,
    pumpOutcome (decide (pumpWord n ∈ s.plant.corr)) (p2.mode.mode != .auto)
      (match refusedReset with
       | some cause => some cause
       | none => refusedRun) w shadow)

/-- A write to a pump command word. -/
def State.pumpWrite (s : State) (n : Fin 6) (w : Word) : State :=
  s.accessStep (s.commandWrite (pumpWord n) w) (fun t => t.judgePump n w)

/-- PUMP_OOS (R45): the write of a word whose OOS field is to be judged; the word is judged whole (log 3). -/
def execPumpOos (pump : Fin 6) (word : Word) (s : State) : Result := .next (s.pumpWrite pump word)

/-- PUMP_RESET (R44): the write of a word with RESET set; the word is judged whole (log 3). -/
def execPumpReset (pump : Fin 6) (word : Word) (s : State) : Result := .next (s.pumpWrite pump word)

/-- PUMP_RUN (R50, R51): the write of a word whose RUN field is to be judged; the word is judged whole (log 3). -/
def execPumpRun (pump : Fin 6) (word : Word) (s : State) : Result := .next (s.pumpWrite pump word)

/-! The expiries of the pump unit (R14, R37, R40 to R42, R46). -/

/-- R40: the feedback timer has run out in STARTING. -/
def Plant.feedbackDue (p : Plant) (n : Fin 6) : Bool :=
  (p.pump n).state == .starting && (p.pump n).feedback.due

/-- FEEDBACK_TIMEOUT (R40, R43). -/
def execFeedbackTimeout (pump : Fin 6) (s : State) : Result :=
  .next (s.plantEvent (s.plant.feedbackDue pump) (fun p => p.reexamineAfter (p.trip pump .feedback) pump))

def Plant.minRunDue (p : Plant) (n : Fin 6) : Bool := (p.pump n).state == .running && (p.pump n).minRun.due

/-- R41: the minimum run has passed; a deferred stop is made. -/
def Plant.minRunOver (p : Plant) (n : Fin 6) : Plant :=
  let p1 := p.setPump n { p.pump n with minRun := .stopped }
  if (p.pump n).deferred then p1.stopPump n .demand else p1

/-- MINIMUM_RUN_EXPIRY (R41). -/
def execMinimumRunExpiry (pump : Fin 6) (s : State) : Result :=
  .next (s.plantEvent (s.plant.minRunDue pump) (fun p => p.minRunOver pump))

def Plant.minOffDue (p : Plant) (n : Fin 6) : Bool := (p.pump n).state == .resting && (p.pump n).minOff.due

/-- MINIMUM_OFF_EXPIRY (R42). -/
def execMinimumOffExpiry (pump : Fin 6) (s : State) : Result :=
  .next (s.plantEvent (s.plant.minOffDue pump) (fun p => (p.enterOff pump).reexamine))

/-- STAGGER_EXPIRY (R37). -/
def execStaggerExpiry (s : State) : Result :=
  .next (s.plantEvent s.plant.stagger.due (fun p => { p with stagger := .stopped }))

/-- START_HISTORY_AGE_OUT (R46, R47, R56). -/
def execStartHistoryAgeOut (pump : Fin 6) (s : State) : Result :=
  .next (s.plantEvent (s.plant.ageDue pump) (fun p => (p.ageOut pump).reexamine))

end Sys2Proof.Machine
end

