-- ==== Sys2Proof/Machine/ScreenCommands.lean ====
section
/-! DEFINITION. The screen unit: the judging of screen command words and the meanings of the commands of 04. -/

namespace Sys2Proof.Machine

/-- R74, R75: OOS as written, acted on when it differs from the shadow. -/
def Plant.judgeRakeOos (p : Plant) (n : Fin 2) (w : Word) : Plant :=
  if oosField w = p.screenOosSet n then p
  else
    let p1 := p.setShadow (screenWord n) (setBit (p.shadow.get (screenWord n)) 1 (oosField w))
    if oosField w then p1.rakeOosSet n else (p1.rakeOosCleared n).standingTrigger n

/-- R74: a set RESET. -/
def Plant.judgeRakeReset (p : Plant) (n : Fin 2) (w : Word) : Plant :=
  if Sys2Proof.Machine.resetField w && (p.rake n).state == .jammed then (p.rakeReset n).standingTrigger n else p

/-- R65, R74: a set RAKE is a COMMAND trigger in IDLE. -/
def Plant.judgeRake (p : Plant) (n : Fin 2) (w : Word) : Plant :=
  if rakeField w && (p.rake n).state == .idle then p.triggerRake n .command else p

/-- R74: the shadow word after the write: OOS as written, RAKE and RESET clear, the rest as written. -/
def screenShadow (w : Word) : Word := setBit (setBit w 0 false) 2 false

/-- R74: a write to a screen command word, judged OOS, RESET, RAKE. -/
def State.judgeScreen (s : State) (n : Fin 2) (w : Word) : State × Verdict :=
  let p1 := ((s.plant.judgeRakeOos n w).judgeRakeReset n w).judgeRake n w
  let p2 := (p1.setShadow (screenWord n) (screenShadow w)).conclude
  (s.withPlant p2,
    if screenWord n ∈ s.plant.corr then .rewrite (screenShadow w) else .forward)

/-- A write to a screen command word. -/
def State.screenWrite (s : State) (n : Fin 2) (w : Word) : State :=
  s.accessStep (s.commandWrite (screenWord n) w) (fun t => t.judgeScreen n w)

/-- SCREEN_RAKE (R74): the write of a word with RAKE set; the word is judged whole (log 4). -/
def execScreenRake (screen : Fin 2) (word : Word) (s : State) : Result := .next (s.screenWrite screen word)

/-- SCREEN_OOS (R75): the write of a word whose OOS field is to be judged; the word is judged whole (log 4). -/
def execScreenOos (screen : Fin 2) (word : Word) (s : State) : Result := .next (s.screenWrite screen word)

/-- SCREEN_RESET (R74): the write of a word with RESET set; the word is judged whole (log 4). -/
def execScreenReset (screen : Fin 2) (word : Word) (s : State) : Result := .next (s.screenWrite screen word)

/-! The expiries of the screen unit (R66, R69, R70, R73). -/

def Plant.intervalDue (p : Plant) (n : Fin 2) : Bool := (p.rake n).state == .idle && (p.rake n).interval.due

/-- INTERVAL_EXPIRY (R66). -/
def execIntervalExpiry (screen : Fin 2) (s : State) : Result :=
  .next (s.plantEvent (s.plant.intervalDue screen) (fun p => p.triggerRake screen .interval))

def Plant.cycleDue (p : Plant) (n : Fin 2) : Bool := (p.rake n).state == .raking && (p.rake n).cycle.due

/-- CYCLE_TIMEOUT (R70). -/
def execCycleTimeout (screen : Fin 2) (s : State) : Result :=
  .next (s.plantEvent (s.plant.cycleDue screen) (fun p => p.jamRake screen .timeout))

def Plant.reverseDue (p : Plant) (n : Fin 2) : Bool := (p.rake n).state == .reversing && (p.rake n).reverse.due

/-- REVERSE_EXPIRY (R69). -/
def execReverseExpiry (screen : Fin 2) (s : State) : Result :=
  .next (s.plantEvent (s.plant.reverseDue screen) (fun p => p.reverseDone screen))

def Plant.holdDue (p : Plant) (n : Fin 2) : Bool :=
  ((p.rake n).state == .waiting || (p.rake n).state == .suspended) && (p.rake n).hold.due

/-- R73: SCREEN_HELD becomes active; the timer is not restarted. -/
def Plant.holdOver (p : Plant) (n : Fin 2) : Plant := p.setRake n { p.rake n with held := true, hold := .stopped }

/-- HOLD_EXPIRY (R73). -/
def execHoldExpiry (screen : Fin 2) (s : State) : Result :=
  .next (s.plantEvent (s.plant.holdDue screen) (fun p => p.holdOver screen))

end Sys2Proof.Machine
end

