-- ==== Sys2Proof/Machine/WeirCommands.lean ====
section
/-! DEFINITION. The overflow unit: the meanings of the commands of 05. -/

namespace Sys2Proof.Machine

def Plant.startDue (p : Plant) (n : Fin 3) : Bool := (p.weir n).state == .rising && (p.weir n).startConfirm.due

/-- START_CONFIRM_EXPIRY (R80, R83). -/
def execStartConfirmExpiry (weir : Fin 3) (s : State) : Result :=
  .next (s.plantEvent (s.plant.startDue weir) (fun p => p.openRecord weir))

def Plant.endDue (p : Plant) (n : Fin 3) : Bool := (p.weir n).state == .falling && (p.weir n).endConfirm.due

/-- END_CONFIRM_EXPIRY (R81, R85). -/
def execEndConfirmExpiry (weir : Fin 3) (s : State) : Result :=
  .next (s.plantEvent (s.plant.endDue weir) (fun p => p.closeRecord weir))

end Sys2Proof.Machine
end

