-- ==== Sys2Proof/Machine/AlarmCommands.lean ====
section
/-! DEFINITION. The alarm acknowledge word: the meanings of the commands of 06. -/

namespace Sys2Proof.Machine

/-- R99: the points a value names, in ascending order; none for a value of no meaning. -/
def Plant.ackPoints (p : Plant) (v : Word) : Option (List (Fin 40)) :=
  if h : v.toNat < 40 then some [⟨v.toNat, h⟩]
  else if 0x80 ≤ v.toNat ∧ v.toNat < 0x84 then
    some (allPoints.filter (fun k => p.pointUnacked k && p.pointLevel k == v.toNat - 0x80))
  else if v = 0xFF then some (allPoints.filter p.pointUnacked)
  else none

/-- R99: the acknowledge word judged by its whole value. -/
def State.judgeAck (s : State) (v : Word) : State × Verdict :=
  match s.plant.ackPoints v with
  | some ks => (s.onPlant (fun p => p.acknowledge false ks), .absorb)
  | none => (s, .refuse .badCode)

/-- A write to the acknowledge word. -/
def State.ackWrite (s : State) (v : Word) : State := s.accessStep (s.commandWrite 4 v) (fun t => t.judgeAck v)

/-- ACK_POINT (R99): the value is the point's number. -/
def execAckPoint (point : Fin 40) (s : State) : Result := .next (s.ackWrite (BitVec.ofNat 16 point.val))

/-- ACK_LEVEL (R99): the value is 0x80 plus the level. -/
def execAckLevel (level : Fin 4) (s : State) : Result := .next (s.ackWrite (BitVec.ofNat 16 (0x80 + level.val)))

/-- ACK_ALL (R99): the value is 0xFF. -/
def execAckAll (s : State) : Result := .next (s.ackWrite 0x00FF)

/-- ACK_BAD_CODE (R99): any other value. -/
def execAckBadCode (value : Word) (s : State) : Result := .next (s.ackWrite value)

end Sys2Proof.Machine
end

