-- ==== Sys2Proof/Machine/LogCommands.lean ====
section
/-! DEFINITION. The log port's staging, advance word and entry read: the processor's commands of 07. -/

namespace Sys2Proof.Machine

/-- A word write at an offset of the LOG_PORT window. -/
def State.portWrite (s : State) (offset : Nat) (v : Word) : Access := wordWrite ((s.window .logPort).base + offset) v

def State.setStaging (s : State) (staging : Option (List Word)) : State :=
  { s with log := { s.log with staging := staging } }

/-- R114: a word at the next offset is staged; any other abandons an open staging (R116). `place` counts
the staging's words from 0. -/
def State.stageWord (s : State) (place : Nat) (v : Word) : State × Verdict :=
  match s.log.staging with
  | some ws =>
    if ws.length = place then (s.setStaging (some (ws ++ [v])), .absorb)
    else (s.setStaging none, .refuse .orderBroken)
  | none => (s, .refuse .orderBroken)

/-- STAGING_OPEN (R114): offset 0x00 opens or restarts the staging. -/
def execStagingOpen (value : Word) (s : State) : Result :=
  .next (s.accessStep (s.portWrite 0x00 value) (fun t => (t.setStaging (some [value]), .absorb)))

/-- STAGING_WORD (R114): offsets 0x02 to 0x10. -/
def execStagingWord (place : Fin 8) (value : Word) (s : State) : Result :=
  .next (s.accessStep (s.portWrite (2 + 2 * place.val) value) (fun t => t.stageWord (place.val + 1) value))

def State.setLastCommit (s : State) (r : CommitResult) : State := { s with log := { s.log with lastCommit := r } }

/-- R109, R115: the processor's entry is appended, or dropped; its flags are the log unit's own. -/
def State.appendStaged (s : State) (ws : List Word) : State :=
  let result := if s.log.accepts then CommitResult.assigned s.log.a else CommitResult.dropped
  let draft : Draft := { source := srcProcessor, kind := stagedKind ws,
                         detail := (stagedDetail ws).take (stagedLength ws), urgent := false }
  ({ s with log := s.log.append s.plant.clock draft }).setLastCommit result

/-- R115: the ten staged words are judged; the staging closes in every case. Of a kind and a length that are both bad the
kind is judged (log 62). -/
def State.commitStaging (s : State) (ws : List Word) : State × Verdict :=
  let s1 := s.setStaging none
  if (stagedKind ws).toNat < 0x80 || (stagedKind ws).toNat = 0xFF then
    (s1.setLastCommit (.refused .kindReserved), .refuse .kindReserved)
  else if 17 < stagedLength ws then (s1.setLastCommit (.refused .badCode), .refuse .badCode)
  else (s1.appendStaged ws, .absorb)

/-- R114, R115: the write at offset 0x12. -/
def State.judgeCommit (s : State) (v : Word) : State × Verdict :=
  match s.log.staging with
  | some ws => if ws.length = 9 then s.commitStaging (ws ++ [v]) else s.stageWord 9 v
  | none => s.stageWord 9 v

/-- STAGING_COMMIT (R115); at another next offset the write is out of order (R114; log 37). -/
def execStagingCommit (value : Word) (s : State) : Result :=
  .next (s.accessStep (s.portWrite 0x12 value) (fun t => t.judgeCommit value))

/-- A byte write of the word place `place` of the staging. -/
def State.stagingByte (s : State) (place : Fin 10) (highLane : Bool) (value : Byte) : Access :=
  { wordAddr := BitVec.ofNat 23 (((s.window .logPort).base + 2 * place.val) / 2), write := true
    lanes := if highLane then .high else .low
    data := if highLane then value ++ 0#8 else 0#8 ++ value }

/-- STAGING_BYTE_WRITE (R116, R126): refused; an open staging is abandoned. -/
def execStagingByteWrite (place : Fin 10) (highLane : Bool) (value : Byte) (s : State) : Result :=
  .next (s.accessStep (s.stagingByte place highLane value) (fun t => (t.setStaging none, .refuse .orderBroken)))

/-- R118: the advance word. A write of 0 while T − P is 0 is refused (log 51). -/
def State.judgeAdvance (s : State) (k : Word) : State × Verdict :=
  if s.log.t - s.log.p = 0 then (s, .refuse .emptyAdvance)
  else ({ s with log := s.log.advance k.toNat }, .absorb)

/-- LOG_ADVANCE (R118). -/
def execLogAdvance (count : Word) (s : State) : Result :=
  .next (s.accessStep (s.portWrite 0x70 count) (fun t => t.judgeAdvance count))

/-- A read of the word place `place` of the entry at the processor cursor. -/
def State.entryRead (s : State) (place : Fin 16) (lanes : Lanes) : Access :=
  { wordAddr := BitVec.ofNat 23 (((s.window .logPort).base + 0x40 + 2 * place.val) / 2), write := false
    lanes := lanes, data := 0 }

/-- LOG_ENTRY_READ (R117): translated to the slot of P, whatever P and T hold. -/
def execLogEntryRead (place : Fin 16) (lanes : Lanes) (s : State) : Result :=
  .next (s.accessStep (s.entryRead place lanes)
    (fun t => (t, .translate (slotAddress t.windows t.log.p + 2 * place.val))))

end Sys2Proof.Machine
end

