-- ==== Sys2Proof/Machine/LinkOps.lean ====
section
/-! DEFINITION. The link line: characters, the frame receiver, the CRC, the transmitter and S7 (10). -/

namespace Sys2Proof.Machine

/-! The CRC-16 (R153). -/

/-- R153: one shift of the CRC register. -/
def crcShift (r : BitVec 16) : BitVec 16 := if r.getLsbD 15 then (r <<< 1) ^^^ 0x1021#16 else r <<< 1

/-- R153: a byte is combined into the high bits, then eight shifts follow. -/
def crcByte (r : BitVec 16) (b : Byte) : BitVec 16 :=
  crcShift (crcShift (crcShift (crcShift (crcShift (crcShift (crcShift (crcShift (r ^^^ (b ++ 0#8)))))))))

/-- R153: the register over a list of bytes from 0xFFFF. -/
def crc16 (bytes : List Byte) : BitVec 16 := bytes.foldl crcByte 0xFFFF#16

/-! Characters (R152). -/

inductive Judgment where
  | good
  | breakLine
  | framing
  | parity
deriving DecidableEq, Repr

/-- The count of ones in a byte is odd. -/
def oddOnes (b : Byte) : Bool := ((List.range 8).countP (fun i => b.getLsbD i)) % 2 == 1

/-- R152: the first case that applies. -/
def judgeChar (evenParity : Bool) (c : LineChar) : Judgment :=
  if c.data = 0 ∧ c.stopBit = false ∧ (evenParity = true → c.parityBit = false) then .breakLine
  else if !c.stopBit then .framing
  else if evenParity && (oddOnes c.data != c.parityBit) then .parity
  else .good

/-! The frame receiver (R153 to R155). -/

/-- R154: the gap limit in bit periods. -/
def Link.gapLimit (l : Link) : Nat := if l.evenParity then 44 else 40

/-- R154: the receiver returns to HUNT, what it had gathered discarded. -/
def Receiver.toHunt (r : Receiver) : Receiver :=
  { r with state := .hunt, header := [], payload := [], crcHigh := none, gap := none }

def Link.hunt (l : Link) : Link := { l with rx := l.rx.toHunt }

def Link.count (l : Link) (f : LinkCounts → LinkCounts) : Link := { l with counts := f l.counts }

/-- R154: the count of an abandonment's cause. -/
def LinkCounts.lineError (c : LinkCounts) : Judgment → LinkCounts
  | .good => c
  | .breakLine => { c with breaks := bump c.breaks }
  | .framing => { c with framing := bump c.framing }
  | .parity => { c with parity := bump c.parity }

/-- R153: a good character in HUNT. -/
def Link.huntChar (l : Link) (b : Byte) : Link :=
  if b = 0xC3 then
    { l with rx := { l.rx with state := .header, crc := 0xFFFF, header := [], payload := [], crcHigh := none
                               gap := some l.gapLimit } }
  else l

/-- R153: the length byte leads on to PAYLOAD or CHECK, or the frame is abandoned. -/
def Link.afterLength (l : Link) (b : Byte) : Link :=
  if 96 < b.toNat then l.hunt.count (fun c => { c with length := bump c.length })
  else { l with rx := { l.rx with state := if b = 0 then .check else .payload } }

/-- R153: a good character in HEADER. -/
def Link.headerChar (l : Link) (b : Byte) : Link :=
  let l1 := { l with rx := { l.rx with header := l.rx.header ++ [b], crc := crcByte l.rx.crc b
                                       gap := some l.gapLimit } }
  if l.rx.header.length = 3 then l1.afterLength b else l1

/-- The length byte of the frame in hand. -/
def Receiver.length (r : Receiver) : Nat := (r.header.getD 3 0).toNat

/-- R153: a good character in PAYLOAD. -/
def Link.payloadChar (l : Link) (b : Byte) : Link :=
  let payload := l.rx.payload ++ [b]
  { l with rx := { l.rx with payload := payload, crc := crcByte l.rx.crc b, gap := some l.gapLimit
                             state := if payload.length = l.rx.length then .check else .payload } }

/-- R155: a good frame is judged by its address. It waits in the inbox (log 31), while the quiet that came with it acts at once
(the model's choice where R157 gives the two no order, log 64). -/
def Link.goodFrame (l : Link) (r : Receiver) : Link :=
  let address := r.header.getD 0 0
  let frame (broadcast : Bool) : TownFrame :=
    { broadcast := broadcast, kind := r.header.getD 1 0, tag := r.header.getD 2 0, payload := r.payload }
  if address = l.stationAddress then
    ({ l with inbox := l.inbox ++ [frame false] }).count (fun c => { c with good := bump c.good })
  else if address = 0 then
    ({ l with inbox := l.inbox ++ [frame true] }).count (fun c => { c with good := bump c.good })
  else l.count (fun c => { c with foreign := bump c.foreign })

/-- R153, R155: a good character in CHECK. -/
def Link.checkChar (l : Link) (b : Byte) : Link :=
  match l.rx.crcHigh with
  | none => { l with rx := { l.rx with crcHigh := some b, gap := some l.gapLimit } }
  | some high =>
    if high ++ b = l.rx.crc then l.hunt.goodFrame l.rx
    else l.hunt.count (fun c => { c with crc := bump c.crc })

/-- R153: a good character by the receiver's state. -/
def Link.goodChar (l : Link) (b : Byte) : Link :=
  match l.rx.state with
  | .hunt => l.huntChar b
  | .header => l.headerChar b
  | .payload => l.payloadChar b
  | .check => l.checkChar b

/-- R152, R154: a character judged BREAK, FRAMING or PARITY. -/
def Link.badChar (l : Link) (j : Judgment) : Link :=
  let l1 := if l.rx.state = .hunt then l.count (fun c => { c with noise := bump c.noise })
    else l.hunt.count (fun c => c.lineError j)
  { l1 with rx := { l1.rx with inBreak := j == .breakLine } }

/-- R152: a character at its stop bit. Until the line is back at mark after a break none is looked for. -/
def Link.receive (l : Link) (c : LineChar) : Link :=
  if l.rx.inBreak then l
  else if c.underRts then l.count (fun k => { k with discarded := bump k.discarded })
  else match judgeChar l.evenParity c with
    | .good => l.goodChar c.data
    | .breakLine => l.badChar .breakLine
    | .framing => l.badChar .framing
    | .parity => l.badChar .parity

/-- R154: the gap timer expires. -/
def Link.gapExpired (l : Link) : Link := l.hunt.count (fun c => { c with gap := bump c.gap })

/-! The transmitter (R156, R157). -/

def Transmitter.isIdle : Transmitter → Bool
  | .idle => true
  | .pending _ => false
  | .keying _ _ => false
  | .sending _ => false

/-- R157: the link line is quiet. -/
def Link.quiet (l : Link) : Bool := l.tx.isIdle && l.rx.state == .hunt

/-- R156: the frame as the link line fills it in when a send request is taken. -/
def Link.frame (l : Link) (owner : TxOwner) (kind tag : Byte) (payload : List Byte) : TxFrame :=
  { address := l.stationAddress, kind := kind, tag := tag, payload := payload, owner := owner }

/-- R156: the characters of a frame on the line. -/
def TxFrame.characters (f : TxFrame) : List Byte :=
  let covered := [f.address, f.kind, f.tag, BitVec.ofNat 8 f.payload.length] ++ f.payload
  let crc := crc16 covered
  [0xC3#8] ++ covered ++ [crc.extractLsb' 8 8, crc.extractLsb' 0 8]

/-- R151: the bits of a character on LTXD in their order, mark being 1: a start bit at space, the data least significant
bit first, with parity EVEN the bit that makes the ones even, and a stop bit at mark. -/
def characterBits (evenParity : Bool) (b : Byte) : List Bool :=
  [false] ++ (List.range 8).map (fun i => b.getLsbD i) ++ (if evenParity then [oddOnes b] else []) ++ [true]

/-- R151, R156: the bits of a frame on LTXD, its characters back to back. -/
def TxFrame.lineBits (evenParity : Bool) (f : TxFrame) : List Bool := f.characters.flatMap (characterBits evenParity)

/-- R151, R156, R159: what LTXD sends: in SENDING the bits of the frame in hand, and else none, the line at mark. A bit
lasts one bit period of the rate in force, which is the line's time (log 36). -/
def Link.ltxd (l : Link) : List Bool :=
  match l.tx with
  | .sending f => f.lineBits l.evenParity
  | .idle => []
  | .pending _ => []
  | .keying _ _ => []

/-- R156: at a tick in PENDING with the receiver in HUNT, LRTS is raised. -/
def Link.keyUp (l : Link) : Link :=
  match l.tx with
  | .pending f =>
    if l.rx.state = .hunt then
      { l with tx := if l.keyUpDelay = 0 then .sending f else .keying f (.ofMs l.keyUpDelay) }
    else l
  | .idle => l
  | .keying _ _ => l
  | .sending _ => l

/-- The key-up timer has run out (R156). -/
def Transmitter.keyDue : Transmitter → Bool
  | .keying _ t => t.due
  | .idle => false
  | .pending _ => false
  | .sending _ => false

/-- R156: KEYING leads on to SENDING. -/
def Transmitter.startSending : Transmitter → Transmitter
  | .keying f _ => .sending f
  | .idle => .idle
  | .pending f => .pending f
  | .sending f => .sending f

/-! S7 (R158). -/

def State.setLink (s : State) (l : Link) : State := { s with link := l }

/-- R158: S7 takes effect at the link line, which hands it to the reporter; page 14 is marked dirty. -/
def State.applyS7 (s : State) (words : List Word) : State :=
  markPage (s.setLink { s.link with s7 := words, pendingS7 := none }) 14

/-- R158: a committed S7 takes effect at once on a quiet line, and is held otherwise. -/
def State.commitS7 (s : State) (words : List Word) : State :=
  if s.link.quiet then s.applyS7 words else s.setLink { s.link with pendingS7 := some words }

/-- R158: a pending S7 takes effect at the first moment the line is quiet. -/
def State.settleS7 (s : State) : State :=
  match s.link.pendingS7 with
  | some words => if s.link.quiet then s.applyS7 words else s
  | none => s

end Sys2Proof.Machine
end

