-- ==== Sys2Proof/Machine/SettingsCommands.lean ====
section
/-! DEFINITION. The settings transaction, locks and freeze: the meanings of the commands of 09. -/

namespace Sys2Proof.Machine

/-- The base of a settings range (09 section 9.1). -/
def rangeBase : SettingsRange → Nat
  | .trial => 0x0FE000
  | .stored => 0x0FF000

/-- R141: the idle timer runs for 10 s. -/
def idleTime : Nat := 10

/-! The enable word (R140). -/

/-- R140: the five judgments, in order. -/
def State.enableRefusal (s : State) (range : SettingsRange) (v : Word) : Option RefusalCause :=
  if s.settings.txn.isSome then some .busy
  else if v.toNat < 0xE000 || 0xE008 < v.toNat then some .badCode
  else if s.settings.freeze then some .frozen
  else if range = .trial ∧ (v.toNat = 0xE000 ∨ v.toNat = 0xE008) then some .notTrial
  else if s.settings.lock.getLsbD (v.toNat - 0xE000) then some .locked
  else none

/-- R140: the transaction as it opens. -/
def openTransaction (range : SettingsRange) (sec : Fin 9) : Transaction :=
  { range := range, sec := sec, next := sectionOffset sec, received := 0, forwarded := 0, staging := []
    idle := .running idleTime }

/-- The section an enable value names. -/
def enabledSection (v : Word) : Fin 9 := ⟨(v.toNat - 0xE000) % 9, Nat.mod_lt _ (by decide)⟩

/-- R140: the enable word judged. -/
def State.judgeEnable (s : State) (range : SettingsRange) (v : Word) : State × Verdict :=
  match s.enableRefusal range v with
  | some cause => (s, .refuse cause)
  | none =>
    (markPage { s with settings := { s.settings with txn := some (openTransaction range (enabledSection v)) } } 0,
      .absorb)

/-- SETTINGS_ENABLE (R140). -/
def execSettingsEnable (range : SettingsRange) (value : Word) (s : State) : Result :=
  .next (s.accessStep (wordWrite (rangeBase range + 0x20) value) (fun t => t.judgeEnable range value))

/-! Section words (R141 to R143). -/

/-- R143: a complete staging copy is committed, or abandoned with CHECK or CONTENT. -/
def State.commitTransaction (s : State) (t : Transaction) : State :=
  if !blockValid t.staging then (s.onPlant (fun p => p.abandonSection t .check)).closeTxn t .check
  else if !contentGood t.sec t.staging then (s.onPlant (fun p => p.abandonSection t .content)).closeTxn t .content
  else
    let s1 := (s.onPlant (fun p => p.commitSection s.windows t.sec t.range t.staging)).closeTxn t .commit
    if t.sec = 7 then s1.commitS7 t.staging
    else if t.sec = 6 then markPage s1 13
    else s1

/-- R141: an accepted word joins the staging copy. -/
def Transaction.accept (t : Transaction) (v : Word) : Transaction :=
  { t with
    staging := t.staging ++ [v], received := t.received + 1, next := t.next + 2, idle := .running idleTime
    forwarded := match t.range with
      | .stored => t.forwarded + 1
      | .trial => t.forwarded }

/-- R141: the write is accepted. -/
def Transaction.accepts (t : Transaction) (range : SettingsRange) (offset : Fin 2048) (lanes : Lanes) : Bool :=
  lanes == .word && sectionAt offset == some t.sec && 2 * offset.val == t.next && range == t.range

/-- R141: where an accepted word goes. -/
def Transaction.verdict (t : Transaction) : Verdict :=
  match t.range with
  | .stored => .forward
  | .trial => .absorb

/-- R138, R141: a write to a section word. -/
def State.judgeSectionWord (s : State) (range : SettingsRange) (offset : Fin 2048) (lanes : Lanes) (v : Word) :
    State × Verdict :=
  match s.settings.txn with
  | none => (s, .refuse .noTransaction)
  | some t =>
    if t.accepts range offset lanes then
      let t1 := t.accept v
      let s1 := markPage { s with settings := { s.settings with txn := some t1 } } 0
      (if t1.received = sectionLength t.sec then s1.commitTransaction t1 else s1, t.verdict)
    else (s.abandonTxn .orderBroken, .refuse .orderBroken)

/-- A write to a word of a settings range. -/
def settingsAccess (range : SettingsRange) (offset : Fin 2048) (lanes : Lanes) (v : Word) : Access :=
  { wordAddr := BitVec.ofNat 23 ((rangeBase range + 2 * offset.val) / 2), write := true, lanes := lanes, data := v }

/-- SETTINGS_SECTION_WORD (R141); an offset in no section spells no section word and changes nothing (log 1). -/
def execSettingsSectionWord (range : SettingsRange) (offset : Fin 2048) (lanes : Lanes) (value : Word) (s : State) :
    Result :=
  .next
    (if (sectionAt offset).isSome then
      s.accessStep (settingsAccess range offset lanes value) (fun t => t.judgeSectionWord range offset lanes value)
    else s)

/-! Locks and freeze (R146, R147). -/

/-- R146: the new mask replaces the old one; a change is logged. -/
def State.setLock (s : State) (mask : BitVec 9) : State :=
  if mask = s.settings.lock then s
  else
    markPage
      (({ s with settings := { s.settings with lock := mask } }).onPlant
        (fun p => p.append srcSettings 0x63 (detail2 s.settings.lock.toNat ++ detail2 mask.toNat))) 0

/-- R146: the lock word judged. -/
def State.judgeLock (s : State) (v : Word) : State × Verdict :=
  if s.settings.txn.isSome then (s, .refuse .busy)
  else if s.settings.freeze then (s, .refuse .frozen)
  else if v.extractLsb' 9 7 ≠ 0x40#7 then (s, .refuse .badCode)
  else (s.setLock (v.extractLsb' 0 9), .absorb)

/-- LOCK_WORD_WRITE (R146). -/
def execLockWordWrite (value : Word) (s : State) : Result :=
  .next (s.accessStep (wordWrite (rangeBase .stored + 0x22) value) (fun t => t.judgeLock value))

/-- R147: freeze becomes set. -/
def State.setFreeze (s : State) : State :=
  markPage
    (({ s with settings := { s.settings with freeze := true } }).onPlant
      (fun p => p.append srcSettings 0x64 (detail2 s.settings.lock.toNat))) 0

/-- R147: the freeze word judged. -/
def State.judgeFreeze (s : State) (v : Word) : State × Verdict :=
  if s.settings.txn.isSome then (s, .refuse .busy)
  else if v ≠ 0x0001 then (s, .refuse .badCode)
  else if s.settings.freeze then (s, .absorb)
  else (s.setFreeze, .absorb)

/-- FREEZE_WORD_WRITE (R147). -/
def execFreezeWordWrite (value : Word) (s : State) : Result :=
  .next (s.accessStep (wordWrite (rangeBase .stored + 0x24) value) (fun t => t.judgeFreeze value))

/-- The idle timer of the open transaction has run out (R142). -/
def State.idleDue (s : State) : Bool :=
  match s.settings.txn with
  | some t => t.idle.due
  | none => false

/-- SETTINGS_IDLE_EXPIRY (R142). -/
def execSettingsIdleExpiry (s : State) : Result :=
  .next (if s.idleDue then finish s (s.abandonTxn .timeout) else s)

end Sys2Proof.Machine
end

