-- ==== Sys2Proof/Machine/ReportOps.lean ====
section
/-! DEFINITION. The reporter: the reply slot, reports and their building, the urgent list and the alert
cycle (11). -/

namespace Sys2Proof.Machine

def State.setReporter (s : State) (r : Reporter) : State := { s with reporter := r }

def State.setSlot (s : State) (x : Slot) : State := s.setReporter { s.reporter with slot := x }

def State.countReport (s : State) (f : ReportCounts → ReportCounts) : State :=
  s.setReporter { s.reporter with counts := f s.reporter.counts }

def supersede (c : ReportCounts) : ReportCounts := { c with superseded := bump c.superseded }

/-! The urgent list (R167). -/

/-- R167: at most 8 numbers. -/
def urgentPlaces : Nat := 8

/-- A number put in its place in an ascending list, once. -/
def insertUrgent (n : Nat) : List (Nat × Bool) → List (Nat × Bool)
  | [] => [(n, false)]
  | x :: rest =>
    if n < x.1 then (n, false) :: x :: rest
    else if n = x.1 then x :: rest
    else x :: insertUrgent n rest

/-- R167: a written urgent entry's number joins the list, if there is room. -/
def Reporter.joinUrgent (r : Reporter) (n : Nat) : Reporter :=
  if r.urgent.length < urgentPlaces then { r with urgent := insertUrgent n r.urgent } else r

/-- R167: numbers below a sequence number leave the list. -/
def Reporter.dropUrgent (r : Reporter) (below : Nat) : Reporter :=
  { r with urgent := r.urgent.filter (fun x => below ≤ x.1) }

/-- R167: the reporter reads O, at a build or a send. -/
def State.pruneUrgent (s : State) : State := s.setReporter (s.reporter.dropUrgent s.log.o)

/-! Sending and withdrawing (R156). -/

def Transmitter.owner : Transmitter → Option TxOwner
  | .idle => none
  | .pending f => some f.owner
  | .keying f _ => some f.owner
  | .sending f => some f.owner

/-- R156: a send request, taken when the transmitter is IDLE; none for BUSY. -/
def State.sendFrame (s : State) (owner : TxOwner) (kind tag : Byte) (payload : List Byte) : Option State :=
  if s.link.tx.isIdle then some (s.setLink { s.link with tx := .pending (s.link.frame owner kind tag payload) })
  else none

/-- R161: the reporter asks the link line to send a reply. -/
def State.handReply (s : State) (r : Reply) : State :=
  match s.sendFrame .reply r.kind r.tag r.payload with
  | some t => t.setSlot (.held r)
  | none => s.setSlot (.ready r)

/-- The frame in hand is a PENDING frame of this owner, which a withdrawal takes back (R156). -/
def Transmitter.withdraws (t : Transmitter) (owner : TxOwner) : Bool :=
  match t with
  | .pending f => f.owner == owner
  | .idle => false
  | .keying _ _ => false
  | .sending _ => false

def State.withdrawFrame (s : State) : State := s.setLink { s.link with tx := .idle }

def discardRead (h : Holder) (use : ReadUse) : Holder :=
  match h with
  | .reader seq u live => .reader seq u (live && u != use)
  | .free => .free
  | .upstream => .upstream
  | .corrector w v => .corrector w v
  | .logWriter e => .logWriter e
  | .deposit p image => .deposit p image

/-- R161, R169: an entry read asked for is withdrawn if not yet granted, and its result discarded if it has been. -/
def State.withdrawRead (s : State) (use : ReadUse) : State :=
  { s with
    holder := discardRead s.holder use
    reporter := { s.reporter with readReq := s.reporter.readReq.filter (fun x => x.2 != use) } }

def State.askRead (s : State) (seq : Nat) (use : ReadUse) : State :=
  s.setReporter { s.reporter with readReq := some (seq, use) }

/-! Building a report (R164, R173). -/

/-- The frame kinds the station sends (12.6). -/
def kindReport : Byte := 0x81
def kindIdle : Byte := 0x82
def kindAlert : Byte := 0x83

/-- R164: at most three items and 32 entries examined. -/
def reportItems : Nat := 3
def reportExamined : Nat := 32

/-- R173: the GAP item. -/
def gapItem (count : Nat) : List Byte := entryBytes 0 0xFFFFFFFF#32 srcBus 0x00 0 (detail2 count)

/-- 12.6: an IDLE payload: next, identity, first-out, mode and cause, storm. -/
def State.idlePayload (s : State) (next : Nat) : List Byte :=
  let p := s.plant
  natBytes 4 next ++
    natBytes 1 (pointCode p.alarms.identity) ++ natBytes 1 (pointCode p.alarms.firstOut) ++
    natBytes 1 (p.mode.mode.code + 16 * p.mode.cause.code) ++ natBytes 1 (bit p.mode.storm)

/-- R164: the reply a finished build gives. -/
def State.buildReply (s : State) (b : Build) : Reply :=
  if b.items.isEmpty then
    { kind := kindIdle, tag := b.tag, payload := s.idlePayload b.next, next := b.next, ofPoll := true, gap := b.gap }
  else
    { kind := kindReport, tag := b.tag, payload := natBytes 4 b.next ++ b.items.flatten, next := b.next
      ofPoll := true, gap := b.gap }

/-- R164: the examination stops. -/
def State.buildDone (s : State) (b : Build) : Bool :=
  decide (reportItems ≤ b.items.length) || decide (s.log.t ≤ b.next) || decide (reportExamined ≤ b.examined)

/-- R164: the build goes on to its next entry, or ends with its reply. -/
def State.goOnBuild (s : State) (b : Build) : State :=
  if s.buildDone b then s.handReply (s.buildReply b)
  else (s.setSlot (.preparing b)).askRead b.next .build

/-- R164: a build starts from W under the report mask given, with a GAP item when entries were missed. -/
def State.startBuild (s : State) (tag : Byte) (mask : Word) : State :=
  let s1 := s.pruneUrgent
  let gap := if s1.log.tmiss = 0 then none else some s1.log.tmiss
  s1.goOnBuild
    { tag := tag, mask := mask, gap := gap
      items := match gap with
        | some g => [gapItem g]
        | none => []
      next := s1.log.w, examined := 0 }

/-- The sequence field of a fetched entry. -/
def fetchedSeq (bytes : List Byte) : Nat := bytesNat (bytes.take 4)

/-- R164: the entry's class is masked out by the build's report mask. -/
def Build.masks (b : Build) (bytes : List Byte) : Bool :=
  match kindClass (bytes.getD 9 0) with
  | some cls => !reported b.mask cls
  | none => false

/-- R164: a fetched entry is judged by its sequence field, its check word and its class. A build that restarts keeps its
report mask (R170; log 53). -/
def State.judgeEntry (s : State) (b : Build) (x : Nat) (bytes : List Byte) : State :=
  let passed : Build := { b with next := x + 1, examined := b.examined + 1 }
  if fetchedSeq bytes ≠ x ∧ x < s.log.o then s.startBuild b.tag b.mask
  else if s.log.o ≤ x ∧ (fetchedSeq bytes ≠ x ∨ blockValid (bytesWords bytes) = false) then
    (s.countReport (fun c => { c with unreadable := bump c.unreadable })).goOnBuild passed
  else if b.masks bytes then s.goOnBuild passed
  else s.goOnBuild { passed with items := b.items ++ [bytes] }

/-- R164, R167: the reporter reads O to judge a fetched entry; the urgent numbers below it leave the list. -/
def State.judgeFetched (s : State) (b : Build) (x : Nat) (bytes : List Byte) : State :=
  s.pruneUrgent.judgeEntry b x bytes

/-! The alert cycle (R168, R169). -/

/-- R169: the ALERT that has been asked for is withdrawn, or goes out counted for no cycle. -/
def Transmitter.disown : Transmitter → Transmitter
  | .idle => .idle
  | .pending f => if f.owner = .alert then .idle else .pending f
  | .keying f t => .keying (if f.owner = .alert then { f with owner := .disowned } else f) t
  | .sending f => .sending (if f.owner = .alert then { f with owner := .disowned } else f)

/-- R169: the cycle, if one runs, ends. An ALERT withdrawn leaves the line quiet, and a pending S7 takes effect (R158). -/
def State.endCycle (s : State) : State :=
  if s.reporter.cycle.isSome then
    let s1 := s.withdrawRead .alert
    ((s1.setLink { s1.link with tx := s1.link.tx.disown }).setReporter { s1.reporter with cycle := none }).settleS7
  else s

def State.setPhase (s : State) (phase : AlertPhase) : State :=
  s.setReporter { s.reporter with cycle := s.reporter.cycle.map (fun c => { c with phase := phase }) }

/-- R169: a send is made: the oldest urgent number at or above W is fetched; with none the cycle ends. -/
def State.makeSend (s : State) : State :=
  let s1 := s.pruneUrgent
  match s1.reporter.urgent.find? (fun x => s1.log.w ≤ x.1) with
  | some x => (s1.setPhase (.fetching x.1)).askRead x.1 .alert
  | none => s1.endCycle

/-- R169: the entry of the present send is handed to the link line. -/
def State.handAlert (s : State) (payload : List Byte) : State :=
  match s.sendFrame .alert kindAlert (BitVec.ofNat 8 (cycleSends s.reporter.cycle + 1)) payload with
  | some t => t.setPhase .sending
  | none => s.setPhase (.ready payload)

/-- R169: a fetched entry serves the send, or its number leaves the list and the choice is made again. -/
def State.alertFetched (s : State) (x : Nat) (bytes : List Byte) : State :=
  if fetchedSeq bytes = x then s.handAlert bytes
  else (s.setReporter { s.reporter with urgent := s.reporter.urgent.filter (fun y => y.1 != x) }).makeSend

/-- R168: an urgent number at or above S without the alerted mark. -/
def State.unalerted (s : State) : Bool := s.reporter.urgent.any (fun x => s.log.s ≤ x.1 && !x.2)

/-- R168: all the conditions for a cycle hold. -/
def State.alertAllowed (s : State) : Bool :=
  s.running && s.unalerted && (s.plant.mode.storm || !s.reporter.linkUp) && !s.reporter.pollTimer.isRunning &&
    !s.link.ldcd && s.link.quiet && s.reporter.cycle.isNone && s.reporter.slot == .none

/-- R168: a cycle starts: the numbers at or above S are marked, and the first send is made. -/
def State.startCycle (s : State) : State :=
  (s.setReporter
    { s.reporter with
      urgent := s.reporter.urgent.map (fun x => (x.1, x.2 || s.log.s ≤ x.1))
      cycle := some { sends := 0, phase := .timing, timer := .stopped } }).makeSend

/-- R169: three sends. -/
def alertSends : Nat := 3

/-- R169: the sent indication of an ALERT of the running cycle. -/
def State.alertSent (s : State) : State :=
  match s.reporter.cycle with
  | none => s
  | some c =>
    let s1 := (s.setReporter
      { s.reporter with cycle := some { sends := c.sends + 1, phase := .timing
                                        timer := .running s.link.alertInterval } }).countReport
      (fun k => { k with alerts := bump k.alerts })
    if alertSends ≤ c.sends + 1 then s1.endCycle else s1

/-! Frames from the town (R160 to R165). -/

/-- R163: the gap record is settled against the ack. -/
def State.settleGap (s : State) (inOrder : Bool) (ack : Nat) : State :=
  match s.reporter.gapRecord with
  | none => s
  | some (g, next) =>
    let s1 := s.setReporter { s.reporter with gapRecord := none }
    if inOrder && decide (next ≤ ack) then ({ s1 with log := s1.log.lowerMissed g }).handOverrun else s1

/-- R162, step 4: the ack moves W, or is counted out of order. -/
def State.takeAck (s : State) (inOrder : Bool) (ack : Nat) : State :=
  if inOrder then
    ({ s with log := s.log.setW ack }).setReporter (s.reporter.dropUrgent (s.log.setW ack).w)
  else s.countReport (fun c => { c with disorders := bump c.disorders })

/-- R162: W ≤ ack ≤ S. -/
def LogUnit.ackInOrder (l : LogUnit) (ack : Nat) : Bool := l.w ≤ ack && ack ≤ l.s

/-- R162, step 1 and R166: the link is UP and its timer restarts. -/
def State.linkUp (s : State) : State :=
  (s.setReporter
    { s.reporter with linkUp := true, linkTimer := .running s.link.linkTimeout
                      pollTimer := .running s.link.alertWait
                      counts := { s.reporter.counts with polls := bump s.reporter.counts.polls } }).onPlant
    (fun p => p.hand 38 false)

/-- R162: a valid ADDRESSED POLL is handled. -/
def State.handlePoll (s : State) (tag : Byte) (ack : Nat) : State :=
  let s1 := s.linkUp.endCycle
  let inOrder := s1.log.ackInOrder ack
  ((s1.takeAck inOrder ack).settleGap inOrder ack).startBuild tag s1.link.reportMask

/-- R165: an ALARM_ACK or CLOCK_SET is answered with an IDLE whose next is S. -/
def State.answerIdle (s : State) (tag : Byte) : State :=
  s.handReply
    { kind := kindIdle, tag := tag, payload := s.idlePayload s.log.s, next := s.log.s, ofPoll := false, gap := none }

/-- R165: the points an ALARM_ACK names, in its order; 0xFF names the unacknowledged ones, in ascending number (log 48). -/
def Plant.townPoints (p : Plant) (payload : List Byte) : List (Fin 40) :=
  if payload = [0xFF] then allPoints.filter p.pointUnacked
  else payload.filterMap (fun b => if h : b.toNat < 40 then some ⟨b.toNat, h⟩ else none)

/-- R165. -/
def State.townAcknowledge (s : State) (payload : List Byte) : State :=
  s.onPlant (fun p => p.acknowledge true (p.townPoints payload))

/-- R15, R160, R165: the town sets station time; page 0 is marked dirty. -/
def State.townSetTime (s : State) (payload : List Byte) : State :=
  markPage (s.onPlant (fun p => p.setStationTime (BitVec.ofNat 32 (bytesNat payload)) true)) 0

/-- R161: a valid ADDRESSED frame is handled by its kind. -/
def State.handleFrame (s : State) (f : TownFrame) : State :=
  if f.kind = 0x01 then s.handlePoll f.tag (bytesNat f.payload)
  else if f.kind = 0x02 then (s.townAcknowledge f.payload).answerIdle f.tag
  else (s.townSetTime f.payload).answerIdle f.tag

/-- R161: the frame waits for a reply that cannot be withdrawn; one already waiting is replaced. -/
def State.holdFrame (s : State) (f : TownFrame) : State :=
  let s1 := if s.reporter.waiting.isSome then s.countReport supersede else s
  s1.setReporter { s1.reporter with waiting := some f }

/-- R161: the reply in the slot is abandoned. The slot changes, which marks page 14 (R170). -/
def State.abandonReply (s : State) : State := markPage (((s.withdrawRead .build).setSlot .none).countReport supersede) 14

/-- R161: a valid ADDRESSED frame acts by the slot's state. A held reply withdrawn leaves the line quiet, and a pending
S7 takes effect before the frame is handled (R158). An alert send that waits on the line is not made at that quiet: the frame
is handled and its answer asked for first (the model's choice, log 66). -/
def State.addressed (s : State) (f : TownFrame) : State :=
  match s.reporter.slot with
  | .none => s.handleFrame f
  | .preparing _ => s.abandonReply.handleFrame f
  | .ready _ => s.abandonReply.handleFrame f
  | .held _ => if s.link.tx.withdraws .reply then s.withdrawFrame.settleS7.abandonReply.handleFrame f
    else s.holdFrame f

/-- R160: a good frame is judged by its kind and payload. -/
def State.judgeFrame (s : State) (f : TownFrame) : State :=
  if !frameTaken f.broadcast f.kind f.payload then
    s.countReport (fun c => { c with rejected := bump c.rejected })
  else if f.broadcast then s.townSetTime f.payload
  else s.addressed f

/-- The frame the link line handed over leaves the inbox (log 31). -/
def State.popInbox (s : State) (f : TownFrame) : State :=
  if s.link.inbox.head? = some f then s.setLink { s.link with inbox := s.link.inbox.tail } else s

/-! Sent indications (R161, R169). -/

/-- R161: a waiting frame is handled once the slot is NONE. -/
def State.takeWaiting (s : State) : State :=
  match s.reporter.waiting with
  | some f => (s.setReporter { s.reporter with waiting := none }).handleFrame f
  | none => s

/-- R161: the sent indication of a reply. A waiting frame is handled, and its answer asked for, before an ALERT refused BUSY
is asked for again (log 59) and before the quiet lets a send that waits on the line be made (log 66). -/
def State.replySent (s : State) : State :=
  match s.reporter.slot with
  | .held r =>
    let s1 := if r.ofPoll then { s with log := s.log.setS r.next } else s
    let s2 := match r.gap with
      | some g => s1.setReporter { s1.reporter with gapRecord := some (g, r.next) }
      | none => s1
    (s2.setSlot .none).takeWaiting
  | .none => s
  | .preparing _ => s
  | .ready _ => s

/-- R161, R169: the sent indication of a frame, by whose it is. -/
def State.sentIndication (s : State) (owner : TxOwner) : State :=
  match owner with
  | .reply => s.replySent
  | .alert => s.alertSent
  | .disowned => s

/-! What the link line and the reporter do as soon as they can. -/

/-- R161: a reply in READY is asked for again. -/
def State.settleReply (s : State) : State :=
  match s.reporter.slot with
  | .ready r => if s.link.tx.isIdle then s.handReply r else s
  | .none => s
  | .preparing _ => s
  | .held _ => s

/-- R169: an ALERT refused BUSY is asked for again; a send waiting on the line is made when LDCD is
INACTIVE and the line is quiet, as the event leaves it (log 66). -/
def State.settleAlert (s : State) : State :=
  match s.reporter.cycle with
  | none => s
  | some c =>
    match c.phase with
    | .ready payload => if s.link.tx.isIdle then s.handAlert payload else s
    | .lineWait => if !s.link.ldcd && s.link.quiet then s.makeSend else s
    | .timing => s
    | .fetching _ => s
    | .sending => s

/-- R158, R161, R169: a pending S7, then the reply, then the alert. -/
def State.settle (s : State) : State := s.settleS7.settleReply.settleAlert

end Sys2Proof.Machine
end

