-- ==== Sys2Proof/Machine/LinkCommands.lean ====
section
/-! DEFINITION. The link line: the meanings of the commands of 10. -/

namespace Sys2Proof.Machine

/-- An event at the link line or the reporter, taken when it can occur (log 1). None occurs in LOAD (R159). Where a good
frame ends the event also brings the quiet of R157, and R157 gives the two no order: what waited for the quiet, an alert send
among it, goes first, and the reporter judges the frame in a later step (the model's choice, log 64). -/
def State.linkEvent (s : State) (occurs : Bool) (act : State → State) : State :=
  if s.running && occurs then finish s (act s).settle else s

/-- CHARACTER_RECEIVED (R152 to R155). -/
def execCharacterReceived (char : LineChar) (s : State) : Result :=
  .next (s.linkEvent true (fun t => t.setLink (t.link.receive char)))

/-- GAP_TIMER_EXPIRY (R154): while the gap timer runs; its bit periods are the line's (log 32). -/
def execGapTimerExpiry (s : State) : Result :=
  .next (s.linkEvent s.link.rx.gap.isSome (fun t => t.setLink t.link.gapExpired))

/-- KEY_UP (R156): at a 10 ms tick. -/
def execKeyUp (s : State) : Result := .next (s.linkEvent true (fun t => t.setLink t.link.keyUp))

/-- KEY_UP_EXPIRY (R156). -/
def execKeyUpExpiry (s : State) : Result :=
  .next (s.linkEvent s.link.tx.keyDue (fun t => t.setLink { t.link with tx := t.link.tx.startSending }))

/-- R156: the last stop bit: the transmitter is IDLE; a pending S7 takes effect before the reporter
takes the sent indication (log 40). -/
def State.transmitted (s : State) : State :=
  match s.link.tx with
  | .sending f => ((s.setLink { s.link with tx := .idle }).settleS7).sentIndication f.owner
  | .idle => s
  | .pending _ => s
  | .keying _ _ => s

/-- TRANSMIT_COMPLETE (R156, R161, R169). -/
def execTransmitComplete (s : State) : Result := .next (s.linkEvent true State.transmitted)

/-- LDCD_CHANGE (R157): the sample of a 10 ms tick that finds the pin changed (log 52); in LOAD the pin alone changes,
LDCD being sampled from the end of LOAD (R159). -/
def execLdcdChange (active : Bool) (s : State) : Result :=
  .next ({ s with ldcdPin := active }.linkEvent true (fun t => t.setLink { t.link with ldcd := active }))

/-- LINE_RETURNS_TO_MARK (R152). -/
def execLineReturnsToMark (s : State) : Result :=
  .next (s.linkEvent true (fun t => t.setLink { t.link with rx := { t.link.rx with inBreak := false } }))

end Sys2Proof.Machine
end

