-- ==== Sys2Proof/Machine/ReportCommands.lean ====
section
/-! DEFINITION. The reporter: the meanings of the commands of 11. -/

namespace Sys2Proof.Machine

/-- A good frame reaches the reporter: it leaves the inbox and is judged (R160; log 31). -/
def State.townFrame (s : State) (f : TownFrame) : State :=
  s.linkEvent true (fun t => (t.popInbox f).judgeFrame f)

/-- POLL (R162): a valid ADDRESSED POLL with its ack. -/
def execPoll (tag : Byte) (ack : BitVec 32) (s : State) : Result :=
  .next (s.townFrame { broadcast := false, kind := 0x01, tag := tag, payload := natBytes 4 ack.toNat })

/-- TOWN_ALARM_ACK (R165): an ADDRESSED ALARM_ACK. -/
def execTownAlarmAck (tag : Byte) (payload : List Byte) (s : State) : Result :=
  .next (s.townFrame { broadcast := false, kind := 0x02, tag := tag, payload := payload })

/-- TOWN_CLOCK_SET (R160, R165): a valid CLOCK_SET, ADDRESSED or BROADCAST. -/
def execTownClockSet (broadcast : Bool) (tag : Byte) (time : Time) (s : State) : Result :=
  .next (s.townFrame { broadcast := broadcast, kind := 0x03, tag := tag, payload := natBytes 4 time.toNat })

/-- FRAME_REJECTED (R160). -/
def execFrameRejected (broadcast : Bool) (kind tag : Byte) (payload : List Byte) (s : State) : Result :=
  .next (s.townFrame { broadcast := broadcast, kind := kind, tag := tag, payload := payload })

/-- R166: the link is LOST. -/
def State.linkLost (s : State) : State :=
  (s.setReporter { s.reporter with linkUp := false, linkTimer := .stopped }).onPlant (fun p => p.hand 38 true)

/-- LINK_TIMER_EXPIRY (R166). -/
def execLinkTimerExpiry (s : State) : Result := .next (s.linkEvent s.reporter.linkTimer.due State.linkLost)

/-- POLL_WAIT_EXPIRY (R168). -/
def execPollWaitExpiry (s : State) : Result :=
  .next (s.linkEvent s.reporter.pollTimer.due (fun t => t.setReporter { t.reporter with pollTimer := .stopped }))

/-- ALERT_CYCLE_START (R168). -/
def execAlertCycleStart (s : State) : Result := .next (s.linkEvent s.alertAllowed State.startCycle)

/-- The alert timer has run out (R169). -/
def State.alertDue (s : State) : Bool :=
  match s.reporter.cycle with
  | some c => c.timer.due
  | none => false

/-- R169: the next send is due, and is made once LDCD is INACTIVE and the line is quiet. -/
def State.alertOver (s : State) : State :=
  s.setReporter { s.reporter with cycle := s.reporter.cycle.map (fun c =>
    { c with phase := .lineWait, timer := .stopped }) }

/-- ALERT_TIMER_EXPIRY (R169). -/
def execAlertTimerExpiry (s : State) : Result := .next (s.linkEvent s.alertDue State.alertOver)

end Sys2Proof.Machine
end

