-- ==== Sys2Proof/Machine/BusCommands.lean ====
section
/-! DEFINITION. The memory port: the meanings of the commands of 08, with the grants and completions of
the internal members. -/

namespace Sys2Proof.Machine

/-! The upstream port (R123, R126). -/

/-- UPSTREAM_ACCESS (R123, R124). -/
def execUpstreamAccess (access : Access) (s : State) : Result := .next (s.present access)

/-- R126: the waiting access is granted and has no owner command of its own. -/
def State.classifyWaiting (s : State) : State :=
  match s.port with
  | .waiting a =>
    if s.grantsUpstream && (ownerCommand s a).isNone then
      let (t, v) := s.classify a
      finish s (t.judged a v)
    else s
  | .idle => s
  | .granted _ _ => s

/-- UPSTREAM_GRANT (R126). -/
def execUpstreamGrant (s : State) : Result := .next s.classifyWaiting

/-- R123: memory completes the cycle of the access in GRANTED. -/
def State.completeUpstream (s : State) : State :=
  match s.port with
  | .granted a v => finish s (s.completeAccess a v)
  | .idle => s
  | .waiting _ => s

/-- UPSTREAM_COMPLETE (R123, R133). -/
def execUpstreamComplete (s : State) : Result := .next s.completeUpstream

/-! The corrector (R134). -/

def State.freePort (s : State) : State := { s with holder := .free }

/-- R134: the earliest pending word is taken with its shadow value. -/
def State.grantCorrector (s : State) : State :=
  match s.plant.corr with
  | i :: _ => if s.grantsMember .corrector then s.grantMember .corrector (.corrector i (s.plant.shadow.get i)) else s
  | [] => s

/-- CORRECTOR_GRANT (R134). -/
def execCorrectorGrant (s : State) : Result := .next s.grantCorrector

/-- R134: the word leaves the set if its shadow still equals the value written. -/
def Plant.corrected (p : Plant) (i : Fin 32) (v : Word) : Plant :=
  if p.shadow.get i = v then { p with corr := p.corr.filter (fun j => j != i) } else p

/-- The address of a command word (12.2). -/
def State.commandAddress (s : State) (i : Fin 32) : Nat := (s.window .command).base + 2 * i.val

/-- R134: the correction lands. -/
def State.completeCorrection (s : State) : State :=
  match s.holder with
  | .corrector i v =>
    ({ s with mem := s.mem.writeBytes (s.commandAddress i) (wordBytes v) }.freePort).onPlant (fun p => p.corrected i v)
  | .free => s
  | .upstream => s
  | .logWriter _ => s
  | .deposit _ _ => s
  | .reader _ _ _ => s

/-- CORRECTION_COMPLETE (R134). -/
def execCorrectionComplete (s : State) : Result := .next s.completeCorrection

/-! The log writer (R110, R111). -/

/-- R111: at the grant the oldest entry is retired if the ring is full. -/
def State.retireFull (s : State) : State :=
  if s.log.full s.capacity then ({ s with log := s.log.retire }).handOverrun else s

/-- R110: the entry at the head of the queue is taken. -/
def State.grantLogWriter (s : State) : State :=
  match s.log.queue with
  | e :: _ => if s.grantsMember .logWriter then finish s (s.retireFull.grantMember .logWriter (.logWriter e)) else s
  | [] => s

/-- LOG_WRITE_GRANT (R110, R111). -/
def execLogWriteGrant (s : State) : Result := .next s.grantLogWriter

/-- R167: an urgent entry's number is handed to the reporter. -/
def State.handUrgent (s : State) (e : QueuedEntry) : State :=
  if e.urgent then s.setReporter (s.reporter.joinUrgent e.seq) else s

/-- R110: the entry lies in its slot; it leaves the queue and T rises. -/
def State.completeLogWrite (s : State) : State :=
  match s.holder with
  | .logWriter e =>
    finish s
      (({ s with
          mem := s.mem.writeBytes (slotAddress s.windows e.seq) e.bytes
          log := { s.log with t := s.log.t + 1, queue := s.log.queue.tail } }.freePort).handUrgent e)
  | .free => s
  | .upstream => s
  | .corrector _ _ => s
  | .deposit _ _ => s
  | .reader _ _ _ => s

/-- LOG_WRITE_COMPLETE (R110, R167). -/
def execLogWriteComplete (s : State) : Result := .next s.completeLogWrite

/-! The deposit agent (R136). -/

/-- R136: the pages from the scan position upwards, wrapping after page 15. -/
def scanOrder (start : Nat) : List (Fin 16) :=
  (List.range 16).map (fun k => ⟨(start + k) % 16, Nat.mod_lt _ (by decide)⟩)

/-- R136: the first dirty page from the scan position. -/
def DepositAgent.nextDirty (d : DepositAgent) : Option (Fin 16) := (scanOrder d.scanPos).find? (fun i => d.dirty.get i)

/-- R136: the page leaves the set, its generation count rises, and the scan position moves past it. -/
def DepositAgent.take (d : DepositAgent) (i : Fin 16) : DepositAgent :=
  { dirty := vset d.dirty i false, gen := vset d.gen i (d.gen.get i + 1), scanPos := (i.val + 1) % 16 }

/-- R136: the agent takes a snapshot of the page as its owners hold it. -/
def State.grantDeposit (s : State) : State :=
  match s.deposits.nextDirty with
  | some i =>
    if s.grantsMember .deposit then
      ({ s with deposits := s.deposits.take i }).grantMember .deposit
        (.deposit i (pageImage s i (s.deposits.gen.get i + 1)))
    else s
  | none => s

/-- DEPOSIT_GRANT (R136). -/
def execDepositGrant (s : State) : Result := .next s.grantDeposit

/-- The address of a status page (12.3). -/
def State.pageAddress (s : State) (i : Fin 16) : Nat := (s.window .status).base + 64 * i.val

/-- R136: the page lies in memory. -/
def State.completeDeposit (s : State) : State :=
  match s.holder with
  | .deposit i image => { s with mem := s.mem.writeBytes (s.pageAddress i) image }.freePort
  | .free => s
  | .upstream => s
  | .corrector _ _ => s
  | .logWriter _ => s
  | .reader _ _ _ => s

/-- DEPOSIT_COMPLETE (R136). -/
def execDepositComplete (s : State) : Result := .next s.completeDeposit

/-! The report reader (R132, R164). -/

/-- R164: the entry asked for is being read. -/
def State.grantReader (s : State) : State :=
  match s.reporter.readReq with
  | some (seq, use) =>
    if s.grantsMember .reader then
      (s.setReporter { s.reporter with readReq := none }).grantMember .reader (.reader seq use true)
    else s
  | none => s

/-- REPORT_READER_GRANT (R132). -/
def execReportReaderGrant (s : State) : Result := .next s.grantReader

/-- The 32 bytes of a slot of the ring (R164). -/
def State.slotBytes (s : State) (seq : Nat) : List Byte := s.mem.readBytes (slotAddress s.windows seq) 32

/-- R164, R169: what a fetched entry is for. -/
def State.takeEntry (s : State) (seq : Nat) (use : ReadUse) (bytes : List Byte) : State :=
  match use with
  | .build =>
    match s.reporter.slot with
    | .preparing b => s.judgeFetched b seq bytes
    | .none => s
    | .ready _ => s
    | .held _ => s
  | .alert => s.alertFetched seq bytes

/-- R161, R164, R169: the entry read completes; a result that is no longer wanted is discarded. -/
def State.completeRead (s : State) : State :=
  match s.holder with
  | .reader seq use live =>
    if live then finish s (s.freePort.takeEntry seq use (s.slotBytes seq)).settle else s.freePort
  | .free => s
  | .upstream => s
  | .corrector _ _ => s
  | .logWriter _ => s
  | .deposit _ _ => s

/-- ENTRY_READ_COMPLETE (R164, R169). -/
def execEntryReadComplete (s : State) : Result := .next s.completeRead

end Sys2Proof.Machine
end

