-- ==== Sys2Proof/Machine/Resets.lean ====
section
/-! DEFINITION. The resets and the start-up load: their meanings (R148 to R150 and the reset tables of
the chapters). -/

namespace Sys2Proof.Machine

/-! What a reset cuts off (R110, R124, R132). -/

/-- The address and the bytes that the holder of the port was writing. -/
def State.writing (s : State) : Option (Nat × List Byte) :=
  match s.holder with
  | .free => none
  | .reader _ _ _ => none
  | .corrector i v => some (s.commandAddress i, wordBytes v)
  | .logWriter e => some (slotAddress s.windows e.seq, e.bytes)
  | .deposit i image => some (s.pageAddress i, image)
  | .upstream =>
    match s.port with
    | .granted a v =>
      if a.write then
        match a.lanes with
        | .word => some (v.address a, wordBytes (v.data a))
        | .low => some (v.address a, [(v.data a).extractLsb' 0 8])
        | .high => some (v.address a + 1, [(v.data a).extractLsb' 8 8])
      else none
    | .idle => none
    | .waiting _ => none

/-- The burst in hand writes a block that ends in a check word: a log entry or a page. -/
def Holder.writesBlock : Holder → Bool
  | .logWriter _ => true
  | .deposit _ _ => true
  | .free => false
  | .upstream => false
  | .corrector _ _ => false
  | .reader _ _ _ => false

/-- A word that fails as the check word of the words before it: the free one given, or that with its last bit turned
over where it would pass. -/
def failingCheck (free : Word) (body : List Word) : Word := if free = checkWord body then free ^^^ 1 else free

/-- R110, R132: a block cut off is partly written and fails its check word. Which bytes had landed is free; where none had,
or where those that had would make a valid block, the check word is a free one that fails (log 8). -/
def cutBlock (n : Nat) (m : Memory) (a : Nat) (bytes : List Byte) : Memory :=
  let cut := Memory.writeLanded (Config.cutLanded n) m a 0 bytes
  let words := bytes.length / 2
  if words = 0 || (List.range bytes.length).any (Config.cutLanded n) && !blockValid (cut.readWords a words) then cut
  else cut.writeBytes (a + 2 * (words - 1)) (wordBytes (failingCheck (Config.cutCheck n) (cut.readWords a (words - 1))))

/-- Memory after the burst or cycle in hand is cut off: which of its bytes had landed is free (log 8). -/
def State.cutMemory (s : State) : Memory :=
  match s.writing with
  | some (a, bytes) =>
    if s.holder.writesBlock then cutBlock s.freeCount s.mem a bytes
    else Memory.writeLanded (Config.cutLanded s.freeCount) s.mem a 0 bytes
  | none => s.mem

/-- The free values used by a cut. -/
def State.cutCount (s : State) : Nat := if s.writing.isSome then s.freeCount + 1 else s.freeCount

/-! Power-up and panel reset (R148). -/

/-- R5: the contacts are outside the part: the raw states stay what they are, the debounced states with them. -/
def LineUnit.restart (l : LineUnit) : LineUnit := { LineUnit.reset with raw := l.raw, debounced := l.raw }

/-- R148: every block at its power-up state; station memory, the pins and the contacts are outside the part. -/
def State.powerUp (s : State) : State :=
  { State.reset with
    pending := s.pending, mem := s.cutMemory, freeCount := s.cutCount, uprst := s.uprst, ldcdPin := s.ldcdPin
    plant := { Plant.reset with lines := s.plant.lines.restart } }

/-- POWER_UP (R148). -/
def execPowerUp (s : State) : Result := .next s.powerUp

/-- R14, R15, R16: a panel reset keeps the clock but for the staged value. -/
def Clock.panelReset (c : Clock) : Clock := { c with stagedLow := none, staging := .stopped }

/-- R61: a panel reset keeps a pump's trip uptime, last-start uptime and start history; a history longer than the capacity
that the load then gives is kept whole (R46; log 56). -/
def Pump.panelReset (q : Pump) : Pump :=
  { Pump.reset with tripUptime := q.tripUptime, lastStart := q.lastStart, history := q.history }

/-- R148: as power-up, with what the reset tables keep over a panel reset. -/
def State.panelReset (s : State) : State :=
  let t := s.powerUp
  { t with
    load := .stage1 true, prdy := s.prdy, pd := s.pd
    plant := { t.plant with clock := s.plant.clock.panelReset, pumps := s.plant.pumps.map Pump.panelReset }
    deposits := { t.deposits with gen := s.deposits.gen } }

/-- PANEL_RESET (R148). -/
def execPanelReset (s : State) : Result := .next s.panelReset

/-! Upstream reset (R22, R124). -/

/-- R16, R20, R22: the staged clock value and the freshness condition end. -/
def Plant.endFreshness (p : Plant) : Plant :=
  { p.dropStaged with mode := { p.mode with freshTimer := .stopped, fresh := false } }

/-- R22, R116, R124: what the assertion does in LOAD as well. -/
def State.upstreamDrops (s : State) : State :=
  let s1 := (s.onPlant Plant.endFreshness).setStaging none
  { s1 with
    uprst := true
    port := match s1.port with
      | .waiting _ => .idle
      | .idle => .idle
      | .granted a v => .granted a v }

/-- R22: the UPSTREAM_RESET entry: mode, cause and uptime (R150). -/
def Plant.logUpstreamReset (p : Plant) : Plant :=
  p.append srcSystem 0x03
    (detail1 p.mode.mode.code ++ detail1 p.mode.cause.code ++ detail4 p.clock.uptime.toNat)

/-- R22: LOCAL with cause UPSTREAM, unless the mode is that already. -/
def Plant.upstreamMode (p : Plant) : Plant :=
  if p.mode.mode = .localControl ∧ p.mode.cause = .upstream then p
  else p.changeMode .localControl .upstream true

/-- R22, R142: the assertion of UPRST; one that finds it asserted is no event (log 34). UPSTREAM_RESET comes first, the
settings unit's SETTINGS_ABANDON and point 37 next, the mode unit's MODE_CHANGE and point 35 after them (the model's
choice, log 12). -/
def State.upstreamReset (s : State) : State :=
  if s.uprst then s
  else
    let s1 := s.upstreamDrops
    if s.running then
      finish s (((s1.onPlant Plant.logUpstreamReset).abandonTxn .upstream).onPlant
        (fun p => p.upstreamMode.conclude))
    else s1

/-- UPSTREAM_RESET (R22). -/
def execUpstreamReset (s : State) : Result := .next s.upstreamReset

/-- UPRST_RELEASE (R124). -/
def execUprstRelease (s : State) : Result := .next { s with uprst := false }

/-! LOAD stage 1 (R148). -/

/-- The words of a section as the stored range holds them. -/
def storedSection (m : Memory) (i : Fin 9) : List Word :=
  m.readWords (rangeBase .stored + sectionOffset i) (sectionLength i)

/-- R148: a section judged against its check word and its content; none when it passes. One that fails both keeps cause
CHECK, the order of R143 (the model's choice, log 67). -/
def loadFailure (ws : List Word) (i : Fin 9) : Option KeptDefault :=
  if !blockValid ws then some { sec := i, content := false }
  else if !contentGood i ws then some { sec := i, content := true }
  else none

/-- R148: the failures that the load keeps: H's alone, or those of S0 to S7 in order. -/
def loadFailures (m : Memory) : List KeptDefault :=
  match loadFailure (storedSection m 8) 8 with
  | some k => [k]
  | none => ([0, 1, 2, 3, 4, 5, 6, 7] : List (Fin 9)).filterMap (fun i => loadFailure (storedSection m i) i)

/-- R148: a section is defaulted when H or the section itself has failed. -/
def defaulted (kept : List KeptDefault) (i : Fin 9) : Bool := kept.any (fun k => k.sec == 8 || k.sec == i)

/-- R139, R148: a section's shadow after the load. -/
def loadedShadow (m : Memory) (kept : List KeptDefault) (i : Fin 9) : SettingsShadow :=
  if defaulted kept i then SettingsShadow.reset i
  else { words := storedSection m i, source := .stored, storedDiffers := false, pendingReset := false }

/-- R148: H's initial lock mask, empty when H failed. -/
def loadedLock (x : SettingsShadow) : BitVec 9 :=
  if x.source = .stored then (x.words.getD 2 0).extractLsb' 0 9 else 0

/-- R5: debouncing begins: debounced states as raw, stability timers idle. -/
def LineUnit.startDebounce (l : LineUnit) : LineUnit :=
  { l with debounced := l.raw, stability := Vector.replicate 30 .stopped }

/-- R6, R13: the scan period begins, with the first scan. -/
def Plant.startScans (p : Plant) : Plant :=
  ({ p with levels := { p.levels with period := .running scanTicks } }).startScan

/-- R55, R61, R77: present and absent pumps and rakes by the settings in force. -/
def Plant.placePumps (p : Plant) : Plant :=
  { p with
    pumps := Vector.ofFn (fun n =>
      { p.pump n with state := if p.pumpPresent n then PumpState.resting else PumpState.absent })
    rotation := allPumps.filter p.pumpPresent
    rakes := Vector.ofFn (fun n =>
      { p.rake n with state := if p.rakePresent n then RakeState.idle else RakeState.absent }) }

/-- R5, R6, R148: the plant at the end of stage 1. -/
def Plant.loadSettings (p : Plant) (sections : Vector SettingsShadow 9) : Plant :=
  ({ p with sections := sections, lines := p.lines.startDebounce }).startScans.placePumps

/-- R148: the end of stage 1. -/
def State.loadStage1 (s : State) (panel : Bool) : State :=
  let kept := loadFailures s.mem
  let sections := Vector.ofFn (loadedShadow s.mem kept)
  { s with
    load := .stage2 panel, kept := kept
    windows := windowTable (sections.get 0).words
    settings := { s.settings with lock := loadedLock (sections.get 8) }
    plant := s.plant.loadSettings sections
    link := { s.link with s7 := (sections.get 7).words } }

/-- LOAD_STAGE1_END (R148): while stage 1 lasts. -/
def execLoadStage1End (s : State) : Result :=
  .next
    (match s.load with
     | .stage1 panel => s.loadStage1 panel
     | .stage2 _ => s
     | .none => s)

/-! The end of LOAD (R149, R120, R105). -/

/-- R149: the set of sections S0 to S7 defaulted, one byte with section Si in bit i (log 16). -/
def Plant.defaultedSet (p : Plant) : Nat :=
  (([0, 1, 2, 3, 4, 5, 6, 7] : List (Fin 9)).map (fun i =>
    if (p.sections.get i).source = .default then 2 ^ i.val else 0)).sum

/-- R149: POWER_UP or PANEL_RESET. 12.4 gives 'whether H passed' one byte and the spec gives yes and no no code: 1 is written
for passed and 0 for failed (log 46). -/
def Plant.logStart (p : Plant) (panel : Bool) (capacity oldest tail : Nat) : Plant :=
  p.append srcSystem (if panel then 0x02 else 0x01)
    (detail1 (bit ((p.sections.get 8).source == .stored)) ++ detail1 p.defaultedSet ++ detail2 capacity ++
      detail4 oldest ++ detail4 tail ++ detail4 p.clock.uptime.toNat)

/-- R148, R149: a SETTINGS_DEFAULT entry: section and cause, and for H the mark that all are defaulted (log 33). -/
def keptDetail (k : KeptDefault) : List Byte :=
  detail1 k.sec.val ++ detail1 (if k.content then SettingsResult.content.code else SettingsResult.check.code) ++
    (if k.sec = 8 then detail1 0xFF else [])

def Plant.logDefaults (p : Plant) (kept : List KeptDefault) : Plant :=
  kept.foldl (fun q k => q.append srcSettings 0x62 (keptDetail k)) p

/-- R133: a command word as read, with its self-clearing and demand fields cleared. -/
def loadedShadowWord (i : Fin 32) (w : Word) : Word :=
  if i = 0 then modeWord 0 .localControl .start
  else if 8 ≤ i.val ∧ i.val < 14 then setBit (setBit w 0 false) 2 false
  else if 16 ≤ i.val ∧ i.val < 18 then setBit (setBit w 0 false) 2 false
  else w

/-- R133: the command shadow is built, and the words that differ join the pending-correction set in ascending word number
(log 48). -/
def Plant.buildShadow (p : Plant) (read : Fin 32 → Word) : Plant :=
  { p with
    shadow := Vector.ofFn (fun i => loadedShadowWord i (read i))
    corr := allWords.filter (fun i => loadedShadowWord i (read i) != read i) }

/-- R34: the wet-well condition at the end of LOAD. -/
def Plant.wetWellAtLoad (p : Plant) : Bool :=
  let c := p.levels.channels.get 0
  match c.state, c.value with
  | .good, some v => decide (p.stormLevel ≤ v)
  | _, _ => false

/-- R17, R20, R24, R34: the station mode unit at the end of LOAD. -/
def Plant.startMode (p : Plant) (freshLast : Word) : Plant :=
  let storm := p.wetWellAtLoad || p.floatHighActive
  let p1 := { p with mode :=
    { ModeUnit.reset with
      mode := .localControl, cause := .start, freshLast := freshLast, supply := supplyOf p.onGenerator
      wetWell := p.wetWellAtLoad, floatHigh := p.floatHighActive, storm := storm } }
  if storm then p1.append srcMode 0x11 (detail1 p1.stormBits) else p1

/-- R61: a present pump is out of service or starts its minimum off, and an ACTIVE fault input trips it. -/
def Plant.startPumpUnit (p : Plant) (n : Fin 6) : Plant :=
  if !p.pumpPresent n then p
  else if p.pumpOosSet n then p.setPump n { p.pump n with state := .outOfService }
  else p.enterResting n (p.minOffTime n)

/-- R77: a present rake is out of service or enters IDLE. -/
def Plant.startRakeUnit (p : Plant) (n : Fin 2) : Plant :=
  if !p.rakePresent n then p
  else if p.screenOosSet n then p.setRake n { p.rake n with state := .outOfService }
  else p.enterIdle n

/-- R91, R92: a weir at the end of LOAD, with its resume mark from the log's recovery. -/
def Plant.startWeir (p : Plant) (n : Fin 3) (resume : Bool) : Plant :=
  let p1 := p.setWeir n { p.weir n with resume := resume }
  if !p.weirPresent n then p1
  else
    let p2 := p1.deliverWeir n
    match (p2.weir n).channelGood, (p2.weir n).level with
    | true, some v =>
      if p2.crest n + p2.startMargin n ≤ v then
        p2.setWeir n { p2.weir n with state := .rising, startConfirm := .running (p2.startConfirmTime n) }
      else p2
    | _, _ => p2

/-- R105: the conditions that hold at the end of LOAD. -/
def Plant.conditionAtLoad (p : Plant) (k : Fin 40) : Bool :=
  if h : k.val < 6 then p.tripCondition ⟨k.val, h⟩
  else if h : k.val < 12 then p.limitCondition ⟨k.val - 6, by omega⟩
  else if k.val = 14 then (p.rake 0).blinded
  else if k.val = 15 then (p.rake 1).blinded
  else if h : 21 ≤ k.val ∧ k.val < 29 then p.channelCondition ⟨k.val - 21, by omega⟩
  else if k.val = 29 then p.converterCondition
  else if k.val = 30 then p.mode.wetWell
  else if k.val = 31 then p.floatHighActive
  else if k.val = 32 then p.lowLowActive
  else if k.val = 33 then p.mode.supply == .generator
  else if k.val = 36 then p.defaultedCondition
  else if k.val = 38 then true
  else false

/-- R105: the alarm unit takes the conditions in ascending point number. -/
def Plant.handAll (p : Plant) : Plant := allPoints.foldl (fun q k => q.hand k (p.conditionAtLoad k)) p

/-- R13, R17, R58, R61, R64, R77, R92: the units of the plant at the end of LOAD, in the order of R120's entries. Each
takes the channels it reads as they then stand (log 24). -/
def Plant.startUnits (p : Plant) (resume : Fin 3 → Bool) : Plant :=
  let p1 := allPumps.foldl (fun q n => q.startPumpUnit n) p
  let p2 := ({ p1 with desired := p1.desiredNow }).adopt
  let p3 := allRakes.foldl (fun q n => q.startRakeUnit n) (allRakes.foldl (fun q n => q.takeDifferential n) p2)
  let p4 := allWeirs.foldl (fun q n => q.startWeir n (resume n)) p3
  (p4.serve serveBound).handAll

/-- R91, R120: the log's answer for a weir. -/
def State.resumeAnswer (s : State) (l : LogUnit) (n : Fin 3) : Bool :=
  unmatchedStart s.mem s.windows n l.t (l.t - l.o)

/-- R149: the end of LOAD. -/
def State.loadEnd (s : State) (panel : Bool) : State :=
  let l := recoverLog s.mem s.windows
  let p1 := (s.plant.logStart panel s.capacity l.o l.t).logDefaults s.kept
  let p2 := (p1.buildShadow (fun i => s.mem.readWord (s.commandAddress i))).startMode
    (s.mem.readWord (s.commandAddress 1))
  let p3 := p2.startUnits (s.resumeAnswer l)
  takeMarks s (flush
    { s with
      load := .none, kept := [], log := l, plant := p3
      deposits := { s.deposits with dirty := Vector.replicate 16 true }
      link := { s.link with ldcd := s.ldcdPin } })

/-- LOAD_END (R149): while stage 2 lasts. -/
def execLoadEnd (s : State) : Result :=
  .next
    (match s.load with
     | .stage2 panel => s.loadEnd panel
     | .stage1 _ => s
     | .none => s)

end Sys2Proof.Machine
end

