-- ==== Sys2Proof/Machine/Dispatch.lean ====
section
/-! DEFINITION. The meaning of every command, one arm per constructor of `Instr`. -/

namespace Sys2Proof.Machine

def exec (i : Instr) (s : State) : Host.Outcome State Fault Refusal :=
  match i with
  | .powerUp => Sys2Proof.Machine.execPowerUp s
  | .panelReset => Sys2Proof.Machine.execPanelReset s
  | .upstreamReset => Sys2Proof.Machine.execUpstreamReset s
  | .uprstRelease => Sys2Proof.Machine.execUprstRelease s
  | .loadStage1End => Sys2Proof.Machine.execLoadStage1End s
  | .loadEnd => Sys2Proof.Machine.execLoadEnd s
  | .secondsTick => Sys2Proof.Machine.execSecondsTick s
  | .rawContactChange line contact => Sys2Proof.Machine.execRawContactChange line contact s
  | .debounceExpiry line => Sys2Proof.Machine.execDebounceExpiry line s
  | .beaconFlashPhase => Sys2Proof.Machine.execBeaconFlashPhase s
  | .scanStart => Sys2Proof.Machine.execScanStart s
  | .exchangeReply reply => Sys2Proof.Machine.execExchangeReply reply s
  | .exchangeTimeout => Sys2Proof.Machine.execExchangeTimeout s
  | .clockSetLowWrite value => Sys2Proof.Machine.execClockSetLowWrite value s
  | .clockSetHighWrite value => Sys2Proof.Machine.execClockSetHighWrite value s
  | .clockStagingExpiry => Sys2Proof.Machine.execClockStagingExpiry s
  | .modeRequestNone rest => Sys2Proof.Machine.execModeRequestNone rest s
  | .modeRequestAuto rest => Sys2Proof.Machine.execModeRequestAuto rest s
  | .modeRequestLocal rest => Sys2Proof.Machine.execModeRequestLocal rest s
  | .modeRequestBadCode rest => Sys2Proof.Machine.execModeRequestBadCode rest s
  | .freshnessWrite value => Sys2Proof.Machine.execFreshnessWrite value s
  | .freshnessExpiry => Sys2Proof.Machine.execFreshnessExpiry s
  | .pumpOos pump word => Sys2Proof.Machine.execPumpOos pump word s
  | .pumpReset pump word => Sys2Proof.Machine.execPumpReset pump word s
  | .pumpRun pump word => Sys2Proof.Machine.execPumpRun pump word s
  | .feedbackTimeout pump => Sys2Proof.Machine.execFeedbackTimeout pump s
  | .minimumRunExpiry pump => Sys2Proof.Machine.execMinimumRunExpiry pump s
  | .minimumOffExpiry pump => Sys2Proof.Machine.execMinimumOffExpiry pump s
  | .staggerExpiry => Sys2Proof.Machine.execStaggerExpiry s
  | .startHistoryAgeOut pump => Sys2Proof.Machine.execStartHistoryAgeOut pump s
  | .screenRake screen word => Sys2Proof.Machine.execScreenRake screen word s
  | .screenOos screen word => Sys2Proof.Machine.execScreenOos screen word s
  | .screenReset screen word => Sys2Proof.Machine.execScreenReset screen word s
  | .intervalExpiry screen => Sys2Proof.Machine.execIntervalExpiry screen s
  | .cycleTimeout screen => Sys2Proof.Machine.execCycleTimeout screen s
  | .reverseExpiry screen => Sys2Proof.Machine.execReverseExpiry screen s
  | .holdExpiry screen => Sys2Proof.Machine.execHoldExpiry screen s
  | .startConfirmExpiry weir => Sys2Proof.Machine.execStartConfirmExpiry weir s
  | .endConfirmExpiry weir => Sys2Proof.Machine.execEndConfirmExpiry weir s
  | .ackPoint point => Sys2Proof.Machine.execAckPoint point s
  | .ackLevel level => Sys2Proof.Machine.execAckLevel level s
  | .ackAll => Sys2Proof.Machine.execAckAll s
  | .ackBadCode value => Sys2Proof.Machine.execAckBadCode value s
  | .stagingOpen value => Sys2Proof.Machine.execStagingOpen value s
  | .stagingWord place value => Sys2Proof.Machine.execStagingWord place value s
  | .stagingCommit value => Sys2Proof.Machine.execStagingCommit value s
  | .stagingByteWrite place highLane value => Sys2Proof.Machine.execStagingByteWrite place highLane value s
  | .logAdvance count => Sys2Proof.Machine.execLogAdvance count s
  | .logEntryRead place lanes => Sys2Proof.Machine.execLogEntryRead place lanes s
  | .logWriteGrant => Sys2Proof.Machine.execLogWriteGrant s
  | .logWriteComplete => Sys2Proof.Machine.execLogWriteComplete s
  | .upstreamAccess access => Sys2Proof.Machine.execUpstreamAccess access s
  | .upstreamGrant => Sys2Proof.Machine.execUpstreamGrant s
  | .upstreamComplete => Sys2Proof.Machine.execUpstreamComplete s
  | .correctorGrant => Sys2Proof.Machine.execCorrectorGrant s
  | .correctionComplete => Sys2Proof.Machine.execCorrectionComplete s
  | .depositGrant => Sys2Proof.Machine.execDepositGrant s
  | .depositComplete => Sys2Proof.Machine.execDepositComplete s
  | .reportReaderGrant => Sys2Proof.Machine.execReportReaderGrant s
  | .entryReadComplete => Sys2Proof.Machine.execEntryReadComplete s
  | .settingsEnable range value => Sys2Proof.Machine.execSettingsEnable range value s
  | .settingsSectionWord range offset lanes value => Sys2Proof.Machine.execSettingsSectionWord range offset lanes value s
  | .lockWordWrite value => Sys2Proof.Machine.execLockWordWrite value s
  | .freezeWordWrite value => Sys2Proof.Machine.execFreezeWordWrite value s
  | .settingsIdleExpiry => Sys2Proof.Machine.execSettingsIdleExpiry s
  | .characterReceived char => Sys2Proof.Machine.execCharacterReceived char s
  | .gapTimerExpiry => Sys2Proof.Machine.execGapTimerExpiry s
  | .keyUp => Sys2Proof.Machine.execKeyUp s
  | .keyUpExpiry => Sys2Proof.Machine.execKeyUpExpiry s
  | .transmitComplete => Sys2Proof.Machine.execTransmitComplete s
  | .ldcdChange active => Sys2Proof.Machine.execLdcdChange active s
  | .poll tag ack => Sys2Proof.Machine.execPoll tag ack s
  | .townAlarmAck tag payload => Sys2Proof.Machine.execTownAlarmAck tag payload s
  | .townClockSet broadcast tag time => Sys2Proof.Machine.execTownClockSet broadcast tag time s
  | .frameRejected broadcast kind tag payload => Sys2Proof.Machine.execFrameRejected broadcast kind tag payload s
  | .linkTimerExpiry => Sys2Proof.Machine.execLinkTimerExpiry s
  | .pollWaitExpiry => Sys2Proof.Machine.execPollWaitExpiry s
  | .alertCycleStart => Sys2Proof.Machine.execAlertCycleStart s
  | .alertTimerExpiry => Sys2Proof.Machine.execAlertTimerExpiry s
  | .lineReturnsToMark => Sys2Proof.Machine.execLineReturnsToMark s

end Sys2Proof.Machine
end

