-- ==== Sys2Proof/Machine/IdleOps.lean ====
section
/-! DEFINITION. What the part does when no command waits: the next event that has come about, and else a
10 ms tick (R14; log 5). -/

namespace Sys2Proof.Machine

/-! The events that have come about, in the fixed order of log 5. -/

/-- A frame handed over and not yet judged, as its command (R160). -/
def frameCommand (f : TownFrame) : Instr :=
  if !frameTaken f.broadcast f.kind f.payload then .frameRejected f.broadcast f.kind f.tag f.payload
  else if f.kind = 0x01 then .poll f.tag (BitVec.ofNat 32 (bytesNat f.payload))
  else if f.kind = 0x02 then .townAlarmAck f.tag f.payload
  else .townClockSet f.broadcast f.tag (BitVec.ofNat 32 (bytesNat f.payload))

/-- The command of an access that the arbiter grants now (R123, R126). -/
def State.accessDue (s : State) : Option Instr :=
  match s.port with
  | .waiting a => if s.grantsUpstream then some ((ownerCommand s a).getD .upstreamGrant) else none
  | .idle => none
  | .granted _ _ => none

def Member.command : Member → Instr
  | .corrector => .correctorGrant
  | .logWriter => .logWriteGrant
  | .deposit => .depositGrant
  | .reader => .reportReaderGrant

/-- The grant the arbiter makes now (R131, R132). -/
def State.grantDue (s : State) : Option Instr :=
  match s.accessDue with
  | some c => some c
  | none => (([.corrector, .logWriter, .deposit, .reader] : List Member).find? s.grantsMember).map Member.command

/-- The first member of a group for which an event is due. -/
def firstDue {α : Type} (group : List α) (due : α → Bool) (command : α → Instr) : Option Instr :=
  (group.find? due).map command

def dueIf (due : Bool) (c : Instr) : Option Instr := if due then some c else none

/-- The expiries at the field lines, the level unit, the clock and the station mode unit. -/
def State.stationDue (s : State) : List (Option Instr) :=
  let p := s.plant
  [dueIf p.lines.beaconTimer.due .beaconFlashPhase,
   firstDue inputLines (fun l => (p.lines.stability.get l).due) .debounceExpiry,
   dueIf p.exchangeDue .exchangeTimeout,
   dueIf p.levels.period.due .scanStart,
   dueIf p.clock.staging.due .clockStagingExpiry,
   dueIf p.mode.freshTimer.due .freshnessExpiry]

/-- The expiries at the pump, screen and overflow units. -/
def State.plantDue (s : State) : List (Option Instr) :=
  let p := s.plant
  [firstDue allPumps p.ageDue .startHistoryAgeOut,
   firstDue allPumps p.feedbackDue .feedbackTimeout,
   firstDue allPumps p.minRunDue .minimumRunExpiry,
   firstDue allPumps p.minOffDue .minimumOffExpiry,
   dueIf p.stagger.due .staggerExpiry,
   firstDue allRakes p.cycleDue .cycleTimeout,
   firstDue allRakes p.reverseDue .reverseExpiry,
   firstDue allRakes p.holdDue .holdExpiry,
   firstDue allRakes p.intervalDue .intervalExpiry,
   firstDue allWeirs p.startDue .startConfirmExpiry,
   firstDue allWeirs p.endDue .endConfirmExpiry]

/-- The expiries at the settings unit, the link line and the reporter. -/
def State.linkDue (s : State) : List (Option Instr) :=
  [dueIf s.idleDue .settingsIdleExpiry,
   dueIf (s.running && s.link.tx.keyDue) .keyUpExpiry,
   dueIf (s.running && s.reporter.linkTimer.due) .linkTimerExpiry,
   dueIf (s.running && s.reporter.pollTimer.due) .pollWaitExpiry,
   dueIf (s.running && s.alertDue) .alertTimerExpiry,
   dueIf s.alertAllowed .alertCycleStart]

/-- The next event that has come about; none when all is settled. -/
def State.dueEvent (s : State) : Option Instr :=
  match s.link.inbox with
  | f :: _ => some (frameCommand f)
  | [] => (s.stationDue ++ s.plantDue ++ s.linkDue ++ [s.grantDue]).findSome? id

/-! The 10 ms tick (R14). -/

def LineUnit.tick (l : LineUnit) : LineUnit :=
  { l with stability := l.stability.map Timer.tick, beaconTimer := l.beaconTimer.tick }

def Scan.tick (x : Scan) : Scan := { x with timer := x.timer.tick }

def LevelUnit.tick (l : LevelUnit) : LevelUnit :=
  { l with scan := l.scan.map Scan.tick, period := l.period.tick }

def Transmitter.tick : Transmitter → Transmitter
  | .keying f t => .keying f t.tick
  | .idle => .idle
  | .pending f => .pending f
  | .sending f => .sending f

/-- The millisecond timers take the tick, and the tick phase moves on. -/
def State.countTick (s : State) : State :=
  { s with
    plant := { s.plant with lines := s.plant.lines.tick, levels := s.plant.levels.tick
                            clock := { s.plant.clock with phase := s.plant.clock.phase + 1 } }
    link := { s.link with tx := s.link.tx.tick } }

/-- R14: every hundredth 10 ms tick is also a seconds tick. -/
def ticksPerSecond : Nat := 100

/-- R157: LDCD is sampled. -/
def State.sampleLdcd (s : State) : State := s.setLink { s.link with ldcd := s.ldcdPin }

/-- R14, R156, R157: a 10 ms tick; LDCD is sampled, and a frame in PENDING is keyed up if the receiver is in HUNT. -/
def State.tick10 (s : State) : State :=
  let s1 := s.countTick
  let s2 := if ticksPerSecond ≤ s1.plant.clock.phase then s1.secondsTick else s1
  s2.linkEvent true (fun t => t.sampleLdcd.setLink t.sampleLdcd.link.keyUp)

/-- The part with no command waiting. -/
def State.idle (s : State) : Host.Outcome State Fault Refusal :=
  match s.dueEvent with
  | some c => exec c s
  | none => .next s.tick10

/-- `s` with the command that a word spells, if it spells one, in front of its queue. -/
def State.frontWord (s : State) (nbits w : Nat) : State :=
  match decodeTableWord nbits w with
  | some c => { s with pending := c :: s.pending }
  | none => s

end Sys2Proof.Machine
end

