-- ==== Sys2Proof/Machine/Step.lean ====
section
/-! DEFINITION. One step: the command at the front of the queue, or what the part does with none waiting. -/

namespace Sys2Proof.Machine

/-- One step (log 5). -/
def step (s : State) : Host.Outcome State Fault Refusal :=
  match s.pending with
  | c :: rest => exec c { s with pending := rest }
  | [] => s.idle

/-- No row of the table gives bits, so no word spells a command and the queue stays. -/
def State.withFetchWord (s : State) (nbits w : Nat) : State := s.frontWord nbits w

end Sys2Proof.Machine
end

