-- ==== Sys2Proof/Safety.lean ====
section
/-! DEFINITION. The laws of the part that the statements speak of: memory's form, the law of the log (R111),
the claim table (R26), the pumps (R35), the rakes (R63), storm posture (R32) and the alarm outputs (R102, R103); and the
frames: what a command leaves alone. -/

namespace Sys2Proof.Machine

/-! Laws. -/

/-- R111: 1 ≤ O ≤ P ≤ T, O ≤ W ≤ S ≤ T, T − O ≤ C, T ≤ A, A − T ≤ 16. -/
def LogUnit.lawful (l : LogUnit) (capacity : Nat) : Prop :=
  1 ≤ l.o ∧ l.o ≤ l.p ∧ l.p ≤ l.t ∧ l.o ≤ l.w ∧ l.w ≤ l.s ∧ l.s ≤ l.t ∧ l.t - l.o ≤ capacity ∧
    l.t ≤ l.a ∧ l.a - l.t ≤ queuePlaces

/-- R26: the held units do not exceed the present budget. -/
def Plant.withinBudget (p : Plant) : Prop := p.heldUnits ≤ p.budget

/-- R35: at most one pump is in STARTING. -/
def Plant.oneStarting (p : Plant) : Prop :=
  allPumps.countP (fun n => (p.pump n).state == .starting) ≤ 1

/-- R63: a rake's forward and reverse outputs are not ON together. -/
def Plant.outputsApart (p : Plant) (n : Fin 2) : Prop :=
  ¬ (p.outputOn ⟨18 + n.val, by omega⟩ = true ∧ p.outputOn ⟨20 + n.val, by omega⟩ = true)

/-- R26, R63: a rake holds its units exactly while it is in RAKING or REVERSING. -/
def Plant.rakesHold (p : Plant) : Prop :=
  ∀ n, (p.claim (rakeHolder n)).status = .held ↔ (p.rake n).state.inMotion = true

/-- R26, R63, R71: a rake waits for its units exactly while it is in WAITING or SUSPENDED. -/
def Plant.rakesWait (p : Plant) : Prop :=
  ∀ n, (p.claim (rakeHolder n)).status = .waiting ↔ (p.rake n).state = .waiting ∨ (p.rake n).state = .suspended

/-- R32: storm posture is active while any of its three conditions is true, and the overflow condition is true while any
weir has a record open. -/
structure Plant.PostureLaw (p : Plant) : Prop where
  storm    : p.mode.storm = (p.mode.wetWell || p.mode.overflow || p.mode.floatHigh)
  overflow : p.mode.overflow = p.anyRecordOpen

/-- R32: posture is what its law says, and this event, that takes `p` to `q`, leaves each of its conditions as it found it:
the wet-well condition, the high float, and which weirs have a record open. A level-updated event, in which the well and
each weir are judged once, then moves none of them on its way. -/
structure Plant.SamePosture (p q : Plant) : Prop where
  law       : p.PostureLaw
  wetWell   : q.mode.wetWell = p.mode.wetWell
  floatHigh : q.mode.floatHigh = p.mode.floatHigh
  records   : ∀ n, (q.weir n).openRecord.isSome = (p.weir n).openRecord.isSome

/-- The laws of the plant: the pumps and the start queue (R35, R38, R60), the claim table (R26, R27), the rakes (R63,
R76), storm posture (R32), what the alarm unit makes of its points (R101 to R103), and the stillness of LOAD (R17, R61,
R77, R105). -/
structure Plant.Lawful (p : Plant) : Prop where
  absent    : (∀ n, p.pumpPresent n = false → (p.pump n).state = .absent) ∧
    ∀ n, p.rakePresent n = false → (p.rake n).state = .absent
  starting  : p.oneStarting
  pumps     : ∀ n, (p.claim (pumpHolder n)).status = .held ↔ (p.pump n).state.inMotion = true
  queue     : p.queue.Nodup ∧ ∀ n, n ∈ p.queue → (p.pump n).state = .off
  waiting   : ∀ n, (p.claim (pumpHolder n)).status = .waiting →
    p.queue.head? = some n ∧ ∀ m, (p.pump m).state ≠ .starting
  rakes     : p.rakesHold
  rakesWait : p.rakesWait
  posture   : p.PostureLaw
  apart     : ∀ n, p.outputsApart n
  budget    : p.withinBudget
  identity  : p.alarms.identity = p.identityNow
  aline     : p.alarms.aline = p.alineNow
  demand    : p.alarms.demand = p.demandNow
  load      : p.loading = true → (∀ n, (p.claim (pumpHolder n)).status = .none) ∧
    (∀ n, (p.claim (rakeHolder n)).status ≠ .held) ∧
    ∀ k, p.alarms.points.get k = { condition := false, state := .normal }

/-- Memory is in its canonical form, every entry handed in a step has reached the log unit (R109), the laws of the plant
hold, and LOAD is the mode through LOAD, in which no pump waits for its minimum off or in the queue, no rake for its
units or its interval, no weir for a confirm time, and no weir has a record open (R17, R61, R77, R84, R92). -/
structure State.Settled (s : State) : Prop where
  canonical : s.mem.wf
  handed    : s.plant.out = []
  lawful    : s.plant.Lawful
  load      : s.load ≠ .none → s.plant.loading = true ∧ s.plant.queue = [] ∧
    (∀ n, (s.plant.pump n).minOff.isRunning = false) ∧
    (∀ n, (s.plant.claim (rakeHolder n)).status = .none ∧ (s.plant.rake n).interval.isRunning = false) ∧
    ∀ n, (s.plant.weir n).startConfirm.isRunning = false ∧ (s.plant.weir n).endConfirm.isRunning = false ∧
      (s.plant.weir n).openRecord = none

/-- R107, R109, R110, R111: the law of the log with the queue from T to A - 1, a ring of at least 32 slots, and the
entry at the head of the queue in the log writer's hand while it writes. In LOAD nothing is retained and nothing
holds the memory port. -/
structure State.LogLaw (s : State) : Prop where
  law     : s.log.lawful s.capacity
  room    : 32 ≤ s.capacity
  places  : s.log.queue.length ≤ queuePlaces
  queue   : s.log.t + s.log.queue.length = s.log.a
  numbers : s.log.queue.map QueuedEntry.seq = List.range' s.log.t s.log.queue.length
  loading : s.load ≠ .none → s.log.t = s.log.o ∧ s.holder = .free
  writing : ∀ e, s.holder = .logWriter e → s.log.queue.head? = some e ∧ s.log.t - s.log.o < s.capacity

/-! Frames of the plant. -/

/-- The clock, the contacts, the levels, the station mode unit, the weirs and the settings are the same. -/
structure Plant.SameInputs (p q : Plant) : Prop where
  clock     : q.clock = p.clock
  levels    : q.levels = p.levels
  mode      : q.mode = p.mode
  weirs     : q.weirs = p.weirs
  sections  : q.sections = p.sections
  raw       : q.lines.raw = p.lines.raw
  debounced : q.lines.debounced = p.lines.debounced
  stability : q.lines.stability = p.lines.stability

/-- The command shadow, the pending-correction set, the desired count and the rotation list are the same. -/
structure Plant.SameOrders (p q : Plant) : Prop where
  shadow   : q.shadow = p.shadow
  corr     : q.corr = p.corr
  desired  : q.desired = p.desired
  rotation : q.rotation = p.rotation

/-- Beside the inputs, no word of the command shadow has changed but for the RUN bits of the pump words, and no
word has left the pending-correction set. -/
structure Plant.RunsOnly (p q : Plant) : Prop where
  inputs : p.SameInputs q
  words  : ∀ i : Fin 32, (∀ n : Fin 6, pumpWord n ≠ i) → q.shadow.get i = p.shadow.get i
  bits   : ∀ (n : Fin 6) (k : Nat), k ≠ 0 →
    (q.shadow.get (pumpWord n)).getLsbD k = (p.shadow.get (pumpWord n)).getLsbD k
  corr   : ∀ i : Fin 32, i ∈ p.corr → i ∈ q.corr

/-- Nothing waits for units or for the start gate, and storm posture is inactive: an event that releases no units leads
to no grant, no start and no trigger (R29, R38, R65). -/
structure Plant.Calm (p : Plant) : Prop where
  queue  : p.queue = []
  claims : ∀ h, (p.claim h).status ≠ .waiting
  storm  : p.mode.storm = false

/-- R94: the alarm unit keeps the conditions of the pump unit and of the screen unit as they stand. -/
structure Plant.Announced (p : Plant) : Prop where
  trip    : ∀ n, (p.alarms.points.get (tripPoint n)).condition = p.tripCondition n
  limit   : ∀ n, (p.alarms.points.get (limitPoint n)).condition = p.limitCondition n
  jam     : ∀ n, (p.alarms.points.get (jamPoint n)).condition = ((p.rake n).state == .jammed)
  blinded : ∀ n, (p.alarms.points.get (blindedPoint n)).condition = (p.rake n).blinded
  held    : ∀ n, (p.alarms.points.get (heldPoint n)).condition = (p.rake n).held
  high    : (p.alarms.points.get 31).condition = p.floatHighActive
  lowLow  : (p.alarms.points.get 32).condition = p.lowLowActive

/-- Within the event, and with no storm standing, rake `n` has come to rest in IDLE, its claim gone (with 0 units: log 60)
and its interval timer started (R66, R68). -/
def Plant.Rests (p q : Plant) (n : Fin 2) : Prop :=
  q.claim (rakeHolder n) = { status := .none, units := 0 } ∧
    q.rake n = { p.rake n with
      state := .idle, cycle := .stopped, reverse := .stopped, hold := .stopped, held := false
      interval := if p.intervalTime n = 0 then .stopped else .running (p.intervalTime n) }

/-! Frames of the state. -/

/-- The generation counts and the scan position are the same, no page has lost its mark, and outside LOAD every page
that shows something else than before is marked dirty (R62, R106, R122, R136). -/
structure State.Pages (s t : State) : Prop where
  gen     : t.deposits.gen = s.deposits.gen
  scan    : t.deposits.scanPos = s.deposits.scanPos
  kept    : ∀ i, s.deposits.dirty.get i = true → t.deposits.dirty.get i = true
  changed : t.plant.loading = false → ∀ i, pageChanged s t i = true → t.deposits.dirty.get i = true

/-- The log unit has taken these entries first, and then those that followed from the same event (R109). -/
def State.Logged (s t : State) (entries : List Draft) : Prop :=
  ∃ more, t.log = (entries ++ more).foldl (fun l d => l.append t.plant.clock d) s.log

/-- The log unit has taken this entry among those of the event (R109). -/
def State.Logs (s t : State) (entry : Draft) : Prop :=
  ∃ before more, t.log = (before ++ entry :: more).foldl (fun l d => l.append t.plant.clock d) s.log

/-- A command has acted on the plant, the log and the page marks, and left memory, the bus path, the settings unit, the
link line, the reporter and everything else as it was; it has logged these entries first. -/
structure State.PlantStep (s t : State) (entries : List Draft) : Prop where
  rest  : t = { s with plant := t.plant, log := t.log, deposits := t.deposits }
  pages : s.Pages t
  log   : s.Logged t entries
  out   : t.plant.out = []

/-- An event at the link line or the reporter has moved these two, the page marks, and at most the mark of an alert's
entry read that its result is no longer wanted (R169); memory, the plant, the log and everything else is as it was. -/
structure State.LinkStep (s t : State) : Prop where
  rest   : t = { s with link := t.link, reporter := t.reporter, deposits := t.deposits, holder := t.holder }
  holder : t.holder = s.holder ∨ t.holder = discardRead s.holder .alert
  pages  : s.Pages t

/-- R123, R131: this access arrives at the upstream port or waits there, and the arbiter grants it now: outside LOAD,
the memory port is free, and no internal member asks or the last winner was the internal group. -/
structure State.Takes (s : State) (a : Access) : Prop where
  running : s.load = .none
  free    : s.holder = .free
  port    : s.port = .idle ∧ s.uprst = false ∨ s.port = .waiting (normalAccess a) ∧ s.prdy = false
  turn    : s.memberChosen = none ∨ s.lastWinner = .internal

/-- R128: the outcome has a memory cycle. -/
def Verdict.reaches : Verdict → Bool
  | .forward => true
  | .rewrite _ => true
  | .trim _ _ => true
  | .translate _ => true
  | .absorb => false
  | .refuse _ => false

/-- R128: the outcome counts as a refusal. -/
def Verdict.refusal : Verdict → Option RefusalCause
  | .trim _ cause => some cause
  | .refuse cause => some cause
  | .forward => none
  | .rewrite _ => none
  | .translate _ => none
  | .absorb => none

/-- R123, R131: the access has been granted, judged with this outcome, and either holds the memory port for its cycle or
has completed, PRDY given. -/
structure State.Granted (t : State) (a : Access) (v : Verdict) : Prop where
  verdict : t.verdict = some v
  winner  : t.lastWinner = .upstream
  port    : t.port = if v.reaches then .granted (normalAccess a) v else .idle
  holder  : t.holder = if v.reaches then .upstream else .free
  prdy    : t.prdy = !v.reaches

/-- R130: the REFUSAL entry of a refusal that is not coalesced: address, lanes, data, cause and the repeat count. -/
def State.refusalEntry (s : State) (a : Access) (cause : RefusalCause) : Draft :=
  { source := srcBus, kind := 0x70, urgent := false
    detail := detail4 (accessAddress a) ++ detail1 (lanesCode a.lanes) ++ detail2 (laneData a.lanes a.data).toNat ++
      detail1 cause.code ++ detail2 s.refusals.repeats }

/-- R129, R130: the refusal record has taken this refusal, made at the state `s`. -/
structure State.Records (s t : State) (a : Access) (cause : RefusalCause) : Prop where
  count  : t.refusals.count = bump s.refusals.count
  last   : t.refusals.last = some
    { address := accessAddress a, lanes := a.lanes, data := laneData a.lanes a.data, cause := cause
      time := s.plant.clock.station }
  again  : coalesced s.plant s.refusals (accessAddress a) cause = true →
    t.refusals.repeats = bump s.refusals.repeats ∧ t.refusals.logged = s.refusals.logged
  afresh : coalesced s.plant s.refusals (accessAddress a) cause = false →
    t.refusals.repeats = 0 ∧ t.refusals.logged = some
      { cause := cause, address := accessAddress a, uptime := s.plant.clock.uptime }

/-- The refusal record after an outcome: recorded where it counts as a refusal, else as it was. -/
def State.RefusalKept (s t : State) (a : Access) (v : Verdict) : Prop :=
  match v.refusal with
  | some cause => s.Records t a cause
  | none => t.refusals = s.refusals

/-- The entry that the outcome itself appends. -/
def State.outcomeEntries (s : State) (a : Access) (v : Verdict) : List Draft :=
  match v.refusal with
  | some cause => if coalesced s.plant s.refusals (accessAddress a) cause then [] else [s.refusalEntry a cause]
  | none => []

/-- An access has been granted and judged. Beside what its judgment did to the plant, the log, the settings unit and the
link line, it has moved the upstream port, the memory port, the refusal record and the page marks; memory and everything
else is as it was. -/
structure State.AccessStep (s t : State) (a : Access) (v : Verdict) : Prop where
  granted : t.Granted a v
  record  : s.RefusalKept t a v
  rest    : t = { s with
    port := t.port, prdy := t.prdy, verdict := t.verdict, holder := t.holder, lastWinner := t.lastWinner
    refusals := t.refusals, deposits := t.deposits
    plant := t.plant, log := t.log, settings := t.settings, link := t.link }
  pages   : s.Pages t
  out     : t.plant.out = []

/-- The plant with the debounced state of line `l` taken from its raw state (R2). -/
def Plant.settleLine (p : Plant) (l : Fin 30) : Plant :=
  { p with lines := { p.lines with
      debounced := vset p.lines.debounced l (p.lines.raw.get l), stability := vset p.lines.stability l .stopped } }

/-- An access has been granted and judged, and nothing but its outcome has happened: the plant, the settings unit and
the link line are as they were, and the log has taken the REFUSAL entry of the outcome, if it has one. -/
structure State.AccessOnly (s t : State) (a : Access) (v : Verdict) : Prop where
  step     : s.AccessStep t a v
  plant    : t.plant = s.plant
  settings : t.settings = s.settings
  link     : t.link = s.link
  log      : t.log = (s.outcomeEntries a v).foldl (fun l d => l.append s.plant.clock d) s.log

/-- R43: pump `n` has tripped from the state `q` with this cause: the PUMP_TRIP entry is the first of the event, and the
pump has left the start queue, its units (0 with the claim gone: log 60) and its demand. `p` is the plant with the input that tripped it taken. -/
structure State.TripStep (s t : State) (p : Plant) (n : Fin 6) (cause : TripCause) : Prop where
  step   : s.PlantStep t
    [{ source := srcPump n, kind := 0x23, urgent := false
       detail := detail1 cause.code ++ detail1 (p.pump n).state.code }]
  pump   : t.plant.pump n = { p.pump n with
    state := .tripped, tripCause := cause, tripUptime := some p.clock.uptime, deferred := false
    feedback := .stopped, minRun := .stopped, minOff := .stopped }
  demand : t.plant.demand n = false
  queue  : n ∉ t.plant.queue
  claim  : t.plant.claim (pumpHolder n) = { status := .none, units := 0 }
  alarm  : (t.plant.alarms.points.get (tripPoint n)).condition = true
  frame  : p.RunsOnly t.plant

/-! The effects of a commit (R145); `s` is the state before it, `t` the state after. -/

/-- A commit has moved nothing in the plant but the sections, the settings unit's two points (R139), and what the alarm
unit makes of its points. -/
def State.CommitsOnly (s t : State) : Prop :=
  t.plant = { s.plant with sections := t.plant.sections, alarms := t.plant.alarms, lines := t.plant.lines } ∧
    t.plant.lines.raw = s.plant.lines.raw ∧ t.plant.lines.debounced = s.plant.lines.debounced ∧
    t.plant.lines.stability = s.plant.lines.stability ∧
    ∀ k : Fin 40, k ≠ 36 → k ≠ 37 → t.plant.alarms.points.get k = s.plant.alarms.points.get k

/-- R46: the start history within the capacity of the settings in force, the oldest entries gone. -/
def State.trimmedHistory (s t : State) (n : Fin 6) : List Time :=
  let starts := (s.plant.pump n).history
  starts.drop (starts.length - (t.plant.startsPerHour n + t.plant.stormAllowance))

/-- R60, R46: a commit of S1, pump by pump. Pumps that become present join the rotation list in ascending number (the
model's choice, log 28), and a claim given up holds 0 units (log 60). -/
def State.CommitsPumps (s t : State) : Prop :=
  let p := s.plant
  let q := t.plant
  (∀ n : Fin 6,
    let still : Pump := { p.pump n with
      deferred := false, feedback := .stopped, minRun := .stopped, minOff := .stopped, history := s.trimmedHistory t n }
    (p.pumpPresent n = true → q.pumpPresent n = false →
      q.pump n = { still with state := .absent } ∧ q.demand n = false ∧
      (p.demand n = true → pumpWord n ∈ q.corr) ∧ q.claim (pumpHolder n) = { status := .none, units := 0 } ∧
      n ∉ q.queue ∧ n ∉ q.rotation ∧ (q.alarms.points.get (tripPoint n)).condition = false ∧
      (q.alarms.points.get (limitPoint n)).condition = false ∧
      ((p.pump n).state = .starting ∨ (p.pump n).state = .running →
        s.Logs t { source := srcPump n, kind := 0x22, urgent := false, detail := detail1 4 })) ∧
    (p.pumpPresent n = false → q.pumpPresent n = true →
      n ∈ q.rotation ∧
      (p.pumpOosSet n = true → n ∉ p.queue → (p.claim (pumpHolder n)).status ≠ .waiting → q.pump n =
        { p.pump n with state := .outOfService, history := s.trimmedHistory t n }) ∧
      (p.pumpOosSet n = false → p.faultActive n = false → q.pump n =
        { still with state := .resting, minOff := .running (q.minOffTime n) }) ∧
      (p.pumpOosSet n = false → p.faultActive n = true →
        (q.pump n).state = .tripped ∧ (q.pump n).tripCause = .fault ∧ q.demand n = false)) ∧
    (p.pumpPresent n = q.pumpPresent n → p.Calm → p.mode.mode = .auto →
      q.pump n = { p.pump n with history := s.trimmedHistory t n })) ∧
  ((∀ n, p.pumpPresent n = false → (p.pump n).state = .absent) →
    (∀ n, p.pumpPresent n = true → q.pumpPresent n = true) →
    q.rotation = p.rotation.filter (fun n => p.pumpPresent n || !q.pumpPresent n) ++
      ([0, 1, 2, 3, 4, 5] : List (Fin 6)).filter (fun n => !p.pumpPresent n && q.pumpPresent n))

/-- A commit of S2. R3: F27 and F28 act where a new sense turns their readings. R20: the freshness limit. R30: the
present budget. R32: the storm level and its hysteresis. R46: the storm allowance. R53: the start and stop levels. -/
def State.CommitsStation (s t : State) : Prop :=
  let p := s.plant
  let q := t.plant
  let well := p.levels.channels.get 0
  q.clock = p.clock ∧ q.levels = p.levels ∧ q.weirs = p.weirs ∧
  (p.withinBudget → (∀ n, (p.claim (pumpHolder n)).status = .held → (p.pump n).state.inMotion = true) →
    q.withinBudget) ∧
  (p.mode.supply = supplyOf p.onGenerator → q.mode.supply = supplyOf q.onGenerator) ∧
  (p.lowLowActive = false → q.lowLowActive = true →
    q.desired = 0 ∧ ∀ n, (q.pump n).state.inMotion = false ∧ q.demand n = false) ∧
  (p.Lawful → p.onGenerator = q.onGenerator → q.budget ≠ p.budget → q.budget < p.heldUnits →
    q.mode.loadShed = true ∧ (q.alarms.points.get 34).condition = true) ∧
  (∀ left, p.mode.freshTimer = .running left →
    let elapsed := p.mode.freshLimit - left
    (q.freshnessLimit = p.mode.freshLimit →
      q.mode.freshTimer = .running left ∧ q.mode.fresh = p.mode.fresh) ∧
    (q.freshnessLimit ≠ p.mode.freshLimit → elapsed < q.freshnessLimit →
      q.mode.freshTimer = .running (q.freshnessLimit - elapsed) ∧ q.mode.freshLimit = q.freshnessLimit ∧
      q.mode.fresh = p.mode.fresh) ∧
    (q.freshnessLimit ≠ p.mode.freshLimit → q.freshnessLimit ≤ elapsed →
      q.mode.freshTimer = .stopped ∧ q.mode.fresh = false ∧
      (p.mode.mode = .auto → q.mode.mode = .localControl ∧ q.mode.cause = .lapse))) ∧
  (q.stormLevel ≠ p.stormLevel ∨ q.stormHysteresis ≠ p.stormHysteresis →
    q.mode.wetWell = match well.state, well.value with
      | .good, some v =>
        if q.stormLevel ≤ v then true
        else if v < q.stormLevel - q.stormHysteresis then false
        else p.mode.wetWell
      | _, _ => p.mode.wetWell) ∧
  (q.stormLevel = p.stormLevel → q.stormHysteresis = p.stormHysteresis → q.mode.wetWell = p.mode.wetWell) ∧
  (q.mode.wetWell ≠ p.mode.wetWell →
    q.mode.storm = (q.mode.wetWell || q.mode.overflow || q.mode.floatHigh) ∧
      (q.alarms.points.get 30).condition = q.mode.wetWell) ∧
  (q.startLevels ≠ p.startLevels ∨ q.stopLevels ≠ p.stopLevels →
    q.desired = if q.lowLowActive then 0 else if q.floatHighActive then q.presentCount
      else match well.state, well.value with
        | .good, some v => min (max p.desired (q.startLevels.countP (fun x => x ≤ v)))
            (q.stopLevels.countP (fun x => x ≤ v))
        | _, _ => p.desired) ∧
  (p.Calm → (∀ l, q.active l = p.active l) → p.heldUnits ≤ q.budget → p.mode.mode = .auto → q.mode.mode = .auto →
    ∀ n, q.pump n = { p.pump n with
      history := if q.stormAllowance = p.stormAllowance then (p.pump n).history else s.trimmedHistory t n })

/-- R76: a commit of S3, rake by rake; with nothing waiting and no storm standing nothing else happens in the event. A
claim given up holds 0 units (log 60). -/
def State.CommitsScreens (s t : State) : Prop :=
  let p := s.plant
  let q := t.plant
  (∀ n : Fin 2,
    (p.rakePresent n = true → q.rakePresent n = false →
      q.rake n = { p.rake n with
        state := .absent, cycle := .stopped, reverse := .stopped, interval := .stopped, hold := .stopped
        held := false, blinded := false } ∧
      q.claim (rakeHolder n) = { status := .none, units := 0 } ∧
      (q.alarms.points.get (jamPoint n)).condition = false ∧
      (q.alarms.points.get (blindedPoint n)).condition = false ∧
      (q.alarms.points.get (heldPoint n)).condition = false ∧
      ((p.rake n).state = .raking ∨ (p.rake n).state = .reversing ∨ (p.rake n).state = .suspended →
        s.Logs t { source := srcScreen n, kind := 0x31, urgent := false
                   detail := detail1 2 ++ detail2 (p.rake n).attempts ++ detail4 (p.cycleDuration n) })) ∧
    (p.rakePresent n = false → q.rakePresent n = true →
      (p.screenOosSet n = true → (p.claim (rakeHolder n)).status = .none →
        q.rake n = { p.rake n with state := .outOfService }) ∧
      (p.screenOosSet n = false → p.Calm → q.rake n = { p.rake n with
        state := .idle, cycle := .stopped, reverse := .stopped, hold := .stopped, held := false
        interval := if q.intervalTime n = 0 then .stopped else .running (q.intervalTime n) })) ∧
    (p.rakePresent n = q.rakePresent n → p.Calm → q.rake n = p.rake n)) ∧
  (p.Calm → q = { p with
    sections := q.sections, claims := q.claims, rakes := q.rakes, alarms := q.alarms, lines := q.lines })

/-- R93, R89: a commit of S4, weir by weir. -/
def State.CommitsWeirs (s t : State) : Prop :=
  let p := s.plant
  let q := t.plant
  q.clock = p.clock ∧ q.levels = p.levels ∧
  (∀ n : Fin 3,
    let w := p.weir n
    let gone : Weir := { w with
      state := .normal, startConfirm := .stopped, endConfirm := .stopped, faultHold := false, resume := false }
    (p.weirPresent n = true → q.weirPresent n = false →
      (w.openRecord = none → q.weir n = gone) ∧
      ∀ r, w.openRecord = some r →
        q.weir n = { gone with
          openRecord := none, litres := 0
          lastClosed := some { r with
            duration := some (p.clock.uptime - r.startUptime), endTime := some p.clock.station } } ∧
        (q.alarms.points.get (overflowPoint n)).condition = false ∧
        s.Logs t { source := srcWeir n, kind := 0x41, urgent := false
                   detail := detail1 r.flags.code ++ detail4 r.startTime.toNat ++
                     detail4 (p.clock.uptime - r.startUptime).toNat ++ detail2 r.peak ++ detail4 r.peakTime.toNat ++
                     detail3 (volumeCode r.volume) }) ∧
    (p.weirPresent n = false → q.weirPresent n = true → q.weir n = { w with state := .normal, resume := false }) ∧
    (p.weirPresent n = q.weirPresent n → q.weir n = if p.crest n = q.crest n then w
      else { w with openRecord := w.openRecord.map (fun r =>
        { r with flags := { r.flags with curveChanged := true } }) })) ∧
  (p.Calm → (∀ n, p.weirPresent n = true → q.weirPresent n = false → (p.weir n).openRecord = none) →
    q = { p with sections := q.sections, weirs := q.weirs, alarms := q.alarms, lines := q.lines })

/-- R145: what the commit of section `sec` with these words does beside its entry and the section itself. R89: S5 flags
the open records. R104: S6 moves no point, and page 13 is marked. R158: S7 is in force at once on a quiet line, page 14
marked, and else pending. -/
def State.CommitTakesEffect (s t : State) (sec : Fin 9) (words : List Word) : Prop :=
  (sec ≠ 7 → t.link = s.link) ∧
  (sec = 0 ∨ sec = 6 ∨ sec = 7 ∨ sec = 8 → s.CommitsOnly t) ∧
  (sec = 1 → s.CommitsPumps t) ∧ (sec = 2 → s.CommitsStation t) ∧ (sec = 3 → s.CommitsScreens t) ∧
  (sec = 4 → s.CommitsWeirs t) ∧
  (sec = 5 →
    t.plant = { s.plant with
      sections := t.plant.sections, weirs := t.plant.weirs, alarms := t.plant.alarms, lines := t.plant.lines } ∧
    ∀ n, t.plant.weir n = { s.plant.weir n with
      openRecord := (s.plant.weir n).openRecord.map (fun r =>
        { r with flags := { r.flags with curveChanged := true } }) }) ∧
  (sec = 6 → t.deposits.dirty.get 13 = true ∧ t.plant.alarms.identity = t.plant.identityNow ∧
    t.plant.alarms.aline = t.plant.alineNow ∧ t.plant.alarms.demand = t.plant.demandNow) ∧
  (sec = 7 →
    (s.link.tx = .idle → s.link.rx.state = .hunt →
      t.link = { s.link with s7 := words, pendingS7 := none } ∧ t.deposits.dirty.get 14 = true) ∧
    (s.link.tx ≠ .idle ∨ s.link.rx.state ≠ .hunt → t.link = { s.link with pendingS7 := some words }))

/-! The status pages (12.3); word 0 of `ws` is the generation count. -/

/-- Word `k` holds these fields (value, lowest bit, width), and 0 in every other bit (R172). -/
def wordHolds (ws : List Word) (k : Nat) (fields : List (Nat × Nat × Nat)) : Prop :=
  ws.getD k 0 = BitVec.ofNat 16 ((fields.map (fun f => f.1 % 2 ^ f.2.2 * 2 ^ f.2.1)).sum)

/-- Words `k` and `k + 1` hold this 32-bit value, the low word first. -/
def pairHolds (ws : List Word) (k v : Nat) : Prop :=
  wordHolds ws k [(v, 0, 16)] ∧ wordHolds ws (k + 1) [(v / 65536, 0, 16)]

/-- The words from `k` on to the check word are 0 (R172). -/
def zeroFrom (ws : List Word) (k : Nat) : Prop := ∀ j, j < 31 → k ≤ j → ws.getD j 0 = 0

/-- R172: a 32-bit time, or its absence. -/
def timeOr (t : Option Time) : Nat := (t.map BitVec.toNat).getD 0xFFFFFFFF

/-- R172: 24 bits of volume, or its absence. -/
def volumeOr (v : Option Nat) : Nat := v.getD 0xFFFFFF

/-- Page 0, station. With no refusal, no open transaction or no result its fields hold 0 (the model's choice, log 63). -/
def State.ShowsStation (s : State) (ws : List Word) : Prop :=
  let p := s.plant
  let m := p.mode
  let part (i : Fin 9) : List (Nat × Nat × Nat) :=
    let x := p.sections.get i
    [([SettingsSource.stored, .trial, .default].idxOf x.source, 4 * (i.val % 4), 2),
     (bit x.storedDiffers, 4 * (i.val % 4) + 2, 1), (bit x.pendingReset, 4 * (i.val % 4) + 3, 1)]
  pairHolds ws 1 p.clock.station.toNat ∧ pairHolds ws 3 p.clock.uptime.toNat ∧
  wordHolds ws 5
    [(bit p.clock.clockSet, 0, 1), (bit m.fresh, 1, 1), (bit (m.supply == .generator), 2, 1), (bit m.storm, 3, 1),
     (bit m.wetWell, 4, 1), (bit m.overflow, 5, 1), (bit m.floatHigh, 6, 1), (bit s.settings.freeze, 7, 1)] ∧
  wordHolds ws 6
    [((p.shadow.get 0).toNat % 4, 0, 2), ([Mode.load, .auto, .localControl].idxOf m.mode, 4, 2),
     ([ModeCause.none, .start, .lapse, .upstream, .commanded].idxOf m.cause, 8, 3)] ∧
  wordHolds ws 7 [(m.freshTimer.left, 0, 6), (p.corr.length, 8, 6)] ∧
  wordHolds ws 8 [(p.budget, 0, 6), (p.heldUnits, 8, 6)] ∧
  (∀ k : Fin 4,
    let low := p.claim ⟨2 * k.val, by omega⟩
    let high := p.claim ⟨2 * k.val + 1, by omega⟩
    wordHolds ws (9 + k.val)
      [([ClaimStatus.none, .waiting, .held].idxOf low.status, 0, 2), (low.units, 4, 4),
       ([ClaimStatus.none, .waiting, .held].idxOf high.status, 8, 2), (high.units, 12, 4)]) ∧
  wordHolds ws 13 [(s.refusals.count, 0, 16)] ∧ wordHolds ws 14 [(s.refusals.repeats, 0, 16)] ∧
  (s.refusals.last = none →
    ws.getD 15 0 = 0 ∧ ws.getD 16 0 = 0 ∧ ws.getD 17 0 = 0 ∧ pairHolds ws 18 0xFFFFFFFF) ∧
  (∀ r, s.refusals.last = some r →
    wordHolds ws 15 [(r.address, 0, 16)] ∧
    wordHolds ws 16
      [(r.address / 65536, 0, 8), ([Lanes.word, .low, .high].idxOf r.lanes + 1, 8, 2), (r.cause.code, 11, 5)] ∧
    ws.getD 17 0 = r.data ∧ pairHolds ws 18 r.time.toNat) ∧
  (s.refusals.logged = none → ws.getD 20 0 = 0 ∧ ws.getD 21 0 = 0 ∧ pairHolds ws 22 0xFFFFFFFF) ∧
  (∀ r, s.refusals.logged = some r →
    wordHolds ws 20 [(r.address, 0, 16)] ∧ wordHolds ws 21 [(r.address / 65536, 0, 8), (r.cause.code, 11, 5)] ∧
    pairHolds ws 22 r.uptime.toNat) ∧
  wordHolds ws 24 (part 0 ++ part 1 ++ part 2 ++ part 3) ∧ wordHolds ws 25 (part 4 ++ part 5 ++ part 6 ++ part 7) ∧
  wordHolds ws 26 (part 8) ∧
  wordHolds ws 27 [(s.settings.lock.toNat, 0, 9)] ∧
  (s.settings.txn = none → ws.getD 28 0 = 0) ∧
  (∀ x, s.settings.txn = some x → wordHolds ws 28
    [(x.received, 0, 9), (x.sec.val, 9, 4), (bit (x.range == .trial), 13, 1), (1, 14, 1)]) ∧
  (s.settings.last = none → ws.getD 29 0 = 0) ∧
  (∀ x, s.settings.last = some x → wordHolds ws 29
    [(x.sec.val, 0, 4), (bit (x.range == .trial), 4, 1),
     ([SettingsResult.commit, .orderBroken, .timeout, .upstream, .check, .content].idxOf x.result + 1, 5, 3)]) ∧
  zeroFrom ws 30

/-- Page 1, levels and field lines. -/
def State.ShowsLevels (s : State) (ws : List Word) : Prop :=
  let p := s.plant
  (∀ c : Fin 8,
    let x := p.levels.channels.get c
    wordHolds ws (1 + c.val) [(x.value.getD 0xFFFF, 0, 16)] ∧
    (x.state = .good → wordHolds ws (9 + c.val) [(bit x.stale, 3, 1), (x.goodCount, 4, 3)]) ∧
    ∀ cause, x.state = .fault cause → wordHolds ws (9 + c.val)
      [(1, 0, 1), ([FaultCause.start, .converter, .badSample].idxOf cause, 1, 2), (bit x.stale, 3, 1),
       (x.goodCount, 4, 3)]) ∧
  wordHolds ws 17 [(p.levels.failCount, 0, 16)] ∧
  (∀ k, k < 32 →
    let bitOf (word : Nat) := (ws.getD (word + k / 16) 0).getLsbD (k % 16)
    (∀ l : Fin 30, l.val = k → 6 ≤ k ∧ k ≤ 17 ∨ 22 ≤ k ∧ k ≤ 28 →
      bitOf 18 = (p.lines.raw.get l == .closed) ∧ bitOf 20 = (p.lines.debounced.get l == .closed) ∧
        bitOf 22 = false) ∧
    (∀ n : Fin 6, n.val = k → bitOf 22 = ((p.pump n).state == .starting || (p.pump n).state == .running)) ∧
    (∀ n : Fin 2, 18 + n.val = k → bitOf 22 = ((p.rake n).state == .raking)) ∧
    (∀ n : Fin 2, 20 + n.val = k → bitOf 22 = ((p.rake n).state == .reversing)) ∧
    (k = 29 → bitOf 22 = p.lines.beaconOn) ∧ (29 < k → bitOf 22 = false) ∧
    (k < 6 ∨ 18 ≤ k ∧ k < 22 ∨ 29 ≤ k → bitOf 18 = false ∧ bitOf 20 = false)) ∧
  zeroFrom ws 24

/-- Pages 2 to 7, pumps 1 to 6. A trip cause has meaning in TRIPPED alone (log 35). -/
def State.ShowsPump (s : State) (n : Fin 6) (ws : List Word) : Prop :=
  let p := s.plant
  let x := p.pump n
  wordHolds ws 1
    [([PumpState.absent, .off, .resting, .starting, .running, .tripped, .outOfService].idxOf x.state, 0, 3),
     (if x.state = .tripped then [TripCause.feedback, .feedbackLost, .fault].idxOf x.tripCause else 0, 3, 2),
     (bit (p.demand n), 5, 1), (bit x.deferred, 6, 1), (bit (p.feedbackActive n), 7, 1), (bit (p.faultActive n), 8, 1),
     (bit (x.state == .starting || x.state == .running), 9, 1)] ∧
  wordHolds ws 2
    [(if n ∈ p.queue then p.queue.idxOf n + 1 else 0, 0, 3),
     (if n ∈ p.rotation then p.rotation.idxOf n + 1 else 0, 4, 3)] ∧
  wordHolds ws 3 [(x.feedback.left, 0, 16)] ∧ wordHolds ws 4 [(x.minRun.left, 0, 16)] ∧
  wordHolds ws 5 [(x.minOff.left, 0, 16)] ∧
  wordHolds ws 6
    [(x.history.length, 0, 8), (p.startsPerHour n + (if p.mode.storm then p.stormAllowance else 0), 8, 8)] ∧
  pairHolds ws 7 (timeOr x.history.head?) ∧ pairHolds ws 9 (timeOr x.tripUptime) ∧
  pairHolds ws 11 (timeOr x.lastStart) ∧
  (n = 0 → wordHolds ws 13
      [(p.desired, 0, 3), (p.queue.length, 4, 3), (bit p.gateFree, 7, 1),
       ((p.rotation.head?.map (fun m => m.val + 1)).getD 0, 8, 4)] ∧
    wordHolds ws 14 [(p.stagger.left, 0, 16)]) ∧
  zeroFrom ws (if n = 0 then 15 else 13)

/-- Pages 8 and 9, screens 1 and 2. A jam cause has meaning in JAMMED, a suspended-from state in SUSPENDED, and a trigger
from the trigger to the end of the cycle (log 35). -/
def State.ShowsRake (s : State) (n : Fin 2) (ws : List Word) : Prop :=
  let p := s.plant
  let x := p.rake n
  let cycling := x.state = .waiting ∨ x.state = .raking ∨ x.state = .reversing ∨ x.state = .suspended
  wordHolds ws 1
    [([RakeState.absent, .idle, .waiting, .raking, .reversing, .suspended, .jammed, .outOfService].idxOf x.state, 0, 3),
     (bit (x.state == .suspended && x.fromReversing), 3, 1), (bit (x.state == .jammed && x.jamCause == .timeout), 4, 1),
     (if cycling then [Trigger.differential, .interval, .command, .storm].idxOf x.trigger else 0, 5, 2),
     (x.attempts, 7, 3), (bit x.homeLeave, 10, 1), (bit x.cycle.isPaused, 11, 1), (bit x.counts, 12, 1)] ∧
  wordHolds ws 2
    [(bit (p.homeActive n), 0, 1), (bit (p.overloadActive n), 1, 1), (bit (x.state == .raking), 2, 1),
     (bit (x.state == .reversing), 3, 1),
     ([ClaimStatus.none, .waiting, .held].idxOf (p.claim (rakeHolder n)).status, 4, 2),
     (bit (x.state == .jammed), 6, 1), (bit x.held, 7, 1), (bit x.blinded, 8, 1)] ∧
  ws.getD 3 0 = BitVec.ofInt 16 x.differential ∧
  wordHolds ws 4 [(x.cycle.left, 0, 16)] ∧ wordHolds ws 5 [(x.reverse.left, 0, 16)] ∧
  wordHolds ws 6 [(x.interval.left, 0, 16)] ∧ wordHolds ws 7 [(x.hold.left, 0, 16)] ∧
  pairHolds ws 8 (timeOr x.cycleStart) ∧ zeroFrom ws 10

/-- Pages 10 to 12, weirs 1 to 3; the head of a level never delivered is 0 (the model's choice, log 46). -/
def State.ShowsWeir (s : State) (n : Fin 3) (ws : List Word) : Prop :=
  let p := s.plant
  let x := p.weir n
  let flags (f : RecordFlags) : Nat :=
    bit f.curveChanged + 2 * bit f.channelFault + 4 * bit f.beyondCurve + 8 * bit f.resumed + 16 * bit f.clockChanged
  wordHolds ws 1
    [(bit (p.weirPresent n), 0, 1), ([WeirState.normal, .rising, .overflowing, .falling].idxOf x.state, 1, 2),
     (bit x.faultHold, 3, 1), (bit x.resume, 4, 1), (bit x.endConfirm.isPaused, 5, 1), (bit (!x.channelGood), 6, 1),
     (bit x.openRecord.isSome, 7, 1), (bit x.lastClosed.isSome, 8, 1)] ∧
  wordHolds ws 2 [(max x.startConfirm.left x.endConfirm.left, 0, 16)] ∧
  wordHolds ws 3 [(x.level.getD 0xFFFF, 0, 16)] ∧
  (∀ v, x.level = some v → ws.getD 4 0 = BitVec.ofInt 16 ((v : Int) - (p.crest n : Int))) ∧
  (x.level = none → ws.getD 4 0 = 0) ∧
  wordHolds ws 5 [(x.litres % 1000, 0, 16)] ∧
  (x.openRecord = none → ∀ j, 6 ≤ j → j < 16 → ws.getD j 0 = 0) ∧
  (∀ r, x.openRecord = some r →
    wordHolds ws 6 [(flags r.flags, 0, 5), (n.val + 1, 8, 2)] ∧ pairHolds ws 7 r.startTime.toNat ∧
    pairHolds ws 9 r.startUptime.toNat ∧ wordHolds ws 11 [(r.peak, 0, 16)] ∧ pairHolds ws 12 r.peakTime.toNat ∧
    pairHolds ws 14 (volumeOr r.volume)) ∧
  (x.lastClosed = none → ∀ j, 16 ≤ j → j < 30 → ws.getD j 0 = 0) ∧
  (∀ r, x.lastClosed = some r →
    wordHolds ws 16 [(flags r.flags, 0, 5), (n.val + 1, 8, 2)] ∧ pairHolds ws 17 r.startTime.toNat ∧
    pairHolds ws 19 r.startUptime.toNat ∧ pairHolds ws 21 (timeOr r.duration) ∧ pairHolds ws 23 (timeOr r.endTime) ∧
    wordHolds ws 25 [(r.peak, 0, 16)] ∧ pairHolds ws 26 r.peakTime.toNat ∧ pairHolds ws 28 (volumeOr r.volume)) ∧
  zeroFrom ws 30

/-- Page 13, alarms. -/
def State.ShowsAlarms (s : State) (ws : List Word) : Prop :=
  let a := s.plant.alarms
  let unacked (level : Nat) := allPoints.countP (fun k =>
    ((a.points.get k).state == .activeUnack || (a.points.get k).state == .returnedUnack) &&
      s.plant.pointLevel k == level)
  (∀ j : Fin 10, wordHolds ws (1 + j.val) (([0, 1, 2, 3] : List (Fin 4)).flatMap (fun i =>
    let x := a.points.get ⟨4 * j.val + i.val, by omega⟩
    [([PointState.normal, .activeUnack, .activeAcked, .returnedUnack].idxOf x.state, 4 * i.val, 2),
     (bit x.condition, 4 * i.val + 2, 1)]))) ∧
  wordHolds ws 11 [((a.firstOut.map Fin.val).getD 0xFF, 0, 8), ((a.identity.map Fin.val).getD 0xFF, 8, 8)] ∧
  wordHolds ws 12 [(bit a.aline, 0, 1), ([BeaconDemand.off, .steady, .flash].idxOf a.demand, 1, 2)] ∧
  wordHolds ws 13 [(unacked 0, 0, 8), (unacked 1, 8, 8)] ∧ wordHolds ws 14 [(unacked 2, 0, 8), (unacked 3, 8, 8)] ∧
  zeroFrom ws 15

/-- Page 14, link. -/
def State.ShowsLink (s : State) (ws : List Word) : Prop :=
  let l := s.link
  let r := s.reporter
  let tx : Nat := match l.tx with
    | .idle => 0
    | .pending _ => 1
    | .keying _ _ => 2
    | .sending _ => 3
  let slot : Nat := match r.slot with
    | .none => 0
    | .preparing _ => 1
    | .ready _ => 2
    | .held _ => 3
  wordHolds ws 1
    [(tx, 0, 2), ([RxState.hunt, .header, .payload, .check].idxOf l.rx.state, 2, 2), (bit (decide (2 ≤ tx)), 4, 1),
     (bit l.ldcd, 5, 1), (bit (!r.linkUp), 6, 1), (slot, 7, 2), (bit r.waiting.isSome, 9, 1),
     (bit r.cycle.isSome, 10, 1), ((r.cycle.map AlertCycle.sends).getD 0, 11, 2), (bit l.pendingS7.isSome, 13, 1)] ∧
  wordHolds ws 2 [(l.s7N 3 % 256, 0, 8), (l.s7N 0, 8, 3), (bit (l.s7N 1 == 1), 11, 1)] ∧
  wordHolds ws 3 [(l.s7N 2, 0, 16)] ∧
  (∀ k, k < 19 → wordHolds ws (4 + k) [(([l.counts.good, l.counts.foreign, l.counts.breaks, l.counts.framing,
    l.counts.parity, l.counts.gap, l.counts.length, l.counts.crc, l.counts.noise, l.counts.discarded, r.counts.polls,
    r.counts.rejected, r.counts.disorders, r.counts.superseded, r.counts.unreadable, r.counts.alerts, r.linkTimer.left,
    r.pollTimer.left, (r.cycle.map (fun c => c.timer.left)).getD 0] : List Nat).getD k 0, 0, 16)]) ∧
  wordHolds ws 23 [((r.gapRecord.map Prod.fst).getD 0, 0, 16)] ∧ pairHolds ws 24 ((r.gapRecord.map Prod.snd).getD 0) ∧
  pairHolds ws 26 ((r.urgent.head?.map Prod.fst).getD 0) ∧ pairHolds ws 28 ((r.urgent.getLast?.map Prod.fst).getD 0) ∧
  (r.urgent.length ≤ 8 → wordHolds ws 30
    ((r.urgent.length, 0, 4) :: (List.range 8).map (fun k => (bit ((r.urgent.getD k (0, false)).2), 8 + k, 1))))

/-- Page 15, log. -/
def State.ShowsLog (s : State) (ws : List Word) : Prop :=
  let l := s.log
  let result : Nat × Nat × Nat := match l.lastCommit with
    | .none => (0, 0, 0)
    | .assigned seq => (1, 0, seq)
    | .dropped => (2, 0, 0)
    | .refused cause => (3, cause.code, 0)
  pairHolds ws 1 l.a ∧ pairHolds ws 3 l.t ∧ pairHolds ws 5 l.o ∧ pairHolds ws 7 l.p ∧ pairHolds ws 9 l.w ∧
  pairHolds ws 11 l.s ∧ wordHolds ws 13 [(l.pmiss, 0, 16)] ∧ wordHolds ws 14 [(l.tmiss, 0, 16)] ∧
  wordHolds ws 15 [(s.capacity, 0, 16)] ∧
  wordHolds ws 16
    [(l.queue.length, 0, 5), (bit l.dropped, 5, 1), (bit l.staging.isSome, 6, 1),
     ((l.staging.map List.length).getD 0, 8, 4)] ∧
  wordHolds ws 17 [(l.dropCount, 0, 16)] ∧ wordHolds ws 18 [(result.1, 0, 8), (result.2.1, 8, 8)] ∧
  pairHolds ws 19 result.2.2 ∧ zeroFrom ws 21

/-- 12.3: the words of page `i`, by the tables of the pages. -/
def State.PageShows (s : State) (i : Fin 16) (ws : List Word) : Prop :=
  (i = 0 → s.ShowsStation ws) ∧ (i = 1 → s.ShowsLevels ws) ∧
  (∀ n : Fin 6, i.val = 2 + n.val → s.ShowsPump n ws) ∧ (∀ n : Fin 2, i.val = 8 + n.val → s.ShowsRake n ws) ∧
  (∀ n : Fin 3, i.val = 10 + n.val → s.ShowsWeir n ws) ∧ (i = 13 → s.ShowsAlarms ws) ∧
  (i = 14 → s.ShowsLink ws) ∧ (i = 15 → s.ShowsLog ws)

end Sys2Proof.Machine
end

