-- ==== Sys2Proof/Certificates/Slice0/Obligations.lean ====
section
/-! DEFINITION. The statements for the provers. Each command that is due and well formed completes in the state that its
rule gives; frames are said by the structures of Safety.lean. -/

open Sys2Proof Sys2Proof.Machine

/-! The machine. -/

/-- The block's step (log 5 for the queue): the command in front of the queue is run on the state with the queue's rest. -/
def Obligations.FrontCommandRuns : Prop :=
  ∀ (c : Instr) (rest : List Instr) (s : State),
    s.pending = c :: rest → step s = exec c { s with pending := rest }

/-- The model's choice (log 5): with no command waiting the step takes the next event that has come about; with none, it
is a 10 ms tick. R14: the millisecond timers take the tick, and the hundredth is also a seconds tick, that of SECONDS_TICK.
R156, R157: outside LOAD the tick samples LDCD, and keys up a frame in PENDING over a receiver in HUNT; where a line in
hand, or nothing held back, leaves nothing to settle, nothing else moves. -/
def Obligations.EmptyQueueTakesDueEventOrTick : Prop :=
  ∀ s : State, s.pending = [] → s.plant.out = [] →
    (∀ c, s.dueEvent = some c → step s = exec c s) ∧
    (s.dueEvent = none →
      let counted : State := { s with
        plant := { s.plant with
          lines := { s.plant.lines with
            stability := s.plant.lines.stability.map Timer.tick, beaconTimer := s.plant.lines.beaconTimer.tick }
          levels := { s.plant.levels with
            scan := s.plant.levels.scan.map (fun x => { x with timer := x.timer.tick })
            period := s.plant.levels.period.tick }
          clock := { s.plant.clock with phase := s.plant.clock.phase + 1 } }
        link := { s.link with tx := match s.link.tx with
          | .keying f k => .keying f k.tick
          | .idle => .idle
          | .pending f => .pending f
          | .sending f => .sending f } }
      ∃ t u, step s = .next t ∧ exec .secondsTick counted = .next u ∧
        let v := if s.plant.clock.phase + 1 < 100 then counted else u
        let tx : Transmitter := match v.link.tx with
          | .pending f =>
            if s.link.rx.state ≠ .hunt then .pending f
            else if s.link.keyUpDelay = 0 then .sending f else .keying f (.running (s.link.keyUpDelay / 10))
          | .idle => .idle
          | .keying f k => .keying f k
          | .sending f => .sending f
        (s.load ≠ .none → t = v) ∧
        (s.load = .none → v.LinkStep t ∧ t.link.ldcd = s.ldcdPin ∧ t.link.rx = s.link.rx ∧
          t.link.counts = s.link.counts ∧
          (s.link.tx ≠ .idle ∨
              s.link.pendingS7 = none ∧ s.reporter.cycle = none ∧ (∀ r, s.reporter.slot ≠ .ready r) →
            t = { v with link := { v.link with ldcd := s.ldcdPin, tx := tx }, deposits := t.deposits })))

/-- Every command takes the part to a next state: no rule of the spec stops it (log 11). None changes the queue of
waiting commands; the window table changes only by a reset and at the end of LOAD stage 1 (R125); the deposit agent's
generation counts change only by a power-up and at its grants (R136). -/
def Obligations.EveryCommandTakesANextState : Prop :=
  ∀ (c : Instr) (s : State), ∃ t, exec c s = .next t ∧ t.pending = s.pending ∧
    (t.windows ≠ s.windows → c = .powerUp ∨ c = .panelReset ∨ c = .loadStage1End) ∧
    (t.deposits.gen ≠ s.deposits.gen → c = .powerUp ∨ c = .depositGrant)

/-- R13, R14, R15, R17, R26, R37, R38, R61, R92, R103, R124, R129, R131, R132, R134, R136, R150, R159, R170: the values
the spec gives for power-up. The spec gives the tick phase none at power-up: 0 is the model's choice (log 9). -/
def Obligations.PowerUpStateAsSpecified : Prop :=
  State.reset.pending = [] ∧ State.reset.load = .stage1 false ∧ State.reset.port = .idle ∧
  State.reset.holder = .free ∧ State.reset.lastWinner = .upstream ∧ State.reset.rotation = .corrector ∧
  State.reset.plant.clock = { uptime := 0, station := 0, clockSet := false, phase := 0, stagedLow := none
                              staging := .stopped } ∧
  State.reset.plant.mode.mode = .load ∧ State.reset.plant.mode.cause = .none ∧
  State.reset.plant.mode.fresh = false ∧ State.reset.plant.mode.supply = .mains ∧
  State.reset.plant.mode.storm = false ∧ State.reset.plant.mode.loadShed = false ∧
  (∀ h, (State.reset.plant.claim h).status = .none) ∧ State.reset.plant.queue = [] ∧
  State.reset.plant.stagger = .stopped ∧ State.reset.plant.desired = 0 ∧
  (∀ n, (State.reset.plant.pump n).tripUptime = none ∧ (State.reset.plant.pump n).lastStart = none ∧
    (State.reset.plant.pump n).history = []) ∧
  (∀ l, State.reset.plant.outputOn l = false) ∧
  (∀ n, (State.reset.plant.weir n).state = .normal ∧ (State.reset.plant.weir n).openRecord = none ∧
    (State.reset.plant.weir n).lastClosed = none ∧ (State.reset.plant.weir n).litres = 0) ∧
  (∀ c, State.reset.plant.levels.channels.get c =
    { ring := [], goodCount := 0, state := .fault .start, value := none, stale := false }) ∧
  State.reset.plant.levels.failCount = 0 ∧
  State.reset.plant.alarms.aline = false ∧ State.reset.plant.alarms.demand = .off ∧
  State.reset.plant.corr = [] ∧
  State.reset.refusals = { count := 0, last := none, repeats := 0, logged := none } ∧
  State.reset.deposits = { dirty := Vector.replicate 16 false, gen := Vector.replicate 16 0, scanPos := 0 } ∧
  State.reset.settings.freeze = false ∧ State.reset.settings.txn = none ∧
  State.reset.link.rx.state = .hunt ∧ State.reset.link.tx = .idle ∧ State.reset.link.pendingS7 = none ∧
  State.reset.reporter.linkUp = false ∧ State.reset.reporter.linkTimer = .stopped ∧
  State.reset.reporter.pollTimer = .stopped ∧ State.reset.reporter.slot = .none ∧
  State.reset.reporter.waiting = none ∧ State.reset.reporter.gapRecord = none ∧
  State.reset.reporter.urgent = [] ∧ State.reset.reporter.cycle = none

/-- The invariants of the two statements below hold in the state after power-up: memory's form, the laws of the plant
(R26, R32, R35, R63, R101, R102, R103) and the law of the log (R111). That A, T, O, P, W and S are 1 and that the
default window table is in force before stage 1 is the model's choice (log 9); R121 recovers the log at the end of
LOAD. -/
def Obligations.LawsHoldAtPowerUp : Prop := State.reset.Settled ∧ State.reset.LogLaw

/-- Every step keeps memory in its canonical form, hands every entry of the step to the log unit (R109), and keeps the
laws of the plant: at most one pump in STARTING (R35), a pump or a rake holding its units exactly while it is in
motion, of the pumps only the head of the queue waiting for units, and a rake waiting for them exactly in WAITING or
SUSPENDED (R26, R27, R38, R63), the queue's pumps in OFF (R38), an absent pump or rake in ABSENT (R60, R76), storm
posture active while one of its three conditions holds, the overflow condition while a weir has a record open (R32), no
rake's forward and reverse outputs ON together (R63), the held units within the budget (R26), identity, ALINE and the
beacon demand as computed from the points (R101, R102, R103), and in LOAD no claim, no queue, no condition and no open
record (R17, R61, R92, R105). -/
def Obligations.EveryStepKeepsMemoryCanonical : Prop :=
  ∀ s t : State, s.Settled → step s = .next t → t.Settled

/-- R111: every step keeps 1 ≤ O ≤ P ≤ T, O ≤ W ≤ S ≤ T, T − O ≤ C, T ≤ A and A − T ≤ 16, the queue holding the
entries from T to A − 1. -/
def Obligations.EveryStepKeepsLogLaw : Prop :=
  ∀ s t : State, s.plant.out = [] → s.LogLaw → step s = .next t → t.LogLaw

/-! Resets and the start-up load. -/

/-- R148, R132, R14, R15, R61, R136: a power-up puts every block at its power-up state. A panel reset does the same, but
uptime, station time, the clock-set flag, the tick phase, the pumps' trip uptime, last-start uptime and start history,
and the generation counts are kept (PRDY and PD too: the model's choice, log 42; the state before stage 1 where the spec
gives no value, such as the debounced contacts equal to the raw ones, PRDY given at power-up and a tick phase of 0, is
the model's choice too, log 9). Memory, the pins and the contacts lie outside the part; a burst or cycle that the reset
cuts off leaves its region partly written, and a log entry or a page so cut off fails its check word (R110; which bytes
landed is free, log 8). -/
def Obligations.PowerUpAndPanelResetRestartThePart : Prop :=
  ∀ s : State, s.mem.wf →
    let cut (t : State) := t.mem.wf ∧ (s.writing = none → t.mem = s.mem) ∧
      ∀ a bytes, s.writing = some (a, bytes) →
        let words := bytes.length / 2
        let block := (∃ e, s.holder = .logWriter e) ∨ ∃ i image, s.holder = .deposit i image
        (∀ x, x < a ∨ a + bytes.length ≤ x → t.mem.read x = s.mem.read x) ∧
        (∀ i, i < bytes.length → ¬ (block ∧ i / 2 + 1 = words) →
          t.mem.read (a + i) = s.mem.read (a + i) ∨ t.mem.read (a + i) = bytes.getD i 0) ∧
        (block → 0 < words → blockSum (t.mem.readWords a words) ≠ 0xFFFF)
    (∃ t, exec .powerUp s = .next t ∧ cut t ∧
      t = { State.reset with
        pending := s.pending, mem := t.mem, freeCount := t.freeCount, uprst := s.uprst, ldcdPin := s.ldcdPin
        plant := { Plant.reset with lines := { LineUnit.reset with
          raw := s.plant.lines.raw, debounced := s.plant.lines.raw } } }) ∧
    (∃ t, exec .panelReset s = .next t ∧ cut t ∧
      t = { State.reset with
        pending := s.pending, load := .stage1 true, mem := t.mem, freeCount := t.freeCount, uprst := s.uprst
        ldcdPin := s.ldcdPin, prdy := s.prdy, pd := s.pd
        deposits := { DepositAgent.reset with gen := s.deposits.gen }
        plant := { Plant.reset with
          lines := { LineUnit.reset with raw := s.plant.lines.raw, debounced := s.plant.lines.raw }
          clock := { s.plant.clock with stagedLow := none, staging := .stopped }
          pumps := t.plant.pumps } } ∧
      ∀ n, t.plant.pump n = { Pump.reset with
        tripUptime := (s.plant.pump n).tripUptime, lastStart := (s.plant.pump n).lastStart
        history := (s.plant.pump n).history })

/-- R22, R16, R116, R124, R142: outside LOAD the assertion of UPRST stops the freshness timer and ends the freshness
condition, drops the staged clock value, the processor's staging, an open transaction and a waiting access, appends
UPSTREAM_RESET, and takes the mode to LOCAL with cause UPSTREAM. In LOAD the mode stays and no entry is appended. The
model's choices: with a transaction open UPSTREAM_RESET is appended first, then SETTINGS_ABANDON with point 37 handed,
then MODE_CHANGE with point 35 handed, where R150 and R94 leave the order open (log 12); PRDY stays withheld when a
waiting access is abandoned (log 42); an assertion that finds UPRST asserted is none (log 34). The release changes
nothing else. -/
def Obligations.UpstreamResetTakesLocal : Prop :=
  ∀ s : State, s.plant.out = [] →
    (s.uprst = false → s.load = .none → ∃ t, exec .upstreamReset s = .next t ∧
      t.uprst = true ∧ t.load = .none ∧
      t.plant.mode.mode = .localControl ∧ t.plant.mode.cause = .upstream ∧
      t.plant.mode.fresh = false ∧ t.plant.mode.freshTimer = .stopped ∧
      t.plant.mode.freshLast = s.plant.mode.freshLast ∧
      t.plant.clock = { s.plant.clock with stagedLow := none, staging := .stopped } ∧
      t.log.staging = none ∧ t.settings.txn = none ∧ (s.settings.txn = none → t.settings = s.settings) ∧
      (∀ x, s.settings.txn = some x →
        t.settings.last = some { sec := x.sec, range := x.range, result := .upstream }) ∧
      t.settings.lock = s.settings.lock ∧ t.settings.freeze = s.settings.freeze ∧
      t.port = (if s.port.isWaiting then .idle else s.port) ∧
      (¬ (s.plant.mode.mode = .localControl ∧ s.plant.mode.cause = .upstream) →
        t.plant.shadow.get 0 = modeWord 0 .localControl .upstream ∧ (0 : Fin 32) ∈ t.plant.corr) ∧
      (∃ more, t.log = ({ source := srcSystem, kind := 0x03, urgent := false
                          detail := detail1 s.plant.mode.mode.code ++ detail1 s.plant.mode.cause.code ++
                            detail4 s.plant.clock.uptime.toNat } :: more).foldl
          (fun l d => l.append t.plant.clock d) { s.log with staging := none }) ∧
      t = { s with
        uprst := true, port := t.port, plant := t.plant, log := t.log, settings := t.settings
        deposits := t.deposits } ∧
      s.Pages t) ∧
    (s.uprst = false → s.load ≠ .none → exec .upstreamReset s = .next { s with
      uprst := true, port := if s.port.isWaiting then .idle else s.port
      plant := { s.plant with
        clock := { s.plant.clock with stagedLow := none, staging := .stopped }
        mode := { s.plant.mode with freshTimer := .stopped, fresh := false } }
      log := { s.log with staging := none } }) ∧
    (s.uprst = true → exec .upstreamReset s = .next s) ∧
    exec .uprstRelease s = .next { s with uprst := false }

/-- R148, R139, R171: at the end of stage 1, H failing its check word or its content checks defaults every section and
empties the lock mask; with H passed each of S0 to S7 is judged on its own, the failures kept in section order; of a
section that fails both, the cause kept is CHECK (the model's choice, log 67). R144: the content checks of each
section, word by word; of the start and stop levels, to which 3.7 gives no range, their order alone (log 19); of H's
lock mask word, that bits 15:9 are 0 (the model's choice, log 65). R125: the window table is S0's, and with S0 failed
the default table. The debounced contacts are the raw ones, and the first scan has begun (R5, R6). Pumps and rakes go
to RESTING and IDLE, or ABSENT, and the present pumps form the rotation list (the model's choice, log 38). -/
def Obligations.LoadStage1JudgesSettings : Prop :=
  (∀ ws : List Word,
    let w (k : Nat) := (ws.getD k 0).toNat
    let between (n lo hi : Nat) := lo ≤ n ∧ n ≤ hi
    let base (e : Fin 8) := w (4 * e.val + 1) + 65536 * (w (4 * e.val + 2) % 256)
    let size (e : Fin 8) := 2 ^ w (4 * e.val + 3)
    (contentGood 8 ws = true ↔ w 0 = 0x4752 ∧ w 1 = 1 ∧ w 2 < 512) ∧
    (contentGood 0 ws = true ↔
      (∀ k, k < 8 → w (4 * k) ≤ 5) ∧
      (∀ kind, 1 ≤ kind ∧ kind ≤ 4 → (List.range 8).countP (fun k => w (4 * k) == kind) = 1) ∧
      (List.range 8).countP (fun k => w (4 * k) == 5) ≤ 4 ∧
      ∀ e : Fin 8, w (4 * e.val) ≠ 0 →
        between (w (4 * e.val + 3)) ([0, 8, 10, 10, 8, 8].getD (w (4 * e.val)) 0)
          ([0, 12, 10, 16, 8, 22].getD (w (4 * e.val)) 0) ∧
        base e % size e = 0 ∧ (base e + size e ≤ 0x0FE000 ∨ 0x100000 ≤ base e) ∧
        ∀ f : Fin 8, f ≠ e → w (4 * f.val) ≠ 0 → base e + size e ≤ base f ∨ base f + size f ≤ base e) ∧
    (contentGood 1 ws = true ↔ ∀ n : Fin 6,
      let x (k : Nat) := w (16 * n.val + k)
      x 0 ≤ 1 ∧ between (x 1) 1 8 ∧ between (x 2) 10 1800 ∧ between (x 3) 10 1800 ∧ between (x 4) 1 30 ∧
        between (x 5) 1 30) ∧
    (contentGood 2 ws = true ↔
      between (w 2) 10 500 ∧
      (∀ c : Fin 8,
        let x (k : Nat) := w (3 + 4 * c.val + k)
        1 ≤ x 1 ∧ x 0 + x 1 ≤ 9999 ∧ x 2 < x 3 ∧ x 3 ≤ 4095) ∧
      between (w 35) 1 60 ∧ between (w 36) 1 48 ∧ between (w 37) 1 48 ∧ w 38 ≤ 9999 ∧ w 39 ≤ 1000 ∧ w 39 ≤ w 38 ∧
      w 40 ≤ 10 ∧ between (w 41) 2 120 ∧
      (∀ k, k < 6 → w (48 + k) < w (42 + k)) ∧
      ∀ k, k < 5 → w (42 + k) < w (42 + (k + 1)) ∧ w (48 + k) < w (48 + (k + 1))) ∧
    (contentGood 3 ws = true ↔ ∀ n : Fin 2,
      let x (k : Nat) := w (16 * n.val + k)
      x 0 ≤ 1 ∧ between (x 1) 1 8 ∧ between (x 2) 50 2000 ∧ between (x 3) 100 3000 ∧ x 2 < x 3 ∧
        (x 4 = 0 ∨ between (x 4) 60 14400) ∧ between (x 5) 30 600 ∧ between (x 6) 2 30 ∧ between (x 7) 1 5 ∧
        between (x 8) 60 3600) ∧
    (contentGood 4 ws = true ↔ ∀ n : Fin 3,
      let x (k : Nat) := w (8 * n.val + k)
      x 0 ≤ 1 ∧ x 2 ≤ 200 ∧ x 1 + x 2 ≤ 9999 ∧ x 3 ≤ 300 ∧ x 4 ≤ 1800) ∧
    (contentGood 5 ws = true ↔ ∀ n : Fin 3,
      let head (k : Nat) := w (32 * n.val + 2 * k)
      let flow (k : Nat) := w (32 * n.val + 2 * k + 1)
      head 0 = 0xFFFF ∨ head 15 ≤ 9999 ∧ ∀ k, k < 15 → head k < head (k + 1) ∧ flow k ≤ flow (k + 1)) ∧
    contentGood 6 ws = true ∧
    (contentGood 7 ws = true ↔
      w 0 ≤ 5 ∧ w 1 ≤ 1 ∧ w 2 ≤ 500 ∧ between (w 3) 1 254 ∧ between (w 4) 30 3600 ∧ between (w 5) 10 3600 ∧
        between (w 6) 10 600) ∧
    (windowTable ws).length = 8 ∧
    (∀ e : Fin 8, (windowTable ws)[e.val]? = some
      (if w (4 * e.val) = 0 ∨ 5 < w (4 * e.val) then { kind := .none, base := 0, exp := 0 }
        else { kind := [WindowKind.none, .command, .status, .logRing, .logPort, .shield].getD (w (4 * e.val)) .none
               base := base e, exp := w (4 * e.val + 3) }))) ∧
  windowTable (defaultSection 0) =
    [{ kind := .logRing, base := 0x0F0000, exp := 15 }, { kind := .command, base := 0x0F8000, exp := 8 },
     { kind := .logPort, base := 0x0F8100, exp := 8 }, { kind := .status, base := 0x0F8400, exp := 10 }] ++
      List.replicate 4 { kind := .none, base := 0, exp := 0 } ∧
  ∀ (s : State) (panel : Bool), s.load = .stage1 panel → ∃ t, exec .loadStage1End s = .next t ∧
    let stored (i : Fin 9) := s.mem.readWords
      (0x0FF000 + [0x100, 0x200, 0x300, 0x400, 0x480, 0x500, 0x700, 0x800, 0x000].getD i.val 0) (sectionLength i)
    let passes (i : Fin 9) := blockSum (stored i) = 0xFFFF ∧ contentGood i (stored i) = true
    t.load = .stage2 panel ∧
    (∀ i : Fin 9,
      (passes 8 → passes i → t.plant.sections.get i =
        { words := stored i, source := .stored, storedDiffers := false, pendingReset := false }) ∧
      (¬ passes 8 ∨ ¬ passes i → t.plant.sections.get i =
        { words := defaultSection i, source := .default, storedDiffers := false, pendingReset := false })) ∧
    (blockSum (stored 8) ≠ 0xFFFF → t.kept = [{ sec := 8, content := false }] ∧ t.settings.lock = 0) ∧
    (blockSum (stored 8) = 0xFFFF → contentGood 8 (stored 8) = false →
      t.kept = [{ sec := 8, content := true }] ∧ t.settings.lock = 0) ∧
    (passes 8 → t.settings.lock = ((stored 8).getD 2 0).extractLsb' 0 9 ∧
      ∀ (i : Fin 9) (b : Bool), ({ sec := i, content := b } : KeptDefault) ∈ t.kept ↔
        i ≠ 8 ∧ (b = true ∧ blockSum (stored i) = 0xFFFF ∧ contentGood i (stored i) = false ∨
          b = false ∧ blockSum (stored i) ≠ 0xFFFF)) ∧
    (t.kept.map (fun k => k.sec.val)).Pairwise (· < ·) ∧
    t.windows = windowTable (t.plant.sections.get 0).words ∧
    t.link.s7 = (t.plant.sections.get 7).words ∧
    t.plant.lines.debounced = s.plant.lines.raw ∧ t.plant.levels.period = .running 10 ∧
    t.plant.levels.scan = some { codes := [], timer := .running 2 } ∧
    (∀ n, t.plant.pump n =
      { s.plant.pump n with state := if t.plant.pumpPresent n then PumpState.resting else PumpState.absent }) ∧
    (∀ n, t.plant.rake n =
      { s.plant.rake n with state := if t.plant.rakePresent n then RakeState.idle else RakeState.absent }) ∧
    t.plant.rotation = ([0, 1, 2, 3, 4, 5] : List (Fin 6)).filter t.plant.pumpPresent ∧
    t = { s with
      load := .stage2 panel, kept := t.kept, windows := t.windows
      settings := { s.settings with lock := t.settings.lock }
      plant := { s.plant with
        sections := t.plant.sections
        lines := { s.plant.lines with debounced := s.plant.lines.raw, stability := Vector.replicate 30 .stopped }
        levels := t.plant.levels, pumps := t.plant.pumps, rakes := t.plant.rakes, rotation := t.plant.rotation }
      link := { s.link with s7 := t.link.s7 } }

/-- R149, R17, R20, R24, R34, R133, R136: LOAD ends in LOCAL with cause START. R119: T is the highest sequence number
that lies valid in its slot plus one, and 1 with none; O is the lowest from which every number up to T − 1 does. R120:
P and W are those of page 15 if it is valid and they lie within O to T, else O. R91: a weir's resume mark is set where
the newest of its OVERFLOW entries is an OVERFLOW_START. R133: the shadow's words. All sixteen pages are marked. R61,
R53: a present pump goes to OUT_OF_SERVICE with OOS set, trips on an ACTIVE fault input, and else rests for its full
minimum off, RUN and RESET clear in its word; the desired count is evaluated. R77, R65, R67: a present rake goes to
OUT_OF_SERVICE or IDLE, or in storm posture triggers with STORM, and starts if its units fit. R92: a present weir takes
its channel, and enters RISING from crest plus margin on. R105, R149: each condition that holds takes its point to
ACTIVE_UNACK, the lowest becomes first-out. The entries are POWER_UP or PANEL_RESET, the kept SETTINGS_DEFAULT (their
bytes: logs 16, 33 and 46), STORM_ON, the PUMP_TRIP, the RAKE_START and RAKE_REVERSE (the home byte: log 46), the
ALARM_ON (instance 0, first-out byte: log 46). The model's choices: the rakes take their differentials at once, units
and weirs start in one order (log 24). The premise Settled rules out states of LOAD that no run reaches (claims,
points). -/
def Obligations.LoadEndEntersLocal : Prop :=
  ∀ (s : State) (panel : Bool), s.load = .stage2 panel → s.plant.out = [] → 0 < s.capacity →
    ∃ t, exec .loadEnd s = .next t ∧
    let holds (k : Fin 40) : Bool := decide (
      (∃ n, tripPoint n = k ∧ (t.plant.pump n).state = .tripped) ∨
      (∃ n, limitPoint n = k ∧ (t.plant.pump n).state ≠ .absent ∧
        s.plant.startsPerHour n + (if t.plant.mode.storm then s.plant.stormAllowance else 0) ≤
          (t.plant.pump n).history.length) ∨
      (∃ n, blindedPoint n = k ∧ (t.plant.rake n).blinded = true) ∨
      (∃ c, channelPoint c = k ∧ (s.plant.levels.channels.get c).state = .fault .badSample) ∨
      k = 29 ∧ 3 ≤ s.plant.levels.failCount ∨ k = 30 ∧ t.plant.mode.wetWell = true ∨
      k = 31 ∧ s.plant.active 26 = true ∨ k = 32 ∧ s.plant.active 27 = true ∨ k = 33 ∧ s.plant.active 28 = true ∨
      k = 36 ∧ (∃ i, (s.plant.sections.get i).source = .default) ∨ k = 38)
    let storm : List Draft := if t.plant.mode.storm then
      [{ source := srcMode, kind := 0x11, urgent := false
         detail := detail1 (bit t.plant.mode.wetWell + 4 * bit (s.plant.active 26)) }] else []
    let trips : List Draft := (allPumps.filter (fun n => (t.plant.pump n).state == .tripped)).map (fun n =>
      { source := srcPump n, kind := 0x23, urgent := false, detail := [2, 2] })
    let starts : List Draft := allRakes.flatMap (fun n =>
      if (t.plant.claim (rakeHolder n)).status = .held then
        { source := srcScreen n, kind := 0x30, urgent := false
          detail := detail1 3 ++ detail1 (bit (s.plant.homeActive n)) } ::
        if s.plant.overloadActive n then [{ source := srcScreen n, kind := 0x32, urgent := false, detail := detail2 1 }]
        else []
      else [])
    let alarms : List Draft := (allPoints.filter holds).map (fun k =>
      { source := srcAlarm, kind := 0x50, urgent := s.plant.pointLevel k == 0
        detail := detail1 k.val ++ detail1 (pointClass k) ++ detail1 (pointPlace k) ++
          detail1 (s.plant.pointLevel k) ++ detail1 0 ++ detail1 (bit (allPoints.find? holds == some k)) })
    t.load = .none ∧ t.kept = [] ∧ t.mem = s.mem ∧
    t.plant.clock = s.plant.clock ∧ t.plant.levels = s.plant.levels ∧ t.plant.sections = s.plant.sections ∧
    t.plant.mode.mode = .localControl ∧ t.plant.mode.cause = .start ∧ t.plant.mode.fresh = false ∧
    t.plant.mode.freshTimer = .stopped ∧
    t.plant.mode.freshLast = s.mem.readWord ((s.window .command).base + 2) ∧
    t.plant.mode.supply = (if s.plant.active 28 then .generator else .mains) ∧
    t.plant.mode.floatHigh = s.plant.active 26 ∧ t.plant.mode.overflow = false ∧
    (t.plant.mode.wetWell = true ↔ (s.plant.levels.channels.get 0).state = .good ∧
      ∃ v, (s.plant.levels.channels.get 0).value = some v ∧ s.plant.stormLevel ≤ v) ∧
    t.plant.mode.storm = (t.plant.mode.wetWell || s.plant.active 26) ∧
    t.plant.shadow.get 0 = modeWord 0 .localControl .start ∧
    (∀ i : Fin 32, spareWord i = true → t.plant.shadow.get i = s.mem.readWord ((s.window .command).base + 2 * i.val)) ∧
    (∀ n : Fin 6, (t.plant.shadow.get (pumpWord n)).getLsbD 2 = false ∧ t.plant.pumpOosSet n =
      (s.mem.readWord ((s.window .command).base + 2 * (pumpWord n).val)).getLsbD 1) ∧
    (∀ n : Fin 6,
      let word := s.mem.readWord ((s.window .command).base + 2 * (pumpWord n).val)
      let was := s.plant.pump n
      let now := t.plant.pump n
      (s.plant.pumpPresent n = true ∨ was.state = .absent →
        t.plant.shadow.get (pumpWord n) = word &&& 0xFFFA ∧ (pumpWord n ∈ t.plant.corr ↔ word &&& 0xFFFA ≠ word)) ∧
      (s.plant.pumpPresent n = false → was.state = .absent → now = was) ∧
      (s.plant.pumpPresent n = true → word.getLsbD 1 = true → now = { was with state := .outOfService }) ∧
      (s.plant.pumpPresent n = true → word.getLsbD 1 = false → s.plant.faultActive n = false →
        now = { was with
          state := .resting, deferred := false, feedback := .stopped, minRun := .stopped
          minOff := .running (s.plant.minOffTime n) }) ∧
      (s.plant.pumpPresent n = true → word.getLsbD 1 = false → s.plant.faultActive n = true →
        now = { was with
          state := .tripped, tripCause := .fault, tripUptime := some s.plant.clock.uptime, deferred := false
          feedback := .stopped, minRun := .stopped, minOff := .stopped })) ∧
    t.plant.desired = (if s.plant.active 27 then 0
      else if s.plant.active 26 then s.plant.presentCount
      else match (s.plant.levels.channels.get 0).state, (s.plant.levels.channels.get 0).value with
        | .good, some v => min (max s.plant.desired (s.plant.startLevels.countP (fun y => y ≤ v)))
            (s.plant.stopLevels.countP (fun y => y ≤ v))
        | _, _ => s.plant.desired) ∧
    (∀ n : Fin 3,
      let channel := s.plant.levels.channels.get (weirChannel n)
      let w := { s.plant.weir n with resume := (t.plant.weir n).resume }
      let taken := { w with channelGood := channel.state == .good, level := channel.value }
      (s.plant.weirPresent n = false → t.plant.weir n = w) ∧
      (s.plant.weirPresent n = true → ∀ v, channel.state = .good → channel.value = some v →
        t.plant.weir n = if s.plant.crest n + s.plant.startMargin n ≤ v
          then { taken with state := .rising, startConfirm := .running (s.plant.startConfirmTime n) } else taken) ∧
      (s.plant.weirPresent n = true → channel.state ≠ .good ∨ channel.value = none → t.plant.weir n = taken)) ∧
    (s.Settled → t.plant.queue = [] ∧ t.plant.rotation = s.plant.rotation ∧ t.plant.stagger = s.plant.stagger ∧
      (∀ n : Fin 6, (t.plant.claim (pumpHolder n)).status = .none) ∧
      ∀ n : Fin 2,
        let word := s.mem.readWord ((s.window .command).base + 2 * (screenWord n).val)
        let now := t.plant.rake n
        let read := { s.plant.rake n with
          differential := now.differential, counts := now.counts, blinded := now.blinded }
        let claim := t.plant.claim (rakeHolder n)
        (s.plant.rakePresent n = false → now = read ∧ claim.status = .none) ∧
        (s.plant.rakePresent n = true → word.getLsbD 1 = true →
          now = { read with state := .outOfService } ∧ claim.status = .none) ∧
        (s.plant.rakePresent n = true → word.getLsbD 1 = false → t.plant.mode.storm = false → claim.status = .none ∧
          now = { read with
            state := .idle, cycle := .stopped, reverse := .stopped, hold := .stopped, held := false
            interval := if s.plant.intervalTime n = 0 then .stopped else .running (s.plant.intervalTime n) }) ∧
        (s.plant.rakePresent n = true → word.getLsbD 1 = false → t.plant.mode.storm = true →
          claim.units = s.plant.rakeUnits n ∧
          (claim.status = .waiting ∧ t.plant.budget < t.plant.heldUnits + claim.units ∧
              now = { read with
                state := .waiting, trigger := .storm, interval := .stopped, cycle := .stopped, reverse := .stopped
                held := false, hold := .running (s.plant.maximumHold n) } ∨
            claim.status = .held ∧
              now = { read with
                state := if s.plant.overloadActive n then .reversing else .raking
                trigger := .storm, interval := .stopped, hold := .stopped, held := false
                attempts := if s.plant.overloadActive n then 1 else 0
                homeLeave := !s.plant.homeActive n, cycleStart := some s.plant.clock.uptime
                cycle := if s.plant.overloadActive n then .stopped else .running (s.plant.cycleTime n)
                reverse := if s.plant.overloadActive n then .running (s.plant.reverseTime n) else .stopped }))) ∧
    (s.Settled → t.plant.alarms.firstOut = allPoints.find? holds ∧ ∀ k, t.plant.alarms.points.get k =
      if holds k then { condition := true, state := .activeUnack } else { condition := false, state := .normal }) ∧
    (∀ n : Fin 2, t.plant.shadow.get (screenWord n) =
      s.mem.readWord ((s.window .command).base + 2 * (screenWord n).val) &&& 0xFFFA) ∧
    (∀ i : Fin 32, (∀ n, pumpWord n ≠ i) → (i ∈ t.plant.corr ↔
      t.plant.shadow.get i ≠ s.mem.readWord ((s.window .command).base + 2 * i.val))) ∧
    (∀ i, t.deposits.dirty.get i = true) ∧ t.deposits.gen = s.deposits.gen ∧ t.link.ldcd = s.ldcdPin ∧
    (let slot (x : Nat) := (s.window .logRing).base + x % s.capacity * 32
     let valid (x : Nat) := x ≠ 0 ∧ blockValid (s.mem.readWords (slot x) 16) = true ∧
       bytesNat (s.mem.readBytes (slot x) 4) = x
     let page := s.mem.readBytes ((s.window .status).base + 960) 64
     let shownP := bytesNat ((page.drop 14).take 4)
     let shownW := bytesNat ((page.drop 18).take 4)
     ∃ tail oldest : Nat,
      (∀ x, valid x → x < tail) ∧ (valid (tail - 1) ∨ tail = 1) ∧
      1 ≤ oldest ∧ oldest ≤ tail ∧ (∀ x, oldest ≤ x → x < tail → valid x) ∧ ¬ valid (oldest - 1) ∧
      (let within := blockValid (bytesWords page) = true ∧ oldest ≤ shownP ∧ shownP ≤ tail ∧ oldest ≤ shownW ∧ shownW ≤ tail
       let first : Draft :=
         { source := 0x01, kind := if panel then 0x02 else 0x01, urgent := false
           detail := detail1 (if (s.plant.sections.get 8).source = .stored then 1 else 0) ++
             detail1 ((([0, 1, 2, 3, 4, 5, 6, 7] : List (Fin 9)).map (fun i =>
               if (s.plant.sections.get i).source = .default then 2 ^ i.val else 0)).sum) ++
             detail2 s.capacity ++ detail4 oldest ++ detail4 tail ++ detail4 s.plant.clock.uptime.toNat }
       let default (k : KeptDefault) : Draft :=
         { source := 0x50, kind := 0x62, urgent := false
           detail := [BitVec.ofNat 8 k.sec.val, if k.content then 6 else 5] ++ (if k.sec = 8 then [0xFF] else []) }
       ∃ more, (s.Settled → more = storm ++ trips ++ starts ++ alarms) ∧
        t.log = (first :: s.kept.map default ++ more).foldl (fun l d => l.append s.plant.clock d)
        { a := tail, t := tail, o := oldest, p := if within then shownP else oldest
          w := if within then shownW else oldest, s := if within then shownW else oldest, pmiss := 0, tmiss := 0
          dropped := false, dropCount := 0, queue := [], staging := none, lastCommit := .none }) ∧
      ∀ n : Fin 3,
        let starts (x : Nat) := s.mem.read (slot x + 8) = srcWeir n ∧ s.mem.read (slot x + 9) = 0x40
        let ends (x : Nat) := s.mem.read (slot x + 8) = srcWeir n ∧ s.mem.read (slot x + 9) = 0x41
        ((t.plant.weir n).resume = true ↔
          ∃ x, oldest ≤ x ∧ x < tail ∧ starts x ∧ ∀ y, x < y → y < tail → ¬ starts y ∧ ¬ ends y)) ∧
    (∀ n : Fin 2,
      let up := s.plant.levels.channels.get (upstreamChannel n)
      let down := s.plant.levels.channels.get (downstreamChannel n)
      (∀ x y, up.state = .good → up.value = some x → down.state = .good → down.value = some y →
        (t.plant.rake n).counts = true ∧ (t.plant.rake n).differential = (x : Int) - (y : Int) ∧
        ((t.plant.rake n).blinded = true ↔
          (s.plant.rake n).state ≠ .absent ∧ (s.plant.blindLevel n : Int) ≤ (x : Int) - (y : Int))) ∧
      (up.state ≠ .good ∨ down.state ≠ .good → (t.plant.rake n).counts = false)) ∧
    t = { s with
      load := .none, kept := [], log := t.log, plant := t.plant, deposits := t.deposits
      link := { s.link with ldcd := s.ldcdPin } }

/-! Field lines, levels and the clock. -/

/-- R14, R15, R86, R88: a seconds tick raises uptime and station time and counts every job timer down; each weir in
OVERFLOWING or FALLING whose volume is present makes its volume step, in the state it held before the tick. Page 0 and
the pages of those weirs are marked dirty. The tick phase goes back to 0, and no millisecond timer is counted by the
command (the model's choice, log 6). -/
def Obligations.SecondsTickCountsTimeAndVolume : Prop :=
  ∀ s : State, ∃ t, exec .secondsTick s = .next t ∧
    t.plant.clock = { s.plant.clock with
      uptime := s.plant.clock.uptime + 1, station := s.plant.clock.station + 1, phase := 0
      staging := s.plant.clock.staging.tick } ∧
    t.plant.mode = { s.plant.mode with freshTimer := s.plant.mode.freshTimer.tick } ∧
    t.plant.stagger = s.plant.stagger.tick ∧
    (∀ n, t.plant.pump n = { s.plant.pump n with
      feedback := (s.plant.pump n).feedback.tick, minRun := (s.plant.pump n).minRun.tick
      minOff := (s.plant.pump n).minOff.tick }) ∧
    (∀ n, t.plant.rake n = { s.plant.rake n with
      cycle := (s.plant.rake n).cycle.tick, reverse := (s.plant.rake n).reverse.tick
      interval := (s.plant.rake n).interval.tick, hold := (s.plant.rake n).hold.tick }) ∧
    (∀ n, t.plant.weir n = { s.plant.weir n with
      startConfirm := (s.plant.weir n).startConfirm.tick, endConfirm := (s.plant.weir n).endConfirm.tick
      litres := (t.plant.weir n).litres, openRecord := (t.plant.weir n).openRecord }) ∧
    (∀ n, (s.plant.weir n).steps = false →
      (t.plant.weir n).litres = (s.plant.weir n).litres ∧
        (t.plant.weir n).openRecord = (s.plant.weir n).openRecord) ∧
    (∀ n r curve level, (s.plant.weir n).steps = true → (s.plant.weir n).openRecord = some r →
      s.plant.curve n = some curve → (s.plant.weir n).channelGood = true → (s.plant.weir n).level = some level →
      (t.plant.weir n).litres =
        min ((s.plant.weir n).litres + (flowAt curve ((level : Int) - (s.plant.crest n : Int))).1) 16777214999 ∧
      (t.plant.weir n).openRecord = some { r with
        volume := some ((t.plant.weir n).litres / 1000)
        flags := { r.flags with beyondCurve :=
          r.flags.beyondCurve || (flowAt curve ((level : Int) - (s.plant.crest n : Int))).2 } }) ∧
    (∀ n r, (s.plant.weir n).steps = true → (s.plant.weir n).openRecord = some r →
      s.plant.curve n = none ∨ (s.plant.weir n).channelGood = false →
      (t.plant.weir n).litres = (s.plant.weir n).litres ∧
        (t.plant.weir n).openRecord = some { r with volume := none }) ∧
    (∀ x, s.settings.txn = some x → t.settings.txn = some { x with idle := x.idle.tick }) ∧
    (s.settings.txn = none → t.settings = s.settings) ∧
    t.reporter.linkTimer = s.reporter.linkTimer.tick ∧ t.reporter.pollTimer = s.reporter.pollTimer.tick ∧
    (∀ c, s.reporter.cycle = some c → t.reporter.cycle = some { c with timer := c.timer.tick }) ∧
    (s.plant.loading = false → t.deposits.dirty.get 0 = true ∧
      ∀ n, (s.plant.weir n).steps = true → t.deposits.dirty.get (weirPageNumber n) = true) ∧
    (∀ i, s.deposits.dirty.get i = true → t.deposits.dirty.get i = true) ∧
    t = { s with
      plant := { s.plant with
        clock := t.plant.clock, mode := t.plant.mode, pumps := t.plant.pumps, stagger := t.plant.stagger
        rakes := t.plant.rakes, weirs := t.plant.weirs }
      settings := { s.settings with txn := t.settings.txn }
      reporter := { s.reporter with
        linkTimer := t.reporter.linkTimer, pollTimer := t.reporter.pollTimer, cycle := t.reporter.cycle }
      deposits := { s.deposits with dirty := t.deposits.dirty } }

/-- R2, R5: a sample of an input contact sets the raw state, and starts, keeps or cancels the stability timer; in LOAD
stage 1 no timer runs. A contact that is no input line is none of the part's (log 1). -/
def Obligations.RawContactSampleStartsStabilityTimer : Prop :=
  ∀ (s : State) (l : Fin 30) (c : Contact), s.plant.out = [] →
    (isInputLine l = false → exec (.rawContactChange l c) s = .next s) ∧
    (isInputLine l = true → ∃ t, exec (.rawContactChange l c) s = .next t ∧
      t.plant.lines.raw.get l = c ∧
      (∀ m, m ≠ l → t.plant.lines.raw.get m = s.plant.lines.raw.get m ∧
        t.plant.lines.stability.get m = s.plant.lines.stability.get m) ∧
      (∀ panel, s.load = .stage1 panel → t.plant.lines.stability = s.plant.lines.stability) ∧
      ((∀ panel, s.load ≠ .stage1 panel) → t.plant.lines.stability.get l =
        if c = s.plant.lines.debounced.get l then .stopped
        else if (s.plant.lines.stability.get l).isRunning then s.plant.lines.stability.get l
        else .running (s.plant.debounceTime / 10)) ∧
      t.plant = { s.plant with lines :=
        { s.plant.lines with raw := t.plant.lines.raw, stability := t.plant.lines.stability } } ∧
      t.log = s.log ∧ s.PlantStep t [])

/-- R2, R5: at the expiry of the stability timer the debounced state takes the raw value. With the reading the same, or
in LOAD, nothing else happens; else the event goes to the line's owners, and no other line moves. R68, R69: F22 and
F23 end a cycle in RAKING with RAKE_END, or set the home-leave flag; F24 and F25 send RAKING to REVERSING with
RAKE_REVERSE. R32, R33, R53, R54: F26 moves storm posture, the desired count and FLOAT_HIGH, the storm entry first
(the model's choice, log 23); at F27's return the desired count is evaluated, but not in LOCAL (the model's choice
where R52 and R53 differ, log 13). A claim given up holds 0 units (log 60). F6 to F17, F27 and F28 have statements of their own. -/
def Obligations.DebounceExpiryTakesRawState : Prop :=
  ∀ (s : State) (l : Fin 30), s.plant.out = [] → isInputLine l = true → s.plant.lines.stability.get l = .running 0 →
    let p := s.plant.settleLine l
    ∃ t, exec (.debounceExpiry l) s = .next t ∧ s.PlantStep t [] ∧
      t.plant.lines.raw = s.plant.lines.raw ∧
      t.plant.lines.debounced = p.lines.debounced ∧ t.plant.lines.stability = p.lines.stability ∧
      t.plant.clock = s.plant.clock ∧ t.plant.levels = s.plant.levels ∧ t.plant.weirs = s.plant.weirs ∧
      t.plant.sections = s.plant.sections ∧
      (s.plant.loading = true ∨ p.active l = s.plant.active l → t.plant = p ∧ t.log = s.log) ∧
      (s.plant.loading = false → p.active l ≠ s.plant.active l →
        let desired := match (s.plant.levels.channels.get 0).state, (s.plant.levels.channels.get 0).value with
          | .good, some v =>
            min (max s.plant.desired (s.plant.startLevels.countP (fun x => x ≤ v)))
              (s.plant.stopLevels.countP (fun x => x ≤ v))
          | _, _ => s.plant.desired
        (∀ n : Fin 2, l = homeLine n →
          let r := s.plant.rake n
          p.SameInputs t.plant ∧ s.plant.SameOrders t.plant ∧
          (p.active l = true → r.state = .raking → r.homeLeave = true →
            s.PlantStep t [{ source := srcScreen n, kind := 0x31, urgent := false
                             detail := detail1 0 ++ detail1 r.trigger.code ++ detail2 r.attempts ++
                               detail4 (s.plant.cycleDuration n) }] ∧
            (s.plant.mode.storm = false → s.plant.Rests t.plant n)) ∧
          (p.active l = true → r.state ≠ .raking ∨ r.homeLeave = false → s.plant.Calm →
            t.plant.rakes = s.plant.rakes ∧ t.plant.claims = s.plant.claims) ∧
          (p.active l = false → r.state = .raking ∨ r.state = .reversing ∨ r.state = .suspended →
            (t.plant.rake n).homeLeave = true ∧
            (s.plant.Calm → t.plant.rake n = { r with homeLeave := true } ∧ t.plant.claims = s.plant.claims)) ∧
          (p.active l = false → r.state ≠ .raking → r.state ≠ .reversing → r.state ≠ .suspended → s.plant.Calm →
            t.plant.rakes = s.plant.rakes ∧ t.plant.claims = s.plant.claims)) ∧
        (∀ n : Fin 2, l = overloadLine n →
          let r := s.plant.rake n
          p.SameInputs t.plant ∧ s.plant.SameOrders t.plant ∧
          (p.active l = true → r.state = .raking →
            s.PlantStep t [{ source := srcScreen n, kind := 0x32, urgent := false, detail := detail2 (r.attempts + 1) }] ∧
            (s.plant.Calm → t.plant.rake n = { r with
              state := .reversing, attempts := r.attempts + 1, cycle := .stopped
              reverse := .running (s.plant.reverseTime n) } ∧ t.plant.claims = s.plant.claims)) ∧
          (p.active l = false ∨ r.state ≠ .raking → s.plant.Calm →
            t.plant.rakes = s.plant.rakes ∧ t.plant.claims = s.plant.claims)) ∧
        (l = 26 →
          let storm := s.plant.mode.wetWell || s.plant.mode.overflow || p.active 26
          t.plant.mode = { s.plant.mode with floatHigh := p.active 26, storm := storm } ∧
          (storm ≠ s.plant.mode.storm →
            s.PlantStep t [{ source := srcMode, kind := if storm then 0x11 else 0x12, urgent := false
                             detail := detail1 (bit s.plant.mode.wetWell + 2 * bit s.plant.mode.overflow +
                               4 * bit (p.active 26)) }]) ∧
          t.plant.desired = (if p.active 27 then 0 else if p.active 26 then s.plant.presentCount else desired) ∧
          (t.plant.alarms.points.get 31).condition = p.active 26) ∧
        (l = 27 → p.active 27 = false →
          t.plant.mode = s.plant.mode ∧ (t.plant.alarms.points.get 32).condition = false ∧
          t.plant.desired = (if s.plant.mode.mode = .localControl then s.plant.desired
            else if p.active 26 then s.plant.presentCount else desired)))

/-- R40, R41, R43: the running feedback becoming ACTIVE takes a pump in STARTING to RUNNING. A pump trips on its fault
input in OFF, RESTING, STARTING and RUNNING, on the loss of its running feedback in RUNNING, and at the expiry of its
feedback timer in STARTING. A claim given up holds 0 units (the model's choice, log 60). -/
def Obligations.PumpInputsConfirmAndTrip : Prop :=
  ∀ (s : State) (n : Fin 6), s.plant.out = [] → s.plant.loading = false →
    (s.plant.lines.stability.get (feedbackLine n) = .running 0 → s.plant.feedbackActive n = false →
      (s.plant.settleLine (feedbackLine n)).feedbackActive n = true → (s.plant.pump n).state = .starting →
      n ∉ s.plant.queue → (s.plant.claim (pumpHolder n)).status = .held →
      ∃ t, exec (.debounceExpiry (feedbackLine n)) s = .next t ∧
        s.PlantStep t [{ source := srcPump n, kind := 0x21, urgent := false, detail := [] }] ∧
        t.plant.pump n = { s.plant.pump n with
          state := .running, feedback := .stopped, minRun := .running (s.plant.minRunTime n), deferred := false } ∧
        t.plant.claim (pumpHolder n) = s.plant.claim (pumpHolder n) ∧
        (s.plant.settleLine (feedbackLine n)).RunsOnly t.plant) ∧
    (s.plant.lines.stability.get (faultLine n) = .running 0 → s.plant.faultActive n = false →
      (s.plant.settleLine (faultLine n)).faultActive n = true →
      (s.plant.pump n).state = .off ∨ (s.plant.pump n).state = .resting ∨ (s.plant.pump n).state = .starting ∨
        (s.plant.pump n).state = .running →
      ∃ t, exec (.debounceExpiry (faultLine n)) s = .next t ∧
        s.TripStep t (s.plant.settleLine (faultLine n)) n .fault) ∧
    (s.plant.lines.stability.get (feedbackLine n) = .running 0 → s.plant.feedbackActive n = true →
      (s.plant.settleLine (feedbackLine n)).feedbackActive n = false → (s.plant.pump n).state = .running →
      ∃ t, exec (.debounceExpiry (feedbackLine n)) s = .next t ∧
        s.TripStep t (s.plant.settleLine (feedbackLine n)) n .feedbackLost) ∧
    ((s.plant.pump n).state = .starting → (s.plant.pump n).feedback = .running 0 →
      ∃ t, exec (.feedbackTimeout n) s = .next t ∧ s.TripStep t s.plant n .feedback)

/-- R52: the low-low float becoming ACTIVE stops every pump in motion, flushes the queue, clears every RUN field and
sets the desired count to 0; FLOAT_LOWLOW becomes active. The PUMP_STOP entries come in ascending pump number, and a claim
given up holds 0 units (the model's choices, logs 48 and 60). -/
def Obligations.LowLowFloatStopsEveryPump : Prop :=
  ∀ s : State, s.plant.out = [] → s.plant.loading = false → s.plant.lines.stability.get 27 = .running 0 →
    s.plant.lowLowActive = false → (s.plant.settleLine 27).lowLowActive = true →
    ∃ t, exec (.debounceExpiry 27) s = .next t ∧
      s.PlantStep t (if ∀ n, s.plant.faultActive n = false
        then ((allPumps.filter (fun n => (s.plant.pump n).state.inMotion)).map (fun n =>
          { source := srcPump n, kind := 0x22, urgent := false, detail := detail1 1 }))
        else []) ∧
      (∀ n, (t.plant.pump n).state.inMotion = false ∧ t.plant.demand n = false) ∧
      (∀ n, (s.plant.pump n).state.inMotion = true →
        t.plant.claim (pumpHolder n) = { status := .none, units := 0 } ∧
        (s.plant.faultActive n = false → t.plant.pump n = { s.plant.pump n with
          state := .resting, deferred := false, feedback := .stopped, minRun := .stopped
          minOff := .running (s.plant.minOffTime n) })) ∧
      (∀ n, (s.plant.pump n).state.inMotion = false → t.plant.pump n = s.plant.pump n) ∧
      t.plant.queue = [] ∧ t.plant.desired = 0 ∧ (t.plant.alarms.points.get 32).condition = true ∧
      (s.plant.settleLine 27).RunsOnly t.plant

/-- R24, R30, R31: F28 changing changes the supply. SUPPLY_CHANGE is the first entry, and ON_GENERATOR follows the
supply. Held units above the new budget are shed within the event: the rakes in motion, then the pumps started last, as
many as it takes; LOAD_SHED names them in that order with the budget, and becomes active; otherwise a change to MAINS
makes it inactive. R72: where the mains carry all, every suspended rake resumes with RAKE_RESUME (the code of the state
it gives: the model's choice, log 46), or comes to rest, its claim with 0 units (log 60). The premises on the claims
are R26's and R63's, that a pump holds units only in STARTING or RUNNING, and for the resumption that a rake waits for
units exactly in WAITING or SUSPENDED. -/
def Obligations.SupplyChangeKeepsWithinBudget : Prop :=
  ∀ (s : State) (generator : Bool), s.plant.out = [] → s.plant.loading = false →
    s.plant.lines.stability.get 28 = .running 0 →
    s.plant.onGenerator = !generator → (s.plant.settleLine 28).onGenerator = generator →
    s.plant.mode.supply = supplyOf (!generator) →
    (∀ n, (s.plant.claim (pumpHolder n)).status = .held → (s.plant.pump n).state.inMotion = true) →
    let budget := bif generator then s.plant.generatorBudget else s.plant.mainsBudget
    ∃ t, exec (.debounceExpiry 28) s = .next t ∧
      s.PlantStep t [{ source := srcMode, kind := 0x13, urgent := false
                       detail := detail1 (supplyOf (!generator)).code ++ detail1 (supplyOf generator).code }] ∧
      t.plant.mode = { s.plant.mode with
        supply := supplyOf generator
        loadShed := if budget < s.plant.heldUnits then true else generator && s.plant.mode.loadShed } ∧
      t.plant.withinBudget ∧ (t.plant.alarms.points.get 33).condition = generator ∧
      t.plant.weirs = s.plant.weirs ∧ t.plant.levels = s.plant.levels ∧ t.plant.clock = s.plant.clock ∧
      t.plant.desired = s.plant.desired ∧
      ((∀ n, s.plant.faultActive n = false) → t.plant.shadow = s.plant.shadow ∧ t.plant.corr = s.plant.corr) ∧
      (budget < s.plant.heldUnits →
        let units (l : List (Fin 6)) := (l.map (fun n => (s.plant.claim (pumpHolder n)).units)).sum
        let started (n : Fin 6) := ((s.plant.pump n).lastStart.getD 0).toNat
        (t.plant.alarms.points.get 34).condition = true ∧
        ∃ stopped : List (Fin 6),
          stopped.Nodup ∧ stopped.Pairwise (fun n m => started m ≤ started n) ∧
          (∀ n, n ∈ stopped ↔ (s.plant.pump n).state.inMotion = true ∧ (t.plant.pump n).state.inMotion = false) ∧
          s.Logs t { source := srcMode, kind := 0x14, urgent := false
                     detail := s.plant.rakesInMotion.map srcScreen ++ stopped.map srcPump ++ detail2 budget } ∧
          (∀ n, n ∈ stopped → ∀ m, m ∉ stopped → (s.plant.pump m).state.inMotion = true → started m ≤ started n) ∧
          ((∀ n, (s.plant.pump n).state.inMotion = true → (s.plant.claim (pumpHolder n)).status = .held) →
            s.plant.heldUnits ≤ budget + s.plant.rakeHeldUnits + units stopped ∧
            (stopped ≠ [] → budget + s.plant.rakeHeldUnits + units stopped.dropLast < s.plant.heldUnits))) ∧
      (generator = false → s.plant.queue = [] → (∀ n, (s.plant.claim (pumpHolder n)).status ≠ .waiting) →
        s.plant.rakesWait → s.plant.mode.storm = false →
        s.plant.heldUnits + ((allRakes.filter (fun n => (s.plant.claim (rakeHolder n)).status = .waiting)).map
          (fun n => (s.plant.claim (rakeHolder n)).units)).sum ≤ budget →
        ∀ n, (s.plant.claim (rakeHolder n)).status = .waiting → (s.plant.rake n).state = .suspended →
          let r := s.plant.rake n
          s.Logs t { source := srcScreen n, kind := 0x34, urgent := false
                     detail := detail1 (if r.fromReversing then 4 else 3) } ∧
          (t.plant.alarms.points.get (heldPoint n)).condition = false ∧
          (r.fromReversing = false → r.homeLeave = true → s.plant.homeActive n = true → s.plant.Rests t.plant n) ∧
          (r.fromReversing = true ∨ r.homeLeave = false ∨ s.plant.homeActive n = false →
            t.plant.claim (rakeHolder n) = { s.plant.claim (rakeHolder n) with status := .held }) ∧
          (r.fromReversing = true → t.plant.rake n = { r with
            state := .reversing, hold := .stopped, held := false, reverse := .running (s.plant.reverseTime n) }) ∧
          (r.fromReversing = false → r.homeLeave = false ∨ s.plant.homeActive n = false →
            t.plant.rake n = if s.plant.overloadActive n
              then { r with
                state := .reversing, hold := .stopped, held := false, attempts := r.attempts + 1, cycle := .stopped
                reverse := .running (s.plant.reverseTime n) }
              else { r with state := .raking, hold := .stopped, held := false, cycle := r.cycle.resume }))

/-- R4: at the end of a phase of 500 ms of a FLASH demand the beacon turns over and the next phase starts. -/
def Obligations.BeaconTurnsOverAtPhaseEnd : Prop :=
  ∀ s : State, s.plant.out = [] → s.plant.lines.beaconTimer = .running 0 →
    ∃ t, exec .beaconFlashPhase s = .next t ∧ s.PlantStep t [] ∧ t.log = s.log ∧
      t.plant = { s.plant with lines :=
        { s.plant.lines with beaconOn := !s.plant.lines.beaconOn, beaconTimer := .running 50 } }

/-- R6: a period of 100 ms begins; with no scan in progress a scan starts at channel 0. A good reply before the eighth
is kept, and the next exchange has its 20 ms; a reply outside a scan changes nothing (the model's choice, log 1). In
each exchange the part sends the select of its channel, the channel in bits 2:0 and the other bits zero (12.7), and
between scans none. -/
def Obligations.ScanCollectsRepliesInOrder : Prop :=
  ∀ s : State, s.plant.out = [] →
    (s.plant.levels.scan = none → s.plant.levels.selectSent = none) ∧
    (∀ x, s.plant.levels.scan = some x → x.codes.length < 8 → ∃ w, s.plant.levels.selectSent = some w ∧
      (w.extractLsb' 0 3).toNat = x.codes.length ∧ w.extractLsb' 3 13 = 0) ∧
    (s.plant.levels.period = .running 0 → ∃ t, exec .scanStart s = .next t ∧ s.PlantStep t [] ∧ t.log = s.log ∧
      t.plant = { s.plant with levels := { s.plant.levels with
        period := .running 10
        scan := match s.plant.levels.scan with
          | some x => some x
          | none => some { codes := [], timer := .running 2 } } } ∧
      (s.plant.levels.scan = none → t.plant.levels.selectSent = some 0)) ∧
    (∀ reply : Word, ∃ t, exec (.exchangeReply reply) s = .next t ∧
      (s.plant.levels.scan = none → s.PlantStep t [] ∧ t.log = s.log ∧ t.plant = s.plant) ∧
      (∀ x, s.plant.levels.scan = some x → x.codes.length < 7 →
        reply.getLsbD 15 = true → (reply.extractLsb' 12 3).toNat = x.codes.length →
        s.PlantStep t [] ∧ t.log = s.log ∧ t.plant = { s.plant with levels := { s.plant.levels with
          scan := some { codes := x.codes ++ [(reply.extractLsb' 0 12).toNat], timer := .running 2 } } } ∧
        t.plant.levels.selectSent = some (BitVec.ofNat 16 (x.codes.length + 1))))

/-- R6, R7: a reply without the valid marker or with another channel's echo, and an exchange without its reply, fail
the scan. A count of 3 puts every GOOD channel in FAULT with cause CONVERTER, empties every ring, and makes
CONVERTER_FAIL active; any other count moves nothing else. R12: outside LOAD the count of 3 delivers a level-updated
event, with every channel in FAULT. R32: the wet-well condition, and with it storm posture, stays. R53: the desired
count follows the floats alone. R64: no differential counts, and each rake keeps its last one and SCREEN_BLINDED. R82:
each weir takes its channel's fault as the statement on weirs says. With nothing waiting, no storm standing, and in
AUTO or with the desired count as it was, nothing else of the plant moves but what the alarm unit makes of its points.
-/
def Obligations.FailedScanIsCounted : Prop :=
  ∀ (s : State) (c : Instr) (x : Scan), s.plant.out = [] → s.plant.levels.scan = some x →
    (c = .exchangeTimeout ∧ x.timer = .running 0 ∨ ∃ reply : Word, c = .exchangeReply reply ∧
      (reply.getLsbD 15 = false ∨ (reply.extractLsb' 12 3).toNat ≠ x.codes.length)) →
    ∃ t, exec c s = .next t ∧ s.PlantStep t [] ∧
      t.plant.levels.failCount = min (s.plant.levels.failCount + 1) 255 ∧
      t.plant.levels.scan = none ∧ t.plant.levels.period = s.plant.levels.period ∧
      (s.plant.levels.failCount ≠ 2 → t.log = s.log ∧
        t.plant = { s.plant with levels :=
          { s.plant.levels with scan := none, failCount := min (s.plant.levels.failCount + 1) 255 } }) ∧
      (s.plant.levels.failCount = 2 →
        (∀ c, (s.plant.levels.channels.get c).state = .good → t.plant.levels.channels.get c =
          { s.plant.levels.channels.get c with state := .fault .converter, stale := true, ring := [], goodCount := 0 }) ∧
        (∀ c, (s.plant.levels.channels.get c).state ≠ .good → t.plant.levels.channels.get c =
          { s.plant.levels.channels.get c with ring := [], goodCount := 0 }) ∧
        (s.plant.loading = true → t.plant = { s.plant with levels := t.plant.levels } ∧ t.log = s.log) ∧
        (s.plant.loading = false →
          let p := s.plant
          let q := t.plant
          (q.alarms.points.get 29).condition = true ∧
          (∀ c, (q.alarms.points.get (channelPoint c)).condition = ((q.levels.channels.get c).state == .fault .badSample)) ∧
          q.clock = p.clock ∧ q.sections = p.sections ∧ q.mode = p.mode ∧ q.lines.raw = p.lines.raw ∧
          q.lines.debounced = p.lines.debounced ∧ q.lines.stability = p.lines.stability ∧
          q.desired = (if p.lowLowActive then 0 else if p.floatHighActive then p.presentCount else p.desired) ∧
          (∀ n, (q.rake n).counts = false ∧ (q.rake n).differential = (p.rake n).differential ∧
            (q.rake n).blinded = (p.rake n).blinded) ∧
          (∀ n, q.weir n = ({ p with levels := q.levels }.weirLevel n).weir n) ∧
          (p.Calm → p.mode.mode = .auto ∨ q.desired = p.desired →
            (∀ n, q.rake n = { p.rake n with counts := false }) ∧
            q = { p with
              levels := q.levels, desired := q.desired, rakes := q.rakes, weirs := q.weirs
              alarms := q.alarms, lines := q.lines })))

/-- R8, R9, R10: the eighth good reply completes the scan, and each channel takes its code. A code outside the fault
codes is a bad sample; a good sample joins the ring, and the filtered value is zero + sum × span / 16380 truncated, in
GOOD at each sample and in FAULT at the fourth. CHANNEL_FAULT follows the cause BAD_SAMPLE. R12: outside LOAD the
consumers take the level-updated event. R32, R33: the wet-well condition with its hysteresis, storm posture and its
entry, LEVEL_HIGH. R53: the desired count. R56, R57: in LOCAL a rise gives demands up to it while a pump qualifies, and
a fall withdraws them down to it, and in AUTO every demand stays, all where no condition of storm posture (R32) moves
within the event, since the limits then stay (R33, R47). R64, R65: each rake's differential, SCREEN_BLINDED and the
DIFFERENTIAL trigger. Each weir takes its level as the statement on weirs says, after the mode unit, so that a storm
entry gives the overflow condition of before the event (the model's choice, log 23). A scan in progress at a commit of
S2 is judged with the fault codes at its completion (the model's choice, log 55). -/
def Obligations.CompleteScanFiltersEveryChannel : Prop :=
  ∀ (s : State) (reply : Word) (x : Scan), s.plant.out = [] → s.plant.levels.scan = some x → x.codes.length = 7 →
    reply.getLsbD 15 = true → (reply.extractLsb' 12 3).toNat = 7 →
    ∃ t, exec (.exchangeReply reply) s = .next t ∧ s.PlantStep t [] ∧
      t.plant.levels.failCount = 0 ∧ t.plant.levels.scan = none ∧
      t.plant.levels.period = s.plant.levels.period ∧ t.plant.sections = s.plant.sections ∧
      t.plant.clock = s.plant.clock ∧ t.plant.lines.debounced = s.plant.lines.debounced ∧
      (s.plant.loading = false → (t.plant.alarms.points.get 29).condition = false) ∧
      (∀ c : Fin 8,
        let was := s.plant.levels.channels.get c
        let now := t.plant.levels.channels.get c
        let code := (x.codes ++ [(reply.extractLsb' 0 12).toNat]).getD c.val 0
        let value (ring : List Nat) := s.plant.zero c + ring.sum * s.plant.span c / (4 * 4095)
        (s.plant.loading = false →
          (t.plant.alarms.points.get (channelPoint c)).condition = (now.state == .fault .badSample)) ∧
        (code < s.plant.lowCode c ∨ s.plant.highCode c < code →
          (was.state = .good → now = { was with state := .fault .badSample, ring := [], goodCount := 0, stale := true }) ∧
          (was.state ≠ .good → now = { was with state := .fault .badSample, ring := [], goodCount := 0 })) ∧
        (s.plant.lowCode c ≤ code → code ≤ s.plant.highCode c →
          (was.state = .good → now = { was with
            ring := was.ring.drop (was.ring.length - 3) ++ [code], stale := false
            value := some (value (was.ring.drop (was.ring.length - 3) ++ [code])) }) ∧
          (was.state ≠ .good → was.goodCount + 1 = 4 → now =
            { ring := was.ring ++ [code], goodCount := 4, state := .good, stale := false
              value := some (value (was.ring ++ [code])) }) ∧
          (was.state ≠ .good → was.goodCount + 1 ≠ 4 → now =
            { was with ring := was.ring ++ [code], goodCount := was.goodCount + 1 }))) ∧
      (s.plant.loading = true → t.plant = { s.plant with levels := t.plant.levels } ∧ t.log = s.log) ∧
      (s.plant.loading = false →
        let p := s.plant
        let q := t.plant
        let well := q.levels.channels.get 0
        (q.mode.wetWell = match well.state, well.value with
          | .good, some v =>
            if p.stormLevel ≤ v then true else if v < p.stormLevel - p.stormHysteresis then false else p.mode.wetWell
          | _, _ => p.mode.wetWell) ∧
        (q.alarms.points.get 30).condition = (if q.mode.wetWell = p.mode.wetWell
          then (p.alarms.points.get 30).condition else q.mode.wetWell) ∧
        (q.mode.wetWell ≠ p.mode.wetWell ∨ q.mode.overflow ≠ p.mode.overflow →
          q.mode.storm = (q.mode.wetWell || q.mode.overflow || p.mode.floatHigh)) ∧
        (q.mode.wetWell = true → p.mode.wetWell = false → p.mode.storm = false →
          s.Logs t { source := srcMode, kind := 0x11, urgent := false
                     detail := detail1 (1 + 2 * bit p.mode.overflow + 4 * bit p.mode.floatHigh) }) ∧
        (q.mode.wetWell = false → p.mode.wetWell = true → p.mode.storm = true → p.mode.overflow = false →
          p.mode.floatHigh = false →
          s.Logs t { source := srcMode, kind := 0x12, urgent := false, detail := detail1 0 }) ∧
        q.desired = (if p.active 27 then 0
          else if p.active 26 then p.presentCount
          else match well.state, well.value with
            | .good, some v => min (max p.desired (p.startLevels.countP (fun y => y ≤ v)))
                (p.stopLevels.countP (fun y => y ≤ v))
            | _, _ => p.desired) ∧
        (p.mode.mode ≠ .localControl → p.SamePosture q → ∀ n, q.demand n = p.demand n) ∧
        (p.mode.mode = .localControl → p.SamePosture q → p.desired < q.desired →
          (∀ n, p.demand n = true → q.demand n = true) ∧
          q.demandedCount ≤ max p.demandedCount q.desired ∧
          (q.demandedCount < q.desired →
            ∀ n, ¬ ((q.pump n).state = .running ∧ (q.pump n).deferred = true) ∧
              (n ∈ q.rotation → (q.pump n).state = .off → q.demand n = true ∨ q.atLimit n = true))) ∧
        (p.mode.mode = .localControl → p.SamePosture q → q.desired < p.desired → q.desired < p.demandedCount →
          p.queue.Nodup → (∀ n, n ∈ p.queue ↔ (p.pump n).state = .off ∧ p.demand n = true) →
          (∀ n, p.demand n = true → (p.pump n).state = .off ∨ (p.pump n).state = .resting ∧ n ∈ p.rotation ∨
            (p.pump n).state.inMotion = true) →
          q.demandedCount = q.desired ∧ (∀ n, q.demand n = true → p.demand n = true) ∧
          ∀ n m, p.demand n = true → q.demand n = false → q.demand m = true →
            ((p.pump n).state.inMotion = true → (p.pump m).state.inMotion = true ∧
              ((p.pump n).lastStart.getD 0).toNat ≤ ((p.pump m).lastStart.getD 0).toNat) ∧
            ((p.pump n).state = .resting → (p.pump m).state ≠ .off)) ∧
        (∀ n : Fin 2,
          let up := q.levels.channels.get (upstreamChannel n)
          let down := q.levels.channels.get (downstreamChannel n)
          (up.state ≠ .good ∨ down.state ≠ .good → (q.rake n).counts = false ∧
            (q.rake n).differential = (p.rake n).differential ∧ (q.rake n).blinded = (p.rake n).blinded) ∧
          (∀ u v, up.state = .good → up.value = some u → down.state = .good → down.value = some v →
            (q.rake n).counts = true ∧ (q.rake n).differential = (u : Int) - (v : Int) ∧
            (q.rake n).blinded =
              ((p.rake n).state != .absent && decide ((p.blindLevel n : Int) ≤ (u : Int) - (v : Int))) ∧
            (q.alarms.points.get (blindedPoint n)).condition = (q.rake n).blinded ∧
            ((p.rake n).state = .idle → (p.diffTrigger n : Int) ≤ (u : Int) - (v : Int) → p.PostureLaw →
              p.mode.storm = false → q.mode.storm = false →
              (q.rake n).trigger = .differential ∧ ((q.rake n).state = .waiting ∨ (q.rake n).state = .raking ∨
                (q.rake n).state = .reversing)))) ∧
        ∀ n, q.weir n = ({ p with levels := q.levels }.weirLevel n).weir n)

/-- R15, R16, R90: the low word is absorbed and staged for 10 s. With a low word staged the high word sets station time,
appends CLOCK_SET, flags every open record and marks page 0; with none it is refused with ORDER_BROKEN and changes no
clock state. At the expiry the staged value is discarded. -/
def Obligations.ClockSetPairSetsStationTime : Prop :=
  ∀ (s : State) (v : Word), s.plant.out = [] →
    (s.Takes (s.commandWrite 2 v) →
      ∃ t, exec (.clockSetLowWrite v) s = .next t ∧ s.AccessStep t (s.commandWrite 2 v) .absorb ∧
        t.plant = { s.plant with clock := { s.plant.clock with stagedLow := some v, staging := .running 10 } } ∧
        t.log = s.log ∧ t.settings = s.settings ∧ t.link = s.link) ∧
    (∀ low, s.Takes (s.commandWrite 3 v) → s.plant.clock.stagedLow = some low →
      ∃ t, exec (.clockSetHighWrite v) s = .next t ∧ s.AccessStep t (s.commandWrite 3 v) .absorb ∧
        t.plant.clock = { s.plant.clock with
          station := v ++ low, clockSet := true, stagedLow := none, staging := .stopped } ∧
        (∀ n, t.plant.weir n = { s.plant.weir n with
          openRecord := (s.plant.weir n).openRecord.map
            (fun r => { r with flags := { r.flags with clockChanged := true } }) }) ∧
        t.plant = { s.plant with clock := t.plant.clock, weirs := t.plant.weirs } ∧
        t.log = s.log.append t.plant.clock
          { source := srcSystem, kind := 0x04, urgent := false
            detail := detail4 s.plant.clock.station.toNat ++ detail4 (v ++ low).toNat ++ detail1 0 } ∧
        (s.plant.loading = false → t.deposits.dirty.get 0 = true) ∧
        t.settings = s.settings ∧ t.link = s.link) ∧
    (s.Takes (s.commandWrite 3 v) → s.plant.clock.stagedLow = none →
      ∃ t, exec (.clockSetHighWrite v) s = .next t ∧
        s.AccessOnly t (s.commandWrite 3 v) (.refuse .orderBroken)) ∧
    (s.plant.clock.staging = .running 0 → exec .clockStagingExpiry s = .next { s with
      plant := { s.plant with clock := { s.plant.clock with stagedLow := none, staging := .stopped } } })

/-! The station mode unit. -/

/-- R19, R18, R23: a mode word is judged by its requested field and goes out with the mode unit's own mode and cause.
LOCAL in AUTO is a mode change with cause COMMANDED; AUTO is granted in LOCAL while the freshness condition holds and UPRST
is inactive, and else trimmed with MODE_REFUSED; a field of no meaning is trimmed with BAD_CODE. -/
def Obligations.ModeRequestsAreJudged : Prop :=
  ∀ (s : State) (rest : BitVec 14), s.plant.out = [] →
    let kept (requested : Nat) := modeWord requested s.plant.mode.mode s.plant.mode.cause
    let sent (t : State) (a : Access) (v : Verdict) (w : Word) :=
      s.AccessStep t a v ∧ t.plant = { s.plant with shadow := vset s.plant.shadow 0 w } ∧
        t.log = (s.outcomeEntries a v).foldl (fun l d => l.append s.plant.clock d) s.log ∧
        t.settings = s.settings ∧ t.link = s.link
    let moved (t : State) (a : Access) (requested : Nat) (m : Mode) (cause : ModeCause) :=
      s.AccessStep t a (.rewrite (modeWord requested m cause)) ∧
        s.Logged t [{ source := srcMode, kind := 0x10, urgent := false
                      detail := detail1 s.plant.mode.mode.code ++ detail1 s.plant.mode.cause.code ++
                        detail1 m.code ++ detail1 cause.code }] ∧
        t.plant.mode = { s.plant.mode with mode := m, cause := cause } ∧
        t.plant.shadow.get 0 = modeWord requested m cause ∧ (0 : Fin 32) ∈ t.plant.corr ∧
        (t.plant.alarms.points.get 35).condition = false ∧
        ({ s.plant with mode := t.plant.mode }.setShadow 0 (modeWord requested m cause)).RunsOnly t.plant ∧
        t.settings = s.settings ∧ t.link = s.link
    (s.Takes (s.commandWrite 0 (rest ++ 0#2)) → ∃ t, exec (.modeRequestNone rest) s = .next t ∧
      sent t (s.commandWrite 0 (rest ++ 0#2)) (.rewrite (kept 0)) (kept 0)) ∧
    (s.Takes (s.commandWrite 0 (rest ++ 3#2)) → ∃ t, exec (.modeRequestBadCode rest) s = .next t ∧
      sent t (s.commandWrite 0 (rest ++ 3#2)) (.trim (kept 0) .badCode) (kept 0)) ∧
    (s.Takes (s.commandWrite 0 (rest ++ 2#2)) → ∃ t, exec (.modeRequestLocal rest) s = .next t ∧
      (s.plant.mode.mode = .localControl → sent t (s.commandWrite 0 (rest ++ 2#2)) (.rewrite (kept 2)) (kept 2)) ∧
      (s.plant.mode.mode = .auto → moved t (s.commandWrite 0 (rest ++ 2#2)) 2 .localControl .commanded)) ∧
    (s.Takes (s.commandWrite 0 (rest ++ 1#2)) → ∃ t, exec (.modeRequestAuto rest) s = .next t ∧
      (s.plant.mode.mode = .auto → sent t (s.commandWrite 0 (rest ++ 1#2)) (.rewrite (kept 1)) (kept 1)) ∧
      (s.plant.mode.mode = .localControl → s.plant.mode.fresh = true → s.uprst = false →
        moved t (s.commandWrite 0 (rest ++ 1#2)) 1 .auto .none) ∧
      (s.plant.mode.mode = .localControl → s.plant.mode.fresh = false ∨ s.uprst = true →
        sent t (s.commandWrite 0 (rest ++ 1#2)) (.trim (kept 0) .modeRefused) (kept 0)))

/-- R20, R21: the freshness word is forwarded; a value that differs from the last is fresh and restarts the timer. At the
expiry the condition ends, and in AUTO the mode goes to LOCAL with cause LAPSE, an urgent entry. R58: the pump unit adopts
the pumps in motion and flushes the queue. R57: more than the desired count lose their demands from the earliest start on,
stopped or with their stop deferred. R56: with fewer, pumps in OFF below their limit get demands in rotation order until
the count is reached. Each word whose RUN changed joins the correction set. -/
def Obligations.FreshnessKeepsAuto : Prop :=
  ∀ s : State, s.plant.out = [] →
    (∀ v, s.Takes (s.commandWrite 1 v) → ∃ t, exec (.freshnessWrite v) s = .next t ∧
      s.AccessStep t (s.commandWrite 1 v) .forward ∧ t.log = s.log ∧ t.settings = s.settings ∧ t.link = s.link ∧
      t.plant = { s.plant with
        shadow := vset s.plant.shadow 1 v
        mode := if v = s.plant.mode.freshLast then s.plant.mode
          else { s.plant.mode with
            freshLast := v, freshTimer := .running s.plant.freshnessLimit, freshLimit := s.plant.freshnessLimit
            fresh := true } }) ∧
    (s.plant.mode.freshTimer = .running 0 → ∃ t, exec .freshnessExpiry s = .next t ∧
      (s.plant.mode.mode ≠ .auto → s.PlantStep t [] ∧
        t.plant.mode = { s.plant.mode with freshTimer := .stopped, fresh := false } ∧
        s.plant.SameOrders t.plant) ∧
      (s.plant.mode.mode = .auto →
        s.PlantStep t [{ source := srcMode, kind := 0x10, urgent := true
                         detail := detail1 1 ++ detail1 s.plant.mode.cause.code ++ detail1 2 ++ detail1 2 }] ∧
        t.plant.mode = { s.plant.mode with
          freshTimer := .stopped, fresh := false, mode := .localControl, cause := .lapse } ∧
        t.plant.shadow.get 0 = modeWord 0 .localControl .lapse ∧ (0 : Fin 32) ∈ t.plant.corr ∧
        (t.plant.alarms.points.get 35).condition = true ∧
        ({ s.plant with mode := t.plant.mode }.setShadow 0 (t.plant.shadow.get 0)).RunsOnly t.plant ∧
        t.plant.desired = s.plant.desired ∧
        (∀ n, t.plant.demand n ≠ s.plant.demand n → pumpWord n ∈ t.plant.corr) ∧
        (let p := s.plant
         let q := t.plant
         let moving := allPumps.filter (fun n => (p.pump n).state.inMotion)
         let ready (n : Fin 6) := (p.pump n).state == .off && !p.atLimit n
         let candidates := p.rotation.filter ready
         (moving.length ≤ p.desired → p.rotation.Nodup →
           let given := candidates.take (p.desired - moving.length)
           (∀ n, q.demand n = true ↔ (p.pump n).state.inMotion = true ∨ n ∈ given) ∧
           (q.queue = given ∨ q.queue = given.drop 1) ∧
           (∀ n, (p.pump n).state.inMotion = true → q.pump n = { p.pump n with deferred := false })) ∧
         (p.desired < moving.length →
           q.queue = [] ∧ q.demandedCount = p.desired ∧
           (∀ n, q.demand n = true → (p.pump n).state.inMotion = true ∧ q.pump n = { p.pump n with deferred := false } ∧
             ∀ m, (p.pump m).state.inMotion = true → q.demand m = false → p.lastStartN m ≤ p.lastStartN n) ∧
           ∀ n, (p.pump n).state.inMotion = true → q.demand n = false →
             if (p.pump n).state = .running ∧ (p.pump n).minRun.isRunning = true
             then q.pump n = { p.pump n with deferred := true }
             else (q.pump n).state.inMotion = false))))

/-! Pumps. -/

/-- R48: whatever it asks for, a write to a pump command word leaves OOS and the other positions as written, RESET clear
and RUN the pump's demand in the shadow. It is a TRIM with the shadow word exactly where RESET is refused (on a pump that
stands in TRIPPED with its fault input ACTIVE), or a set RUN in AUTO by a row of the table, both judged on the pump as the
fields before have left it (R44, R45, R50); else it is a REWRITE where the word was pending or, outside AUTO, RUN was written
otherwise, and a FORWARD where not. R51: outside AUTO a word that moves no OOS and resets nothing leaves every demand. That
a REFUSAL entry comes after every entry of the pump unit and the others is the model's choice (log 58; R109 and R130 leave
the order open). -/
def Obligations.PumpWordSetsItsShadow : Prop :=
  ∀ (s : State) (n : Fin 6) (w : Word) (c : Instr), s.plant.out = [] →
    c = .pumpOos n w ∨ c = .pumpReset n w ∨ c = .pumpRun n w → s.Takes (s.commandWrite (pumpWord n) w) →
    ∃ t v, exec c s = .next t ∧ s.AccessStep t (s.commandWrite (pumpWord n) w) v ∧
      (∀ k, k < 16 → k ≠ 0 → k ≠ 2 → (t.plant.shadow.get (pumpWord n)).getLsbD k = w.getLsbD k) ∧
      (t.plant.shadow.get (pumpWord n)).getLsbD 2 = false ∧
      (let fault := s.plant.faultActive n
       let q := s.plant.pump n
       let rested := (s.plant.clock.uptime - q.tripUptime.getD s.plant.clock.uptime).toNat
       let oosed : PumpState :=
         if w.getLsbD 1 = s.plant.pumpOosSet n then q.state
         else if w.getLsbD 1 = true then (if q.state = .absent then .absent else .outOfService)
         else if q.state = .outOfService then (if fault = true then .tripped else .resting) else q.state
       let reset : PumpState :=
         if w.getLsbD 2 = true ∧ oosed = .tripped ∧ fault = false
         then (if s.plant.minOffTime n ≤ rested then .off else .resting) else oosed
       let runRefused : Option RefusalCause :=
         if s.plant.mode.mode ≠ .auto ∨ w.getLsbD 0 = false then none
         else if reset = .absent then some .pumpAbsent
         else if reset = .tripped then some .pumpTripped
         else if reset = .outOfService then some .pumpOos
         else if s.plant.lowLowActive = true then some .dryWell
         else if reset = .off ∧ s.plant.currentLimit n ≤ q.history.length then some .startLimit
         else none
       let refused : Option RefusalCause :=
         if w.getLsbD 2 = true ∧ oosed = .tripped ∧ fault = true then some .pumpTripped else runRefused
       v = (match refused with
         | some cause => .trim (t.plant.shadow.get (pumpWord n)) cause
         | none => if pumpWord n ∈ s.plant.corr ∨ s.plant.mode.mode ≠ .auto ∧ w.getLsbD 0 ≠ t.plant.demand n
           then .rewrite (t.plant.shadow.get (pumpWord n)) else .forward) ∧
       (s.plant.mode.mode = .auto → t.plant.demand n = (w.getLsbD 0 && runRefused.isNone)) ∧
       (s.plant.mode.mode ≠ .auto → w.getLsbD 1 = s.plant.pumpOosSet n →
         w.getLsbD 2 = false ∨ q.state ≠ .tripped ∨ fault = true →
         (∀ m, t.plant.demand m = s.plant.demand m) ∧ (s.plant.Calm → t.plant.pumps = s.plant.pumps))) ∧
      s.plant.SameInputs t.plant ∧
      (∀ i, (∀ m, pumpWord m ≠ i) → t.plant.shadow.get i = s.plant.shadow.get i) ∧
      (∀ m k, m ≠ n → k ≠ 0 →
        (t.plant.shadow.get (pumpWord m)).getLsbD k = (s.plant.shadow.get (pumpWord m)).getLsbD k) ∧
      (∀ i, i ∈ s.plant.corr → i ∈ t.plant.corr) ∧
      (∃ entries, t.log = (entries ++ s.outcomeEntries (s.commandWrite (pumpWord n) w) v).foldl
        (fun l d => l.append s.plant.clock d) s.log) ∧
      t.settings = s.settings ∧ t.link = s.link

/-- R50, R36, R41: in AUTO a set RUN is trimmed by the first row of the table that matches, and else is the demand; a clear
RUN withdraws the demand. A demand in OFF queues the pump; withdrawn in RUNNING it stops the pump, or defers the stop. A
claim given up holds 0 units (the model's choice, log 60). -/
def Obligations.RunFieldIsJudgedInAuto : Prop :=
  ∀ (s : State) (n : Fin 6) (w : Word), s.plant.out = [] → s.Takes (s.commandWrite (pumpWord n) w) →
    s.plant.mode.mode = .auto → w.getLsbD 1 = s.plant.pumpOosSet n → w.getLsbD 2 = false →
    ∃ t v, exec (.pumpRun n w) s = .next t ∧ s.AccessStep t (s.commandWrite (pumpWord n) w) v ∧
      (w.getLsbD 0 = true →
        let state := (s.plant.pump n).state
        let refused (cause : RefusalCause) :=
          v = .trim (t.plant.shadow.get (pumpWord n)) cause ∧ t.plant.demand n = false
        if state = .absent then refused .pumpAbsent
        else if state = .tripped then refused .pumpTripped
        else if state = .outOfService then refused .pumpOos
        else if s.plant.lowLowActive = true then refused .dryWell
        else if state = .off ∧ s.plant.currentLimit n ≤ (s.plant.pump n).history.length then refused .startLimit
        else t.plant.demand n = true ∧ v.refusal = none ∧
          (state = .off → s.plant.demand n = false →
            n ∈ t.plant.queue ∨ (t.plant.pump n).state.inMotion = true) ∧
          (state = .resting → n ∉ s.plant.queue → (s.plant.claim (pumpHolder n)).status ≠ .waiting →
            t.plant.pump n = s.plant.pump n)) ∧
      (w.getLsbD 0 = false → t.plant.demand n = false ∧ v.refusal = none ∧
        (s.plant.demand n = true → (s.plant.pump n).state = .off → n ∉ t.plant.queue) ∧
        (s.plant.demand n = true → (s.plant.pump n).state = .running → (s.plant.pump n).minRun.isRunning = true →
          n ∉ s.plant.queue → (s.plant.claim (pumpHolder n)).status = .held →
          t.plant.pump n = { s.plant.pump n with deferred := true }) ∧
        (s.plant.demand n = true → (s.plant.pump n).state = .running → (s.plant.pump n).minRun.isRunning = false →
          s.plant.faultActive n = false →
          t.plant.pump n = { s.plant.pump n with
            state := .resting, deferred := false, feedback := .stopped, minRun := .stopped
            minOff := .running (s.plant.minOffTime n) } ∧
          t.plant.claim (pumpHolder n) = { status := .none, units := 0 }))

/-- R45: OOS set takes the pump out of service from every state but ABSENT, its timers, units, place in the queue and
demand gone; OOS clear puts it in RESTING for the full minimum off, or trips it on an ACTIVE fault input. In ABSENT the
field acts on nothing. The model's choices: PUMP_STOP is the first entry where RUN is trimmed too, before its REFUSAL
(log 58), and a claim given up holds 0 units (log 60). -/
def Obligations.OosFieldTakesPumpOutOfService : Prop :=
  ∀ (s : State) (n : Fin 6) (w : Word), s.plant.out = [] → s.plant.loading = false →
    s.Takes (s.commandWrite (pumpWord n) w) → w.getLsbD 1 = !s.plant.pumpOosSet n →
    ∃ t v, exec (.pumpOos n w) s = .next t ∧ s.AccessStep t (s.commandWrite (pumpWord n) w) v ∧
      t.plant.pumpOosSet n = w.getLsbD 1 ∧
      ((s.plant.pump n).state = .absent → n ∉ s.plant.queue → (s.plant.claim (pumpHolder n)).status = .none →
        t.plant.pump n = s.plant.pump n) ∧
      (w.getLsbD 1 = true → (s.plant.pump n).state ≠ .absent → (s.plant.pump n).state ≠ .outOfService →
        t.plant.pump n = { s.plant.pump n with
          state := .outOfService, deferred := false, feedback := .stopped, minRun := .stopped, minOff := .stopped } ∧
        t.plant.demand n = false ∧ n ∉ t.plant.queue ∧
        t.plant.claim (pumpHolder n) = { status := .none, units := 0 } ∧
        (t.plant.alarms.points.get (tripPoint n)).condition = false ∧
        ((s.plant.pump n).state.inMotion = true →
          s.Logged t [{ source := srcPump n, kind := 0x22, urgent := false, detail := detail1 3 }]) ∧
        (s.plant.mode.mode = .auto → w.getLsbD 0 = true →
          v = .trim (t.plant.shadow.get (pumpWord n)) .pumpOos) ∧
        (s.plant.mode.mode = .auto ∧ w.getLsbD 0 = true ∨ v.refusal = none)) ∧
      (w.getLsbD 1 = false → (s.plant.pump n).state = .outOfService →
        (s.plant.faultActive n = false → t.plant.pump n = { s.plant.pump n with
          state := .resting, deferred := false, feedback := .stopped, minRun := .stopped
          minOff := .running (s.plant.minOffTime n) }) ∧
        (s.plant.faultActive n = true → (t.plant.pump n).state = .tripped ∧ (t.plant.pump n).tripCause = .fault ∧
          (t.plant.pump n).tripUptime = some s.plant.clock.uptime))

/-- R44: RESET in TRIPPED with the fault input INACTIVE appends PUMP_RESET and times the minimum off from the trip; with
nothing left of it the pump goes on to OFF. With the fault input ACTIVE it is refused with PUMP_TRIPPED. PUMP_RESET is the
first entry where RUN is trimmed too, before its REFUSAL (the model's choice, log 58). -/
def Obligations.ResetFieldClearsTrip : Prop :=
  ∀ (s : State) (n : Fin 6) (w : Word) (u : Time), s.plant.out = [] → s.plant.loading = false →
    s.Takes (s.commandWrite (pumpWord n) w) → w.getLsbD 1 = s.plant.pumpOosSet n → w.getLsbD 2 = true →
    (s.plant.pump n).state = .tripped → (s.plant.pump n).tripUptime = some u →
    ∃ t v, exec (.pumpReset n w) s = .next t ∧ s.AccessStep t (s.commandWrite (pumpWord n) w) v ∧
      (s.plant.faultActive n = false →
        s.Logged t [{ source := srcPump n, kind := 0x24, urgent := false, detail := [] }] ∧
        (t.plant.alarms.points.get (tripPoint n)).condition = false ∧
        ((s.plant.clock.uptime - u).toNat < s.plant.minOffTime n → t.plant.pump n = { s.plant.pump n with
          state := .resting, deferred := false, feedback := .stopped, minRun := .stopped
          minOff := .running (s.plant.minOffTime n - (s.plant.clock.uptime - u).toNat) }) ∧
        (s.plant.minOffTime n ≤ (s.plant.clock.uptime - u).toNat →
          (t.plant.pump n).state = .off ∨ (t.plant.pump n).state.inMotion = true)) ∧
      (s.plant.faultActive n = true → v = .trim (t.plant.shadow.get (pumpWord n)) .pumpTripped ∧
        (n ∉ s.plant.queue → (s.plant.claim (pumpHolder n)).status = .none → t.plant.pump n = s.plant.pump n))

/-- R41, R42: at the expiry of the minimum run a deferred stop is made, and nothing else. At the expiry of the minimum off
the pump enters OFF; a demand then standing queues it below its limit and is withdrawn at it; an ACTIVE fault input trips
it (R43, R47). Entries of a start history that have reached 3600 s leave it, and START_LIMIT follows the count (R46). R55:
where a deferred stop takes the last pump out of motion, the lead of the rotation moves to its end. A claim given up holds
0 units (the model's choice, log 60). -/
def Obligations.PumpTimersExpire : Prop :=
  ∀ (s : State) (n : Fin 6), s.plant.out = [] → s.plant.loading = false →
    ((s.plant.pump n).state = .running → (s.plant.pump n).minRun = .running 0 →
      ∃ t, exec (.minimumRunExpiry n) s = .next t ∧ s.plant.RunsOnly t.plant ∧
        ((s.plant.pump n).deferred = false → s.PlantStep t [] ∧
          t.plant.shadow = s.plant.shadow ∧ t.plant.corr = s.plant.corr ∧ t.plant.rotation = s.plant.rotation ∧
          (n ∉ s.plant.queue → (s.plant.claim (pumpHolder n)).status = .held →
            t.plant.pump n = { s.plant.pump n with minRun := .stopped }) ∧
          (s.plant.Calm → t.plant.pumps = vset s.plant.pumps n { s.plant.pump n with minRun := .stopped } ∧
            t.plant.claims = s.plant.claims ∧
            (s.plant.Announced → t.log = s.log))) ∧
        ((s.plant.pump n).deferred = true →
          s.PlantStep t [{ source := srcPump n, kind := 0x22, urgent := false, detail := detail1 0 }] ∧
          t.plant.claim (pumpHolder n) = { status := .none, units := 0 } ∧
          t.plant.rotation = (if ∃ m, m ≠ n ∧ (s.plant.pump m).state.inMotion = true then s.plant.rotation
            else s.plant.rotation.drop 1 ++ s.plant.rotation.take 1) ∧
          (s.plant.faultActive n = false → t.plant.pump n = { s.plant.pump n with
            state := .resting, deferred := false, feedback := .stopped, minRun := .stopped
            minOff := .running (s.plant.minOffTime n) }))) ∧
    ((s.plant.pump n).state = .resting → (s.plant.pump n).minOff = .running 0 →
      ∃ t, exec (.minimumOffExpiry n) s = .next t ∧ s.PlantStep t [] ∧ s.plant.RunsOnly t.plant ∧
        (s.plant.faultActive n = true →
          s.TripStep t (s.plant.setPump n { s.plant.pump n with state := .off, minOff := .stopped }) n .fault) ∧
        (s.plant.faultActive n = false →
          ((t.plant.pump n).state = .off ∨ (t.plant.pump n).state.inMotion = true) ∧
          (s.plant.demand n = true → (s.plant.pump n).history.length < s.plant.currentLimit n →
            t.plant.demand n = true ∧ (n ∈ t.plant.queue ∨ (t.plant.pump n).state.inMotion = true)) ∧
          (s.plant.demand n = true → s.plant.currentLimit n ≤ (s.plant.pump n).history.length →
            n ∉ s.plant.queue → (s.plant.claim (pumpHolder n)).status ≠ .waiting →
            t.plant.demand n = false ∧ n ∉ t.plant.queue ∧
            t.plant.pump n = { s.plant.pump n with state := .off, minOff := .stopped }) ∧
          (s.plant.demand n = false → s.plant.mode.mode = .auto → n ∉ s.plant.queue →
            (s.plant.claim (pumpHolder n)).status ≠ .waiting →
            t.plant.pump n = { s.plant.pump n with state := .off, minOff := .stopped }))) ∧
    (∀ u rest, (s.plant.pump n).history = u :: rest → 3600 ≤ (s.plant.clock.uptime - u).toNat →
      ∃ t, exec (.startHistoryAgeOut n) s = .next t ∧ s.PlantStep t [] ∧ s.plant.RunsOnly t.plant ∧
        (t.plant.alarms.points.get (limitPoint n)).condition =
          ((t.plant.pump n).state != .absent && decide (t.plant.currentLimit n ≤ (t.plant.pump n).history.length)) ∧
        (s.plant.mode.mode = .auto → n ∉ s.plant.queue → (s.plant.claim (pumpHolder n)).status ≠ .waiting →
          t.plant.pump n = { s.plant.pump n with
            history := (s.plant.pump n).history.dropWhile
              (fun x => decide (3600 ≤ (s.plant.clock.uptime - x).toNat)) } ∧
          ∀ m, s.plant.demand m = t.plant.demand m))

/-- R37, R38, R39, R27, R28: at the expiry of the stagger with no pump in STARTING the head of the queue claims its
units, and starts, with PUMP_START, if they fit, or if the units of the rakes in motion make them fit. R28, R71: these
are then all ordered to suspend first, each with RAKE_SUSPEND and its cycle timer paused; a rake whose units do not fit
beside the pump's stays suspended, its claim WAITING. Where even they do not make room the claim waits, and each rake
that holds units, as R26 has it only in RAKING or REVERSING, goes on. No grant exceeds the budget. -/
def Obligations.StaggerExpiryStartsQueueHead : Prop :=
  ∀ s : State, s.plant.out = [] → s.plant.loading = false → s.plant.stagger = .running 0 →
    ∃ t, exec .staggerExpiry s = .next t ∧ s.PlantStep t [] ∧ s.plant.SameInputs t.plant ∧
      s.plant.SameOrders t.plant ∧ (s.plant.withinBudget → t.plant.withinBudget) ∧
      (s.plant.queue = [] → (∀ n, (s.plant.claim (pumpHolder n)).status ≠ .waiting) →
        t.plant.stagger = .stopped ∧ t.plant.pumps = s.plant.pumps) ∧
      ∀ n rest, s.plant.queue = n :: rest → n ∉ rest → (∀ m, (s.plant.pump m).state ≠ .starting) →
        (∀ m, (s.plant.claim (pumpHolder m)).status ≠ .waiting) →
        (s.plant.claim (pumpHolder n)).status = .none →
        let short := s.plant.budget < s.plant.heldUnits + s.plant.pumpUnits n
        (s.plant.heldUnits + s.plant.pumpUnits n ≤ s.plant.budget + s.plant.rakeHeldUnits →
          s.PlantStep t
            ((if short then s.plant.rakesInMotion.map (fun m =>
                ({ source := srcScreen m, kind := 0x33, urgent := false
                   detail := detail1 (if (s.plant.rake m).state = .reversing then 1 else 0) ++
                     detail2 (s.plant.rake m).attempts } : Draft)) else []) ++
              [{ source := srcPump n, kind := 0x20, urgent := false
                 detail := detail1 (n.val + 1) ++ detail2 ((s.plant.pump n).history.length + 1) ++
                   detail2 (s.plant.currentLimit n) }]) ∧
          t.plant.stagger = .running s.plant.staggerTime ∧ t.plant.queue = rest ∧
          t.plant.claim (pumpHolder n) = { status := .held, units := s.plant.pumpUnits n } ∧
          (t.plant.pump n).lastStart = some s.plant.clock.uptime ∧
          (t.plant.pump n).history = (s.plant.pump n).history ++ [s.plant.clock.uptime] ∧
          (t.plant.pump n).state = (if s.plant.feedbackActive n then .running else .starting) ∧
          (∀ m, m ≠ n → t.plant.pump m = s.plant.pump m) ∧
          (short → ∀ m, (s.plant.claim (rakeHolder m)).status = .held →
            s.plant.budget + s.plant.rakeHeldUnits <
              s.plant.heldUnits + s.plant.pumpUnits n + (s.plant.claim (rakeHolder m)).units →
            t.plant.claim (rakeHolder m) = { s.plant.claim (rakeHolder m) with status := .waiting } ∧
            t.plant.rake m = { s.plant.rake m with
              state := .suspended, fromReversing := (s.plant.rake m).state == .reversing
              cycle := (s.plant.rake m).cycle.pause, reverse := .stopped
              hold := .running (s.plant.maximumHold m) })) ∧
        (s.plant.budget + s.plant.rakeHeldUnits < s.plant.heldUnits + s.plant.pumpUnits n →
          t.plant.claim (pumpHolder n) = { status := .waiting, units := s.plant.pumpUnits n } ∧
          t.plant.queue = s.plant.queue ∧ t.plant.pumps = s.plant.pumps ∧
          (s.plant.rakesHold → ∀ m, (s.plant.claim (rakeHolder m)).status = .held →
            t.plant.claim (rakeHolder m) = s.plant.claim (rakeHolder m) ∧ t.plant.rake m = s.plant.rake m))

/-! Screens. -/

/-- R74: whatever it asks for, a write to a screen command word leaves OOS and the other positions as written and RAKE
and RESET clear in the shadow; it is a REWRITE where the word was pending and else a FORWARD, and never a refusal. -/
def Obligations.ScreenWordSetsItsShadow : Prop :=
  ∀ (s : State) (n : Fin 2) (w : Word) (c : Instr), s.plant.out = [] →
    c = .screenRake n w ∨ c = .screenOos n w ∨ c = .screenReset n w → s.Takes (s.commandWrite (screenWord n) w) →
    ∃ t, exec c s = .next t ∧
      s.AccessStep t (s.commandWrite (screenWord n) w)
        (if screenWord n ∈ s.plant.corr then .rewrite (t.plant.shadow.get (screenWord n)) else .forward) ∧
      (∀ k, k < 16 → (t.plant.shadow.get (screenWord n)).getLsbD k = (k != 0 && k != 2 && w.getLsbD k)) ∧
      (∀ i, i ≠ screenWord n → t.plant.shadow.get i = s.plant.shadow.get i) ∧
      t.plant.corr = s.plant.corr ∧ t.plant.desired = s.plant.desired ∧ t.plant.rotation = s.plant.rotation ∧
      s.plant.SameInputs t.plant ∧ s.Logged t [] ∧ t.settings = s.settings ∧ t.link = s.link

/-- R75, R74: OOS set takes the rake out of service from every state but ABSENT, its timers and its claim gone, RAKE_END
logged from a cycle; OOS clear, and RESET in JAMMED with the overload input INACTIVE, take it to IDLE with its interval
timer started (no storm standing, R65). RESET in JAMMED with the overload input ACTIVE changes nothing. A claim given up
holds 0 units (the model's choice, log 60). -/
def Obligations.ScreenOosAndResetMoveTheRake : Prop :=
  ∀ (s : State) (n : Fin 2) (w : Word), s.plant.out = [] → s.plant.loading = false →
    s.Takes (s.commandWrite (screenWord n) w) →
    (w.getLsbD 1 = true → s.plant.screenOosSet n = false → (s.plant.rake n).state ≠ .absent →
      (s.plant.rake n).state ≠ .outOfService →
      ∃ t, exec (.screenOos n w) s = .next t ∧
        t.plant.rake n = { s.plant.rake n with
          state := .outOfService, cycle := .stopped, reverse := .stopped, interval := .stopped, hold := .stopped
          held := false } ∧
        t.plant.claim (rakeHolder n) = { status := .none, units := 0 } ∧
        (t.plant.alarms.points.get (jamPoint n)).condition = false ∧
        (t.plant.alarms.points.get (heldPoint n)).condition = false ∧
        ((s.plant.rake n).state = .raking ∨ (s.plant.rake n).state = .reversing ∨ (s.plant.rake n).state = .suspended →
          s.Logged t [{ source := srcScreen n, kind := 0x31, urgent := false
                        detail := detail1 1 ++ detail2 (s.plant.rake n).attempts ++
                          detail4 (s.plant.cycleDuration n) }])) ∧
    (w.getLsbD 1 = false → s.plant.screenOosSet n = true → (s.plant.rake n).state = .outOfService →
      w.getLsbD 0 = false → s.plant.mode.storm = false → (s.plant.claim (rakeHolder n)).status = .none →
      ∃ t, exec (.screenOos n w) s = .next t ∧
        t.plant.rake n = { s.plant.rake n with
          state := .idle, cycle := .stopped, reverse := .stopped, hold := .stopped, held := false
          interval := if s.plant.intervalTime n = 0 then .stopped else .running (s.plant.intervalTime n) }) ∧
    (w.getLsbD 1 = s.plant.screenOosSet n → w.getLsbD 2 = true → (s.plant.rake n).state = .jammed →
      (s.plant.claim (rakeHolder n)).status = .none →
      ∃ t, exec (.screenReset n w) s = .next t ∧
        (s.plant.overloadActive n = true → t.plant.rake n = s.plant.rake n) ∧
        (s.plant.overloadActive n = false → s.plant.mode.storm = false → w.getLsbD 0 = false →
          (t.plant.alarms.points.get (jamPoint n)).condition = false ∧
          t.plant.rake n = { s.plant.rake n with
            state := .idle, cycle := .stopped, reverse := .stopped, hold := .stopped, held := false
            interval := if s.plant.intervalTime n = 0 then .stopped else .running (s.plant.intervalTime n) }))

/-- R65, R66, R67, R69, R74, R29: a set RAKE field, and the expiry of the interval timer, trigger a rake in IDLE. With no
pump to be served first and its units within the budget it goes on to RAKING, and on to REVERSING with the overload input
ACTIVE; RAKE_START gives the trigger and the home reading (its byte: the model's choice, log 46). With its units beyond the
budget it waits. -/
def Obligations.TriggeredRakeStartsOrWaits : Prop :=
  ∀ (s : State) (n : Fin 2) (c : Instr) (cause : Trigger), s.plant.out = [] → s.plant.loading = false →
    (c = .intervalExpiry n ∧ (s.plant.rake n).interval = .running 0 ∧ cause = .interval ∨
      ∃ w : Word, c = .screenRake n w ∧ s.Takes (s.commandWrite (screenWord n) w) ∧ w.getLsbD 0 = true ∧
        w.getLsbD 1 = s.plant.screenOosSet n ∧ cause = .command) →
    (s.plant.rake n).state = .idle → (s.plant.claim (rakeHolder n)).status = .none →
    ∃ t, exec c s = .next t ∧
      (c = .intervalExpiry n → s.PlantStep t [] ∧ s.plant.SameInputs t.plant ∧ s.plant.SameOrders t.plant) ∧
      (s.plant.queue = [] → (∀ m, (s.plant.claim (pumpHolder m)).status ≠ .waiting) →
        (∀ m, m ≠ n → (s.plant.claim (rakeHolder m)).status ≠ .waiting) →
        (s.plant.heldUnits + s.plant.rakeUnits n ≤ s.plant.budget →
          s.Logged t ({ source := srcScreen n, kind := 0x30, urgent := false
                        detail := detail1 cause.code ++ detail1 (if s.plant.homeActive n then 1 else 0) } ::
            if s.plant.overloadActive n
            then [{ source := srcScreen n, kind := 0x32, urgent := false, detail := detail2 1 }] else []) ∧
          t.plant.claim (rakeHolder n) = { status := .held, units := s.plant.rakeUnits n } ∧
          t.plant.rake n = { s.plant.rake n with
            trigger := cause, interval := .stopped, hold := .stopped, held := false
            homeLeave := !s.plant.homeActive n, cycleStart := some s.plant.clock.uptime
            state := if s.plant.overloadActive n then .reversing else .raking
            attempts := if s.plant.overloadActive n then 1 else 0
            cycle := if s.plant.overloadActive n then .stopped else .running (s.plant.cycleTime n)
            reverse := if s.plant.overloadActive n then .running (s.plant.reverseTime n)
              else (s.plant.rake n).reverse }) ∧
        (s.plant.budget < s.plant.heldUnits + s.plant.rakeUnits n → s.plant.mode.storm = false →
          t.plant.claim (rakeHolder n) = { status := .waiting, units := s.plant.rakeUnits n } ∧
          t.plant.rake n = { s.plant.rake n with
            state := .waiting, trigger := cause, interval := .stopped
            hold := .running (s.plant.maximumHold n) }))

/-- R68, R69, R70: the cycle timer's expiry in RAKING, and the reverse timer's with the attempt count above the retry
limit, jam the rake, its timers stopped and its units released. Else the reverse timer's expiry ends the cycle where
the rake reached home while reversing with its home-leave flag set, and otherwise drives it forward again, or to
another reverse with the overload input ACTIVE. That home is looked at before the overload input is the model's choice
(log 47), and so is that a claim given up holds 0 units (log 60). R73: the hold timer's expiry in WAITING or SUSPENDED
makes SCREEN_HELD active; where the budget has nothing to grant, nothing else moves. -/
def Obligations.RakeTimersJamRetryOrHold : Prop :=
  ∀ (s : State) (n : Fin 2), s.plant.out = [] → s.plant.loading = false →
    let jammed (t : State) (cause : JamCause) :=
      s.PlantStep t [{ source := srcScreen n, kind := 0x35, urgent := false
                       detail := detail1 cause.code ++ detail2 (s.plant.rake n).attempts ++
                         detail4 (s.plant.cycleDuration n) }] ∧
        t.plant.rake n = { s.plant.rake n with
          state := .jammed, jamCause := cause, cycle := .stopped, reverse := .stopped, interval := .stopped
          hold := .stopped } ∧
        t.plant.claim (rakeHolder n) = { status := .none, units := 0 } ∧
        (t.plant.alarms.points.get (jamPoint n)).condition = true ∧
        s.plant.SameInputs t.plant ∧ s.plant.SameOrders t.plant
    ((s.plant.rake n).state = .raking → (s.plant.rake n).cycle = .running 0 →
      ∃ t, exec (.cycleTimeout n) s = .next t ∧ jammed t .timeout) ∧
    ((s.plant.rake n).state = .reversing → (s.plant.rake n).reverse = .running 0 →
      ∃ t, exec (.reverseExpiry n) s = .next t ∧
        (s.plant.retryLimit n < (s.plant.rake n).attempts → jammed t .overload) ∧
        ((s.plant.rake n).attempts ≤ s.plant.retryLimit n →
          (s.plant.rake n).homeLeave = true → s.plant.homeActive n = true →
          s.PlantStep t [{ source := srcScreen n, kind := 0x31, urgent := false
                           detail := detail1 0 ++ detail1 (s.plant.rake n).trigger.code ++
                             detail2 (s.plant.rake n).attempts ++ detail4 (s.plant.cycleDuration n) }] ∧
          s.plant.SameInputs t.plant ∧ s.plant.SameOrders t.plant ∧
          (s.plant.mode.storm = false → s.plant.Rests t.plant n)) ∧
        ((s.plant.rake n).attempts ≤ s.plant.retryLimit n →
          (s.plant.rake n).homeLeave = false ∨ s.plant.homeActive n = false → s.plant.queue = [] →
          (∀ m, (s.plant.claim (pumpHolder m)).status ≠ .waiting) →
          (s.plant.claim (rakeHolder n)).status = .held →
          s.PlantStep t [] ∧ s.plant.SameInputs t.plant ∧ s.plant.SameOrders t.plant ∧
          t.plant.claim (rakeHolder n) = s.plant.claim (rakeHolder n) ∧
          (s.plant.overloadActive n = false → t.plant.rake n = { s.plant.rake n with
            state := .raking, reverse := .stopped, cycle := .running (s.plant.cycleTime n) }) ∧
          (s.plant.overloadActive n = true →
            s.Logged t [{ source := srcScreen n, kind := 0x32, urgent := false
                          detail := detail2 ((s.plant.rake n).attempts + 1) }] ∧
            t.plant.rake n = { s.plant.rake n with
              state := .reversing, attempts := (s.plant.rake n).attempts + 1, cycle := .stopped
              reverse := .running (s.plant.reverseTime n) }))) ∧
    ((s.plant.rake n).state = .waiting ∨ (s.plant.rake n).state = .suspended →
      (s.plant.rake n).hold = .running 0 →
      ∃ t, exec (.holdExpiry n) s = .next t ∧ s.PlantStep t [] ∧ s.plant.SameInputs t.plant ∧
        s.plant.SameOrders t.plant ∧
        (s.plant.queue = [] → (∀ m, (s.plant.claim (pumpHolder m)).status ≠ .waiting) →
          (∀ m, (s.plant.claim (rakeHolder m)).status = .waiting →
            s.plant.budget < s.plant.heldUnits + (s.plant.claim (rakeHolder m)).units) →
          s.plant.mode.storm = false →
          t.plant.rakes = vset s.plant.rakes n { s.plant.rake n with held := true, hold := .stopped } ∧
          t.plant.claims = s.plant.claims ∧ t.plant.pumps = s.plant.pumps ∧
          (t.plant.alarms.points.get (heldPoint n)).condition = true))

/-! Weirs. -/

/-- R80, R83, R32, R33: the start confirm timer's expiry in RISING opens a record; OVERFLOW_START, urgent, is the first
entry, the weir's OVERFLOW condition and storm posture become active. R81, R85: the end confirm timer's expiry in
FALLING closes the record, which becomes the last closed one; OVERFLOW_END carries it. The litre accumulator goes to 0
at the close (the model's choice, log 54). -/
def Obligations.ConfirmTimersOpenAndCloseRecords : Prop :=
  ∀ (s : State) (n : Fin 3), s.plant.out = [] → s.plant.loading = false →
    let w := s.plant.weir n
    let only (t : State) := t.plant.clock = s.plant.clock ∧ t.plant.levels = s.plant.levels ∧
      t.plant.sections = s.plant.sections ∧ ∀ m, m ≠ n → t.plant.weir m = s.plant.weir m
    (w.state = .rising → w.startConfirm = .running 0 →
      ∃ t, exec (.startConfirmExpiry n) s = .next t ∧ only t ∧
        s.PlantStep t [{ source := srcWeir n, kind := 0x40, urgent := true
                         detail := detail1 (if w.resume then 8 else 0) ++ detail4 s.plant.clock.uptime.toNat ++
                           detail2 (w.level.getD 0) ++ detail2 (s.plant.crest n) }] ∧
        t.plant.weir n = { w with
          state := .overflowing, startConfirm := .stopped, litres := 0, resume := false
          openRecord := some
            { startTime := s.plant.clock.station, startUptime := s.plant.clock.uptime, duration := none
              endTime := none, peak := w.level.getD 0, peakTime := s.plant.clock.station, volume := some 0
              flags := { curveChanged := false, channelFault := false, beyondCurve := false, resumed := w.resume
                         clockChanged := false } } } ∧
        t.plant.mode = { s.plant.mode with overflow := true, storm := true } ∧
        (t.plant.alarms.points.get (overflowPoint n)).condition = true) ∧
    (∀ r, w.state = .falling → w.endConfirm = .running 0 → w.openRecord = some r →
      ∃ t, exec (.endConfirmExpiry n) s = .next t ∧ only t ∧
        s.PlantStep t [{ source := srcWeir n, kind := 0x41, urgent := false
                         detail := detail1 r.flags.code ++ detail4 r.startTime.toNat ++
                           detail4 (s.plant.clock.uptime - r.startUptime).toNat ++ detail2 r.peak ++
                           detail4 r.peakTime.toNat ++ detail3 (volumeCode r.volume) }] ∧
        t.plant.weir n = { w with
          state := .normal, endConfirm := .stopped, faultHold := false, openRecord := none, litres := 0
          lastClosed := some { r with
            duration := some (s.plant.clock.uptime - r.startUptime), endTime := some s.plant.clock.station } } ∧
        t.plant.mode.overflow = decide (∃ m, m ≠ n ∧ (s.plant.weir m).openRecord ≠ none) ∧
        t.plant.mode.storm = (s.plant.mode.wetWell || t.plant.mode.overflow || s.plant.mode.floatHigh) ∧
        (t.plant.alarms.points.get (overflowPoint n)).condition = false)

/-- R80, R81, R82, R84, R91: a level-updated event at a present weir, by its state, the channel and the level; absent weirs
apart. A start confirm time of 0 opens the record at the event itself (R83), OVERFLOW_START its first entry, and an end
confirm time of 0 closes it there (R85), OVERFLOW_END its first entry and the litre accumulator put back to 0 (the model's
choice, log 54); storm posture and the weir's OVERFLOW point follow. An end confirm timer that has run out when the channel
fails is paused with 0 ticks, and a resume mark stays at the event that takes RISING to NORMAL (the model's choices, logs 49
and 50). -/
def Obligations.WeirActsOnItsLevel : Prop :=
  ∀ (p : Plant) (n : Fin 3), p.weirPresent n = true →
    let w := { p.weir n with
      channelGood := (p.levels.channels.get (weirChannel n)).state == .good
      level := (p.levels.channels.get (weirChannel n)).value }
    let now := (p.weirLevel n).weir n
    (∀ v, (p.levels.channels.get (weirChannel n)).state = .good →
      (p.levels.channels.get (weirChannel n)).value = some v →
      (w.state = .normal → w.openRecord = none → v < p.crest n + p.startMargin n →
        now = { w with faultHold := false, resume := w.resume && decide (p.crest n ≤ v) }) ∧
      (w.state = .normal → w.openRecord = none → p.crest n + p.startMargin n ≤ v → p.startConfirmTime n ≠ 0 →
        now = { w with
          faultHold := false, resume := w.resume && decide (p.crest n ≤ v), state := .rising
          startConfirm := .running (p.startConfirmTime n) }) ∧
      (w.state = .normal → w.openRecord = none → p.crest n + p.startMargin n ≤ v → p.startConfirmTime n = 0 →
        now = { w with
          faultHold := false, state := .overflowing, startConfirm := .stopped, litres := 0, resume := false
          openRecord := some
            { startTime := p.clock.station, startUptime := p.clock.uptime, duration := none, endTime := none, peak := v
              peakTime := p.clock.station, volume := some 0
              flags := { curveChanged := false, channelFault := false, beyondCurve := false, resumed := w.resume
                         clockChanged := false } } } ∧
        (p.weirLevel n).mode = { p.mode with overflow := true, storm := true } ∧
        (∃ more, (p.weirLevel n).out = p.out ++
          { source := srcWeir n, kind := 0x40, urgent := true
            detail := detail1 (if w.resume then 8 else 0) ++ detail4 p.clock.uptime.toNat ++ detail2 v ++
              detail2 (p.crest n) } :: more) ∧
        (p.loading = false → ((p.weirLevel n).alarms.points.get (overflowPoint n)).condition = true)) ∧
      (w.state = .rising → w.openRecord = none → v < p.crest n + p.startMargin n →
        now = { w with faultHold := false, state := .normal, startConfirm := .stopped }) ∧
      (w.state = .rising → w.openRecord = none → p.crest n + p.startMargin n ≤ v →
        now = { w with faultHold := false }) ∧
      (∀ r, w.openRecord = some r →
        let kept := some (if r.peak < v then { r with peak := v, peakTime := p.clock.station } else r)
        (w.state = .overflowing → p.crest n ≤ v → now = { w with faultHold := false, openRecord := kept }) ∧
        (w.state = .overflowing → v < p.crest n → p.endConfirmTime n ≠ 0 →
          now = { w with
            faultHold := false, openRecord := kept, state := .falling
            endConfirm := .running (p.endConfirmTime n) }) ∧
        (w.state = .overflowing → v < p.crest n → p.endConfirmTime n = 0 →
          let overflow := decide (∃ m, m ≠ n ∧ (p.weir m).openRecord ≠ none)
          let closing := if r.peak < v then { r with peak := v, peakTime := p.clock.station } else r
          now = { w with
            faultHold := false, state := .normal, endConfirm := .stopped, openRecord := none, litres := 0
            lastClosed := some { closing with
              duration := some (p.clock.uptime - r.startUptime), endTime := some p.clock.station } } ∧
          (p.weirLevel n).mode = { p.mode with
            overflow := overflow, storm := p.mode.wetWell || overflow || p.mode.floatHigh } ∧
          (∃ more, (p.weirLevel n).out = p.out ++
            { source := srcWeir n, kind := 0x41, urgent := false
              detail := detail1 r.flags.code ++ detail4 r.startTime.toNat ++
                detail4 (p.clock.uptime - r.startUptime).toNat ++ detail2 closing.peak ++
                detail4 closing.peakTime.toNat ++ detail3 (volumeCode r.volume) } :: more) ∧
          (p.loading = false → ((p.weirLevel n).alarms.points.get (overflowPoint n)).condition = false)) ∧
        (w.state = .falling → p.crest n ≤ v →
          now = { w with faultHold := false, openRecord := kept, state := .overflowing, endConfirm := .stopped }) ∧
        (w.state = .falling → v < p.crest n →
          now = { w with faultHold := false, openRecord := kept, endConfirm := w.endConfirm.resume }))) ∧
    ((p.levels.channels.get (weirChannel n)).state ≠ .good →
      (w.state = .normal → now = w) ∧
      (w.state = .rising → now = { w with state := .normal, startConfirm := .stopped }) ∧
      (∀ r, w.openRecord = some r → w.state = .overflowing ∨ w.state = .falling →
        now = { w with
          faultHold := true, endConfirm := w.endConfirm.pause
          openRecord := some { r with volume := none, flags := { r.flags with channelFault := true } } }))

/-- R87: the flow for a head, read from a curve of points in ascending head with flows that do not fall: 0 below the first
point, a point's flow at its head, the truncated interpolation between two points, and the last flow above the last point,
where alone BEYOND_CURVE is set. -/
def Obligations.FlowIsReadFromTheCurve : Prop :=
  (∀ (curve : List (Nat × Nat)) (h q : Nat) (head : Int), curve.head? = some (h, q) → head < h →
    flowAt curve head = (0, false)) ∧
  (∀ (curve : List (Nat × Nat)) (i : Nat) (h q : Nat), (curve.map Prod.fst).Pairwise (· < ·) →
    curve[i]? = some (h, q) → flowAt curve h = (q, false)) ∧
  (∀ (curve : List (Nat × Nat)) (i h1 q1 h2 q2 head : Nat), (curve.map Prod.fst).Pairwise (· < ·) →
    curve[i]? = some (h1, q1) → curve[i + 1]? = some (h2, q2) → h1 < head → head < h2 →
    flowAt curve head = (q1 + (head - h1) * (q2 - q1) / (h2 - h1), false)) ∧
  (∀ (curve : List (Nat × Nat)) (h q head : Nat), (curve.map Prod.fst).Pairwise (· < ·) →
    curve.getLast? = some (h, q) → h < head → flowAt curve head = (q, true)) ∧
  (∀ (curve : List (Nat × Nat)) (x y : Int), (curve.map Prod.fst).Pairwise (· < ·) →
    (curve.map Prod.snd).Pairwise (· ≤ ·) → x ≤ y → (flowAt curve x).1 ≤ (flowAt curve y).1)

/-! Alarms. -/

/-- R98, R99, R100, R101, R102, R103: an acknowledge word is absorbed, and takes every unacknowledged point that it
names, and no other, to its acknowledged state, with an ALARM_ACK entry for each in ascending number; conditions
stay, and identity, ALINE, the beacon demand and first-out follow. Any other value is refused with BAD_CODE. The
instance of points 29 to 39 is 0 (the model's choice, log 46). -/
def Obligations.AcknowledgeWordActsOnItsPoints : Prop :=
  ∀ s : State, s.plant.out = [] →
    (∀ (c : Instr) (v : Word) (names : Fin 40 → Bool),
      (∃ k, c = .ackPoint k ∧ v = BitVec.ofNat 16 k.val ∧ names = fun j => j == k) ∨
        (∃ l : Fin 4, c = .ackLevel l ∧ v = BitVec.ofNat 16 (0x80 + l.val) ∧
          names = fun j => s.plant.pointLevel j == l.val) ∨
        c = .ackAll ∧ v = 0x00FF ∧ names = (fun _ => true) →
      s.Takes (s.commandWrite 4 v) →
      ∃ t, exec c s = .next t ∧ s.AccessStep t (s.commandWrite 4 v) .absorb ∧
        (∀ j, (t.plant.alarms.points.get j).condition = (s.plant.alarms.points.get j).condition ∧
          (t.plant.alarms.points.get j).state =
            if names j then (s.plant.alarms.points.get j).state.acked else (s.plant.alarms.points.get j).state) ∧
        t.log = ((allPoints.filter (fun j => names j && s.plant.pointUnacked j)).map (fun j =>
            ({ source := srcAlarm, kind := 0x52, urgent := false
               detail := detail1 j.val ++ detail1 (pointClass j) ++ detail1 (pointPlace j) ++
                 detail1 (s.plant.pointLevel j) ++ detail1 (s.plant.alarms.points.get j).state.acked.code ++
                 detail1 0 } : Draft))).foldl (fun l d => l.append s.plant.clock d) s.log ∧
        t.plant.alarms.firstOut = (if ∃ j, t.plant.pointUnacked j = true then s.plant.alarms.firstOut else none) ∧
        t.plant.alarms.identity = t.plant.identityNow ∧ t.plant.alarms.aline = t.plant.alineNow ∧
        t.plant.alarms.demand = t.plant.demandNow ∧
        t.plant = { s.plant with
          alarms := t.plant.alarms
          lines := if t.plant.alarms.demand = s.plant.alarms.demand then s.plant.lines
            else s.plant.lines.takeDemand t.plant.alarms.demand } ∧
        t.settings = s.settings ∧ t.link = s.link) ∧
    (∀ v : Word, 0x27 < v.toNat → v.toNat < 0x80 ∨ 0x83 < v.toNat → v ≠ 0x00FF → s.Takes (s.commandWrite 4 v) →
      ∃ t, exec (.ackBadCode v) s = .next t ∧ s.AccessOnly t (s.commandWrite 4 v) (.refuse .badCode))

/-- R96, R97, R100: a condition handed to a point. One equal to the kept condition does nothing; one going ACTIVE takes the
point to ACTIVE_UNACK with ALARM_ON, and makes it first-out where no other point is unacknowledged; one going INACTIVE
takes it to RETURNED_UNACK from ACTIVE_UNACK with a latching class and else to NORMAL, with ALARM_OFF, and first-out to NONE
where no point is left unacknowledged. R101, R102, R103: identity is the unacknowledged point of the lowest level, the lowest
number among equals; ALINE and the beacon demand follow the unacknowledged points at the levels of their masks; a changed
demand is taken by the beacon, a FLASH starting with its ON phase, and a beacon that changes marks page 1 (R4). Nothing else
moves. The instance of points 29 to 39 is 0, and the first-out byte 1 for yes and 0 for no (the model's choices, log 46). -/
def Obligations.HandedConditionMovesItsPoint : Prop :=
  ∀ (p : Plant) (k : Fin 40) (active : Bool), p.loading = false →
    let was := p.alarms.points.get k
    let now := (p.hand k active).alarms
    (was.condition = active → p.hand k active = p) ∧
    (∀ j, j ≠ k → now.points.get j = p.alarms.points.get j) ∧
    (was.condition = false → active = true →
      now.points.get k = { condition := true, state := .activeUnack } ∧
      now.firstOut = (if ∃ j, j ≠ k ∧ p.pointUnacked j = true then p.alarms.firstOut else some k) ∧
      ∃ first : Bool, (p.hand k active).out = p.out ++
        [{ source := srcAlarm, kind := 0x50, urgent := p.pointLevel k == 0
           detail := detail1 k.val ++ detail1 (pointClass k) ++ detail1 (pointPlace k) ++ detail1 (p.pointLevel k) ++
             detail1 was.state.code ++ detail1 (bit first) }] ∧
        (first = true ↔ ∀ j, j ≠ k → p.pointUnacked j = false)) ∧
    (was.condition = true → active = false →
      (now.points.get k).condition = false ∧
      (now.points.get k).state =
        (if was.state = .activeUnack ∧ p.pointLatches k = true then .returnedUnack else .normal) ∧
      (p.hand k active).out = p.out ++
        [{ source := srcAlarm, kind := 0x51, urgent := false
           detail := detail1 k.val ++ detail1 (pointClass k) ++ detail1 (pointPlace k) ++ detail1 (p.pointLevel k) ++
             detail1 (now.points.get k).state.code }] ∧
      now.firstOut = (if ∃ j, (p.hand k active).pointUnacked j = true then p.alarms.firstOut else none)) ∧
    (was.condition ≠ active →
      let unacked (j : Fin 40) := (now.points.get j).state = .activeUnack ∨ (now.points.get j).state = .returnedUnack
      let acked (j : Fin 40) := (now.points.get j).state = .activeAcked
      let level (j : Fin 40) : Fin 16 := ⟨p.pointLevel j % 4, by omega⟩
      let line (j : Fin 40) := (p.setting 6 18).getLsbD (level j)
      let beacon (j : Fin 40) := (p.setting 6 19).getLsbD (level j)
      (∀ j, now.identity = some j ↔ unacked j ∧ ∀ i, unacked i → level j ≤ level i ∧ (level i = level j → j ≤ i)) ∧
      (now.aline = true ↔ ∃ j, unacked j ∧ line j = true) ∧
      (now.demand = .flash ↔ ∃ j, unacked j ∧ beacon j = true) ∧
      (now.demand = .steady ↔ (∀ j, unacked j → beacon j = false) ∧ ∃ j, acked j ∧ beacon j = true) ∧
      let lines := if now.demand = p.alarms.demand then p.lines
        else match now.demand with
          | .flash => { p.lines with beaconOn := true, beaconTimer := .running 50 }
          | .steady => { p.lines with beaconOn := true, beaconTimer := .stopped }
          | .off => { p.lines with beaconOn := false, beaconTimer := .stopped }
      p.hand k active = { p with
        alarms := now, out := (p.hand k active).out, lines := lines
        marks := p.marks ++ if lines.beaconOn = p.lines.beaconOn then [] else [1] })

/-! The event log and its port. -/

/-- R114, R116: a word write at offset 0x00 opens or restarts the staging; one at the next offset of an open staging, 0x02
to 0x10, is staged; any other word write, and any byte write, is refused with ORDER_BROKEN and leaves the staging closed. -/
def Obligations.StagingIsFilledInOrder : Prop :=
  ∀ s : State, s.plant.out = [] →
    let staged (t : State) (a : Access) (words : Option (List Word)) (v : Verdict) :=
      s.AccessStep t a v ∧ t.plant = s.plant ∧ t.settings = s.settings ∧ t.link = s.link ∧
        t.log = (s.outcomeEntries a v).foldl (fun l d => l.append s.plant.clock d) { s.log with staging := words }
    (∀ v, s.Takes (s.portWrite 0 v) → ∃ t, exec (.stagingOpen v) s = .next t ∧
      staged t (s.portWrite 0 v) (some [v]) .absorb) ∧
    (∀ (k : Fin 8) (v : Word), s.Takes (s.portWrite (2 + 2 * k.val) v) →
      ∃ t, exec (.stagingWord k v) s = .next t ∧
        (∀ ws, s.log.staging = some ws → ws.length = k.val + 1 →
          staged t (s.portWrite (2 + 2 * k.val) v) (some (ws ++ [v])) .absorb) ∧
        ((∀ ws, s.log.staging = some ws → ws.length ≠ k.val + 1) →
          staged t (s.portWrite (2 + 2 * k.val) v) none (.refuse .orderBroken))) ∧
    (∀ (k : Fin 10) (high : Bool) (b : Byte), s.Takes (s.stagingByte k high b) →
      ∃ t, exec (.stagingByteWrite k high b) s = .next t ∧
        staged t (s.stagingByte k high b) none (.refuse .orderBroken))

/-- R114, R115: the write at offset 0x12 closes the staging. With nine words staged it commits: a kind outside 0x80 to 0xFE
is refused with KIND_RESERVED and a detail length above 17 with BAD_CODE, nothing appended; else it is absorbed and the
entry appended from source PROCESSOR, or dropped (R109). Of a kind and a length both bad the kind is judged (the model's
choice, log 62). At another next offset it is refused with ORDER_BROKEN. -/
def Obligations.CommitJudgesTheStagedWords : Prop :=
  ∀ (s : State) (v : Word), s.plant.out = [] → s.Takes (s.portWrite 0x12 v) →
    ∃ t, exec (.stagingCommit v) s = .next t ∧ t.plant = s.plant ∧ t.settings = s.settings ∧ t.link = s.link ∧
      let done (outcome : Verdict) (log : LogUnit) :=
        s.AccessStep t (s.portWrite 0x12 v) outcome ∧
          t.log = (s.outcomeEntries (s.portWrite 0x12 v) outcome).foldl (fun l d => l.append s.plant.clock d) log
      let closed := { s.log with staging := none }
      ((∀ ws, s.log.staging = some ws → ws.length ≠ 9) → done (.refuse .orderBroken) closed) ∧
      ∀ ws, s.log.staging = some ws → ws.length = 9 →
        let kind := (ws.getD 0 0).extractLsb' 0 8
        let count := (ws.getD 1 0).toNat % 256
        (kind.toNat < 0x80 ∨ kind = 0xFF →
          done (.refuse .kindReserved) { closed with lastCommit := .refused .kindReserved }) ∧
        (0x80 ≤ kind.toNat → kind ≠ 0xFF → 17 < count →
          done (.refuse .badCode) { closed with lastCommit := .refused .badCode }) ∧
        (0x80 ≤ kind.toNat → kind ≠ 0xFF → count ≤ 17 →
          let entry : Draft := { source := 0x70, kind := kind, urgent := false
                                 detail := ((wordsBytes (ws ++ [v])).drop 3).take count }
          done .absorb { (closed.append s.plant.clock entry) with
            lastCommit := if s.log.queue.length < 16 ∧ s.log.a < 4294967295 then .assigned s.log.a else .dropped })

/-- R118: with T − P above 0 a write of k to the advance word is absorbed and P rises by k or by T − P, whichever is
smaller; with T − P equal to 0 it is refused with EMPTY_ADVANCE and P is unchanged (a write of 0 too: the model's
choice, log 51). A change of P marks page 15 dirty. -/
def Obligations.AdvanceMovesTheProcessorCursor : Prop :=
  ∀ (s : State) (k : Word), s.plant.out = [] → s.Takes (s.portWrite 0x70 k) →
    ∃ t, exec (.logAdvance k) s = .next t ∧
      (s.log.p < s.log.t → s.AccessStep t (s.portWrite 0x70 k) .absorb ∧
        t.log = { s.log with p := s.log.p + min k.toNat (s.log.t - s.log.p) } ∧
        t.plant = s.plant ∧ t.settings = s.settings ∧ t.link = s.link) ∧
      (s.log.t ≤ s.log.p → s.AccessOnly t (s.portWrite 0x70 k) (.refuse .emptyAdvance)) ∧
      (s.plant.loading = false → s.log.t < 4294967296 → t.log.p ≠ s.log.p → t.deposits.dirty.get 15 = true)

/-- R110, R111, R167: the log writer granted the port takes the entry at the head of the queue; with the ring full the
oldest entry is retired first, and a cursor that stood on it is pushed and its miss counted. At the completion the
entry's bytes lie in its slot and nowhere else, T rises, the entry leaves the queue and page 15 is marked; the number
of an urgent entry joins the urgent list in ascending order, if it holds less than 8. At both every page that shows
something else than before is marked. -/
def Obligations.LogWriterWritesTheHeadOfTheQueue : Prop :=
  ∀ (s : State) (e : QueuedEntry), s.plant.out = [] →
    (∀ rest, s.log.queue = e :: rest → s.grantsMember .logWriter = true →
      ∃ t, exec .logWriteGrant s = .next t ∧
        s.Pages t ∧
        (s.log.t - s.log.o ≠ s.capacity → t = { s with
          holder := .logWriter e, lastWinner := .internal, rotation := .deposit, deposits := t.deposits }) ∧
        (s.log.t - s.log.o = s.capacity →
          let o := s.log.o + 1
          (∃ entries : List Draft, t.log = entries.foldl (fun l d => l.append s.plant.clock d)
            { s.log with
              o := o
              p := if s.log.p = s.log.o then o else s.log.p
              pmiss := if s.log.p = s.log.o then bump s.log.pmiss else s.log.pmiss
              w := if s.log.w = s.log.o then o else s.log.w
              s := if s.log.w = s.log.o then max s.log.s o else s.log.s
              tmiss := if s.log.w = s.log.o then bump s.log.tmiss else s.log.tmiss }) ∧
          (s.plant.loading = false →
            (t.plant.alarms.points.get 39).condition = decide (0 < t.log.tmiss)) ∧
          s.plant.SameOrders t.plant ∧ s.plant.SameInputs t.plant ∧
          t = { s with
            holder := .logWriter e, lastWinner := .internal, rotation := .deposit, log := t.log
            plant := { s.plant with alarms := t.plant.alarms, lines := t.plant.lines }
            deposits := t.deposits })) ∧
    (s.holder = .logWriter e → s.mem.wf →
      ∃ t, exec .logWriteComplete s = .next t ∧
        (∀ i, i < e.bytes.length →
          t.mem.read ((s.window .logRing).base + e.seq % s.capacity * 32 + i) = e.bytes.getD i 0) ∧
        (∀ x, x < (s.window .logRing).base + e.seq % s.capacity * 32 ∨
            (s.window .logRing).base + e.seq % s.capacity * 32 + e.bytes.length ≤ x →
          t.mem.read x = s.mem.read x) ∧
        t.log = { s.log with t := s.log.t + 1, queue := s.log.queue.tail } ∧
        (e.urgent = false ∨ 8 ≤ s.reporter.urgent.length → t.reporter = s.reporter) ∧
        (e.urgent = true → s.reporter.urgent.length < 8 → (s.reporter.urgent.map Prod.fst).Pairwise (· < ·) →
          (t.reporter.urgent.map Prod.fst).Pairwise (· < ·) ∧
          ∀ x, x ∈ t.reporter.urgent ↔ x ∈ s.reporter.urgent ∨
            x = (e.seq, false) ∧ ∀ y ∈ s.reporter.urgent, y.1 ≠ e.seq) ∧
        (s.plant.loading = false → t.deposits.dirty.get 15 = true) ∧
        t = { s with
          holder := .free, mem := t.mem, log := t.log, deposits := t.deposits
          reporter := { s.reporter with urgent := t.reporter.urgent } } ∧ s.Pages t)

/-! The bus path. -/

/-- R123, R124, R128, R133: an access that arrives in IDLE enters WAITING, PRDY withheld; one that arrives while UPRST
is asserted is ignored and PRDY is not given for it (it stays withheld until the next completion: the model's choice,
log 42); one that arrives in another state is none (the model's choice, log 1). At the completion of the cycle a write
has stored the lanes of its outcome's data and no other byte, and a command word whose data differ from its shadow
joins the pending-correction set; a read returns memory's data in its lanes of PD (the other lane keeps its data: the
model's choice, log 39). PRDY is given, and a page that shows something else than before is marked. -/
def Obligations.AccessArrivesAndCompletes : Prop :=
  ∀ (s : State) (a : Access), s.plant.out = [] →
    (s.port = .idle → s.uprst = false →
      exec (.upstreamAccess a) s = .next { s with port := .waiting (normalAccess a), prdy := false }) ∧
    (s.uprst = true → exec (.upstreamAccess a) s = .next { s with prdy := false }) ∧
    (s.uprst = false → s.port ≠ .idle → exec (.upstreamAccess a) s = .next s) ∧
    ∀ v, s.port = .granted a v → s.mem.wf →
      ∃ t, exec .upstreamComplete s = .next t ∧ s.Pages t ∧
        (a.write = false →
          (t.pd = match a.lanes with
            | .word => s.mem.readWord (v.address a)
            | .low => s.pd.extractLsb' 8 8 ++ s.mem.read (v.address a)
            | .high => s.mem.read (v.address a + 1) ++ s.pd.extractLsb' 0 8) ∧
          t = { s with port := .idle, prdy := true, holder := .free, pd := t.pd, deposits := t.deposits }) ∧
        (a.write = true →
          (∀ x, t.mem.read x =
            if x = v.address a ∧ a.lanes ≠ .high then (v.data a).extractLsb' 0 8
            else if x = v.address a + 1 ∧ a.lanes ≠ .low then (v.data a).extractLsb' 8 8
            else s.mem.read x) ∧
          (∀ i, s.shadowPlace (v.address a) = some i → t.plant.corr =
            if s.plant.shadow.get i = v.data a ∨ i ∈ s.plant.corr then s.plant.corr else s.plant.corr ++ [i]) ∧
          (s.shadowPlace (v.address a) = none → t.plant.corr = s.plant.corr) ∧
          t = { s with
            port := .idle, prdy := true, holder := .free, mem := t.mem
            plant := { s.plant with corr := t.plant.corr }, deposits := t.deposits })

/-- R125, R126: the region of an address is a settings range, the offset in the one window of the table that covers it, or
plain memory. R126, R127, R117, R138: the outcomes that the path classifier gives by the region of a granted access. A read is
forwarded, but a read of the log port's entry goes to the slot of P; writes are forwarded outside the windows, beyond the
command words, to spare words and to free offsets of the settings ranges, and refused with the region's cause elsewhere. -/
def Obligations.ClassifierJudgesByRegion : Prop :=
  (∀ (table : List Window) (x : Nat),
    let covers (w : Window) := w.kind ≠ .none ∧ w.base ≤ x ∧ x < w.base + 2 ^ w.exp
    (0x0FE000 ≤ x → x < 0x0FF000 → regionOf table x = .settings .trial (x - 0x0FE000)) ∧
    (0x0FF000 ≤ x → x < 0x100000 → regionOf table x = .settings .stored (x - 0x0FF000)) ∧
    (x < 0x0FE000 ∨ 0x100000 ≤ x →
      ((∀ w ∈ table, ¬ covers w) → regionOf table x = .plain) ∧
      ∀ w ∈ table, covers w → (∀ w' ∈ table, covers w' → w' = w) →
        let off := x - w.base
        (w.kind = .command → (∀ i : Fin 32, off / 2 = i.val → regionOf table x = .commandWord i) ∧
          (64 ≤ off → regionOf table x = .commandBeyond)) ∧
        (w.kind = .status → regionOf table x = .status) ∧
        (w.kind = .logRing → regionOf table x = .logRing) ∧
        (w.kind = .shield → regionOf table x = .shield) ∧
        (w.kind = .logPort → regionOf table x =
          if off < 0x14 then .staging (off / 2)
          else if 0x40 ≤ off ∧ off < 0x60 then .entry ((off - 0x40) / 2)
          else if 0x70 ≤ off ∧ off < 0x72 then .advance else .portOther))) ∧
  ∀ s : State, s.plant.out = [] →
    (∀ (place : Fin 16) (lanes : Lanes), s.Takes (s.entryRead place lanes) →
      ∃ t, exec (.logEntryRead place lanes) s = .next t ∧ s.AccessOnly t (s.entryRead place lanes)
        (.translate ((s.window .logRing).base + s.log.p % s.capacity * 32 + 2 * place.val))) ∧
    ∀ a : Access, s.Takes a → s.port = .waiting (normalAccess a) →
      let only (v : Verdict) := ∃ t, exec .upstreamGrant s = .next t ∧ s.AccessOnly t a v
      let region := regionOf s.windows (accessAddress a)
      (a.write = false → (∀ k, region ≠ .entry k) → only .forward) ∧
      (a.write = true →
        (region = .plain ∨ region = .commandBeyond → only .forward) ∧
        (region = .status ∨ region = .logRing ∨ region = .portOther ∨ (∃ k, region = .entry k) →
          only (.refuse .readOnly)) ∧
        (region = .shield → only (.refuse .shielded)) ∧
        (region = .advance ∨ (∃ i, region = .commandWord i) → a.lanes ≠ .word → only (.refuse .byteWrite)) ∧
        (∀ i, region = .commandWord i → spareWord i = true → a.lanes = .word →
          ∃ t, exec .upstreamGrant s = .next t ∧ s.AccessStep t a .forward ∧
            t.plant = { s.plant with shadow := vset s.plant.shadow i a.data } ∧ t.log = s.log ∧
            t.settings = s.settings ∧ t.link = s.link) ∧
        (∀ range off, region = .settings range off →
          (off = 0x20 ∨ off = 0x22 ∨ off = 0x24 → a.lanes ≠ .word → only (.refuse .byteWrite)) ∧
          (off = 0x22 ∨ off = 0x24 → range = .trial → a.lanes = .word → only (.refuse .notTrial)) ∧
          (off ≠ 0x20 → off ≠ 0x22 → off ≠ 0x24 → (∀ h : off / 2 < 2048, sectionAt ⟨off / 2, h⟩ = none) →
            only (if range = .stored ∧ s.settings.freeze = true then .refuse .frozen else .forward))))

/-- R131, R132: the arbiter grants the free port. Where the upstream port and an internal member ask together, the side
other than the last winner is granted; within the internal group the first member that asks from the rotation position
onwards, in the order corrector, log writer, deposit agent, report reader and round again. -/
def Obligations.ArbiterAlternatesSidesAndRotates : Prop :=
  ∀ s : State,
    let upstream := s.load = .none ∧ ∃ a, s.port = .waiting a
    let asks (m : Member) := s.load = .none ∧ match m with
      | .corrector => s.plant.corr ≠ []
      | .logWriter => s.log.queue ≠ []
      | .deposit => ∃ i, s.deposits.dirty.get i = true
      | .reader => s.reporter.readReq ≠ none
    let place (m : Member) : Nat := match m with
      | .corrector => 0
      | .logWriter => 1
      | .deposit => 2
      | .reader => 3
    let turn (m : Member) := (place m + 4 - place s.rotation) % 4
    (s.grantsUpstream = true ↔
      s.holder = .free ∧ upstream ∧ ((∀ m, ¬ asks m) ∨ s.lastWinner = .internal)) ∧
    ∀ m, s.grantsMember m = true ↔
      s.holder = .free ∧ asks m ∧ (¬ upstream ∨ s.lastWinner = .upstream) ∧ ∀ k, turn k < turn m → ¬ asks k

/-- R134: the corrector granted the port takes the earliest pending word with its shadow value; at the completion that value
lies in the word and nothing else has moved, and the word leaves the set if its shadow still equals the value. -/
def Obligations.CorrectorWritesPendingWords : Prop :=
  ∀ (s : State) (i : Fin 32),
    (∀ rest, s.plant.corr = i :: rest → s.grantsMember .corrector = true →
      exec .correctorGrant s = .next { s with
        holder := .corrector i (s.plant.shadow.get i), lastWinner := .internal, rotation := .logWriter }) ∧
    (∀ v, s.holder = .corrector i v → s.mem.wf →
      ∃ t, exec .correctionComplete s = .next t ∧
        (∀ x, t.mem.read x =
          if x = (s.window .command).base + 2 * i.val then v.extractLsb' 0 8
          else if x = (s.window .command).base + 2 * i.val + 1 then v.extractLsb' 8 8 else s.mem.read x) ∧
        t.plant.corr.Sublist s.plant.corr ∧
        (∀ j, j ∈ t.plant.corr ↔ j ∈ s.plant.corr ∧ (j ≠ i ∨ s.plant.shadow.get i ≠ v)) ∧
        t = { s with holder := .free, mem := t.mem, plant := { s.plant with corr := t.plant.corr } })

/-- R136: the deposit agent granted the port takes the first dirty page from the scan position upwards, wrapping after
page 15; the page leaves the set, its generation count rises, wrapping, and the scan position moves to the page
after it. The snapshot is 64 bytes: the new generation count, the words that 12.3 gives the page (cause bits 0 for a
channel in GOOD, head 0 for a weir without a level, next offset 0 for a closed staging: the model's choices, log 46;
0 units for a claim NONE: log 60; 0 where there is no refusal, transaction, result or cycle to show: log 63; 0 for a cause, trigger or state without meaning: its inference, log 35), and the check word. It lies in the page,
and no byte beside it has moved, at the completion. -/
def Obligations.DepositAgentWritesDirtyPages : Prop :=
  ∀ (s : State) (i : Fin 16),
    (s.grantsMember .deposit = true → s.deposits.dirty.get i = true →
      (∀ j : Fin 16, (j.val + 16 - s.deposits.scanPos % 16) % 16 < (i.val + 16 - s.deposits.scanPos % 16) % 16 →
        s.deposits.dirty.get j = false) →
      ∃ words : List Word, words.length = 32 ∧ words.head? = some (s.deposits.gen.get i + 1) ∧
        (words.drop 1).take 30 = pageWords s s.plant.corr.length i ∧ s.PageShows i words ∧ blockSum words = 0xFFFF ∧
        exec .depositGrant s = .next { s with
          holder := .deposit i (wordsBytes words), lastWinner := .internal, rotation := .reader
          deposits := { dirty := vset s.deposits.dirty i false, gen := vset s.deposits.gen i (s.deposits.gen.get i + 1)
                        scanPos := (i.val + 1) % 16 } }) ∧
    (∀ image, s.holder = .deposit i image → s.mem.wf →
      ∃ t, exec .depositComplete s = .next t ∧
        (∀ k, k < image.length → t.mem.read ((s.window .status).base + 64 * i.val + k) = image.getD k 0) ∧
        (∀ x, x < (s.window .status).base + 64 * i.val ∨ (s.window .status).base + 64 * i.val + image.length ≤ x →
          t.mem.read x = s.mem.read x) ∧
        t = { s with holder := .free, mem := t.mem })

/-! The settings unit. -/

/-- R140: the five judgments of the enable word, in order; a write that passes is absorbed and opens the transaction, page 0
marked dirty, nothing appended, the section's shadow, source and flags untouched. -/
def Obligations.EnableWordPassesFiveJudgments : Prop :=
  ∀ (s : State) (range : SettingsRange) (v : Word), s.plant.out = [] →
    let a := wordWrite (rangeBase range + 0x20) v
    s.Takes a → ∃ t, exec (.settingsEnable range v) s = .next t ∧
      if s.settings.txn ≠ none then s.AccessOnly t a (.refuse .busy)
      else if v.toNat < 0xE000 ∨ 0xE008 < v.toNat then s.AccessOnly t a (.refuse .badCode)
      else if s.settings.freeze = true then s.AccessOnly t a (.refuse .frozen)
      else if range = .trial ∧ (v = 0xE000 ∨ v = 0xE008) then s.AccessOnly t a (.refuse .notTrial)
      else if s.settings.lock.getLsbD (v.toNat - 0xE000) = true then s.AccessOnly t a (.refuse .locked)
      else s.AccessStep t a .absorb ∧ t.plant = s.plant ∧ t.log = s.log ∧ t.link = s.link ∧
        (s.plant.loading = false → t.deposits.dirty.get 0 = true) ∧
        ∃ sec : Fin 9, sec.val = v.toNat - 0xE000 ∧
          t.settings = { s.settings with
            txn := some
              { range := range, sec := sec, received := 0, forwarded := 0, staging := [], idle := .running 10
                next := [0x100, 0x200, 0x300, 0x400, 0x480, 0x500, 0x700, 0x800, 0x000].getD sec.val 0 } }

/-- R138, R141, R142, R143: a write to a section word. With no transaction open it is refused with NO_TRANSACTION. A
word at the next offset, in the open section, through the range that opened it is accepted, forwarded in a STORED and
absorbed in a TRIAL transaction; the section's last word commits it: CHECK or CONTENT abandons it, else the section is
in force, and R145 takes effect at the blocks that read it (PENDING_RESET by the tables as 12.5 reads their words: the
model's inference, log 21; a commit of S2 in the order of log 28, the litre accumulator of a weir taken away put back
to 0: log 54, no CURVE_CHANGED on its record: log 57, and a claim given up with 0 units: log 60; what is said of the
rotation list has R60's premise, that a pump not present is in ABSENT). Any other write is refused and abandons it with
ORDER_BROKEN, SETTINGS_ABANDON appended before REFUSAL (the model's choice, log 58), and the idle timer's expiry with
TIMEOUT. -/
def Obligations.SectionWordsCommitOrAbandon : Prop :=
  ∀ s : State, s.plant.out = [] →
    let closed (t : State) (x : Transaction) (r : SettingsResult) :=
      t.settings = { s.settings with txn := none, last := some { sec := x.sec, range := x.range, result := r } }
    let abandoned (t : State) (x : Transaction) (received forwarded : Nat) (why : SettingsResult) :=
      closed t x why ∧
        s.Logged t [{ source := srcSettings, kind := 0x61, urgent := false
                      detail := detail1 x.sec.val ++ detail1 (rangeCode x.range) ++ detail1 why.code ++
                        detail2 received ++ detail2 forwarded }] ∧
        t.plant.clock = s.plant.clock ∧
        t.plant = { s.plant with
          sections := vset s.plant.sections x.sec { s.plant.sections.get x.sec with
            storedDiffers := (s.plant.sections.get x.sec).storedDiffers || x.range == .stored && decide (0 < forwarded) }
          alarms := t.plant.alarms, lines := t.plant.lines } ∧
        (s.plant.loading = false → (t.plant.alarms.points.get 37).condition = t.plant.differCondition)
    (∀ (range : SettingsRange) (off : Fin 2048) (lanes : Lanes) (v : Word), (sectionAt off).isSome = true →
      let a := settingsAccess range off lanes v
      s.Takes a → ∃ t, exec (.settingsSectionWord range off lanes v) s = .next t ∧
        (s.settings.txn = none → s.AccessOnly t a (.refuse .noTransaction)) ∧
        ∀ x, s.settings.txn = some x →
          let fits := lanes = .word ∧ sectionAt off = some x.sec ∧ 2 * off.val = x.next ∧ range = x.range
          let outcome : Verdict := if x.range = .stored then .forward else .absorb
          let forwarded := if x.range = .stored then x.forwarded + 1 else x.forwarded
          let words := x.staging ++ [v]
          (¬ fits → s.AccessStep t a (.refuse .orderBroken) ∧ t.link = s.link ∧
            abandoned t x x.received x.forwarded .orderBroken) ∧
          (fits → s.AccessStep t a outcome) ∧
          (fits → x.received + 1 ≠ sectionLength x.sec →
            t.plant = s.plant ∧ t.log = s.log ∧ t.link = s.link ∧
            (s.plant.loading = false → t.deposits.dirty.get 0 = true) ∧
            t.settings = { s.settings with
              txn := some { x with
                staging := words, received := x.received + 1, forwarded := forwarded, next := x.next + 2
                idle := .running 10 } }) ∧
          (fits → x.received + 1 = sectionLength x.sec →
            (blockValid words = false → t.link = s.link ∧ abandoned t x (x.received + 1) forwarded .check) ∧
            (blockValid words = true → contentGood x.sec words = false →
              t.link = s.link ∧ abandoned t x (x.received + 1) forwarded .content) ∧
            (blockValid words = true → contentGood x.sec words = true →
              closed t x .commit ∧
              s.Logged t [{ source := srcSettings, kind := 0x60, urgent := false
                            detail := detail1 x.sec.val ++ detail1 (rangeCode x.range) ++
                              detail1 (s.plant.sections.get x.sec).source.code }] ∧
              t.plant.clock = s.plant.clock ∧
              t.plant.sections = vset s.plant.sections x.sec
                { words := words, source := if x.range = .stored then .stored else .trial
                  storedDiffers := x.range == .trial && (s.plant.sections.get x.sec).storedDiffers
                  pendingReset := if x.sec = 0 then windowTable words != s.windows
                    else (s.plant.sections.get x.sec).pendingReset } ∧
              (s.plant.loading = false → s.CommitTakesEffect t x.sec words)))) ∧
    (∀ x, s.settings.txn = some x → x.idle = .running 0 →
      ∃ t, exec .settingsIdleExpiry s = .next t ∧ abandoned t x x.received x.forwarded .timeout ∧
        t = { s with plant := t.plant, log := t.log, settings := t.settings, deposits := t.deposits } ∧ s.Pages t)

/-- R146, R147: the lock word and the freeze word, judged in the order of their rules. A changed mask appends LOCK_CHANGE
with the old and the new, freeze becoming set appends FREEZE with the mask in force; either marks page 0 dirty. -/
def Obligations.LockAndFreezeWordsAreJudged : Prop :=
  ∀ (s : State) (v : Word), s.plant.out = [] →
    let taken (t : State) (a : Access) (unit : SettingsUnit) (entries : List Draft) :=
      s.AccessStep t a .absorb ∧ t.settings = unit ∧ t.plant = s.plant ∧ t.link = s.link ∧
        t.log = entries.foldl (fun l d => l.append s.plant.clock d) s.log ∧
        (s.plant.loading = false → entries ≠ [] → t.deposits.dirty.get 0 = true)
    (let a := wordWrite 0x0FF022 v
     s.Takes a → ∃ t, exec (.lockWordWrite v) s = .next t ∧
      if s.settings.txn ≠ none then s.AccessOnly t a (.refuse .busy)
      else if s.settings.freeze = true then s.AccessOnly t a (.refuse .frozen)
      else if v &&& 0xFE00 ≠ 0x8000 then s.AccessOnly t a (.refuse .badCode)
      else taken t a { s.settings with lock := v.extractLsb' 0 9 }
        (if v.extractLsb' 0 9 = s.settings.lock then []
         else [{ source := srcSettings, kind := 0x63, urgent := false
                 detail := detail2 s.settings.lock.toNat ++ detail2 (v.extractLsb' 0 9).toNat }])) ∧
    (let a := wordWrite 0x0FF024 v
     s.Takes a → ∃ t, exec (.freezeWordWrite v) s = .next t ∧
      if s.settings.txn ≠ none then s.AccessOnly t a (.refuse .busy)
      else if v ≠ 0x0001 then s.AccessOnly t a (.refuse .badCode)
      else taken t a { s.settings with freeze := true }
        (if s.settings.freeze = true then []
         else [{ source := srcSettings, kind := 0x64, urgent := false
                 detail := detail2 s.settings.lock.toNat }]))

/-- R171: the check word is 0xFFFF less the wrapping sum of the other words, and a block is valid when its words sum to
0xFFFF; a block of zero words is not, and the check word of the worked header is 0xB8AC. A DEFAULT section, a page, an entry
and a GAP item as the part makes them have their number of words and are valid. -/
def Obligations.CheckWordsMakeBlocksValid : Prop :=
  (∀ ws : List Word, blockSum ws = BitVec.ofNat 16 (ws.map BitVec.toNat).sum ∧
    checkWord ws = 0xFFFF - blockSum ws ∧ blockSum (ws ++ [checkWord ws]) = 0xFFFF ∧
    (blockValid ws = true ↔ blockSum ws = 0xFFFF)) ∧
  (∀ n, blockValid (List.replicate n 0) = false) ∧
  checkWord ([0x4752, 0x0001, 0x0000] ++ List.replicate 12 0) = 0xB8AC ∧
  (∀ i : Fin 9, (defaultSection i).length = [64, 128, 128, 64, 64, 256, 128, 64, 16].getD i.val 0 ∧
    blockValid (defaultSection i) = true) ∧
  (∀ (s : State) (i : Fin 16) (gen : Word),
    (bytesWords (pageImage s i gen)).length = 32 ∧ blockValid (bytesWords (pageImage s i gen)) = true) ∧
  (∀ (seq : Nat) (time : Time) (source kind : Byte) (flags : Nat) (detail : List Byte), detail.length ≤ 18 →
    (bytesWords (entryBytes seq time source kind flags detail)).length = 16 ∧
    blockValid (bytesWords (entryBytes seq time source kind flags detail)) = true) ∧
  (∀ count, (bytesWords (gapItem count)).length = 16 ∧ blockValid (bytesWords (gapItem count)) = true)

/-! The link line. -/

/-- R152 to R155: a character at its stop bit, by its judgment and the receiver's state, and the expiry of the gap
timer. In LOAD no character is judged (R159). After a break nothing is looked for until the line returns to mark. The
gap timer runs from the marker on (the model's inference, log 18). A good frame for the station waits in the inbox for
its judgment in a later step (the model's choice, logs 31 and 64). -/
def Obligations.ReceiverTakesCharactersByState : Prop :=
  ∀ s : State, s.plant.out = [] →
    let l := s.link
    let limit := if l.evenParity then 44 else 40
    let hunting (r : Receiver) := r.state = .hunt ∧ r.header = [] ∧ r.payload = [] ∧ r.crcHigh = none ∧ r.gap = none
    let after (c : Instr) (rx : Receiver → Prop) (counts : LinkCounts) (inbox : List TownFrame) :=
      ∃ t, exec c s = .next t ∧ s.LinkStep t ∧ rx t.link.rx ∧ t.link.counts = counts ∧ t.link.inbox = l.inbox ++ inbox
    (s.load ≠ .none → ∀ c, exec (.characterReceived c) s = .next s) ∧
    (s.load = .none →
      after .lineReturnsToMark (· = { l.rx with inBreak := false }) l.counts [] ∧
      (l.rx.gap ≠ none →
        after .gapTimerExpiry (fun r => hunting r ∧ r.inBreak = l.rx.inBreak)
          { l.counts with gap := bump l.counts.gap } []) ∧
      ∀ c : LineChar,
        let ones := (List.range 8).countP (fun i => c.data.getLsbD i) + (if c.parityBit then 1 else 0)
        let space := c.data = 0 ∧ c.stopBit = false ∧ (l.evenParity = true → c.parityBit = false)
        let wrong := l.evenParity = true ∧ ones % 2 = 1
        (l.rx.inBreak = true → after (.characterReceived c) (· = l.rx) l.counts []) ∧
        (l.rx.inBreak = false → c.underRts = true →
          after (.characterReceived c) (· = l.rx) { l.counts with discarded := bump l.counts.discarded } []) ∧
        (l.rx.inBreak = false → c.underRts = false → space ∨ c.stopBit = false ∨ wrong →
          after (.characterReceived c) (fun r => r.inBreak = decide space ∧
              (l.rx.state = .hunt → r = { l.rx with inBreak := r.inBreak }) ∧ (l.rx.state ≠ .hunt → hunting r))
            (if l.rx.state = .hunt then { l.counts with noise := bump l.counts.noise }
             else if space then { l.counts with breaks := bump l.counts.breaks }
             else if c.stopBit = false then { l.counts with framing := bump l.counts.framing }
             else { l.counts with parity := bump l.counts.parity }) []) ∧
        (l.rx.inBreak = false → c.underRts = false → c.stopBit = true → ¬ wrong →
          (l.rx.state = .hunt → after (.characterReceived c)
            (· = if c.data = 0xC3 then { l.rx with
                state := .header, crc := 0xFFFF, header := [], payload := [], crcHigh := none, gap := some limit }
              else l.rx) l.counts []) ∧
          (l.rx.state = .header → l.rx.header.length < 3 → after (.characterReceived c)
            (· = { l.rx with header := l.rx.header ++ [c.data], crc := crcByte l.rx.crc c.data, gap := some limit })
            l.counts []) ∧
          (l.rx.state = .header → l.rx.header.length = 3 → c.data.toNat ≤ 96 → after (.characterReceived c)
            (· = { l.rx with
              header := l.rx.header ++ [c.data], crc := crcByte l.rx.crc c.data, gap := some limit
              state := if c.data = 0 then .check else .payload }) l.counts []) ∧
          (l.rx.state = .header → l.rx.header.length = 3 → 96 < c.data.toNat → after (.characterReceived c)
            (fun r => hunting r ∧ r.inBreak = false) { l.counts with length := bump l.counts.length } []) ∧
          (l.rx.state = .payload → after (.characterReceived c)
            (· = { l.rx with
              payload := l.rx.payload ++ [c.data], crc := crcByte l.rx.crc c.data, gap := some limit
              state := if l.rx.payload.length + 1 = (l.rx.header.getD 3 0).toNat then .check else .payload })
            l.counts []) ∧
          (l.rx.state = .check → l.rx.crcHigh = none → after (.characterReceived c)
            (· = { l.rx with crcHigh := some c.data, gap := some limit }) l.counts []) ∧
          (∀ high, l.rx.state = .check → l.rx.crcHigh = some high →
            let address := l.rx.header.getD 0 0
            let frame (broadcast : Bool) : TownFrame :=
              { broadcast := broadcast, kind := l.rx.header.getD 1 0, tag := l.rx.header.getD 2 0
                payload := l.rx.payload }
            let known := address = l.stationAddress ∨ address = 0
            (high ++ c.data ≠ l.rx.crc → after (.characterReceived c) (fun r => hunting r ∧ r.inBreak = false)
              { l.counts with crc := bump l.counts.crc } []) ∧
            (high ++ c.data = l.rx.crc → after (.characterReceived c) (fun r => hunting r ∧ r.inBreak = false)
              (if known then { l.counts with good := bump l.counts.good }
               else { l.counts with foreign := bump l.counts.foreign })
              (if known then [frame (decide (address ≠ l.stationAddress))] else [])))))

/-- R151, R156: in SENDING, LTXD carries the frame's characters, 0xC3, the address, kind, tag and length, the payload
and the CRC high byte first, each as a start bit at space, eight data bits the least significant first, with parity EVEN
the bit that makes the ones even, and a stop bit at mark; in any other state no character. R153, R155, R156: the
characters of a frame of at most 96 payload bytes, as a transmitter sends them, fed to a receiver in HUNT, give that
frame: its kind, tag and payload are handed to the reporter once, as ADDRESSED at the station's address and as BROADCAST
at address 0; at any other address it is discarded and counted as foreign. -/
def Obligations.FrameSentIsTheFrameReceived : Prop :=
  (∀ l : Link, (∀ f, l.tx ≠ .sending f) → l.ltxd = []) ∧
  (∀ (l : Link) (f : TxFrame), l.tx = .sending f →
    let covered := [f.address, f.kind, f.tag, BitVec.ofNat 8 f.payload.length] ++ f.payload
    let crc := covered.foldl crcByte 0xFFFF
    l.ltxd = ([0xC3#8] ++ covered ++ [crc.extractLsb' 8 8, crc.extractLsb' 0 8]).flatMap (fun b =>
      let data := (List.range 8).map (fun i => b.getLsbD i)
      let parity := if l.evenParity then [data.count true % 2 == 1] else []
      [false] ++ data ++ parity ++ [true])) ∧
  ∀ (l : Link) (f : TxFrame), l.rx.state = .hunt → l.rx.inBreak = false → f.payload.length ≤ 96 →
    let received := (f.characters.map (fun b =>
      ({ data := b, stopBit := true, underRts := false
         parityBit := (List.range 8).countP (fun i => b.getLsbD i) % 2 == 1 } : LineChar))).foldl Link.receive l
    let frame (broadcast : Bool) : TownFrame :=
      { broadcast := broadcast, kind := f.kind, tag := f.tag, payload := f.payload }
    received.rx.state = .hunt ∧
    (f.address = l.stationAddress → received.inbox = l.inbox ++ [frame false] ∧
      received.counts = { l.counts with good := bump l.counts.good }) ∧
    (f.address ≠ l.stationAddress → f.address = 0 → received.inbox = l.inbox ++ [frame true] ∧
      received.counts = { l.counts with good := bump l.counts.good }) ∧
    (f.address ≠ l.stationAddress → f.address ≠ 0 → received.inbox = l.inbox ∧
      received.counts = { l.counts with foreign := bump l.counts.foreign })

/-- R156, R157, R159: at a tick in PENDING with the receiver in HUNT the transmitter keys up, at once to SENDING with no
key-up delay; over a frame being received it stays in PENDING. KEYING leads on to SENDING at the expiry of its
timer. A change of LDCD outside LOAD is itself a sample (the model's choice, log 52); in LOAD the pin alone changes.
A key-up delay of 1 to 9 ms gives a timer of 0 ticks (the model's inference, log 26). -/
def Obligations.TransmitterKeysUpOverAQuietReceiver : Prop :=
  ∀ s : State, s.plant.out = [] →
    (s.load = .none →
      (∀ f, s.link.tx = .pending f → ∃ t, exec .keyUp s = .next t ∧ s.Pages t ∧
        t = { s with
          deposits := t.deposits
          link := { s.link with
            tx := if s.link.rx.state ≠ .hunt then .pending f
              else if s.link.keyUpDelay = 0 then .sending f
              else .keying f (.running (s.link.keyUpDelay / 10)) } }) ∧
      (∀ f, s.link.tx = .keying f (.running 0) → ∃ t, exec .keyUpExpiry s = .next t ∧ s.Pages t ∧
        t = { s with deposits := t.deposits, link := { s.link with tx := .sending f } })) ∧
    ∀ active : Bool,
      (s.load = .none → ∃ t, exec (.ldcdChange active) s = .next t ∧ ({ s with ldcdPin := active } : State).LinkStep t ∧
        t.link.ldcd = active ∧ t.link.rx = s.link.rx ∧ t.link.counts = s.link.counts ∧
        t.link.inbox = s.link.inbox) ∧
      (s.load ≠ .none → exec (.ldcdChange active) s = .next { s with ldcdPin := active })

/-- R156, R158, R161, R169: at the last stop bit the transmitter is IDLE, and a pending S7 takes effect if the receiver
is in HUNT (before the sent indication: the model's choice, log 40). The sent indication of a reply sets S to a POLL
reply's next, sets the gap record, and the slot is NONE; a waiting frame is then handled as if it arrived there, its
answer asked for before an ALERT refused BUSY (log 59) and before a send that waits on the line (log 66), both the
model's choices. That of an ALERT counts a send, the third ending the cycle, else the alert timer starts; a reply in
READY is asked for there, and is HELD. A disowned ALERT counts for nothing, the alerts-sent count included (the model's
inference, log 43). -/
def Obligations.SentIndicationMovesItsOwner : Prop :=
  ∀ (s : State) (f : TxFrame), s.plant.out = [] → s.load = .none → s.link.tx = .sending f →
    let line (t : State) := t.link.tx = .idle ∧
      (∀ words, s.link.pendingS7 = some words → s.link.rx.state = .hunt →
        t.link = { s.link with tx := .idle, s7 := words, pendingS7 := none }) ∧
      (s.link.pendingS7 = none ∨ s.link.rx.state ≠ .hunt → t.link = { s.link with tx := .idle }) ∧ s.Pages t
    (∀ r, f.owner = .reply → s.reporter.slot = .held r → s.reporter.waiting = none → s.reporter.cycle = none →
      ∃ t, exec .transmitComplete s = .next t ∧ line t ∧
        t = { s with
          link := t.link, deposits := t.deposits
          log := if r.ofPoll then { s.log with s := min (max r.next s.log.w) s.log.t } else s.log
          reporter := { s.reporter with
            slot := .none
            gapRecord := match r.gap with
              | some g => some (g, r.next)
              | none => s.reporter.gapRecord } }) ∧
    (∀ c, f.owner = .alert → s.reporter.cycle = some c → s.reporter.slot = .none →
      ∃ t, exec .transmitComplete s = .next t ∧ line t ∧
        t.reporter.counts = { s.reporter.counts with alerts := bump s.reporter.counts.alerts } ∧
        (c.sends + 1 < 3 → t = { s with
          link := t.link, deposits := t.deposits
          reporter := { s.reporter with
            counts := t.reporter.counts
            cycle := some { sends := c.sends + 1, phase := .timing, timer := .running t.link.alertInterval } } }) ∧
        (3 ≤ c.sends + 1 → s.LinkStep t ∧ t.reporter.cycle = none ∧ t.reporter.slot = .none ∧
          t.reporter.urgent = s.reporter.urgent)) ∧
    (∀ r w, f.owner = .reply → s.reporter.slot = .held r → s.reporter.waiting = some w → s.link.inbox = [] →
      (s.reporter.cycle = none → ∀ u, exec .transmitComplete { s with
          reporter := { s.reporter with waiting := none } } = .next u →
        let handled (c : Instr) := ∀ v, exec c u = .next v →
          ∃ t, exec .transmitComplete s = .next t ∧ s.Pages t ∧ t = { v with deposits := t.deposits }
        (∀ ack : BitVec 32, w.broadcast = false → w.kind = 0x01 → w.payload = natBytes 4 ack.toNat →
          handled (.poll w.tag ack)) ∧
        (w.broadcast = false → w.kind = 0x02 → w.payload = [0xFF] ∨
            1 ≤ w.payload.length ∧ w.payload.length ≤ 40 ∧ (∀ b ∈ w.payload, b.toNat ≤ 39) →
          handled (.townAlarmAck w.tag w.payload)) ∧
        (∀ time : Time, w.broadcast = false → w.kind = 0x03 → w.payload = natBytes 4 time.toNat →
          handled (.townClockSet false w.tag time))) ∧
      (∀ c payload, s.reporter.cycle = some c → c.phase = .ready payload → w.kind = 0x02 ∨ w.kind = 0x03 →
        ∃ t, exec .transmitComplete s = .next t ∧ t.reporter.waiting = none ∧ t.reporter.cycle = some c ∧
          ∃ a, t.reporter.slot = .held a ∧ a.kind = 0x82 ∧ a.tag = w.tag ∧ a.ofPoll = false ∧
            t.link.tx = .pending { address := t.link.stationAddress, kind := 0x82, tag := w.tag, payload := a.payload
                                   owner := .reply })) ∧
    (∀ c r, f.owner = .alert → s.reporter.cycle = some c → s.reporter.slot = .ready r →
      ∃ t, exec .transmitComplete s = .next t ∧ t.reporter.slot = .held r ∧
        t.link.tx = .pending { address := t.link.stationAddress, kind := r.kind, tag := r.tag, payload := r.payload
                               owner := .reply } ∧
        t.reporter.counts = { s.reporter.counts with alerts := bump s.reporter.counts.alerts } ∧
        t.reporter.cycle = (if c.sends + 1 < 3
          then some { sends := c.sends + 1, phase := .timing, timer := .running t.link.alertInterval } else none) ∧
        s.LinkStep t) ∧
    (f.owner = .disowned → s.reporter.cycle = none → s.reporter.slot = .none →
      ∃ t, exec .transmitComplete s = .next t ∧ line t ∧
        t = { s with link := t.link, deposits := t.deposits })

/-! The reporter. -/

/-- R161, R162, R163, R166: a POLL that finds no reply held, or one that can be withdrawn, puts the link UP, restarts
its timers, ends an alert cycle, judges its ack, settles the gap record, and builds its report from W, an abandoned
reply counted as superseded. One that finds a reply held that cannot be withdrawn waits, replacing one that waits
already; the link timer is as it was (the model's inference, log 41). Where the withdrawal makes the line quiet, a send
of the cycle that waits on it is not made first (the model's choice, log 66). -/
def Obligations.PollMovesCursorsAndBuildsReport : Prop :=
  ∀ (s : State) (tag : Byte) (ack : BitVec 32), s.plant.out = [] → s.load = .none → s.plant.loading = false →
    ((∀ r, s.reporter.slot = .held r → s.link.tx.withdraws .reply = true) → s.log.o ≤ s.log.w →
      ∃ t, exec (.poll tag ack) s = .next t ∧
        let inOrder := s.log.w ≤ ack.toNat ∧ ack.toNat ≤ s.log.s
        let gap := if t.log.tmiss = 0 then none else some t.log.tmiss
        let held := match s.reporter.slot with
          | .held _ => true
          | .none => false
          | .preparing _ => false
          | .ready _ => false
        let inForce : Link := match s.link.pendingS7 with
          | some words => if held = true ∧ s.link.rx.state = .hunt then { s.link with s7 := words } else s.link
          | none => s.link
        t.reporter.linkUp = true ∧ t.reporter.linkTimer = .running inForce.linkTimeout ∧
        t.reporter.pollTimer = .running inForce.alertWait ∧ t.reporter.cycle = none ∧ t.reporter.gapRecord = none ∧
        t.reporter.waiting = s.reporter.waiting ∧
        t.reporter.counts = { s.reporter.counts with
          polls := bump s.reporter.counts.polls
          disorders := if inOrder then s.reporter.counts.disorders else bump s.reporter.counts.disorders
          superseded := if s.reporter.slot = .none then s.reporter.counts.superseded
            else bump s.reporter.counts.superseded } ∧
        (∃ entries : List Draft, t.log = entries.foldl (fun l d => l.append s.plant.clock d)
          { s.log with
            w := if inOrder then ack.toNat else s.log.w
            tmiss := match s.reporter.gapRecord with
              | some (g, next) => if inOrder ∧ next ≤ ack.toNat then s.log.tmiss - g else s.log.tmiss
              | none => s.log.tmiss }) ∧
        (t.plant.alarms.points.get 38).condition = false ∧
        (∀ g next, s.reporter.gapRecord = some (g, next) → inOrder → next ≤ ack.toNat →
          (t.plant.alarms.points.get 39).condition = decide (0 < t.log.tmiss)) ∧
        t.plant = { s.plant with alarms := t.plant.alarms, lines := t.plant.lines } ∧
        s.plant.SameInputs t.plant ∧
        (∀ x, x ∈ t.reporter.urgent ↔
          x ∈ s.reporter.urgent ∧ s.log.o ≤ x.1 ∧ (inOrder → ack.toNat ≤ x.1)) ∧
        (t.log.w < s.log.t →
          (∃ b, t.reporter.slot = .preparing b ∧
            b = { tag := tag, mask := b.mask, gap := gap, next := t.log.w, examined := 0
                  items := match gap with
                    | some g => [gapItem g]
                    | none => [] } ∧
            (s.link.pendingS7 = none ∨ s.link.quiet = false → b.mask = t.link.reportMask)) ∧
          t.reporter.readReq = some (t.log.w, .build)) ∧
        (s.log.t ≤ t.log.w → ∃ r : Reply, (t.reporter.slot = .held r ∨ t.reporter.slot = .ready r) ∧
          r.kind = (if t.log.tmiss = 0 then 0x82 else 0x81) ∧ r.tag = tag ∧ r.next = t.log.w ∧ r.ofPoll = true ∧
          r.gap = gap) ∧
        t = { s with
          plant := t.plant, log := t.log, link := t.link, reporter := t.reporter, deposits := t.deposits
          holder := t.holder } ∧
        (t.holder = s.holder ∨ ∃ seq use live, s.holder = .reader seq use live ∧
          t.holder = .reader seq use false)) ∧
    (∀ r, s.reporter.slot = .held r → s.link.tx.withdraws .reply = false →
      ∃ t, exec (.poll tag ack) s = .next t ∧ s.LinkStep t ∧ t.reporter.slot = .held r ∧
        t.reporter.waiting = some { broadcast := false, kind := 0x01, tag := tag, payload := natBytes 4 ack.toNat } ∧
        t.reporter.counts = { s.reporter.counts with
          superseded := if s.reporter.waiting = none then s.reporter.counts.superseded
            else bump s.reporter.counts.superseded } ∧
        t.reporter.linkTimer = s.reporter.linkTimer)

/-- R160, R161, R165, R15: an ALARM_ACK acknowledges the points it names, an ADDRESSED CLOCK_SET sets station time with setter
TOWN, and each is answered with an IDLE whose next is S; neither moves W or the link's timers. A BROADCAST CLOCK_SET sets
station time and is not answered. A frame outside the table of R160 (a POLL of 4 bytes, an ALARM_ACK of 0xFF or of 1 to 40
point numbers, both ADDRESSED, a CLOCK_SET of 4 bytes) is counted as rejected and disturbs nothing: no reply, no cycle, no
frame at the transmitter moves. -/
def Obligations.TownFramesAreJudgedAndAnswered : Prop :=
  ∀ (s : State) (tag : Byte), s.plant.out = [] → s.load = .none →
    let still (t : State) :=
      t.reporter.linkUp = s.reporter.linkUp ∧ t.reporter.linkTimer = s.reporter.linkTimer ∧
        t.reporter.pollTimer = s.reporter.pollTimer ∧ t.reporter.gapRecord = s.reporter.gapRecord ∧
        t.reporter.waiting = s.reporter.waiting ∧
        (s.reporter.cycle = none → (∀ r, s.reporter.slot ≠ .ready r) → s.link.pendingS7 = none →
          t.reporter.slot = s.reporter.slot ∧ t.reporter.cycle = none ∧ t.reporter.readReq = s.reporter.readReq ∧
          t.reporter.urgent = s.reporter.urgent ∧ t.holder = s.holder ∧
          t.link = { s.link with inbox := t.link.inbox })
    let taken (broadcast : Bool) (kind : Byte) (payload : List Byte) :=
      broadcast = false ∧ kind = 0x01 ∧ payload.length = 4 ∨
        broadcast = false ∧ kind = 0x02 ∧
          (payload = [0xFF] ∨ 1 ≤ payload.length ∧ payload.length ≤ 40 ∧ ∀ b ∈ payload, b.toNat ≤ 39) ∨
        kind = 0x03 ∧ payload.length = 4
    let answered (t : State) := ∃ r : Reply,
      t.reporter = { s.reporter with slot := if s.link.tx.isIdle then .held r else .ready r } ∧
        r.kind = 0x82 ∧ r.tag = tag ∧ r.next = s.log.s ∧ r.ofPoll = false ∧ r.gap = none ∧
        r.payload = natBytes 4 s.log.s ++ natBytes 1 (pointCode t.plant.alarms.identity) ++
          natBytes 1 (pointCode t.plant.alarms.firstOut) ++
          natBytes 1 (t.plant.mode.mode.code + 16 * t.plant.mode.cause.code) ++ natBytes 1 (bit t.plant.mode.storm) ∧
        t.link.tx = (if s.link.tx.isIdle then .pending { address := s.link.stationAddress, kind := 0x82, tag := tag
                                                         payload := r.payload, owner := .reply } else s.link.tx)
    let timed (t : State) (time : Time) :=
      t.plant.clock = { s.plant.clock with station := time, clockSet := true } ∧
        (∀ n, t.plant.weir n = { s.plant.weir n with
          openRecord := (s.plant.weir n).openRecord.map
            (fun r => { r with flags := { r.flags with clockChanged := true } }) }) ∧
        t.plant = { s.plant with clock := t.plant.clock, weirs := t.plant.weirs } ∧
        t.log = s.log.append t.plant.clock
          { source := srcSystem, kind := 0x04, urgent := false
            detail := detail4 s.plant.clock.station.toNat ++ detail4 time.toNat ++ detail1 1 } ∧
        (s.plant.loading = false → t.deposits.dirty.get 0 = true)
    (∀ payload, payload = [0xFF] ∨
        1 ≤ payload.length ∧ payload.length ≤ 40 ∧ (∀ b ∈ payload, b.toNat ≤ 39) →
      s.reporter.slot = .none → ∃ t, exec (.townAlarmAck tag payload) s = .next t ∧ answered t ∧
        (∀ k : Fin 40,
          (t.plant.alarms.points.get k).condition = (s.plant.alarms.points.get k).condition ∧
          (t.plant.alarms.points.get k).state =
            if payload = [0xFF] ∨ BitVec.ofNat 8 k.val ∈ payload then (s.plant.alarms.points.get k).state.acked
            else (s.plant.alarms.points.get k).state) ∧
        t.plant = { s.plant with alarms := t.plant.alarms, lines := t.plant.lines } ∧
        s.plant.SameInputs t.plant ∧ s.Logged t [] ∧
        t = { s with
          plant := t.plant, log := t.log, link := t.link, reporter := t.reporter, deposits := t.deposits } ∧
        s.Pages t) ∧
    (∀ time : Time,
      (s.reporter.slot = .none → ∃ t, exec (.townClockSet false tag time) s = .next t ∧ timed t time ∧ answered t) ∧
      ∃ t, exec (.townClockSet true tag time) s = .next t ∧ timed t time ∧ still t ∧
        t.reporter.counts = s.reporter.counts) ∧
    (∀ broadcast kind payload, ¬ taken broadcast kind payload →
      ∃ t, exec (.frameRejected broadcast kind tag payload) s = .next t ∧ s.LinkStep t ∧ still t ∧
        t.reporter.counts = { s.reporter.counts with rejected := bump s.reporter.counts.rejected })

/-- R166, R168, R169: the link timer's expiry makes the link LOST and hands LINK_LOST; the poll-wait timer's lets an alert
cycle start where all the conditions hold: its numbers are marked and the oldest at or above W is fetched. At the alert
timer's expiry the next send is made on a quiet line with LDCD INACTIVE, and else waits; with no number left the cycle ends. -/
def Obligations.LinkTimersDriveTheAlertCycle : Prop :=
  ∀ s : State, s.plant.out = [] → s.load = .none →
    (s.reporter.linkTimer = .running 0 → s.plant.loading = false →
      ∃ t, exec .linkTimerExpiry s = .next t ∧ t.reporter.linkUp = false ∧ t.reporter.linkTimer = .stopped ∧
        t.reporter.pollTimer = s.reporter.pollTimer ∧ t.reporter.counts = s.reporter.counts ∧
        (t.plant.alarms.points.get 38).condition = true ∧
        t.plant = { s.plant with alarms := t.plant.alarms, lines := t.plant.lines } ∧
        s.plant.SameInputs t.plant ∧ s.Logged t []) ∧
    (s.reporter.pollTimer = .running 0 → s.reporter.cycle = none → (∀ r, s.reporter.slot ≠ .ready r) →
      s.link.pendingS7 = none → ∃ t, exec .pollWaitExpiry s = .next t ∧ s.Pages t ∧
        t = { s with reporter := { s.reporter with pollTimer := .stopped }, deposits := t.deposits }) ∧
    ((∃ x ∈ s.reporter.urgent, s.log.s ≤ x.1 ∧ x.2 = false) →
      s.plant.mode.storm = true ∨ s.reporter.linkUp = false → s.reporter.pollTimer.isRunning = false →
      s.link.ldcd = false → s.link.tx = .idle → s.link.rx.state = .hunt → s.link.pendingS7 = none →
      s.reporter.cycle = none → s.reporter.slot = .none → s.log.o ≤ s.log.w → s.log.w ≤ s.log.s →
      ∃ t x, exec .alertCycleStart s = .next t ∧ s.Pages t ∧
        s.reporter.urgent.find? (fun y => decide (s.log.w ≤ y.1)) = some x ∧
        t = { s with
          deposits := t.deposits
          reporter := { s.reporter with
            urgent := (s.reporter.urgent.filter (fun y => decide (s.log.o ≤ y.1))).map
              (fun y => (y.1, y.2 || decide (s.log.s ≤ y.1)))
            readReq := some (x.1, .alert)
            cycle := some { sends := 0, phase := .fetching x.1, timer := .stopped } } }) ∧
    (∀ c, s.reporter.cycle = some c → c.timer = .running 0 → s.reporter.slot = .none → s.link.pendingS7 = none →
      s.log.o ≤ s.log.w →
      ∃ t, exec .alertTimerExpiry s = .next t ∧ s.LinkStep t ∧
        (s.link.ldcd = true ∨ s.link.tx ≠ .idle ∨ s.link.rx.state ≠ .hunt →
          t.reporter = { s.reporter with cycle := some { c with phase := .lineWait, timer := .stopped } }) ∧
        (s.link.ldcd = false → s.link.tx = .idle → s.link.rx.state = .hunt →
          (∀ x, s.reporter.urgent.find? (fun y => decide (s.log.w ≤ y.1)) = some x →
            t.reporter.cycle = some { sends := c.sends, phase := .fetching x.1, timer := .stopped } ∧
            t.reporter.readReq = some (x.1, .alert)) ∧
          (s.reporter.urgent.find? (fun y => decide (s.log.w ≤ y.1)) = none → t.reporter.cycle = none)))

/-- R132, R161, R164, R169: the report reader granted the port reads the entry asked for. A fetched entry that was
retired restarts the build from W; one that is unreadable is skipped and counted; one of a masked class is skipped; any
other is gathered. The build goes on until three items, T, or 32 entries. An alert's entry whose sequence field is the
one asked for goes to the transmitter as an ALERT, whatever its check word (the model's inference, log 45); another
sequence field is left out. A class is masked where its bit of the report mask is 0 (the model's inference, log 20); a
build that restarts keeps its mask (log 53). A result that is no longer wanted is discarded. -/
def Obligations.ReportReaderFetchesEntries : Prop :=
  ∀ s : State, s.plant.out = [] →
    (∀ seq use, s.reporter.readReq = some (seq, use) → s.grantsMember .reader = true →
      exec .reportReaderGrant s = .next { s with
        holder := .reader seq use true, lastWinner := .internal, rotation := .corrector
        reporter := { s.reporter with readReq := none } }) ∧
    ∀ x use,
      (s.holder = .reader x use false → exec .entryReadComplete s = .next { s with holder := .free }) ∧
      (s.holder = .reader x use true →
        let bytes := s.mem.readBytes ((s.window .logRing).base + x % s.capacity * 32) 32
        let seq := bytesNat (bytes.take 4)
        let idlePayload (next : Nat) := natBytes 4 next ++ natBytes 1 (pointCode s.plant.alarms.identity) ++
          natBytes 1 (pointCode s.plant.alarms.firstOut) ++
          natBytes 1 (s.plant.mode.mode.code + 16 * s.plant.mode.cause.code) ++ natBytes 1 (bit s.plant.mode.storm)
        let goesOn (t : State) (b : Build) :=
          if 3 ≤ b.items.length ∨ s.log.t ≤ b.next ∨ 32 ≤ b.examined then
            ∃ r : Reply, t.reporter.slot = (if s.link.tx.isIdle then .held r else .ready r) ∧
              r.kind = (if b.items = [] then 0x82 else 0x81) ∧ r.tag = b.tag ∧ r.next = b.next ∧ r.ofPoll = true ∧
              r.gap = b.gap ∧
              r.payload = (if b.items = [] then idlePayload b.next else natBytes 4 b.next ++ b.items.flatten) ∧
              (s.link.tx.isIdle = true → t.link.tx = .pending
                { address := s.link.stationAddress, kind := r.kind, tag := r.tag, payload := r.payload
                  owner := .reply })
          else t.reporter.slot = .preparing b ∧ t.reporter.readReq = some (b.next, .build)
        ∃ t, exec .entryReadComplete s = .next t ∧
          (∀ b, use = .build → s.reporter.slot = .preparing b → s.reporter.cycle = none →
            t = { s with holder := .free, link := t.link, reporter := t.reporter, deposits := t.deposits } ∧
            s.Pages t ∧ t.link.rx = s.link.rx ∧ t.link.counts = s.link.counts ∧ t.link.inbox = s.link.inbox ∧
            (seq ≠ x → x < s.log.o → t.reporter.counts = s.reporter.counts ∧
              goesOn t
                { tag := b.tag, mask := b.mask, next := s.log.w, examined := 0
                  gap := if s.log.tmiss = 0 then none else some s.log.tmiss
                  items := if s.log.tmiss = 0 then [] else [gapItem s.log.tmiss] }) ∧
            (s.log.o ≤ x → seq ≠ x ∨ blockValid (bytesWords bytes) = false →
              t.reporter.counts = { s.reporter.counts with unreadable := bump s.reporter.counts.unreadable } ∧
              goesOn t { b with next := x + 1, examined := b.examined + 1 }) ∧
            (seq = x → blockValid (bytesWords bytes) = true →
              t.reporter.counts = s.reporter.counts ∧
              goesOn t { b with
                next := x + 1, examined := b.examined + 1
                items := if ∃ cls, kindClass (bytes.getD 9 0) = some cls ∧ b.mask.getLsbD cls = false then b.items
                  else b.items ++ [bytes] })) ∧
          (∀ c, use = .alert → s.reporter.cycle = some c → s.reporter.slot = .none → seq = x →
            t = { s with holder := .free, link := t.link, reporter := t.reporter, deposits := t.deposits } ∧
            s.Pages t ∧
            (s.link.tx.isIdle = true →
              t.link.tx = .pending
                { address := s.link.stationAddress, kind := 0x83, tag := BitVec.ofNat 8 (c.sends + 1)
                  payload := bytes, owner := .alert } ∧
              t.reporter = { s.reporter with cycle := some { c with phase := .sending } }) ∧
            (s.link.tx.isIdle = false →
              t.reporter = { s.reporter with cycle := some { c with phase := .ready bytes } })))
end

