-- ==== Sys2Proof/Laws/State.lean ====
section
/-! SUPPORT. What each update of the state leaves alone, one lemma per field, and what it sets. -/

namespace Sys2Proof.Machine

/-! Fixed groups. -/

@[simp] theorem vset_get_same {α : Type} {n : Nat} (v : Vector α n) (i : Fin n) (x : α) : (vset v i x).get i = x := by
  show (v.set i.val x i.isLt)[i.val] = x
  exact Vector.getElem_set_self i.isLt

theorem vset_get_ne {α : Type} {n : Nat} (v : Vector α n) {i j : Fin n} (x : α) (h : i ≠ j) :
    (vset v i x).get j = v.get j := by
  show (v.set i.val x i.isLt)[j.val] = v[j.val]
  exact Vector.getElem_set_ne i.isLt j.isLt (fun e => h (Fin.ext e))

theorem vset_get {α : Type} {n : Nat} (v : Vector α n) (i j : Fin n) (x : α) :
    (vset v i x).get j = if i = j then x else v.get j := by
  split
  · rename_i h; rw [h]; exact vset_get_same v j x
  · rename_i h; exact vset_get_ne v x h

/-! A changed plant. -/

@[simp] theorem State.onPlant_pending (s : State) (f : Plant → Plant) :
    (s.onPlant f).pending = s.pending := rfl

@[simp] theorem State.onPlant_load (s : State) (f : Plant → Plant) :
    (s.onPlant f).load = s.load := rfl

@[simp] theorem State.onPlant_kept (s : State) (f : Plant → Plant) :
    (s.onPlant f).kept = s.kept := rfl

@[simp] theorem State.onPlant_uprst (s : State) (f : Plant → Plant) :
    (s.onPlant f).uprst = s.uprst := rfl

@[simp] theorem State.onPlant_ldcdPin (s : State) (f : Plant → Plant) :
    (s.onPlant f).ldcdPin = s.ldcdPin := rfl

@[simp] theorem State.onPlant_mem (s : State) (f : Plant → Plant) :
    (s.onPlant f).mem = s.mem := rfl

@[simp] theorem State.onPlant_port (s : State) (f : Plant → Plant) :
    (s.onPlant f).port = s.port := rfl

@[simp] theorem State.onPlant_prdy (s : State) (f : Plant → Plant) :
    (s.onPlant f).prdy = s.prdy := rfl

@[simp] theorem State.onPlant_pd (s : State) (f : Plant → Plant) :
    (s.onPlant f).pd = s.pd := rfl

@[simp] theorem State.onPlant_verdict (s : State) (f : Plant → Plant) :
    (s.onPlant f).verdict = s.verdict := rfl

@[simp] theorem State.onPlant_holder (s : State) (f : Plant → Plant) :
    (s.onPlant f).holder = s.holder := rfl

@[simp] theorem State.onPlant_lastWinner (s : State) (f : Plant → Plant) :
    (s.onPlant f).lastWinner = s.lastWinner := rfl

@[simp] theorem State.onPlant_rotation (s : State) (f : Plant → Plant) :
    (s.onPlant f).rotation = s.rotation := rfl

@[simp] theorem State.onPlant_windows (s : State) (f : Plant → Plant) :
    (s.onPlant f).windows = s.windows := rfl

@[simp] theorem State.onPlant_plant (s : State) (f : Plant → Plant) :
    (s.onPlant f).plant = f s.plant := rfl

@[simp] theorem State.onPlant_log (s : State) (f : Plant → Plant) :
    (s.onPlant f).log = s.log := rfl

@[simp] theorem State.onPlant_settings (s : State) (f : Plant → Plant) :
    (s.onPlant f).settings = s.settings := rfl

@[simp] theorem State.onPlant_refusals (s : State) (f : Plant → Plant) :
    (s.onPlant f).refusals = s.refusals := rfl

@[simp] theorem State.onPlant_deposits (s : State) (f : Plant → Plant) :
    (s.onPlant f).deposits = s.deposits := rfl

@[simp] theorem State.onPlant_link (s : State) (f : Plant → Plant) :
    (s.onPlant f).link = s.link := rfl

@[simp] theorem State.onPlant_reporter (s : State) (f : Plant → Plant) :
    (s.onPlant f).reporter = s.reporter := rfl

@[simp] theorem State.onPlant_freeCount (s : State) (f : Plant → Plant) :
    (s.onPlant f).freeCount = s.freeCount := rfl

/-! A plant put in place. -/

@[simp] theorem State.withPlant_pending (s : State) (p : Plant) :
    (s.withPlant p).pending = s.pending := rfl

@[simp] theorem State.withPlant_load (s : State) (p : Plant) :
    (s.withPlant p).load = s.load := rfl

@[simp] theorem State.withPlant_kept (s : State) (p : Plant) :
    (s.withPlant p).kept = s.kept := rfl

@[simp] theorem State.withPlant_uprst (s : State) (p : Plant) :
    (s.withPlant p).uprst = s.uprst := rfl

@[simp] theorem State.withPlant_ldcdPin (s : State) (p : Plant) :
    (s.withPlant p).ldcdPin = s.ldcdPin := rfl

@[simp] theorem State.withPlant_mem (s : State) (p : Plant) :
    (s.withPlant p).mem = s.mem := rfl

@[simp] theorem State.withPlant_port (s : State) (p : Plant) :
    (s.withPlant p).port = s.port := rfl

@[simp] theorem State.withPlant_prdy (s : State) (p : Plant) :
    (s.withPlant p).prdy = s.prdy := rfl

@[simp] theorem State.withPlant_pd (s : State) (p : Plant) :
    (s.withPlant p).pd = s.pd := rfl

@[simp] theorem State.withPlant_verdict (s : State) (p : Plant) :
    (s.withPlant p).verdict = s.verdict := rfl

@[simp] theorem State.withPlant_holder (s : State) (p : Plant) :
    (s.withPlant p).holder = s.holder := rfl

@[simp] theorem State.withPlant_lastWinner (s : State) (p : Plant) :
    (s.withPlant p).lastWinner = s.lastWinner := rfl

@[simp] theorem State.withPlant_rotation (s : State) (p : Plant) :
    (s.withPlant p).rotation = s.rotation := rfl

@[simp] theorem State.withPlant_windows (s : State) (p : Plant) :
    (s.withPlant p).windows = s.windows := rfl

@[simp] theorem State.withPlant_plant (s : State) (p : Plant) :
    (s.withPlant p).plant = p := rfl

@[simp] theorem State.withPlant_log (s : State) (p : Plant) :
    (s.withPlant p).log = s.log := rfl

@[simp] theorem State.withPlant_settings (s : State) (p : Plant) :
    (s.withPlant p).settings = s.settings := rfl

@[simp] theorem State.withPlant_refusals (s : State) (p : Plant) :
    (s.withPlant p).refusals = s.refusals := rfl

@[simp] theorem State.withPlant_deposits (s : State) (p : Plant) :
    (s.withPlant p).deposits = s.deposits := rfl

@[simp] theorem State.withPlant_link (s : State) (p : Plant) :
    (s.withPlant p).link = s.link := rfl

@[simp] theorem State.withPlant_reporter (s : State) (p : Plant) :
    (s.withPlant p).reporter = s.reporter := rfl

@[simp] theorem State.withPlant_freeCount (s : State) (p : Plant) :
    (s.withPlant p).freeCount = s.freeCount := rfl

/-! A changed link line. -/

@[simp] theorem State.setLink_pending (s : State) (l : Link) :
    (s.setLink l).pending = s.pending := rfl

@[simp] theorem State.setLink_load (s : State) (l : Link) :
    (s.setLink l).load = s.load := rfl

@[simp] theorem State.setLink_kept (s : State) (l : Link) :
    (s.setLink l).kept = s.kept := rfl

@[simp] theorem State.setLink_uprst (s : State) (l : Link) :
    (s.setLink l).uprst = s.uprst := rfl

@[simp] theorem State.setLink_ldcdPin (s : State) (l : Link) :
    (s.setLink l).ldcdPin = s.ldcdPin := rfl

@[simp] theorem State.setLink_mem (s : State) (l : Link) :
    (s.setLink l).mem = s.mem := rfl

@[simp] theorem State.setLink_port (s : State) (l : Link) :
    (s.setLink l).port = s.port := rfl

@[simp] theorem State.setLink_prdy (s : State) (l : Link) :
    (s.setLink l).prdy = s.prdy := rfl

@[simp] theorem State.setLink_pd (s : State) (l : Link) :
    (s.setLink l).pd = s.pd := rfl

@[simp] theorem State.setLink_verdict (s : State) (l : Link) :
    (s.setLink l).verdict = s.verdict := rfl

@[simp] theorem State.setLink_holder (s : State) (l : Link) :
    (s.setLink l).holder = s.holder := rfl

@[simp] theorem State.setLink_lastWinner (s : State) (l : Link) :
    (s.setLink l).lastWinner = s.lastWinner := rfl

@[simp] theorem State.setLink_rotation (s : State) (l : Link) :
    (s.setLink l).rotation = s.rotation := rfl

@[simp] theorem State.setLink_windows (s : State) (l : Link) :
    (s.setLink l).windows = s.windows := rfl

@[simp] theorem State.setLink_plant (s : State) (l : Link) :
    (s.setLink l).plant = s.plant := rfl

@[simp] theorem State.setLink_log (s : State) (l : Link) :
    (s.setLink l).log = s.log := rfl

@[simp] theorem State.setLink_settings (s : State) (l : Link) :
    (s.setLink l).settings = s.settings := rfl

@[simp] theorem State.setLink_refusals (s : State) (l : Link) :
    (s.setLink l).refusals = s.refusals := rfl

@[simp] theorem State.setLink_deposits (s : State) (l : Link) :
    (s.setLink l).deposits = s.deposits := rfl

@[simp] theorem State.setLink_link (s : State) (l : Link) :
    (s.setLink l).link = l := rfl

@[simp] theorem State.setLink_reporter (s : State) (l : Link) :
    (s.setLink l).reporter = s.reporter := rfl

@[simp] theorem State.setLink_freeCount (s : State) (l : Link) :
    (s.setLink l).freeCount = s.freeCount := rfl

/-! A changed reporter. -/

@[simp] theorem State.setReporter_pending (s : State) (r : Reporter) :
    (s.setReporter r).pending = s.pending := rfl

@[simp] theorem State.setReporter_load (s : State) (r : Reporter) :
    (s.setReporter r).load = s.load := rfl

@[simp] theorem State.setReporter_kept (s : State) (r : Reporter) :
    (s.setReporter r).kept = s.kept := rfl

@[simp] theorem State.setReporter_uprst (s : State) (r : Reporter) :
    (s.setReporter r).uprst = s.uprst := rfl

@[simp] theorem State.setReporter_ldcdPin (s : State) (r : Reporter) :
    (s.setReporter r).ldcdPin = s.ldcdPin := rfl

@[simp] theorem State.setReporter_mem (s : State) (r : Reporter) :
    (s.setReporter r).mem = s.mem := rfl

@[simp] theorem State.setReporter_port (s : State) (r : Reporter) :
    (s.setReporter r).port = s.port := rfl

@[simp] theorem State.setReporter_prdy (s : State) (r : Reporter) :
    (s.setReporter r).prdy = s.prdy := rfl

@[simp] theorem State.setReporter_pd (s : State) (r : Reporter) :
    (s.setReporter r).pd = s.pd := rfl

@[simp] theorem State.setReporter_verdict (s : State) (r : Reporter) :
    (s.setReporter r).verdict = s.verdict := rfl

@[simp] theorem State.setReporter_holder (s : State) (r : Reporter) :
    (s.setReporter r).holder = s.holder := rfl

@[simp] theorem State.setReporter_lastWinner (s : State) (r : Reporter) :
    (s.setReporter r).lastWinner = s.lastWinner := rfl

@[simp] theorem State.setReporter_rotation (s : State) (r : Reporter) :
    (s.setReporter r).rotation = s.rotation := rfl

@[simp] theorem State.setReporter_windows (s : State) (r : Reporter) :
    (s.setReporter r).windows = s.windows := rfl

@[simp] theorem State.setReporter_plant (s : State) (r : Reporter) :
    (s.setReporter r).plant = s.plant := rfl

@[simp] theorem State.setReporter_log (s : State) (r : Reporter) :
    (s.setReporter r).log = s.log := rfl

@[simp] theorem State.setReporter_settings (s : State) (r : Reporter) :
    (s.setReporter r).settings = s.settings := rfl

@[simp] theorem State.setReporter_refusals (s : State) (r : Reporter) :
    (s.setReporter r).refusals = s.refusals := rfl

@[simp] theorem State.setReporter_deposits (s : State) (r : Reporter) :
    (s.setReporter r).deposits = s.deposits := rfl

@[simp] theorem State.setReporter_link (s : State) (r : Reporter) :
    (s.setReporter r).link = s.link := rfl

@[simp] theorem State.setReporter_reporter (s : State) (r : Reporter) :
    (s.setReporter r).reporter = r := rfl

@[simp] theorem State.setReporter_freeCount (s : State) (r : Reporter) :
    (s.setReporter r).freeCount = s.freeCount := rfl

/-! A changed reply slot. -/

@[simp] theorem State.setSlot_pending (s : State) (x : Slot) :
    (s.setSlot x).pending = s.pending := rfl

@[simp] theorem State.setSlot_load (s : State) (x : Slot) :
    (s.setSlot x).load = s.load := rfl

@[simp] theorem State.setSlot_kept (s : State) (x : Slot) :
    (s.setSlot x).kept = s.kept := rfl

@[simp] theorem State.setSlot_uprst (s : State) (x : Slot) :
    (s.setSlot x).uprst = s.uprst := rfl

@[simp] theorem State.setSlot_ldcdPin (s : State) (x : Slot) :
    (s.setSlot x).ldcdPin = s.ldcdPin := rfl

@[simp] theorem State.setSlot_mem (s : State) (x : Slot) :
    (s.setSlot x).mem = s.mem := rfl

@[simp] theorem State.setSlot_port (s : State) (x : Slot) :
    (s.setSlot x).port = s.port := rfl

@[simp] theorem State.setSlot_prdy (s : State) (x : Slot) :
    (s.setSlot x).prdy = s.prdy := rfl

@[simp] theorem State.setSlot_pd (s : State) (x : Slot) :
    (s.setSlot x).pd = s.pd := rfl

@[simp] theorem State.setSlot_verdict (s : State) (x : Slot) :
    (s.setSlot x).verdict = s.verdict := rfl

@[simp] theorem State.setSlot_holder (s : State) (x : Slot) :
    (s.setSlot x).holder = s.holder := rfl

@[simp] theorem State.setSlot_lastWinner (s : State) (x : Slot) :
    (s.setSlot x).lastWinner = s.lastWinner := rfl

@[simp] theorem State.setSlot_rotation (s : State) (x : Slot) :
    (s.setSlot x).rotation = s.rotation := rfl

@[simp] theorem State.setSlot_windows (s : State) (x : Slot) :
    (s.setSlot x).windows = s.windows := rfl

@[simp] theorem State.setSlot_plant (s : State) (x : Slot) :
    (s.setSlot x).plant = s.plant := rfl

@[simp] theorem State.setSlot_log (s : State) (x : Slot) :
    (s.setSlot x).log = s.log := rfl

@[simp] theorem State.setSlot_settings (s : State) (x : Slot) :
    (s.setSlot x).settings = s.settings := rfl

@[simp] theorem State.setSlot_refusals (s : State) (x : Slot) :
    (s.setSlot x).refusals = s.refusals := rfl

@[simp] theorem State.setSlot_deposits (s : State) (x : Slot) :
    (s.setSlot x).deposits = s.deposits := rfl

@[simp] theorem State.setSlot_link (s : State) (x : Slot) :
    (s.setSlot x).link = s.link := rfl

@[simp] theorem State.setSlot_freeCount (s : State) (x : Slot) :
    (s.setSlot x).freeCount = s.freeCount := rfl

/-! The staging. -/

@[simp] theorem State.setStaging_pending (s : State) (x : Option (List Word)) :
    (s.setStaging x).pending = s.pending := rfl

@[simp] theorem State.setStaging_load (s : State) (x : Option (List Word)) :
    (s.setStaging x).load = s.load := rfl

@[simp] theorem State.setStaging_kept (s : State) (x : Option (List Word)) :
    (s.setStaging x).kept = s.kept := rfl

@[simp] theorem State.setStaging_uprst (s : State) (x : Option (List Word)) :
    (s.setStaging x).uprst = s.uprst := rfl

@[simp] theorem State.setStaging_ldcdPin (s : State) (x : Option (List Word)) :
    (s.setStaging x).ldcdPin = s.ldcdPin := rfl

@[simp] theorem State.setStaging_mem (s : State) (x : Option (List Word)) :
    (s.setStaging x).mem = s.mem := rfl

@[simp] theorem State.setStaging_port (s : State) (x : Option (List Word)) :
    (s.setStaging x).port = s.port := rfl

@[simp] theorem State.setStaging_prdy (s : State) (x : Option (List Word)) :
    (s.setStaging x).prdy = s.prdy := rfl

@[simp] theorem State.setStaging_pd (s : State) (x : Option (List Word)) :
    (s.setStaging x).pd = s.pd := rfl

@[simp] theorem State.setStaging_verdict (s : State) (x : Option (List Word)) :
    (s.setStaging x).verdict = s.verdict := rfl

@[simp] theorem State.setStaging_holder (s : State) (x : Option (List Word)) :
    (s.setStaging x).holder = s.holder := rfl

@[simp] theorem State.setStaging_lastWinner (s : State) (x : Option (List Word)) :
    (s.setStaging x).lastWinner = s.lastWinner := rfl

@[simp] theorem State.setStaging_rotation (s : State) (x : Option (List Word)) :
    (s.setStaging x).rotation = s.rotation := rfl

@[simp] theorem State.setStaging_windows (s : State) (x : Option (List Word)) :
    (s.setStaging x).windows = s.windows := rfl

@[simp] theorem State.setStaging_plant (s : State) (x : Option (List Word)) :
    (s.setStaging x).plant = s.plant := rfl

@[simp] theorem State.setStaging_log (s : State) (x : Option (List Word)) :
    (s.setStaging x).log = { s.log with staging := x } := rfl

@[simp] theorem State.setStaging_settings (s : State) (x : Option (List Word)) :
    (s.setStaging x).settings = s.settings := rfl

@[simp] theorem State.setStaging_refusals (s : State) (x : Option (List Word)) :
    (s.setStaging x).refusals = s.refusals := rfl

@[simp] theorem State.setStaging_deposits (s : State) (x : Option (List Word)) :
    (s.setStaging x).deposits = s.deposits := rfl

@[simp] theorem State.setStaging_link (s : State) (x : Option (List Word)) :
    (s.setStaging x).link = s.link := rfl

@[simp] theorem State.setStaging_reporter (s : State) (x : Option (List Word)) :
    (s.setStaging x).reporter = s.reporter := rfl

@[simp] theorem State.setStaging_freeCount (s : State) (x : Option (List Word)) :
    (s.setStaging x).freeCount = s.freeCount := rfl

/-! The last processor commit. -/

@[simp] theorem State.setLastCommit_pending (s : State) (x : CommitResult) :
    (s.setLastCommit x).pending = s.pending := rfl

@[simp] theorem State.setLastCommit_load (s : State) (x : CommitResult) :
    (s.setLastCommit x).load = s.load := rfl

@[simp] theorem State.setLastCommit_kept (s : State) (x : CommitResult) :
    (s.setLastCommit x).kept = s.kept := rfl

@[simp] theorem State.setLastCommit_uprst (s : State) (x : CommitResult) :
    (s.setLastCommit x).uprst = s.uprst := rfl

@[simp] theorem State.setLastCommit_ldcdPin (s : State) (x : CommitResult) :
    (s.setLastCommit x).ldcdPin = s.ldcdPin := rfl

@[simp] theorem State.setLastCommit_mem (s : State) (x : CommitResult) :
    (s.setLastCommit x).mem = s.mem := rfl

@[simp] theorem State.setLastCommit_port (s : State) (x : CommitResult) :
    (s.setLastCommit x).port = s.port := rfl

@[simp] theorem State.setLastCommit_prdy (s : State) (x : CommitResult) :
    (s.setLastCommit x).prdy = s.prdy := rfl

@[simp] theorem State.setLastCommit_pd (s : State) (x : CommitResult) :
    (s.setLastCommit x).pd = s.pd := rfl

@[simp] theorem State.setLastCommit_verdict (s : State) (x : CommitResult) :
    (s.setLastCommit x).verdict = s.verdict := rfl

@[simp] theorem State.setLastCommit_holder (s : State) (x : CommitResult) :
    (s.setLastCommit x).holder = s.holder := rfl

@[simp] theorem State.setLastCommit_lastWinner (s : State) (x : CommitResult) :
    (s.setLastCommit x).lastWinner = s.lastWinner := rfl

@[simp] theorem State.setLastCommit_rotation (s : State) (x : CommitResult) :
    (s.setLastCommit x).rotation = s.rotation := rfl

@[simp] theorem State.setLastCommit_windows (s : State) (x : CommitResult) :
    (s.setLastCommit x).windows = s.windows := rfl

@[simp] theorem State.setLastCommit_plant (s : State) (x : CommitResult) :
    (s.setLastCommit x).plant = s.plant := rfl

@[simp] theorem State.setLastCommit_log (s : State) (x : CommitResult) :
    (s.setLastCommit x).log = { s.log with lastCommit := x } := rfl

@[simp] theorem State.setLastCommit_settings (s : State) (x : CommitResult) :
    (s.setLastCommit x).settings = s.settings := rfl

@[simp] theorem State.setLastCommit_refusals (s : State) (x : CommitResult) :
    (s.setLastCommit x).refusals = s.refusals := rfl

@[simp] theorem State.setLastCommit_deposits (s : State) (x : CommitResult) :
    (s.setLastCommit x).deposits = s.deposits := rfl

@[simp] theorem State.setLastCommit_link (s : State) (x : CommitResult) :
    (s.setLastCommit x).link = s.link := rfl

@[simp] theorem State.setLastCommit_reporter (s : State) (x : CommitResult) :
    (s.setLastCommit x).reporter = s.reporter := rfl

@[simp] theorem State.setLastCommit_freeCount (s : State) (x : CommitResult) :
    (s.setLastCommit x).freeCount = s.freeCount := rfl

/-! A closed transaction. -/

@[simp] theorem State.closeTxn_pending (s : State) (t : Transaction) (r : SettingsResult) :
    (s.closeTxn t r).pending = s.pending := rfl

@[simp] theorem State.closeTxn_load (s : State) (t : Transaction) (r : SettingsResult) :
    (s.closeTxn t r).load = s.load := rfl

@[simp] theorem State.closeTxn_kept (s : State) (t : Transaction) (r : SettingsResult) :
    (s.closeTxn t r).kept = s.kept := rfl

@[simp] theorem State.closeTxn_uprst (s : State) (t : Transaction) (r : SettingsResult) :
    (s.closeTxn t r).uprst = s.uprst := rfl

@[simp] theorem State.closeTxn_ldcdPin (s : State) (t : Transaction) (r : SettingsResult) :
    (s.closeTxn t r).ldcdPin = s.ldcdPin := rfl

@[simp] theorem State.closeTxn_mem (s : State) (t : Transaction) (r : SettingsResult) :
    (s.closeTxn t r).mem = s.mem := rfl

@[simp] theorem State.closeTxn_port (s : State) (t : Transaction) (r : SettingsResult) :
    (s.closeTxn t r).port = s.port := rfl

@[simp] theorem State.closeTxn_prdy (s : State) (t : Transaction) (r : SettingsResult) :
    (s.closeTxn t r).prdy = s.prdy := rfl

@[simp] theorem State.closeTxn_pd (s : State) (t : Transaction) (r : SettingsResult) :
    (s.closeTxn t r).pd = s.pd := rfl

@[simp] theorem State.closeTxn_verdict (s : State) (t : Transaction) (r : SettingsResult) :
    (s.closeTxn t r).verdict = s.verdict := rfl

@[simp] theorem State.closeTxn_holder (s : State) (t : Transaction) (r : SettingsResult) :
    (s.closeTxn t r).holder = s.holder := rfl

@[simp] theorem State.closeTxn_lastWinner (s : State) (t : Transaction) (r : SettingsResult) :
    (s.closeTxn t r).lastWinner = s.lastWinner := rfl

@[simp] theorem State.closeTxn_rotation (s : State) (t : Transaction) (r : SettingsResult) :
    (s.closeTxn t r).rotation = s.rotation := rfl

@[simp] theorem State.closeTxn_windows (s : State) (t : Transaction) (r : SettingsResult) :
    (s.closeTxn t r).windows = s.windows := rfl

@[simp] theorem State.closeTxn_plant (s : State) (t : Transaction) (r : SettingsResult) :
    (s.closeTxn t r).plant = s.plant := rfl

@[simp] theorem State.closeTxn_log (s : State) (t : Transaction) (r : SettingsResult) :
    (s.closeTxn t r).log = s.log := rfl

@[simp] theorem State.closeTxn_refusals (s : State) (t : Transaction) (r : SettingsResult) :
    (s.closeTxn t r).refusals = s.refusals := rfl

@[simp] theorem State.closeTxn_deposits (s : State) (t : Transaction) (r : SettingsResult) :
    (s.closeTxn t r).deposits = s.deposits := rfl

@[simp] theorem State.closeTxn_link (s : State) (t : Transaction) (r : SettingsResult) :
    (s.closeTxn t r).link = s.link := rfl

@[simp] theorem State.closeTxn_reporter (s : State) (t : Transaction) (r : SettingsResult) :
    (s.closeTxn t r).reporter = s.reporter := rfl

@[simp] theorem State.closeTxn_freeCount (s : State) (t : Transaction) (r : SettingsResult) :
    (s.closeTxn t r).freeCount = s.freeCount := rfl

/-! The port freed. -/

@[simp] theorem State.freePort_pending (s : State) :
    (s.freePort).pending = s.pending := rfl

@[simp] theorem State.freePort_load (s : State) :
    (s.freePort).load = s.load := rfl

@[simp] theorem State.freePort_kept (s : State) :
    (s.freePort).kept = s.kept := rfl

@[simp] theorem State.freePort_uprst (s : State) :
    (s.freePort).uprst = s.uprst := rfl

@[simp] theorem State.freePort_ldcdPin (s : State) :
    (s.freePort).ldcdPin = s.ldcdPin := rfl

@[simp] theorem State.freePort_mem (s : State) :
    (s.freePort).mem = s.mem := rfl

@[simp] theorem State.freePort_port (s : State) :
    (s.freePort).port = s.port := rfl

@[simp] theorem State.freePort_prdy (s : State) :
    (s.freePort).prdy = s.prdy := rfl

@[simp] theorem State.freePort_pd (s : State) :
    (s.freePort).pd = s.pd := rfl

@[simp] theorem State.freePort_verdict (s : State) :
    (s.freePort).verdict = s.verdict := rfl

@[simp] theorem State.freePort_holder (s : State) :
    (s.freePort).holder = Holder.free := rfl

@[simp] theorem State.freePort_lastWinner (s : State) :
    (s.freePort).lastWinner = s.lastWinner := rfl

@[simp] theorem State.freePort_rotation (s : State) :
    (s.freePort).rotation = s.rotation := rfl

@[simp] theorem State.freePort_windows (s : State) :
    (s.freePort).windows = s.windows := rfl

@[simp] theorem State.freePort_plant (s : State) :
    (s.freePort).plant = s.plant := rfl

@[simp] theorem State.freePort_log (s : State) :
    (s.freePort).log = s.log := rfl

@[simp] theorem State.freePort_settings (s : State) :
    (s.freePort).settings = s.settings := rfl

@[simp] theorem State.freePort_refusals (s : State) :
    (s.freePort).refusals = s.refusals := rfl

@[simp] theorem State.freePort_deposits (s : State) :
    (s.freePort).deposits = s.deposits := rfl

@[simp] theorem State.freePort_link (s : State) :
    (s.freePort).link = s.link := rfl

@[simp] theorem State.freePort_reporter (s : State) :
    (s.freePort).reporter = s.reporter := rfl

@[simp] theorem State.freePort_freeCount (s : State) :
    (s.freePort).freeCount = s.freeCount := rfl

/-! A grant to an internal member. -/

@[simp] theorem State.grantMember_pending (s : State) (m : Member) (h : Holder) :
    (s.grantMember m h).pending = s.pending := rfl

@[simp] theorem State.grantMember_load (s : State) (m : Member) (h : Holder) :
    (s.grantMember m h).load = s.load := rfl

@[simp] theorem State.grantMember_kept (s : State) (m : Member) (h : Holder) :
    (s.grantMember m h).kept = s.kept := rfl

@[simp] theorem State.grantMember_uprst (s : State) (m : Member) (h : Holder) :
    (s.grantMember m h).uprst = s.uprst := rfl

@[simp] theorem State.grantMember_ldcdPin (s : State) (m : Member) (h : Holder) :
    (s.grantMember m h).ldcdPin = s.ldcdPin := rfl

@[simp] theorem State.grantMember_mem (s : State) (m : Member) (h : Holder) :
    (s.grantMember m h).mem = s.mem := rfl

@[simp] theorem State.grantMember_port (s : State) (m : Member) (h : Holder) :
    (s.grantMember m h).port = s.port := rfl

@[simp] theorem State.grantMember_prdy (s : State) (m : Member) (h : Holder) :
    (s.grantMember m h).prdy = s.prdy := rfl

@[simp] theorem State.grantMember_pd (s : State) (m : Member) (h : Holder) :
    (s.grantMember m h).pd = s.pd := rfl

@[simp] theorem State.grantMember_verdict (s : State) (m : Member) (h : Holder) :
    (s.grantMember m h).verdict = s.verdict := rfl

@[simp] theorem State.grantMember_holder (s : State) (m : Member) (h : Holder) :
    (s.grantMember m h).holder = h := rfl

@[simp] theorem State.grantMember_lastWinner (s : State) (m : Member) (h : Holder) :
    (s.grantMember m h).lastWinner = Side.internal := rfl

@[simp] theorem State.grantMember_rotation (s : State) (m : Member) (h : Holder) :
    (s.grantMember m h).rotation = m.next := rfl

@[simp] theorem State.grantMember_windows (s : State) (m : Member) (h : Holder) :
    (s.grantMember m h).windows = s.windows := rfl

@[simp] theorem State.grantMember_plant (s : State) (m : Member) (h : Holder) :
    (s.grantMember m h).plant = s.plant := rfl

@[simp] theorem State.grantMember_log (s : State) (m : Member) (h : Holder) :
    (s.grantMember m h).log = s.log := rfl

@[simp] theorem State.grantMember_settings (s : State) (m : Member) (h : Holder) :
    (s.grantMember m h).settings = s.settings := rfl

@[simp] theorem State.grantMember_refusals (s : State) (m : Member) (h : Holder) :
    (s.grantMember m h).refusals = s.refusals := rfl

@[simp] theorem State.grantMember_deposits (s : State) (m : Member) (h : Holder) :
    (s.grantMember m h).deposits = s.deposits := rfl

@[simp] theorem State.grantMember_link (s : State) (m : Member) (h : Holder) :
    (s.grantMember m h).link = s.link := rfl

@[simp] theorem State.grantMember_reporter (s : State) (m : Member) (h : Holder) :
    (s.grantMember m h).reporter = s.reporter := rfl

@[simp] theorem State.grantMember_freeCount (s : State) (m : Member) (h : Holder) :
    (s.grantMember m h).freeCount = s.freeCount := rfl

/-! Entries taken by the log unit. -/

@[simp] theorem flush_pending (s : State) :
    (flush s).pending = s.pending := rfl

@[simp] theorem flush_load (s : State) :
    (flush s).load = s.load := rfl

@[simp] theorem flush_kept (s : State) :
    (flush s).kept = s.kept := rfl

@[simp] theorem flush_uprst (s : State) :
    (flush s).uprst = s.uprst := rfl

@[simp] theorem flush_ldcdPin (s : State) :
    (flush s).ldcdPin = s.ldcdPin := rfl

@[simp] theorem flush_mem (s : State) :
    (flush s).mem = s.mem := rfl

@[simp] theorem flush_port (s : State) :
    (flush s).port = s.port := rfl

@[simp] theorem flush_prdy (s : State) :
    (flush s).prdy = s.prdy := rfl

@[simp] theorem flush_pd (s : State) :
    (flush s).pd = s.pd := rfl

@[simp] theorem flush_verdict (s : State) :
    (flush s).verdict = s.verdict := rfl

@[simp] theorem flush_holder (s : State) :
    (flush s).holder = s.holder := rfl

@[simp] theorem flush_lastWinner (s : State) :
    (flush s).lastWinner = s.lastWinner := rfl

@[simp] theorem flush_rotation (s : State) :
    (flush s).rotation = s.rotation := rfl

@[simp] theorem flush_windows (s : State) :
    (flush s).windows = s.windows := rfl

@[simp] theorem flush_plant (s : State) :
    (flush s).plant = { s.plant with out := [] } := rfl

@[simp] theorem flush_log (s : State) :
    (flush s).log = s.plant.out.foldl (fun l d => l.append s.plant.clock d) s.log := rfl

@[simp] theorem flush_settings (s : State) :
    (flush s).settings = s.settings := rfl

@[simp] theorem flush_refusals (s : State) :
    (flush s).refusals = s.refusals := rfl

@[simp] theorem flush_deposits (s : State) :
    (flush s).deposits = s.deposits := rfl

@[simp] theorem flush_link (s : State) :
    (flush s).link = s.link := rfl

@[simp] theorem flush_reporter (s : State) :
    (flush s).reporter = s.reporter := rfl

@[simp] theorem flush_freeCount (s : State) :
    (flush s).freeCount = s.freeCount := rfl

/-! A marked page. -/

@[simp] theorem markPage_pending (s : State) (i : Fin 16) :
    (markPage s i).pending = s.pending := by
  unfold markPage; split <;> rfl

@[simp] theorem markPage_load (s : State) (i : Fin 16) :
    (markPage s i).load = s.load := by
  unfold markPage; split <;> rfl

@[simp] theorem markPage_kept (s : State) (i : Fin 16) :
    (markPage s i).kept = s.kept := by
  unfold markPage; split <;> rfl

@[simp] theorem markPage_uprst (s : State) (i : Fin 16) :
    (markPage s i).uprst = s.uprst := by
  unfold markPage; split <;> rfl

@[simp] theorem markPage_ldcdPin (s : State) (i : Fin 16) :
    (markPage s i).ldcdPin = s.ldcdPin := by
  unfold markPage; split <;> rfl

@[simp] theorem markPage_mem (s : State) (i : Fin 16) :
    (markPage s i).mem = s.mem := by
  unfold markPage; split <;> rfl

@[simp] theorem markPage_port (s : State) (i : Fin 16) :
    (markPage s i).port = s.port := by
  unfold markPage; split <;> rfl

@[simp] theorem markPage_prdy (s : State) (i : Fin 16) :
    (markPage s i).prdy = s.prdy := by
  unfold markPage; split <;> rfl

@[simp] theorem markPage_pd (s : State) (i : Fin 16) :
    (markPage s i).pd = s.pd := by
  unfold markPage; split <;> rfl

@[simp] theorem markPage_verdict (s : State) (i : Fin 16) :
    (markPage s i).verdict = s.verdict := by
  unfold markPage; split <;> rfl

@[simp] theorem markPage_holder (s : State) (i : Fin 16) :
    (markPage s i).holder = s.holder := by
  unfold markPage; split <;> rfl

@[simp] theorem markPage_lastWinner (s : State) (i : Fin 16) :
    (markPage s i).lastWinner = s.lastWinner := by
  unfold markPage; split <;> rfl

@[simp] theorem markPage_rotation (s : State) (i : Fin 16) :
    (markPage s i).rotation = s.rotation := by
  unfold markPage; split <;> rfl

@[simp] theorem markPage_windows (s : State) (i : Fin 16) :
    (markPage s i).windows = s.windows := by
  unfold markPage; split <;> rfl

@[simp] theorem markPage_plant (s : State) (i : Fin 16) :
    (markPage s i).plant = s.plant := by
  unfold markPage; split <;> rfl

@[simp] theorem markPage_log (s : State) (i : Fin 16) :
    (markPage s i).log = s.log := by
  unfold markPage; split <;> rfl

@[simp] theorem markPage_settings (s : State) (i : Fin 16) :
    (markPage s i).settings = s.settings := by
  unfold markPage; split <;> rfl

@[simp] theorem markPage_refusals (s : State) (i : Fin 16) :
    (markPage s i).refusals = s.refusals := by
  unfold markPage; split <;> rfl

@[simp] theorem markPage_link (s : State) (i : Fin 16) :
    (markPage s i).link = s.link := by
  unfold markPage; split <;> rfl

@[simp] theorem markPage_reporter (s : State) (i : Fin 16) :
    (markPage s i).reporter = s.reporter := by
  unfold markPage; split <;> rfl

@[simp] theorem markPage_freeCount (s : State) (i : Fin 16) :
    (markPage s i).freeCount = s.freeCount := by
  unfold markPage; split <;> rfl

/-! Pages that show a change. -/

@[simp] theorem markChanged_pending (s t : State) :
    (markChanged s t).pending = t.pending := by
  unfold markChanged; split <;> rfl

@[simp] theorem markChanged_load (s t : State) :
    (markChanged s t).load = t.load := by
  unfold markChanged; split <;> rfl

@[simp] theorem markChanged_kept (s t : State) :
    (markChanged s t).kept = t.kept := by
  unfold markChanged; split <;> rfl

@[simp] theorem markChanged_uprst (s t : State) :
    (markChanged s t).uprst = t.uprst := by
  unfold markChanged; split <;> rfl

@[simp] theorem markChanged_ldcdPin (s t : State) :
    (markChanged s t).ldcdPin = t.ldcdPin := by
  unfold markChanged; split <;> rfl

@[simp] theorem markChanged_mem (s t : State) :
    (markChanged s t).mem = t.mem := by
  unfold markChanged; split <;> rfl

@[simp] theorem markChanged_port (s t : State) :
    (markChanged s t).port = t.port := by
  unfold markChanged; split <;> rfl

@[simp] theorem markChanged_prdy (s t : State) :
    (markChanged s t).prdy = t.prdy := by
  unfold markChanged; split <;> rfl

@[simp] theorem markChanged_pd (s t : State) :
    (markChanged s t).pd = t.pd := by
  unfold markChanged; split <;> rfl

@[simp] theorem markChanged_verdict (s t : State) :
    (markChanged s t).verdict = t.verdict := by
  unfold markChanged; split <;> rfl

@[simp] theorem markChanged_holder (s t : State) :
    (markChanged s t).holder = t.holder := by
  unfold markChanged; split <;> rfl

@[simp] theorem markChanged_lastWinner (s t : State) :
    (markChanged s t).lastWinner = t.lastWinner := by
  unfold markChanged; split <;> rfl

@[simp] theorem markChanged_rotation (s t : State) :
    (markChanged s t).rotation = t.rotation := by
  unfold markChanged; split <;> rfl

@[simp] theorem markChanged_windows (s t : State) :
    (markChanged s t).windows = t.windows := by
  unfold markChanged; split <;> rfl

@[simp] theorem markChanged_plant (s t : State) :
    (markChanged s t).plant = t.plant := by
  unfold markChanged; split <;> rfl

@[simp] theorem markChanged_log (s t : State) :
    (markChanged s t).log = t.log := by
  unfold markChanged; split <;> rfl

@[simp] theorem markChanged_settings (s t : State) :
    (markChanged s t).settings = t.settings := by
  unfold markChanged; split <;> rfl

@[simp] theorem markChanged_refusals (s t : State) :
    (markChanged s t).refusals = t.refusals := by
  unfold markChanged; split <;> rfl

@[simp] theorem markChanged_link (s t : State) :
    (markChanged s t).link = t.link := by
  unfold markChanged; split <;> rfl

@[simp] theorem markChanged_reporter (s t : State) :
    (markChanged s t).reporter = t.reporter := by
  unfold markChanged; split <;> rfl

@[simp] theorem markChanged_freeCount (s t : State) :
    (markChanged s t).freeCount = t.freeCount := by
  unfold markChanged; split <;> rfl

@[simp] theorem markEntries_pending (t : State) :
    (markEntries t).pending = t.pending := by
  unfold markEntries; split <;> rfl

@[simp] theorem markEntries_load (t : State) :
    (markEntries t).load = t.load := by
  unfold markEntries; split <;> rfl

@[simp] theorem markEntries_kept (t : State) :
    (markEntries t).kept = t.kept := by
  unfold markEntries; split <;> rfl

@[simp] theorem markEntries_uprst (t : State) :
    (markEntries t).uprst = t.uprst := by
  unfold markEntries; split <;> rfl

@[simp] theorem markEntries_ldcdPin (t : State) :
    (markEntries t).ldcdPin = t.ldcdPin := by
  unfold markEntries; split <;> rfl

@[simp] theorem markEntries_mem (t : State) :
    (markEntries t).mem = t.mem := by
  unfold markEntries; split <;> rfl

@[simp] theorem markEntries_port (t : State) :
    (markEntries t).port = t.port := by
  unfold markEntries; split <;> rfl

@[simp] theorem markEntries_prdy (t : State) :
    (markEntries t).prdy = t.prdy := by
  unfold markEntries; split <;> rfl

@[simp] theorem markEntries_pd (t : State) :
    (markEntries t).pd = t.pd := by
  unfold markEntries; split <;> rfl

@[simp] theorem markEntries_verdict (t : State) :
    (markEntries t).verdict = t.verdict := by
  unfold markEntries; split <;> rfl

@[simp] theorem markEntries_holder (t : State) :
    (markEntries t).holder = t.holder := by
  unfold markEntries; split <;> rfl

@[simp] theorem markEntries_lastWinner (t : State) :
    (markEntries t).lastWinner = t.lastWinner := by
  unfold markEntries; split <;> rfl

@[simp] theorem markEntries_rotation (t : State) :
    (markEntries t).rotation = t.rotation := by
  unfold markEntries; split <;> rfl

@[simp] theorem markEntries_windows (t : State) :
    (markEntries t).windows = t.windows := by
  unfold markEntries; split <;> rfl

@[simp] theorem markEntries_plant (t : State) :
    (markEntries t).plant = t.plant := by
  unfold markEntries; split <;> rfl

@[simp] theorem markEntries_log (t : State) :
    (markEntries t).log = t.log := by
  unfold markEntries; split <;> rfl

@[simp] theorem markEntries_settings (t : State) :
    (markEntries t).settings = t.settings := by
  unfold markEntries; split <;> rfl

@[simp] theorem markEntries_refusals (t : State) :
    (markEntries t).refusals = t.refusals := by
  unfold markEntries; split <;> rfl

@[simp] theorem markEntries_link (t : State) :
    (markEntries t).link = t.link := by
  unfold markEntries; split <;> rfl

@[simp] theorem markEntries_reporter (t : State) :
    (markEntries t).reporter = t.reporter := by
  unfold markEntries; split <;> rfl

@[simp] theorem markEntries_freeCount (t : State) :
    (markEntries t).freeCount = t.freeCount := by
  unfold markEntries; split <;> rfl

/-! The marks of a step taken. -/

@[simp] theorem takeMarks_pending (s t : State) :
    (takeMarks s t).pending = t.pending := rfl

@[simp] theorem takeMarks_load (s t : State) :
    (takeMarks s t).load = t.load := rfl

@[simp] theorem takeMarks_kept (s t : State) :
    (takeMarks s t).kept = t.kept := rfl

@[simp] theorem takeMarks_uprst (s t : State) :
    (takeMarks s t).uprst = t.uprst := rfl

@[simp] theorem takeMarks_ldcdPin (s t : State) :
    (takeMarks s t).ldcdPin = t.ldcdPin := rfl

@[simp] theorem takeMarks_mem (s t : State) :
    (takeMarks s t).mem = t.mem := rfl

@[simp] theorem takeMarks_port (s t : State) :
    (takeMarks s t).port = t.port := rfl

@[simp] theorem takeMarks_prdy (s t : State) :
    (takeMarks s t).prdy = t.prdy := rfl

@[simp] theorem takeMarks_pd (s t : State) :
    (takeMarks s t).pd = t.pd := rfl

@[simp] theorem takeMarks_verdict (s t : State) :
    (takeMarks s t).verdict = t.verdict := rfl

@[simp] theorem takeMarks_holder (s t : State) :
    (takeMarks s t).holder = t.holder := rfl

@[simp] theorem takeMarks_lastWinner (s t : State) :
    (takeMarks s t).lastWinner = t.lastWinner := rfl

@[simp] theorem takeMarks_rotation (s t : State) :
    (takeMarks s t).rotation = t.rotation := rfl

@[simp] theorem takeMarks_windows (s t : State) :
    (takeMarks s t).windows = t.windows := rfl

@[simp] theorem takeMarks_plant (s t : State) :
    (takeMarks s t).plant = { t.plant with marks := s.plant.marks } := rfl

@[simp] theorem takeMarks_log (s t : State) :
    (takeMarks s t).log = t.log := rfl

@[simp] theorem takeMarks_settings (s t : State) :
    (takeMarks s t).settings = t.settings := rfl

@[simp] theorem takeMarks_refusals (s t : State) :
    (takeMarks s t).refusals = t.refusals := rfl

@[simp] theorem takeMarks_deposits (s t : State) :
    (takeMarks s t).deposits = t.deposits := rfl

@[simp] theorem takeMarks_link (s t : State) :
    (takeMarks s t).link = t.link := rfl

@[simp] theorem takeMarks_reporter (s t : State) :
    (takeMarks s t).reporter = t.reporter := rfl

@[simp] theorem takeMarks_freeCount (s t : State) :
    (takeMarks s t).freeCount = t.freeCount := rfl

/-! The end of a command. -/

@[simp] theorem finish_pending (s t : State) :
    (finish s t).pending = t.pending := by
  simp [finish]

@[simp] theorem finish_load (s t : State) :
    (finish s t).load = t.load := by
  simp [finish]

@[simp] theorem finish_kept (s t : State) :
    (finish s t).kept = t.kept := by
  simp [finish]

@[simp] theorem finish_uprst (s t : State) :
    (finish s t).uprst = t.uprst := by
  simp [finish]

@[simp] theorem finish_ldcdPin (s t : State) :
    (finish s t).ldcdPin = t.ldcdPin := by
  simp [finish]

@[simp] theorem finish_mem (s t : State) :
    (finish s t).mem = t.mem := by
  simp [finish]

@[simp] theorem finish_port (s t : State) :
    (finish s t).port = t.port := by
  simp [finish]

@[simp] theorem finish_prdy (s t : State) :
    (finish s t).prdy = t.prdy := by
  simp [finish]

@[simp] theorem finish_pd (s t : State) :
    (finish s t).pd = t.pd := by
  simp [finish]

@[simp] theorem finish_verdict (s t : State) :
    (finish s t).verdict = t.verdict := by
  simp [finish]

@[simp] theorem finish_holder (s t : State) :
    (finish s t).holder = t.holder := by
  simp [finish]

@[simp] theorem finish_lastWinner (s t : State) :
    (finish s t).lastWinner = t.lastWinner := by
  simp [finish]

@[simp] theorem finish_rotation (s t : State) :
    (finish s t).rotation = t.rotation := by
  simp [finish]

@[simp] theorem finish_windows (s t : State) :
    (finish s t).windows = t.windows := by
  simp [finish]

@[simp] theorem finish_plant (s t : State) :
    (finish s t).plant = { t.plant with out := [], marks := s.plant.marks } := by
  simp [finish]

@[simp] theorem finish_log (s t : State) :
    (finish s t).log = t.plant.out.foldl (fun l d => l.append t.plant.clock d) t.log := by
  simp [finish]

@[simp] theorem finish_settings (s t : State) :
    (finish s t).settings = t.settings := by
  simp [finish]

@[simp] theorem finish_refusals (s t : State) :
    (finish s t).refusals = t.refusals := by
  simp [finish]

@[simp] theorem finish_link (s t : State) :
    (finish s t).link = t.link := by
  simp [finish]

@[simp] theorem finish_reporter (s t : State) :
    (finish s t).reporter = t.reporter := by
  simp [finish]

@[simp] theorem finish_freeCount (s t : State) :
    (finish s t).freeCount = t.freeCount := by
  simp [finish]

/-! A rake's record. -/

@[simp] theorem Plant.setRake_clock (p : Plant) (n : Fin 2) (r : Rake) :
    (p.setRake n r).clock = p.clock := rfl

@[simp] theorem Plant.setRake_lines (p : Plant) (n : Fin 2) (r : Rake) :
    (p.setRake n r).lines = p.lines := rfl

@[simp] theorem Plant.setRake_levels (p : Plant) (n : Fin 2) (r : Rake) :
    (p.setRake n r).levels = p.levels := rfl

@[simp] theorem Plant.setRake_mode (p : Plant) (n : Fin 2) (r : Rake) :
    (p.setRake n r).mode = p.mode := rfl

@[simp] theorem Plant.setRake_claims (p : Plant) (n : Fin 2) (r : Rake) :
    (p.setRake n r).claims = p.claims := rfl

@[simp] theorem Plant.setRake_pumps (p : Plant) (n : Fin 2) (r : Rake) :
    (p.setRake n r).pumps = p.pumps := rfl

@[simp] theorem Plant.setRake_queue (p : Plant) (n : Fin 2) (r : Rake) :
    (p.setRake n r).queue = p.queue := rfl

@[simp] theorem Plant.setRake_stagger (p : Plant) (n : Fin 2) (r : Rake) :
    (p.setRake n r).stagger = p.stagger := rfl

@[simp] theorem Plant.setRake_rotation (p : Plant) (n : Fin 2) (r : Rake) :
    (p.setRake n r).rotation = p.rotation := rfl

@[simp] theorem Plant.setRake_desired (p : Plant) (n : Fin 2) (r : Rake) :
    (p.setRake n r).desired = p.desired := rfl

@[simp] theorem Plant.setRake_rakes (p : Plant) (n : Fin 2) (r : Rake) :
    (p.setRake n r).rakes = vset p.rakes n r := rfl

@[simp] theorem Plant.setRake_weirs (p : Plant) (n : Fin 2) (r : Rake) :
    (p.setRake n r).weirs = p.weirs := rfl

@[simp] theorem Plant.setRake_alarms (p : Plant) (n : Fin 2) (r : Rake) :
    (p.setRake n r).alarms = p.alarms := rfl

@[simp] theorem Plant.setRake_sections (p : Plant) (n : Fin 2) (r : Rake) :
    (p.setRake n r).sections = p.sections := rfl

@[simp] theorem Plant.setRake_shadow (p : Plant) (n : Fin 2) (r : Rake) :
    (p.setRake n r).shadow = p.shadow := rfl

@[simp] theorem Plant.setRake_corr (p : Plant) (n : Fin 2) (r : Rake) :
    (p.setRake n r).corr = p.corr := rfl

@[simp] theorem Plant.setRake_out (p : Plant) (n : Fin 2) (r : Rake) :
    (p.setRake n r).out = p.out := rfl

@[simp] theorem Plant.setRake_marks (p : Plant) (n : Fin 2) (r : Rake) :
    (p.setRake n r).marks = p.marks ++ rakeMarks n (p.rake n) r := rfl

/-! A weir's record. -/

@[simp] theorem Plant.setWeir_clock (p : Plant) (n : Fin 3) (w : Weir) :
    (p.setWeir n w).clock = p.clock := rfl

@[simp] theorem Plant.setWeir_lines (p : Plant) (n : Fin 3) (w : Weir) :
    (p.setWeir n w).lines = p.lines := rfl

@[simp] theorem Plant.setWeir_levels (p : Plant) (n : Fin 3) (w : Weir) :
    (p.setWeir n w).levels = p.levels := rfl

@[simp] theorem Plant.setWeir_mode (p : Plant) (n : Fin 3) (w : Weir) :
    (p.setWeir n w).mode = p.mode := rfl

@[simp] theorem Plant.setWeir_claims (p : Plant) (n : Fin 3) (w : Weir) :
    (p.setWeir n w).claims = p.claims := rfl

@[simp] theorem Plant.setWeir_pumps (p : Plant) (n : Fin 3) (w : Weir) :
    (p.setWeir n w).pumps = p.pumps := rfl

@[simp] theorem Plant.setWeir_queue (p : Plant) (n : Fin 3) (w : Weir) :
    (p.setWeir n w).queue = p.queue := rfl

@[simp] theorem Plant.setWeir_stagger (p : Plant) (n : Fin 3) (w : Weir) :
    (p.setWeir n w).stagger = p.stagger := rfl

@[simp] theorem Plant.setWeir_rotation (p : Plant) (n : Fin 3) (w : Weir) :
    (p.setWeir n w).rotation = p.rotation := rfl

@[simp] theorem Plant.setWeir_desired (p : Plant) (n : Fin 3) (w : Weir) :
    (p.setWeir n w).desired = p.desired := rfl

@[simp] theorem Plant.setWeir_rakes (p : Plant) (n : Fin 3) (w : Weir) :
    (p.setWeir n w).rakes = p.rakes := rfl

@[simp] theorem Plant.setWeir_weirs (p : Plant) (n : Fin 3) (w : Weir) :
    (p.setWeir n w).weirs = vset p.weirs n w := rfl

@[simp] theorem Plant.setWeir_alarms (p : Plant) (n : Fin 3) (w : Weir) :
    (p.setWeir n w).alarms = p.alarms := rfl

@[simp] theorem Plant.setWeir_sections (p : Plant) (n : Fin 3) (w : Weir) :
    (p.setWeir n w).sections = p.sections := rfl

@[simp] theorem Plant.setWeir_shadow (p : Plant) (n : Fin 3) (w : Weir) :
    (p.setWeir n w).shadow = p.shadow := rfl

@[simp] theorem Plant.setWeir_corr (p : Plant) (n : Fin 3) (w : Weir) :
    (p.setWeir n w).corr = p.corr := rfl

@[simp] theorem Plant.setWeir_out (p : Plant) (n : Fin 3) (w : Weir) :
    (p.setWeir n w).out = p.out := rfl

@[simp] theorem Plant.setWeir_marks (p : Plant) (n : Fin 3) (w : Weir) :
    (p.setWeir n w).marks = p.marks := rfl

/-! A claim. -/

@[simp] theorem Plant.setClaim_clock (p : Plant) (h : Fin 8) (c : Claim) :
    (p.setClaim h c).clock = p.clock := rfl

@[simp] theorem Plant.setClaim_lines (p : Plant) (h : Fin 8) (c : Claim) :
    (p.setClaim h c).lines = p.lines := rfl

@[simp] theorem Plant.setClaim_levels (p : Plant) (h : Fin 8) (c : Claim) :
    (p.setClaim h c).levels = p.levels := rfl

@[simp] theorem Plant.setClaim_mode (p : Plant) (h : Fin 8) (c : Claim) :
    (p.setClaim h c).mode = p.mode := rfl

@[simp] theorem Plant.setClaim_claims (p : Plant) (h : Fin 8) (c : Claim) :
    (p.setClaim h c).claims = vset p.claims h c := rfl

@[simp] theorem Plant.setClaim_pumps (p : Plant) (h : Fin 8) (c : Claim) :
    (p.setClaim h c).pumps = p.pumps := rfl

@[simp] theorem Plant.setClaim_queue (p : Plant) (h : Fin 8) (c : Claim) :
    (p.setClaim h c).queue = p.queue := rfl

@[simp] theorem Plant.setClaim_stagger (p : Plant) (h : Fin 8) (c : Claim) :
    (p.setClaim h c).stagger = p.stagger := rfl

@[simp] theorem Plant.setClaim_rotation (p : Plant) (h : Fin 8) (c : Claim) :
    (p.setClaim h c).rotation = p.rotation := rfl

@[simp] theorem Plant.setClaim_desired (p : Plant) (h : Fin 8) (c : Claim) :
    (p.setClaim h c).desired = p.desired := rfl

@[simp] theorem Plant.setClaim_rakes (p : Plant) (h : Fin 8) (c : Claim) :
    (p.setClaim h c).rakes = p.rakes := rfl

@[simp] theorem Plant.setClaim_weirs (p : Plant) (h : Fin 8) (c : Claim) :
    (p.setClaim h c).weirs = p.weirs := rfl

@[simp] theorem Plant.setClaim_alarms (p : Plant) (h : Fin 8) (c : Claim) :
    (p.setClaim h c).alarms = p.alarms := rfl

@[simp] theorem Plant.setClaim_sections (p : Plant) (h : Fin 8) (c : Claim) :
    (p.setClaim h c).sections = p.sections := rfl

@[simp] theorem Plant.setClaim_shadow (p : Plant) (h : Fin 8) (c : Claim) :
    (p.setClaim h c).shadow = p.shadow := rfl

@[simp] theorem Plant.setClaim_corr (p : Plant) (h : Fin 8) (c : Claim) :
    (p.setClaim h c).corr = p.corr := rfl

@[simp] theorem Plant.setClaim_out (p : Plant) (h : Fin 8) (c : Claim) :
    (p.setClaim h c).out = p.out := rfl

@[simp] theorem Plant.setClaim_marks (p : Plant) (h : Fin 8) (c : Claim) :
    (p.setClaim h c).marks = p.marks ++ if p.claim h = c then [] else claimPages h := rfl

/-! A claim dropped. -/

@[simp] theorem Plant.dropClaim_clock (p : Plant) (h : Fin 8) :
    (p.dropClaim h).clock = p.clock := rfl

@[simp] theorem Plant.dropClaim_lines (p : Plant) (h : Fin 8) :
    (p.dropClaim h).lines = p.lines := rfl

@[simp] theorem Plant.dropClaim_levels (p : Plant) (h : Fin 8) :
    (p.dropClaim h).levels = p.levels := rfl

@[simp] theorem Plant.dropClaim_mode (p : Plant) (h : Fin 8) :
    (p.dropClaim h).mode = p.mode := rfl

@[simp] theorem Plant.dropClaim_claims (p : Plant) (h : Fin 8) :
    (p.dropClaim h).claims = vset p.claims h { status := .none, units := 0 } := rfl

@[simp] theorem Plant.dropClaim_pumps (p : Plant) (h : Fin 8) :
    (p.dropClaim h).pumps = p.pumps := rfl

@[simp] theorem Plant.dropClaim_queue (p : Plant) (h : Fin 8) :
    (p.dropClaim h).queue = p.queue := rfl

@[simp] theorem Plant.dropClaim_stagger (p : Plant) (h : Fin 8) :
    (p.dropClaim h).stagger = p.stagger := rfl

@[simp] theorem Plant.dropClaim_rotation (p : Plant) (h : Fin 8) :
    (p.dropClaim h).rotation = p.rotation := rfl

@[simp] theorem Plant.dropClaim_desired (p : Plant) (h : Fin 8) :
    (p.dropClaim h).desired = p.desired := rfl

@[simp] theorem Plant.dropClaim_rakes (p : Plant) (h : Fin 8) :
    (p.dropClaim h).rakes = p.rakes := rfl

@[simp] theorem Plant.dropClaim_weirs (p : Plant) (h : Fin 8) :
    (p.dropClaim h).weirs = p.weirs := rfl

@[simp] theorem Plant.dropClaim_alarms (p : Plant) (h : Fin 8) :
    (p.dropClaim h).alarms = p.alarms := rfl

@[simp] theorem Plant.dropClaim_sections (p : Plant) (h : Fin 8) :
    (p.dropClaim h).sections = p.sections := rfl

@[simp] theorem Plant.dropClaim_shadow (p : Plant) (h : Fin 8) :
    (p.dropClaim h).shadow = p.shadow := rfl

@[simp] theorem Plant.dropClaim_corr (p : Plant) (h : Fin 8) :
    (p.dropClaim h).corr = p.corr := rfl

@[simp] theorem Plant.dropClaim_out (p : Plant) (h : Fin 8) :
    (p.dropClaim h).out = p.out := rfl

@[simp] theorem Plant.dropClaim_marks (p : Plant) (h : Fin 8) :
    (p.dropClaim h).marks =
      p.marks ++ if p.claim h = { status := .none, units := 0 } then [] else claimPages h := rfl

/-! A shadow word. -/

@[simp] theorem Plant.setShadow_clock (p : Plant) (i : Fin 32) (w : Word) :
    (p.setShadow i w).clock = p.clock := rfl

@[simp] theorem Plant.setShadow_lines (p : Plant) (i : Fin 32) (w : Word) :
    (p.setShadow i w).lines = p.lines := rfl

@[simp] theorem Plant.setShadow_levels (p : Plant) (i : Fin 32) (w : Word) :
    (p.setShadow i w).levels = p.levels := rfl

@[simp] theorem Plant.setShadow_mode (p : Plant) (i : Fin 32) (w : Word) :
    (p.setShadow i w).mode = p.mode := rfl

@[simp] theorem Plant.setShadow_claims (p : Plant) (i : Fin 32) (w : Word) :
    (p.setShadow i w).claims = p.claims := rfl

@[simp] theorem Plant.setShadow_pumps (p : Plant) (i : Fin 32) (w : Word) :
    (p.setShadow i w).pumps = p.pumps := rfl

@[simp] theorem Plant.setShadow_queue (p : Plant) (i : Fin 32) (w : Word) :
    (p.setShadow i w).queue = p.queue := rfl

@[simp] theorem Plant.setShadow_stagger (p : Plant) (i : Fin 32) (w : Word) :
    (p.setShadow i w).stagger = p.stagger := rfl

@[simp] theorem Plant.setShadow_rotation (p : Plant) (i : Fin 32) (w : Word) :
    (p.setShadow i w).rotation = p.rotation := rfl

@[simp] theorem Plant.setShadow_desired (p : Plant) (i : Fin 32) (w : Word) :
    (p.setShadow i w).desired = p.desired := rfl

@[simp] theorem Plant.setShadow_rakes (p : Plant) (i : Fin 32) (w : Word) :
    (p.setShadow i w).rakes = p.rakes := rfl

@[simp] theorem Plant.setShadow_weirs (p : Plant) (i : Fin 32) (w : Word) :
    (p.setShadow i w).weirs = p.weirs := rfl

@[simp] theorem Plant.setShadow_alarms (p : Plant) (i : Fin 32) (w : Word) :
    (p.setShadow i w).alarms = p.alarms := rfl

@[simp] theorem Plant.setShadow_sections (p : Plant) (i : Fin 32) (w : Word) :
    (p.setShadow i w).sections = p.sections := rfl

@[simp] theorem Plant.setShadow_shadow (p : Plant) (i : Fin 32) (w : Word) :
    (p.setShadow i w).shadow = vset p.shadow i w := rfl

@[simp] theorem Plant.setShadow_corr (p : Plant) (i : Fin 32) (w : Word) :
    (p.setShadow i w).corr = p.corr := rfl

@[simp] theorem Plant.setShadow_out (p : Plant) (i : Fin 32) (w : Word) :
    (p.setShadow i w).out = p.out := rfl

@[simp] theorem Plant.setShadow_marks (p : Plant) (i : Fin 32) (w : Word) :
    (p.setShadow i w).marks = p.marks := rfl

/-! A correction. -/

@[simp] theorem Plant.queueCorrection_clock (p : Plant) (i : Fin 32) :
    (p.queueCorrection i).clock = p.clock := rfl

@[simp] theorem Plant.queueCorrection_lines (p : Plant) (i : Fin 32) :
    (p.queueCorrection i).lines = p.lines := rfl

@[simp] theorem Plant.queueCorrection_levels (p : Plant) (i : Fin 32) :
    (p.queueCorrection i).levels = p.levels := rfl

@[simp] theorem Plant.queueCorrection_mode (p : Plant) (i : Fin 32) :
    (p.queueCorrection i).mode = p.mode := rfl

@[simp] theorem Plant.queueCorrection_claims (p : Plant) (i : Fin 32) :
    (p.queueCorrection i).claims = p.claims := rfl

@[simp] theorem Plant.queueCorrection_pumps (p : Plant) (i : Fin 32) :
    (p.queueCorrection i).pumps = p.pumps := rfl

@[simp] theorem Plant.queueCorrection_queue (p : Plant) (i : Fin 32) :
    (p.queueCorrection i).queue = p.queue := rfl

@[simp] theorem Plant.queueCorrection_stagger (p : Plant) (i : Fin 32) :
    (p.queueCorrection i).stagger = p.stagger := rfl

@[simp] theorem Plant.queueCorrection_rotation (p : Plant) (i : Fin 32) :
    (p.queueCorrection i).rotation = p.rotation := rfl

@[simp] theorem Plant.queueCorrection_desired (p : Plant) (i : Fin 32) :
    (p.queueCorrection i).desired = p.desired := rfl

@[simp] theorem Plant.queueCorrection_rakes (p : Plant) (i : Fin 32) :
    (p.queueCorrection i).rakes = p.rakes := rfl

@[simp] theorem Plant.queueCorrection_weirs (p : Plant) (i : Fin 32) :
    (p.queueCorrection i).weirs = p.weirs := rfl

@[simp] theorem Plant.queueCorrection_alarms (p : Plant) (i : Fin 32) :
    (p.queueCorrection i).alarms = p.alarms := rfl

@[simp] theorem Plant.queueCorrection_sections (p : Plant) (i : Fin 32) :
    (p.queueCorrection i).sections = p.sections := rfl

@[simp] theorem Plant.queueCorrection_shadow (p : Plant) (i : Fin 32) :
    (p.queueCorrection i).shadow = p.shadow := rfl

@[simp] theorem Plant.queueCorrection_corr (p : Plant) (i : Fin 32) :
    (p.queueCorrection i).corr = joinCorr p.corr i := rfl

@[simp] theorem Plant.queueCorrection_out (p : Plant) (i : Fin 32) :
    (p.queueCorrection i).out = p.out := rfl

@[simp] theorem Plant.queueCorrection_marks (p : Plant) (i : Fin 32) :
    (p.queueCorrection i).marks = p.marks := rfl

/-! An entry. -/

@[simp] theorem Plant.append_clock (p : Plant) (src kind : Byte) (d : List Byte) (u : Bool) :
    (p.append src kind d u).clock = p.clock := rfl

@[simp] theorem Plant.append_lines (p : Plant) (src kind : Byte) (d : List Byte) (u : Bool) :
    (p.append src kind d u).lines = p.lines := rfl

@[simp] theorem Plant.append_levels (p : Plant) (src kind : Byte) (d : List Byte) (u : Bool) :
    (p.append src kind d u).levels = p.levels := rfl

@[simp] theorem Plant.append_mode (p : Plant) (src kind : Byte) (d : List Byte) (u : Bool) :
    (p.append src kind d u).mode = p.mode := rfl

@[simp] theorem Plant.append_claims (p : Plant) (src kind : Byte) (d : List Byte) (u : Bool) :
    (p.append src kind d u).claims = p.claims := rfl

@[simp] theorem Plant.append_pumps (p : Plant) (src kind : Byte) (d : List Byte) (u : Bool) :
    (p.append src kind d u).pumps = p.pumps := rfl

@[simp] theorem Plant.append_queue (p : Plant) (src kind : Byte) (d : List Byte) (u : Bool) :
    (p.append src kind d u).queue = p.queue := rfl

@[simp] theorem Plant.append_stagger (p : Plant) (src kind : Byte) (d : List Byte) (u : Bool) :
    (p.append src kind d u).stagger = p.stagger := rfl

@[simp] theorem Plant.append_rotation (p : Plant) (src kind : Byte) (d : List Byte) (u : Bool) :
    (p.append src kind d u).rotation = p.rotation := rfl

@[simp] theorem Plant.append_desired (p : Plant) (src kind : Byte) (d : List Byte) (u : Bool) :
    (p.append src kind d u).desired = p.desired := rfl

@[simp] theorem Plant.append_rakes (p : Plant) (src kind : Byte) (d : List Byte) (u : Bool) :
    (p.append src kind d u).rakes = p.rakes := rfl

@[simp] theorem Plant.append_weirs (p : Plant) (src kind : Byte) (d : List Byte) (u : Bool) :
    (p.append src kind d u).weirs = p.weirs := rfl

@[simp] theorem Plant.append_alarms (p : Plant) (src kind : Byte) (d : List Byte) (u : Bool) :
    (p.append src kind d u).alarms = p.alarms := rfl

@[simp] theorem Plant.append_sections (p : Plant) (src kind : Byte) (d : List Byte) (u : Bool) :
    (p.append src kind d u).sections = p.sections := rfl

@[simp] theorem Plant.append_shadow (p : Plant) (src kind : Byte) (d : List Byte) (u : Bool) :
    (p.append src kind d u).shadow = p.shadow := rfl

@[simp] theorem Plant.append_corr (p : Plant) (src kind : Byte) (d : List Byte) (u : Bool) :
    (p.append src kind d u).corr = p.corr := rfl

@[simp] theorem Plant.append_out (p : Plant) (src kind : Byte) (d : List Byte) (u : Bool) :
    (p.append src kind d u).out = p.out ++ [{ source := src, kind := kind, detail := d, urgent := u }] := rfl

@[simp] theorem Plant.append_marks (p : Plant) (src kind : Byte) (d : List Byte) (u : Bool) :
    (p.append src kind d u).marks = p.marks := rfl

/-! Pages marked in the step. -/

@[simp] theorem Plant.mark_clock (p : Plant) (pages : List (Fin 16)) :
    (p.mark pages).clock = p.clock := rfl

@[simp] theorem Plant.mark_lines (p : Plant) (pages : List (Fin 16)) :
    (p.mark pages).lines = p.lines := rfl

@[simp] theorem Plant.mark_levels (p : Plant) (pages : List (Fin 16)) :
    (p.mark pages).levels = p.levels := rfl

@[simp] theorem Plant.mark_mode (p : Plant) (pages : List (Fin 16)) :
    (p.mark pages).mode = p.mode := rfl

@[simp] theorem Plant.mark_claims (p : Plant) (pages : List (Fin 16)) :
    (p.mark pages).claims = p.claims := rfl

@[simp] theorem Plant.mark_pumps (p : Plant) (pages : List (Fin 16)) :
    (p.mark pages).pumps = p.pumps := rfl

@[simp] theorem Plant.mark_queue (p : Plant) (pages : List (Fin 16)) :
    (p.mark pages).queue = p.queue := rfl

@[simp] theorem Plant.mark_stagger (p : Plant) (pages : List (Fin 16)) :
    (p.mark pages).stagger = p.stagger := rfl

@[simp] theorem Plant.mark_rotation (p : Plant) (pages : List (Fin 16)) :
    (p.mark pages).rotation = p.rotation := rfl

@[simp] theorem Plant.mark_desired (p : Plant) (pages : List (Fin 16)) :
    (p.mark pages).desired = p.desired := rfl

@[simp] theorem Plant.mark_rakes (p : Plant) (pages : List (Fin 16)) :
    (p.mark pages).rakes = p.rakes := rfl

@[simp] theorem Plant.mark_weirs (p : Plant) (pages : List (Fin 16)) :
    (p.mark pages).weirs = p.weirs := rfl

@[simp] theorem Plant.mark_alarms (p : Plant) (pages : List (Fin 16)) :
    (p.mark pages).alarms = p.alarms := rfl

@[simp] theorem Plant.mark_sections (p : Plant) (pages : List (Fin 16)) :
    (p.mark pages).sections = p.sections := rfl

@[simp] theorem Plant.mark_shadow (p : Plant) (pages : List (Fin 16)) :
    (p.mark pages).shadow = p.shadow := rfl

@[simp] theorem Plant.mark_corr (p : Plant) (pages : List (Fin 16)) :
    (p.mark pages).corr = p.corr := rfl

@[simp] theorem Plant.mark_out (p : Plant) (pages : List (Fin 16)) :
    (p.mark pages).out = p.out := rfl

@[simp] theorem Plant.mark_marks (p : Plant) (pages : List (Fin 16)) :
    (p.mark pages).marks = p.marks ++ pages := rfl

/-! An alarm point. -/

@[simp] theorem Plant.setPoint_clock (p : Plant) (k : Fin 40) (x : AlarmPoint) :
    (p.setPoint k x).clock = p.clock := rfl

@[simp] theorem Plant.setPoint_lines (p : Plant) (k : Fin 40) (x : AlarmPoint) :
    (p.setPoint k x).lines = p.lines := rfl

@[simp] theorem Plant.setPoint_levels (p : Plant) (k : Fin 40) (x : AlarmPoint) :
    (p.setPoint k x).levels = p.levels := rfl

@[simp] theorem Plant.setPoint_mode (p : Plant) (k : Fin 40) (x : AlarmPoint) :
    (p.setPoint k x).mode = p.mode := rfl

@[simp] theorem Plant.setPoint_claims (p : Plant) (k : Fin 40) (x : AlarmPoint) :
    (p.setPoint k x).claims = p.claims := rfl

@[simp] theorem Plant.setPoint_pumps (p : Plant) (k : Fin 40) (x : AlarmPoint) :
    (p.setPoint k x).pumps = p.pumps := rfl

@[simp] theorem Plant.setPoint_queue (p : Plant) (k : Fin 40) (x : AlarmPoint) :
    (p.setPoint k x).queue = p.queue := rfl

@[simp] theorem Plant.setPoint_stagger (p : Plant) (k : Fin 40) (x : AlarmPoint) :
    (p.setPoint k x).stagger = p.stagger := rfl

@[simp] theorem Plant.setPoint_rotation (p : Plant) (k : Fin 40) (x : AlarmPoint) :
    (p.setPoint k x).rotation = p.rotation := rfl

@[simp] theorem Plant.setPoint_desired (p : Plant) (k : Fin 40) (x : AlarmPoint) :
    (p.setPoint k x).desired = p.desired := rfl

@[simp] theorem Plant.setPoint_rakes (p : Plant) (k : Fin 40) (x : AlarmPoint) :
    (p.setPoint k x).rakes = p.rakes := rfl

@[simp] theorem Plant.setPoint_weirs (p : Plant) (k : Fin 40) (x : AlarmPoint) :
    (p.setPoint k x).weirs = p.weirs := rfl

@[simp] theorem Plant.setPoint_sections (p : Plant) (k : Fin 40) (x : AlarmPoint) :
    (p.setPoint k x).sections = p.sections := rfl

@[simp] theorem Plant.setPoint_shadow (p : Plant) (k : Fin 40) (x : AlarmPoint) :
    (p.setPoint k x).shadow = p.shadow := rfl

@[simp] theorem Plant.setPoint_corr (p : Plant) (k : Fin 40) (x : AlarmPoint) :
    (p.setPoint k x).corr = p.corr := rfl

@[simp] theorem Plant.setPoint_out (p : Plant) (k : Fin 40) (x : AlarmPoint) :
    (p.setPoint k x).out = p.out := rfl

@[simp] theorem Plant.setPoint_marks (p : Plant) (k : Fin 40) (x : AlarmPoint) :
    (p.setPoint k x).marks = p.marks := rfl

/-! A channel. -/

@[simp] theorem Plant.setChannel_clock (p : Plant) (c : Fin 8) (x : Channel) :
    (p.setChannel c x).clock = p.clock := rfl

@[simp] theorem Plant.setChannel_lines (p : Plant) (c : Fin 8) (x : Channel) :
    (p.setChannel c x).lines = p.lines := rfl

@[simp] theorem Plant.setChannel_mode (p : Plant) (c : Fin 8) (x : Channel) :
    (p.setChannel c x).mode = p.mode := rfl

@[simp] theorem Plant.setChannel_claims (p : Plant) (c : Fin 8) (x : Channel) :
    (p.setChannel c x).claims = p.claims := rfl

@[simp] theorem Plant.setChannel_pumps (p : Plant) (c : Fin 8) (x : Channel) :
    (p.setChannel c x).pumps = p.pumps := rfl

@[simp] theorem Plant.setChannel_queue (p : Plant) (c : Fin 8) (x : Channel) :
    (p.setChannel c x).queue = p.queue := rfl

@[simp] theorem Plant.setChannel_stagger (p : Plant) (c : Fin 8) (x : Channel) :
    (p.setChannel c x).stagger = p.stagger := rfl

@[simp] theorem Plant.setChannel_rotation (p : Plant) (c : Fin 8) (x : Channel) :
    (p.setChannel c x).rotation = p.rotation := rfl

@[simp] theorem Plant.setChannel_desired (p : Plant) (c : Fin 8) (x : Channel) :
    (p.setChannel c x).desired = p.desired := rfl

@[simp] theorem Plant.setChannel_rakes (p : Plant) (c : Fin 8) (x : Channel) :
    (p.setChannel c x).rakes = p.rakes := rfl

@[simp] theorem Plant.setChannel_weirs (p : Plant) (c : Fin 8) (x : Channel) :
    (p.setChannel c x).weirs = p.weirs := rfl

@[simp] theorem Plant.setChannel_alarms (p : Plant) (c : Fin 8) (x : Channel) :
    (p.setChannel c x).alarms = p.alarms := rfl

@[simp] theorem Plant.setChannel_sections (p : Plant) (c : Fin 8) (x : Channel) :
    (p.setChannel c x).sections = p.sections := rfl

@[simp] theorem Plant.setChannel_shadow (p : Plant) (c : Fin 8) (x : Channel) :
    (p.setChannel c x).shadow = p.shadow := rfl

@[simp] theorem Plant.setChannel_corr (p : Plant) (c : Fin 8) (x : Channel) :
    (p.setChannel c x).corr = p.corr := rfl

@[simp] theorem Plant.setChannel_out (p : Plant) (c : Fin 8) (x : Channel) :
    (p.setChannel c x).out = p.out := rfl

@[simp] theorem Plant.setChannel_marks (p : Plant) (c : Fin 8) (x : Channel) :
    (p.setChannel c x).marks = p.marks := rfl

/-! A section. -/

@[simp] theorem Plant.setSection_clock (p : Plant) (i : Fin 9) (x : SettingsShadow) :
    (p.setSection i x).clock = p.clock := rfl

@[simp] theorem Plant.setSection_lines (p : Plant) (i : Fin 9) (x : SettingsShadow) :
    (p.setSection i x).lines = p.lines := rfl

@[simp] theorem Plant.setSection_levels (p : Plant) (i : Fin 9) (x : SettingsShadow) :
    (p.setSection i x).levels = p.levels := rfl

@[simp] theorem Plant.setSection_mode (p : Plant) (i : Fin 9) (x : SettingsShadow) :
    (p.setSection i x).mode = p.mode := rfl

@[simp] theorem Plant.setSection_claims (p : Plant) (i : Fin 9) (x : SettingsShadow) :
    (p.setSection i x).claims = p.claims := rfl

@[simp] theorem Plant.setSection_pumps (p : Plant) (i : Fin 9) (x : SettingsShadow) :
    (p.setSection i x).pumps = p.pumps := rfl

@[simp] theorem Plant.setSection_queue (p : Plant) (i : Fin 9) (x : SettingsShadow) :
    (p.setSection i x).queue = p.queue := rfl

@[simp] theorem Plant.setSection_stagger (p : Plant) (i : Fin 9) (x : SettingsShadow) :
    (p.setSection i x).stagger = p.stagger := rfl

@[simp] theorem Plant.setSection_rotation (p : Plant) (i : Fin 9) (x : SettingsShadow) :
    (p.setSection i x).rotation = p.rotation := rfl

@[simp] theorem Plant.setSection_desired (p : Plant) (i : Fin 9) (x : SettingsShadow) :
    (p.setSection i x).desired = p.desired := rfl

@[simp] theorem Plant.setSection_rakes (p : Plant) (i : Fin 9) (x : SettingsShadow) :
    (p.setSection i x).rakes = p.rakes := rfl

@[simp] theorem Plant.setSection_weirs (p : Plant) (i : Fin 9) (x : SettingsShadow) :
    (p.setSection i x).weirs = p.weirs := rfl

@[simp] theorem Plant.setSection_alarms (p : Plant) (i : Fin 9) (x : SettingsShadow) :
    (p.setSection i x).alarms = p.alarms := rfl

@[simp] theorem Plant.setSection_sections (p : Plant) (i : Fin 9) (x : SettingsShadow) :
    (p.setSection i x).sections = vset p.sections i x := rfl

@[simp] theorem Plant.setSection_shadow (p : Plant) (i : Fin 9) (x : SettingsShadow) :
    (p.setSection i x).shadow = p.shadow := rfl

@[simp] theorem Plant.setSection_corr (p : Plant) (i : Fin 9) (x : SettingsShadow) :
    (p.setSection i x).corr = p.corr := rfl

@[simp] theorem Plant.setSection_out (p : Plant) (i : Fin 9) (x : SettingsShadow) :
    (p.setSection i x).out = p.out := rfl

@[simp] theorem Plant.setSection_marks (p : Plant) (i : Fin 9) (x : SettingsShadow) :
    (p.setSection i x).marks = p.marks := rfl

/-! A pump's record; the rotation list may move (R55). -/

@[simp] theorem Plant.setPump_clock (p : Plant) (n : Fin 6) (q : Pump) :
    (p.setPump n q).clock = p.clock := by
  simp only [Plant.setPump]; split <;> rfl

@[simp] theorem Plant.setPump_lines (p : Plant) (n : Fin 6) (q : Pump) :
    (p.setPump n q).lines = p.lines := by
  simp only [Plant.setPump]; split <;> rfl

@[simp] theorem Plant.setPump_levels (p : Plant) (n : Fin 6) (q : Pump) :
    (p.setPump n q).levels = p.levels := by
  simp only [Plant.setPump]; split <;> rfl

@[simp] theorem Plant.setPump_mode (p : Plant) (n : Fin 6) (q : Pump) :
    (p.setPump n q).mode = p.mode := by
  simp only [Plant.setPump]; split <;> rfl

@[simp] theorem Plant.setPump_claims (p : Plant) (n : Fin 6) (q : Pump) :
    (p.setPump n q).claims = p.claims := by
  simp only [Plant.setPump]; split <;> rfl

@[simp] theorem Plant.setPump_pumps (p : Plant) (n : Fin 6) (q : Pump) :
    (p.setPump n q).pumps = vset p.pumps n q := by
  simp only [Plant.setPump]; split <;> rfl

@[simp] theorem Plant.setPump_queue (p : Plant) (n : Fin 6) (q : Pump) :
    (p.setPump n q).queue = p.queue := by
  simp only [Plant.setPump]; split <;> rfl

@[simp] theorem Plant.setPump_stagger (p : Plant) (n : Fin 6) (q : Pump) :
    (p.setPump n q).stagger = p.stagger := by
  simp only [Plant.setPump]; split <;> rfl

@[simp] theorem Plant.setPump_desired (p : Plant) (n : Fin 6) (q : Pump) :
    (p.setPump n q).desired = p.desired := by
  simp only [Plant.setPump]; split <;> rfl

@[simp] theorem Plant.setPump_rakes (p : Plant) (n : Fin 6) (q : Pump) :
    (p.setPump n q).rakes = p.rakes := by
  simp only [Plant.setPump]; split <;> rfl

@[simp] theorem Plant.setPump_weirs (p : Plant) (n : Fin 6) (q : Pump) :
    (p.setPump n q).weirs = p.weirs := by
  simp only [Plant.setPump]; split <;> rfl

@[simp] theorem Plant.setPump_alarms (p : Plant) (n : Fin 6) (q : Pump) :
    (p.setPump n q).alarms = p.alarms := by
  simp only [Plant.setPump]; split <;> rfl

@[simp] theorem Plant.setPump_sections (p : Plant) (n : Fin 6) (q : Pump) :
    (p.setPump n q).sections = p.sections := by
  simp only [Plant.setPump]; split <;> rfl

@[simp] theorem Plant.setPump_shadow (p : Plant) (n : Fin 6) (q : Pump) :
    (p.setPump n q).shadow = p.shadow := by
  simp only [Plant.setPump]; split <;> rfl

@[simp] theorem Plant.setPump_corr (p : Plant) (n : Fin 6) (q : Pump) :
    (p.setPump n q).corr = p.corr := by
  simp only [Plant.setPump]; split <;> rfl

@[simp] theorem Plant.setPump_out (p : Plant) (n : Fin 6) (q : Pump) :
    (p.setPump n q).out = p.out := by
  simp only [Plant.setPump]; split <;> rfl

/-! The start queue. -/

@[simp] theorem Plant.setQueue_clock (p : Plant) (l : List (Fin 6)) :
    (p.setQueue l).clock = p.clock := rfl

@[simp] theorem Plant.setQueue_lines (p : Plant) (l : List (Fin 6)) :
    (p.setQueue l).lines = p.lines := rfl

@[simp] theorem Plant.setQueue_levels (p : Plant) (l : List (Fin 6)) :
    (p.setQueue l).levels = p.levels := rfl

@[simp] theorem Plant.setQueue_mode (p : Plant) (l : List (Fin 6)) :
    (p.setQueue l).mode = p.mode := rfl

@[simp] theorem Plant.setQueue_claims (p : Plant) (l : List (Fin 6)) :
    (p.setQueue l).claims = p.claims := rfl

@[simp] theorem Plant.setQueue_pumps (p : Plant) (l : List (Fin 6)) :
    (p.setQueue l).pumps = p.pumps := rfl

@[simp] theorem Plant.setQueue_queue (p : Plant) (l : List (Fin 6)) :
    (p.setQueue l).queue = l := rfl

@[simp] theorem Plant.setQueue_stagger (p : Plant) (l : List (Fin 6)) :
    (p.setQueue l).stagger = p.stagger := rfl

@[simp] theorem Plant.setQueue_rotation (p : Plant) (l : List (Fin 6)) :
    (p.setQueue l).rotation = p.rotation := rfl

@[simp] theorem Plant.setQueue_desired (p : Plant) (l : List (Fin 6)) :
    (p.setQueue l).desired = p.desired := rfl

@[simp] theorem Plant.setQueue_rakes (p : Plant) (l : List (Fin 6)) :
    (p.setQueue l).rakes = p.rakes := rfl

@[simp] theorem Plant.setQueue_weirs (p : Plant) (l : List (Fin 6)) :
    (p.setQueue l).weirs = p.weirs := rfl

@[simp] theorem Plant.setQueue_alarms (p : Plant) (l : List (Fin 6)) :
    (p.setQueue l).alarms = p.alarms := rfl

@[simp] theorem Plant.setQueue_sections (p : Plant) (l : List (Fin 6)) :
    (p.setQueue l).sections = p.sections := rfl

@[simp] theorem Plant.setQueue_shadow (p : Plant) (l : List (Fin 6)) :
    (p.setQueue l).shadow = p.shadow := rfl

@[simp] theorem Plant.setQueue_corr (p : Plant) (l : List (Fin 6)) :
    (p.setQueue l).corr = p.corr := rfl

@[simp] theorem Plant.setQueue_out (p : Plant) (l : List (Fin 6)) :
    (p.setQueue l).out = p.out := rfl

@[simp] theorem Plant.setQueue_marks (p : Plant) (l : List (Fin 6)) :
    (p.setQueue l).marks =
      p.marks ++ placeMarks p.queue l ++ if p.queue.length = l.length then [] else [2] := rfl

/-! The rotation list. -/

@[simp] theorem Plant.setRotation_clock (p : Plant) (l : List (Fin 6)) :
    (p.setRotation l).clock = p.clock := rfl

@[simp] theorem Plant.setRotation_lines (p : Plant) (l : List (Fin 6)) :
    (p.setRotation l).lines = p.lines := rfl

@[simp] theorem Plant.setRotation_levels (p : Plant) (l : List (Fin 6)) :
    (p.setRotation l).levels = p.levels := rfl

@[simp] theorem Plant.setRotation_mode (p : Plant) (l : List (Fin 6)) :
    (p.setRotation l).mode = p.mode := rfl

@[simp] theorem Plant.setRotation_claims (p : Plant) (l : List (Fin 6)) :
    (p.setRotation l).claims = p.claims := rfl

@[simp] theorem Plant.setRotation_pumps (p : Plant) (l : List (Fin 6)) :
    (p.setRotation l).pumps = p.pumps := rfl

@[simp] theorem Plant.setRotation_queue (p : Plant) (l : List (Fin 6)) :
    (p.setRotation l).queue = p.queue := rfl

@[simp] theorem Plant.setRotation_stagger (p : Plant) (l : List (Fin 6)) :
    (p.setRotation l).stagger = p.stagger := rfl

@[simp] theorem Plant.setRotation_rotation (p : Plant) (l : List (Fin 6)) :
    (p.setRotation l).rotation = l := rfl

@[simp] theorem Plant.setRotation_desired (p : Plant) (l : List (Fin 6)) :
    (p.setRotation l).desired = p.desired := rfl

@[simp] theorem Plant.setRotation_rakes (p : Plant) (l : List (Fin 6)) :
    (p.setRotation l).rakes = p.rakes := rfl

@[simp] theorem Plant.setRotation_weirs (p : Plant) (l : List (Fin 6)) :
    (p.setRotation l).weirs = p.weirs := rfl

@[simp] theorem Plant.setRotation_alarms (p : Plant) (l : List (Fin 6)) :
    (p.setRotation l).alarms = p.alarms := rfl

@[simp] theorem Plant.setRotation_sections (p : Plant) (l : List (Fin 6)) :
    (p.setRotation l).sections = p.sections := rfl

@[simp] theorem Plant.setRotation_shadow (p : Plant) (l : List (Fin 6)) :
    (p.setRotation l).shadow = p.shadow := rfl

@[simp] theorem Plant.setRotation_corr (p : Plant) (l : List (Fin 6)) :
    (p.setRotation l).corr = p.corr := rfl

@[simp] theorem Plant.setRotation_out (p : Plant) (l : List (Fin 6)) :
    (p.setRotation l).out = p.out := rfl

@[simp] theorem Plant.setRotation_marks (p : Plant) (l : List (Fin 6)) :
    (p.setRotation l).marks =
      p.marks ++ placeMarks p.rotation l ++ if p.rotation.head? = l.head? then [] else [2] := rfl

/-! The desired count. -/

@[simp] theorem Plant.putDesired_clock (p : Plant) (d : Nat) :
    (p.putDesired d).clock = p.clock := rfl

@[simp] theorem Plant.putDesired_lines (p : Plant) (d : Nat) :
    (p.putDesired d).lines = p.lines := rfl

@[simp] theorem Plant.putDesired_levels (p : Plant) (d : Nat) :
    (p.putDesired d).levels = p.levels := rfl

@[simp] theorem Plant.putDesired_mode (p : Plant) (d : Nat) :
    (p.putDesired d).mode = p.mode := rfl

@[simp] theorem Plant.putDesired_claims (p : Plant) (d : Nat) :
    (p.putDesired d).claims = p.claims := rfl

@[simp] theorem Plant.putDesired_pumps (p : Plant) (d : Nat) :
    (p.putDesired d).pumps = p.pumps := rfl

@[simp] theorem Plant.putDesired_queue (p : Plant) (d : Nat) :
    (p.putDesired d).queue = p.queue := rfl

@[simp] theorem Plant.putDesired_stagger (p : Plant) (d : Nat) :
    (p.putDesired d).stagger = p.stagger := rfl

@[simp] theorem Plant.putDesired_rotation (p : Plant) (d : Nat) :
    (p.putDesired d).rotation = p.rotation := rfl

@[simp] theorem Plant.putDesired_desired (p : Plant) (d : Nat) :
    (p.putDesired d).desired = d := rfl

@[simp] theorem Plant.putDesired_rakes (p : Plant) (d : Nat) :
    (p.putDesired d).rakes = p.rakes := rfl

@[simp] theorem Plant.putDesired_weirs (p : Plant) (d : Nat) :
    (p.putDesired d).weirs = p.weirs := rfl

@[simp] theorem Plant.putDesired_alarms (p : Plant) (d : Nat) :
    (p.putDesired d).alarms = p.alarms := rfl

@[simp] theorem Plant.putDesired_sections (p : Plant) (d : Nat) :
    (p.putDesired d).sections = p.sections := rfl

@[simp] theorem Plant.putDesired_shadow (p : Plant) (d : Nat) :
    (p.putDesired d).shadow = p.shadow := rfl

@[simp] theorem Plant.putDesired_corr (p : Plant) (d : Nat) :
    (p.putDesired d).corr = p.corr := rfl

@[simp] theorem Plant.putDesired_out (p : Plant) (d : Nat) :
    (p.putDesired d).out = p.out := rfl

@[simp] theorem Plant.putDesired_marks (p : Plant) (d : Nat) :
    (p.putDesired d).marks =
      p.marks ++ if p.desired = d then [] else [2] := rfl

/-! A word corrected by its owner. -/

@[simp] theorem Plant.correctShadow_clock (p : Plant) (i : Fin 32) (w : Word) :
    (p.correctShadow i w).clock = p.clock := by
  unfold Plant.correctShadow; split <;> rfl

@[simp] theorem Plant.correctShadow_lines (p : Plant) (i : Fin 32) (w : Word) :
    (p.correctShadow i w).lines = p.lines := by
  unfold Plant.correctShadow; split <;> rfl

@[simp] theorem Plant.correctShadow_levels (p : Plant) (i : Fin 32) (w : Word) :
    (p.correctShadow i w).levels = p.levels := by
  unfold Plant.correctShadow; split <;> rfl

@[simp] theorem Plant.correctShadow_mode (p : Plant) (i : Fin 32) (w : Word) :
    (p.correctShadow i w).mode = p.mode := by
  unfold Plant.correctShadow; split <;> rfl

@[simp] theorem Plant.correctShadow_claims (p : Plant) (i : Fin 32) (w : Word) :
    (p.correctShadow i w).claims = p.claims := by
  unfold Plant.correctShadow; split <;> rfl

@[simp] theorem Plant.correctShadow_pumps (p : Plant) (i : Fin 32) (w : Word) :
    (p.correctShadow i w).pumps = p.pumps := by
  unfold Plant.correctShadow; split <;> rfl

@[simp] theorem Plant.correctShadow_queue (p : Plant) (i : Fin 32) (w : Word) :
    (p.correctShadow i w).queue = p.queue := by
  unfold Plant.correctShadow; split <;> rfl

@[simp] theorem Plant.correctShadow_stagger (p : Plant) (i : Fin 32) (w : Word) :
    (p.correctShadow i w).stagger = p.stagger := by
  unfold Plant.correctShadow; split <;> rfl

@[simp] theorem Plant.correctShadow_rotation (p : Plant) (i : Fin 32) (w : Word) :
    (p.correctShadow i w).rotation = p.rotation := by
  unfold Plant.correctShadow; split <;> rfl

@[simp] theorem Plant.correctShadow_desired (p : Plant) (i : Fin 32) (w : Word) :
    (p.correctShadow i w).desired = p.desired := by
  unfold Plant.correctShadow; split <;> rfl

@[simp] theorem Plant.correctShadow_rakes (p : Plant) (i : Fin 32) (w : Word) :
    (p.correctShadow i w).rakes = p.rakes := by
  unfold Plant.correctShadow; split <;> rfl

@[simp] theorem Plant.correctShadow_weirs (p : Plant) (i : Fin 32) (w : Word) :
    (p.correctShadow i w).weirs = p.weirs := by
  unfold Plant.correctShadow; split <;> rfl

@[simp] theorem Plant.correctShadow_alarms (p : Plant) (i : Fin 32) (w : Word) :
    (p.correctShadow i w).alarms = p.alarms := by
  unfold Plant.correctShadow; split <;> rfl

@[simp] theorem Plant.correctShadow_sections (p : Plant) (i : Fin 32) (w : Word) :
    (p.correctShadow i w).sections = p.sections := by
  unfold Plant.correctShadow; split <;> rfl

@[simp] theorem Plant.correctShadow_out (p : Plant) (i : Fin 32) (w : Word) :
    (p.correctShadow i w).out = p.out := by
  unfold Plant.correctShadow; split <;> rfl

@[simp] theorem Plant.correctShadow_marks (p : Plant) (i : Fin 32) (w : Word) :
    (p.correctShadow i w).marks = p.marks := by
  unfold Plant.correctShadow; split <;> rfl

end Sys2Proof.Machine
end

