-- ==== Sys2Proof/Laws/Frames.lean ====
section
/-! SUPPORT. What the operations of the plant leave alone, one lemma per operation, for two frames: the
inputs, clock, mode, weirs and settings (`Grows`), and with them the command shadow and the orders (`Kept`). -/

namespace Sys2Proof.Machine

theorem Plant.SameInputs.refl (p : Plant) : p.SameInputs p := ⟨rfl, rfl, rfl, rfl, rfl, rfl, rfl, rfl⟩

theorem Plant.SameInputs.trans {p q r : Plant} (h : p.SameInputs q) (k : q.SameInputs r) : p.SameInputs r :=
  ⟨k.1.trans h.1, k.2.trans h.2, k.3.trans h.3, k.4.trans h.4, k.5.trans h.5, k.6.trans h.6, k.7.trans h.7,
    k.8.trans h.8⟩

theorem Plant.SameOrders.refl (p : Plant) : p.SameOrders p := ⟨rfl, rfl, rfl, rfl⟩

theorem Plant.SameOrders.trans {p q r : Plant} (h : p.SameOrders q) (k : q.SameOrders r) : p.SameOrders r :=
  ⟨k.1.trans h.1, k.2.trans h.2, k.3.trans h.3, k.4.trans h.4⟩

/-- The inputs are the same and entries have only been added. -/
def Plant.Grows (p q : Plant) : Prop := p.SameInputs q ∧ ∃ more, q.out = p.out ++ more

/-- The inputs and the orders are the same and entries have only been added. -/
def Plant.Kept (p q : Plant) : Prop := p.Grows q ∧ p.SameOrders q

theorem Plant.Grows.refl (p : Plant) : p.Grows p := ⟨.refl p, [], (List.append_nil _).symm⟩

theorem Plant.Grows.trans {p q r : Plant} (h : p.Grows q) (k : q.Grows r) : p.Grows r := by
  obtain ⟨h1, m, hm⟩ := h
  obtain ⟨k1, n, hn⟩ := k
  exact ⟨h1.trans k1, m ++ n, by rw [hn, hm, List.append_assoc]⟩

theorem Plant.Kept.refl (p : Plant) : p.Kept p := ⟨.refl p, .refl p⟩

theorem Plant.Kept.trans {p q r : Plant} (h : p.Kept q) (k : q.Kept r) : p.Kept r :=
  ⟨h.1.trans k.1, h.2.trans k.2⟩

/-- A fold whose every step relates two plants relates its ends. -/
theorem foldl_rel {α : Type} (R : Plant → Plant → Prop) (refl : ∀ p, R p p)
    (trans : ∀ p q r, R p q → R q r → R p r) (f : Plant → α → Plant) (step : ∀ p a, R p (f p a)) (l : List α)
    (p : Plant) : R p (l.foldl f p) := by
  induction l generalizing p with
  | nil => exact refl p
  | cons a l ih => exact trans _ _ _ (step p a) (ih (f p a))

theorem foldl_grows {α : Type} (f : Plant → α → Plant) (step : ∀ (p : Plant) a, p.Grows (f p a)) (l : List α) (p : Plant) :
    p.Grows (l.foldl f p) :=
  foldl_rel Plant.Grows Plant.Grows.refl (fun _ _ _ h k => h.trans k) f step l p

theorem foldl_kept {α : Type} (f : Plant → α → Plant) (step : ∀ (p : Plant) a, p.Kept (f p a)) (l : List α) (p : Plant) :
    p.Kept (l.foldl f p) :=
  foldl_rel Plant.Kept Plant.Kept.refl (fun _ _ _ h k => h.trans k) f step l p

theorem Plant.kept_of_eqs {p q : Plant} (hi : p.SameInputs q) (ho : p.SameOrders q) (h : q.out = p.out) : p.Kept q :=
  ⟨⟨hi, [], by rw [h, List.append_nil]⟩, ho⟩

/-! Entries, claims, rakes, alarms. -/

theorem Plant.append_kept (p : Plant) (src kind : Byte) (d : List Byte) (u : Bool) : p.Kept (p.append src kind d u) :=
  ⟨⟨⟨rfl, rfl, rfl, rfl, rfl, rfl, rfl, rfl⟩, _, rfl⟩, ⟨rfl, rfl, rfl, rfl⟩⟩

theorem Plant.setClaim_kept (p : Plant) (h : Fin 8) (c : Claim) : p.Kept (p.setClaim h c) :=
  kept_of_eqs ⟨rfl, rfl, rfl, rfl, rfl, rfl, rfl, rfl⟩ ⟨rfl, rfl, rfl, rfl⟩ rfl

theorem Plant.dropClaim_kept (p : Plant) (h : Fin 8) : p.Kept (p.dropClaim h) := p.setClaim_kept h _

theorem Plant.setRake_kept (p : Plant) (n : Fin 2) (r : Rake) : p.Kept (p.setRake n r) :=
  kept_of_eqs ⟨rfl, rfl, rfl, rfl, rfl, rfl, rfl, rfl⟩ ⟨rfl, rfl, rfl, rfl⟩ rfl

theorem Plant.setPoint_kept (p : Plant) (k : Fin 40) (x : AlarmPoint) : p.Kept (p.setPoint k x) :=
  kept_of_eqs ⟨rfl, rfl, rfl, rfl, rfl, rfl, rfl, rfl⟩ ⟨rfl, rfl, rfl, rfl⟩ rfl

theorem Plant.annunciate_kept (p : Plant) : p.Kept p.annunciate := by
  refine kept_of_eqs ⟨rfl, rfl, rfl, rfl, rfl, ?_, ?_, ?_⟩ ⟨rfl, rfl, rfl, rfl⟩ rfl
  all_goals
    unfold Plant.annunciate LineUnit.takeDemand
    dsimp only
    split
    · rfl
    · split <;> rfl

theorem Plant.clearFirstOut_kept (p : Plant) : p.Kept p.clearFirstOut := by
  unfold Plant.clearFirstOut
  split
  · exact .refl p
  · exact kept_of_eqs ⟨rfl, rfl, rfl, rfl, rfl, rfl, rfl, rfl⟩ ⟨rfl, rfl, rfl, rfl⟩ rfl

theorem Plant.setFirstOut_kept (p : Plant) (x : Option (Fin 40)) :
    p.Kept { p with alarms := { p.alarms with firstOut := x } } :=
  kept_of_eqs ⟨rfl, rfl, rfl, rfl, rfl, rfl, rfl, rfl⟩ ⟨rfl, rfl, rfl, rfl⟩ rfl

theorem Plant.pointOn_kept (p : Plant) (k : Fin 40) : p.Kept (p.pointOn k) := by
  unfold Plant.pointOn
  dsimp only
  refine .trans ?_ (Plant.annunciate_kept _)
  split
  · exact ((p.setPoint_kept k _).trans (Plant.append_kept _ _ _ _ _)).trans (Plant.setFirstOut_kept _ _)
  · exact (p.setPoint_kept k _).trans (Plant.append_kept _ _ _ _ _)

theorem Plant.pointOff_kept (p : Plant) (k : Fin 40) : p.Kept (p.pointOff k) :=
  (((p.setPoint_kept k _).trans (Plant.append_kept _ _ _ _ _)).trans (Plant.clearFirstOut_kept _)).trans
    (Plant.annunciate_kept _)

theorem Plant.hand_kept (p : Plant) (k : Fin 40) (b : Bool) : p.Kept (p.hand k b) := by
  unfold Plant.hand
  split
  · exact .refl p
  · split
    · exact p.pointOn_kept k
    · exact p.pointOff_kept k

theorem Plant.ackStep_kept (p : Plant) (town : Bool) (k : Fin 40) : p.Kept (p.ackStep town k) := by
  unfold Plant.ackStep
  dsimp only
  split
  · exact (p.setPoint_kept k _).trans (Plant.append_kept _ _ _ _ _)
  · exact .refl p

theorem Plant.acknowledge_kept (p : Plant) (town : Bool) (ks : List (Fin 40)) : p.Kept (p.acknowledge town ks) :=
  ((foldl_kept _ (fun q k => q.ackStep_kept town k) ks p).trans (Plant.clearFirstOut_kept _)).trans
    (Plant.annunciate_kept _)

theorem Plant.handEach_kept (p : Plant) (views : List Plant) (k : Fin 40) (c : Plant → Bool) :
    p.Kept (p.handEach views k c) := foldl_kept _ (fun q _ => q.hand_kept _ _) _ _

theorem Plant.handPumps_kept (p : Plant) (views : List Plant) : p.Kept (p.handPumps views) := by
  unfold Plant.handPumps
  dsimp only
  refine .trans (.trans ?_ (Plant.handEach_kept _ _ _ _)) (Plant.handEach_kept _ _ _ _)
  exact (foldl_kept _ (fun q n => q.handEach_kept _ _ _) _ _).trans (foldl_kept _ (fun q n => q.handEach_kept _ _ _) _ _)

theorem Plant.handRakes_kept (p : Plant) (views : List Plant) : p.Kept (p.handRakes views) := by
  unfold Plant.handRakes
  dsimp only
  exact ((foldl_kept _ (fun q n => q.handEach_kept _ _ _) _ _).trans
    (foldl_kept _ (fun q n => q.handEach_kept _ _ _) _ _)).trans (foldl_kept _ (fun q n => q.handEach_kept _ _ _) _ _)

theorem Plant.handLevels_kept (p : Plant) : p.Kept p.handLevels :=
  (foldl_kept _ (fun q _ => q.hand_kept _ _) _ _).trans (Plant.hand_kept _ _ _)

theorem Plant.handSettings_kept (p : Plant) : p.Kept p.handSettings :=
  (Plant.hand_kept _ _ _).trans (Plant.hand_kept _ _ _)

theorem Plant.handAll_kept (p : Plant) : p.Kept p.handAll := foldl_kept _ (fun q _ => q.hand_kept _ _) _ _

/-! Rakes. -/

theorem Plant.reverseRake_kept (p : Plant) (n : Fin 2) : p.Kept (p.reverseRake n) :=
  (p.setRake_kept n _).trans (Plant.append_kept _ _ _ _ _)

theorem Plant.checkOverload_kept (p : Plant) (n : Fin 2) : p.Kept (p.checkOverload n) := by
  unfold Plant.checkOverload
  split
  · exact p.reverseRake_kept n
  · exact .refl p

theorem Plant.startRake_kept (p : Plant) (n : Fin 2) : p.Kept (p.startRake n) :=
  ((p.setRake_kept n _).trans (Plant.append_kept _ _ _ _ _)).trans (Plant.checkOverload_kept _ _)

theorem Plant.enterIdle_kept (p : Plant) (n : Fin 2) : p.Kept (p.enterIdle n) := p.setRake_kept n _

theorem Plant.endCycle_kept (p : Plant) (n : Fin 2) : p.Kept (p.endCycle n) :=
  ((p.append_kept _ _ _ _).trans (Plant.dropClaim_kept _ _)).trans (Plant.enterIdle_kept _ _)

theorem Plant.jamRake_kept (p : Plant) (n : Fin 2) (c : JamCause) : p.Kept (p.jamRake n c) :=
  ((p.setRake_kept n _).trans (Plant.dropClaim_kept _ _)).trans (Plant.append_kept _ _ _ _ _)

theorem Plant.triggerRake_kept (p : Plant) (n : Fin 2) (t : Trigger) : p.Kept (p.triggerRake n t) :=
  (p.setRake_kept n _).trans (Plant.setClaim_kept _ _ _)

theorem Plant.suspendRake_kept (p : Plant) (n : Fin 2) : p.Kept (p.suspendRake n) :=
  ((p.setRake_kept n _).trans (Plant.setClaim_kept _ _ _)).trans (Plant.append_kept _ _ _ _ _)

theorem Plant.backInRaking_kept (p : Plant) (n : Fin 2) : p.Kept (p.backInRaking n) := by
  unfold Plant.backInRaking
  split
  · exact p.endCycle_kept n
  · exact p.checkOverload_kept n

theorem Plant.resumeRake_kept (p : Plant) (n : Fin 2) : p.Kept (p.resumeRake n) := by
  unfold Plant.resumeRake
  dsimp only
  split
  · exact (p.setRake_kept n _).trans (Plant.append_kept _ _ _ _ _)
  · exact ((p.setRake_kept n _).trans (Plant.append_kept _ _ _ _ _)).trans (Plant.backInRaking_kept _ _)

theorem Plant.grantRake_kept (p : Plant) (n : Fin 2) : p.Kept (p.grantRake n) := by
  unfold Plant.grantRake
  dsimp only
  split
  · exact (p.setClaim_kept _ _).trans (Plant.startRake_kept _ _)
  · exact (p.setClaim_kept _ _).trans (Plant.resumeRake_kept _ _)
  all_goals exact .refl p

theorem Plant.standDown_kept (p : Plant) (n : Fin 2) (st : RakeState) (k : Nat) : p.Kept (p.standDown n st k) := by
  unfold Plant.standDown
  dsimp only
  refine .trans ?_ ((Plant.setRake_kept _ n _).trans (Plant.dropClaim_kept _ _))
  split
  · exact p.append_kept _ _ _ _
  · exact .refl p

theorem Plant.rakeOosSet_kept (p : Plant) (n : Fin 2) : p.Kept (p.rakeOosSet n) := by
  unfold Plant.rakeOosSet
  split
  case h_1 => exact .refl p
  case h_2 => exact .refl p
  all_goals exact p.standDown_kept n _ _

theorem Plant.rakeOosCleared_kept (p : Plant) (n : Fin 2) : p.Kept (p.rakeOosCleared n) := by
  unfold Plant.rakeOosCleared
  split
  · exact p.enterIdle_kept n
  · exact .refl p

theorem Plant.rakeReset_kept (p : Plant) (n : Fin 2) : p.Kept (p.rakeReset n) := by
  unfold Plant.rakeReset
  split
  · exact p.enterIdle_kept n
  · exact .refl p

theorem Plant.homeChange_kept (p : Plant) (n : Fin 2) (b : Bool) : p.Kept (p.homeChange n b) := by
  unfold Plant.homeChange
  dsimp only
  split
  · split
    · split
      · exact p.endCycle_kept n
      · exact .refl p
    · exact p.setRake_kept n _
  · split
    · exact .refl p
    · exact p.setRake_kept n _
  · split
    · exact .refl p
    · exact p.setRake_kept n _
  all_goals exact .refl p

theorem Plant.overloadChange_kept (p : Plant) (n : Fin 2) (b : Bool) : p.Kept (p.overloadChange n b) := by
  unfold Plant.overloadChange
  split
  · exact p.reverseRake_kept n
  · exact .refl p

theorem Plant.reverseDone_kept (p : Plant) (n : Fin 2) : p.Kept (p.reverseDone n) := by
  unfold Plant.reverseDone
  dsimp only
  split
  · exact (p.setRake_kept n _).trans (Plant.backInRaking_kept _ _)
  · exact p.jamRake_kept n _

theorem Plant.takeDifferential_kept (p : Plant) (n : Fin 2) : p.Kept (p.takeDifferential n) := by
  unfold Plant.takeDifferential
  dsimp only
  split <;> exact p.setRake_kept n _

theorem Plant.rakeLevel_kept (p : Plant) (n : Fin 2) : p.Kept (p.rakeLevel n) := by
  unfold Plant.rakeLevel
  dsimp only
  split
  · exact (p.takeDifferential_kept n).trans (Plant.triggerRake_kept _ _ _)
  · exact p.takeDifferential_kept n

theorem Plant.standingTrigger_kept (p : Plant) (n : Fin 2) : p.Kept (p.standingTrigger n) := by
  unfold Plant.standingTrigger
  split
  · exact p.triggerRake_kept n _
  · exact .refl p

theorem Plant.suspendRakes_kept (p : Plant) : p.Kept p.suspendRakes :=
  foldl_kept _ (fun q n => q.suspendRake_kept n) _ _

end Sys2Proof.Machine
end

