-- ==== Sys2Proof/Laws/Pumps.lean ====
section
/-! SUPPORT. What the operations of the pump unit leave alone, and what they do to each pump. -/

namespace Sys2Proof.Machine

/-! The frame of the pump unit. -/

theorem Plant.RunsOnly.refl (p : Plant) : p.RunsOnly p :=
  ⟨.refl p, fun _ _ => rfl, fun _ _ _ => rfl, fun _ h => h⟩

theorem Plant.RunsOnly.trans {p q r : Plant} (h : p.RunsOnly q) (k : q.RunsOnly r) : p.RunsOnly r :=
  ⟨h.1.trans k.1, fun i hi => (k.2 i hi).trans (h.2 i hi), fun n j hj => (k.3 n j hj).trans (h.3 n j hj),
    fun i hi => k.4 i (h.4 i hi)⟩

/-- The frame of the pump unit, entries only added. -/
def Plant.Acts (p q : Plant) : Prop := p.RunsOnly q ∧ ∃ more, q.out = p.out ++ more

theorem Plant.Acts.refl (p : Plant) : p.Acts p := ⟨.refl p, [], (List.append_nil _).symm⟩

theorem Plant.Acts.trans {p q r : Plant} (h : p.Acts q) (k : q.Acts r) : p.Acts r := by
  obtain ⟨h1, m, hm⟩ := h
  obtain ⟨k1, n, hn⟩ := k
  exact ⟨h1.trans k1, m ++ n, by rw [hn, hm, List.append_assoc]⟩

theorem Plant.Acts.inputs {p q : Plant} (h : p.Acts q) : p.SameInputs q := h.1.1

theorem Plant.Kept.acts {p q : Plant} (h : p.Kept q) : p.Acts q :=
  ⟨⟨h.1.1, fun i _ => by rw [h.2.1], fun n k _ => by rw [h.2.1], fun i hi => by rw [h.2.2]; exact hi⟩, h.1.2⟩

theorem foldl_acts {α : Type} (f : Plant → α → Plant) (step : ∀ (p : Plant) a, p.Acts (f p a)) (l : List α)
    (p : Plant) : p.Acts (l.foldl f p) :=
  foldl_rel Plant.Acts Plant.Acts.refl (fun _ _ _ h k => h.trans k) f step l p

/-- A plant that differs in its pumps, queue, stagger, rotation, claims or desired count alone. -/
theorem Plant.acts_of_eqs {p q : Plant} (hi : p.SameInputs q) (hs : q.shadow = p.shadow) (hc : q.corr = p.corr)
    (h : q.out = p.out) : p.Acts q :=
  ⟨⟨hi, fun i _ => by rw [hs], fun n k _ => by rw [hs], fun i hi => by rw [hc]; exact hi⟩, [],
    by rw [h, List.append_nil]⟩

/-! The rotation list (R55). -/

theorem mem_allPumps (n : Fin 6) : n ∈ allPumps := by revert n; decide
theorem mem_allRakes (n : Fin 2) : n ∈ allRakes := by revert n; decide
theorem mem_allWeirs (n : Fin 3) : n ∈ allWeirs := by revert n; decide
theorem mem_allChannels (n : Fin 8) : n ∈ allChannels := by revert n; decide
theorem mem_allPoints (k : Fin 40) : k ∈ allPoints := List.mem_finRange k

theorem Plant.pump_setPump (p : Plant) (n m : Fin 6) (q : Pump) :
    (p.setPump n q).pump m = if n = m then q else p.pump m := by
  show (p.setPump n q).pumps.get m = _
  rw [Plant.setPump_pumps, vset_get]
  rfl

@[simp] theorem Plant.pump_setPump_same (p : Plant) (n : Fin 6) (q : Pump) : (p.setPump n q).pump n = q := by
  rw [Plant.pump_setPump, if_pos rfl]

theorem Plant.pump_setPump_ne (p : Plant) {n m : Fin 6} (h : n ≠ m) (q : Pump) : (p.setPump n q).pump m = p.pump m := by
  rw [Plant.pump_setPump, if_neg h]

/-- R55: while some pump stays in STARTING or RUNNING the list does not move. -/
theorem Plant.setPump_rotation_inMotion (p : Plant) (n : Fin 6) (q : Pump) (h : q.state.inMotion = true) :
    (p.setPump n q).rotation = p.rotation := by
  unfold Plant.setPump
  dsimp only
  rw [if_neg]
  intro hc
  rw [Bool.and_eq_true, beq_iff_eq] at hc
  have h0 := hc.2
  unfold Plant.runningCount at h0
  rw [List.countP_eq_zero] at h0
  apply h0 n (mem_allPumps n)
  show (Vector.get (vset p.pumps n q) n).state.inMotion = true
  rw [vset_get_same]
  exact h

theorem Plant.setPump_acts (p : Plant) (n : Fin 6) (q : Pump) : p.Acts (p.setPump n q) :=
  acts_of_eqs ⟨by simp, by simp, by simp, by simp, by simp, by simp, by simp, by simp⟩ (by simp) (by simp) (by simp)

theorem Plant.setPump_kept (p : Plant) (n : Fin 6) (q : Pump) (h : q.state.inMotion = true) :
    p.Kept (p.setPump n q) :=
  kept_of_eqs ⟨by simp, by simp, by simp, by simp, by simp, by simp, by simp, by simp⟩
    ⟨by simp, by simp, by simp, p.setPump_rotation_inMotion n q h⟩ (by simp)

/-! Queue, claims, words. -/

theorem Plant.joinQueue_acts (p : Plant) (n : Fin 6) : p.Acts (p.joinQueue n) := by
  unfold Plant.joinQueue
  split
  · exact .refl p
  · exact acts_of_eqs ⟨rfl, rfl, rfl, rfl, rfl, rfl, rfl, rfl⟩ rfl rfl rfl

theorem Plant.setQueue_kept (p : Plant) (l : List (Fin 6)) : p.Kept (p.setQueue l) :=
  kept_of_eqs ⟨rfl, rfl, rfl, rfl, rfl, rfl, rfl, rfl⟩ ⟨rfl, rfl, rfl, rfl⟩ rfl

theorem Plant.setStart_kept (p : Plant) (l : List (Fin 6)) (t : Timer) :
    p.Kept { p.setQueue l with stagger := t } :=
  kept_of_eqs ⟨rfl, rfl, rfl, rfl, rfl, rfl, rfl, rfl⟩ ⟨rfl, rfl, rfl, rfl⟩ rfl

theorem Plant.leaveQueue_kept (p : Plant) (n : Fin 6) : p.Kept (p.leaveQueue n) := by
  unfold Plant.leaveQueue
  dsimp only
  split
  · exact (p.setQueue_kept _).trans (Plant.dropClaim_kept _ _)
  · exact p.setQueue_kept _

theorem getLsbD_setBit (w : Word) (i k : Nat) (b : Bool) (hi : i < 16) :
    (setBit w i b).getLsbD k = if k = i then b else w.getLsbD k := by
  have h2 : ∀ k, (BitVec.ofNat 16 (2 ^ i)).getLsbD k = decide (k = i) := by
    intro k
    rw [BitVec.getLsbD_ofNat, Nat.testBit_two_pow]
    by_cases hk : k = i
    · subst hk; simp [hi]
    · simp [hk, Ne.symm hk]
  unfold setBit
  cases b
  · simp only [Bool.false_eq_true, if_false, BitVec.getLsbD_and, BitVec.getLsbD_not, h2]
    by_cases hk : k = i
    · subst hk; simp
    · by_cases h16 : k < 16
      · simp [hk, h16]
      · simp [hk, h16]
        exact BitVec.getLsbD_of_ge w k (by omega)
  · simp only [if_true, BitVec.getLsbD_or, h2]
    by_cases hk : k = i
    · subst hk; simp
    · simp [hk]

theorem mem_joinCorr {l : List (Fin 32)} {i j : Fin 32} : j ∈ joinCorr l i ↔ j ∈ l ∨ j = i := by
  unfold joinCorr
  split
  · rename_i h
    constructor
    · exact Or.inl
    · rintro (h1 | rfl)
      · exact h1
      · exact h
  · simp

theorem Plant.shadow_correctShadow (p : Plant) (i : Fin 32) (w : Word) :
    (p.correctShadow i w).shadow.get i = w := by
  unfold Plant.correctShadow
  split
  · assumption
  · simp

theorem Plant.shadow_correctShadow_ne (p : Plant) {i j : Fin 32} (h : i ≠ j) (w : Word) :
    (p.correctShadow i w).shadow.get j = p.shadow.get j := by
  unfold Plant.correctShadow
  split
  · rfl
  · simp [vset_get_ne _ _ h]

theorem Plant.corr_correctShadow (p : Plant) (i : Fin 32) (w : Word) {j : Fin 32} (h : j ∈ p.corr) :
    j ∈ (p.correctShadow i w).corr := by
  unfold Plant.correctShadow
  split
  · exact h
  · simp [mem_joinCorr, h]

theorem pumpWord_inj {n m : Fin 6} (h : pumpWord n = pumpWord m) : n = m := by
  have := congrArg Fin.val h
  simp only [pumpWord] at this
  exact Fin.ext (by omega)

/-- The shadow after a RUN field is set or cleared is that of the owner's correction. -/
theorem Plant.setRun_shadow (p : Plant) (n : Fin 6) (b : Bool) :
    (p.setRun n b).shadow = (p.correctShadow (pumpWord n) (setBit (p.shadow.get (pumpWord n)) 0 b)).shadow := rfl

theorem Plant.setRun_acts (p : Plant) (n : Fin 6) (b : Bool) : p.Acts (p.setRun n b) := by
  refine ⟨⟨⟨by simp [Plant.setRun], by simp [Plant.setRun], by simp [Plant.setRun], by simp [Plant.setRun],
    by simp [Plant.setRun], by simp [Plant.setRun], by simp [Plant.setRun], by simp [Plant.setRun]⟩, ?_, ?_, ?_⟩, [], ?_⟩
  · intro i hi
    exact p.shadow_correctShadow_ne (hi n) _
  · intro m k hk
    by_cases h : n = m
    · subst h
      rw [Plant.setRun_shadow, Plant.shadow_correctShadow, getLsbD_setBit _ _ _ _ (by omega), if_neg hk]
    · rw [Plant.setRun_shadow, Plant.shadow_correctShadow_ne _ (fun e => h (pumpWord_inj e))]
  · intro i hi
    exact p.corr_correctShadow _ _ hi
  · simp [Plant.setRun]

/-- R36: the demand after a RUN field is set or cleared. -/
theorem Plant.demand_setRun (p : Plant) (n m : Fin 6) (b : Bool) :
    (p.setRun n b).demand m = if n = m then b else p.demand m := by
  unfold Plant.demand runField
  rw [Plant.setRun_shadow]
  by_cases h : n = m
  · subst h
    rw [Plant.shadow_correctShadow, getLsbD_setBit _ _ _ _ (by omega), if_pos rfl, if_pos rfl]
  · rw [Plant.shadow_correctShadow_ne _ (fun e => h (pumpWord_inj e)), if_neg h]

@[simp] theorem Plant.setRun_pumps (p : Plant) (n : Fin 6) (b : Bool) : (p.setRun n b).pumps = p.pumps := by
  simp [Plant.setRun]
@[simp] theorem Plant.setRun_queue (p : Plant) (n : Fin 6) (b : Bool) : (p.setRun n b).queue = p.queue := by
  simp [Plant.setRun]
@[simp] theorem Plant.setRun_claims (p : Plant) (n : Fin 6) (b : Bool) : (p.setRun n b).claims = p.claims := by
  simp [Plant.setRun]
@[simp] theorem Plant.setRun_rakes (p : Plant) (n : Fin 6) (b : Bool) : (p.setRun n b).rakes = p.rakes := by
  simp [Plant.setRun]
@[simp] theorem Plant.setRun_clock (p : Plant) (n : Fin 6) (b : Bool) : (p.setRun n b).clock = p.clock := by
  simp [Plant.setRun]

/-! The frame of each operation. -/

theorem Plant.trip_acts (p : Plant) (n : Fin 6) (c : TripCause) : p.Acts (p.trip n c) :=
  ((((p.setPump_acts n _).trans (Plant.leaveQueue_kept _ _).acts).trans (Plant.dropClaim_kept _ _).acts).trans
    (Plant.setRun_acts _ _ _)).trans (Plant.append_kept _ _ _ _ _).acts

theorem Plant.enterResting_acts (p : Plant) (n : Fin 6) (off : Nat) : p.Acts (p.enterResting n off) := by
  unfold Plant.enterResting
  dsimp only
  split
  · exact (((p.setPump_acts n _).trans (Plant.leaveQueue_kept _ _).acts).trans
      (Plant.dropClaim_kept _ _).acts).trans (Plant.trip_acts _ _ _)
  · exact ((p.setPump_acts n _).trans (Plant.leaveQueue_kept _ _).acts).trans (Plant.dropClaim_kept _ _).acts

theorem Plant.logStop_kept (p : Plant) (n : Fin 6) (r : StopReason) : p.Kept (p.logStop n r) := p.append_kept _ _ _ _

theorem Plant.stopPump_acts (p : Plant) (n : Fin 6) (r : StopReason) : p.Acts (p.stopPump n r) :=
  (p.logStop_kept n r).acts.trans (Plant.enterResting_acts _ _ _)

theorem Plant.enterOff_acts (p : Plant) (n : Fin 6) : p.Acts (p.enterOff n) := by
  unfold Plant.enterOff
  dsimp only
  split
  · exact (p.setPump_acts n _).trans (Plant.trip_acts _ _ _)
  · split
    · split
      · exact (p.setPump_acts n _).trans (Plant.setRun_acts _ _ _)
      · exact (p.setPump_acts n _).trans (Plant.joinQueue_acts _ _)
    · exact p.setPump_acts n _

theorem Plant.demandCleared_acts (p : Plant) (n : Fin 6) : p.Acts (p.demandCleared n) := by
  unfold Plant.demandCleared
  split
  · exact (p.leaveQueue_kept n).acts
  · exact p.stopPump_acts n _
  · split
    · exact p.setPump_acts n _
    · exact p.stopPump_acts n _
  all_goals exact .refl p

theorem Plant.demandSet_acts (p : Plant) (n : Fin 6) : p.Acts (p.demandSet n) := by
  unfold Plant.demandSet
  split
  · exact p.joinQueue_acts n
  · exact p.setPump_acts n _
  all_goals exact .refl p

theorem Plant.withdrawDemand_acts (p : Plant) (n : Fin 6) : p.Acts (p.withdrawDemand n) := by
  unfold Plant.withdrawDemand
  split
  · exact (p.setRun_acts n _).trans (Plant.demandCleared_acts _ _)
  · exact .refl p

theorem Plant.giveDemand_acts (p : Plant) (n : Fin 6) : p.Acts (p.giveDemand n) :=
  (p.setRun_acts n _).trans (Plant.demandSet_acts _ _)

theorem Plant.enterRunning_kept (p : Plant) (n : Fin 6) : p.Kept (p.enterRunning n) :=
  (p.setPump_kept n _ rfl).trans (Plant.append_kept _ _ _ _ _)

theorem Plant.startPump_kept (p : Plant) (n : Fin 6) : p.Kept (p.startPump n) := by
  unfold Plant.startPump
  dsimp only
  split
  · exact ((((p.setStart_kept _ _).trans (Plant.setClaim_kept _ _ _)).trans (Plant.setPump_kept _ _ _ rfl)).trans
      (Plant.append_kept _ _ _ _ _)).trans (Plant.enterRunning_kept _ _)
  · exact (((p.setStart_kept _ _).trans (Plant.setClaim_kept _ _ _)).trans (Plant.setPump_kept _ _ _ rfl)).trans
      (Plant.append_kept _ _ _ _ _)

theorem Plant.raiseDemands_acts (p : Plant) (k : Nat) : p.Acts (p.raiseDemands k) := by
  induction k generalizing p with
  | zero => exact .refl p
  | succ k ih =>
    unfold Plant.raiseDemands
    split
    · split
      · exact (p.giveDemand_acts _).trans (ih _)
      · exact .refl p
    · exact .refl p

theorem Plant.lowerDemands_acts (p : Plant) (k : Nat) : p.Acts (p.lowerDemands k) := by
  induction k generalizing p with
  | zero => exact .refl p
  | succ k ih =>
    unfold Plant.lowerDemands
    split
    · split
      · exact (p.withdrawDemand_acts _).trans (ih _)
      · exact .refl p
    · exact .refl p

theorem Plant.reexamine_acts (p : Plant) : p.Acts p.reexamine := by
  unfold Plant.reexamine
  split
  · exact p.raiseDemands_acts 6
  · exact .refl p

theorem Plant.reexamineAfter_acts (was p : Plant) (n : Fin 6) : p.Acts (was.reexamineAfter p n) := by
  unfold Plant.reexamineAfter
  split
  · exact p.reexamine_acts
  · exact .refl p

theorem Plant.setDesired_acts (p : Plant) (d : Nat) : p.Acts (p.setDesired d) := by
  have h : p.Acts (p.putDesired d) := acts_of_eqs ⟨rfl, rfl, rfl, rfl, rfl, rfl, rfl, rfl⟩ rfl rfl rfl
  unfold Plant.setDesired
  dsimp only
  split
  · exact h
  · split
    · exact (h.trans (Plant.lowerDemands_acts _ _)).trans (Plant.raiseDemands_acts _ _)
    · exact h.trans (Plant.raiseDemands_acts _ _)

theorem Plant.evaluateDesired_acts (p : Plant) : p.Acts p.evaluateDesired := p.setDesired_acts _

theorem Plant.flushQueue_kept (p : Plant) : p.Kept p.flushQueue := foldl_kept _ (fun q n => q.leaveQueue_kept n) _ _

theorem Plant.dryWell_acts (p : Plant) : p.Acts p.dryWell := by
  unfold Plant.dryWell
  dsimp only
  have h : ∀ q : Plant, q.Acts (q.putDesired 0) :=
    fun q => acts_of_eqs ⟨rfl, rfl, rfl, rfl, rfl, rfl, rfl, rfl⟩ rfl rfl rfl
  refine .trans ?_ (h _)
  refine .trans (.trans (foldl_acts _ (fun q n => ?_) _ _) (Plant.flushQueue_kept _).acts)
    (foldl_acts _ (fun q n => q.setRun_acts n _) _ _)
  split
  · exact q.stopPump_acts n _
  · exact .refl q

theorem Plant.limitsChanged_acts (p : Plant) : p.Acts p.limitsChanged := by
  unfold Plant.limitsChanged
  dsimp only
  split
  · exact foldl_acts _ (fun q n => q.withdrawDemand_acts n) _ _
  · exact (foldl_acts _ (fun q n => q.withdrawDemand_acts n) _ _).trans (Plant.reexamine_acts _)

theorem Plant.takeOut_acts (p : Plant) (n : Fin 6) (st : PumpState) (r : StopReason) : p.Acts (p.takeOut n st r) := by
  unfold Plant.takeOut
  dsimp only
  refine .trans (.trans (.trans (.trans ?_ (Plant.setPump_acts _ n _)) (Plant.leaveQueue_kept _ _).acts)
    (Plant.dropClaim_kept _ _).acts) (Plant.setRun_acts _ _ _)
  split
  · exact (p.logStop_kept n r).acts
  · exact .refl p

theorem Plant.oosSet_acts (p : Plant) (n : Fin 6) : p.Acts (p.oosSet n) := by
  unfold Plant.oosSet
  split
  · exact .refl p
  · exact .refl p
  all_goals exact p.takeOut_acts n _ _

theorem Plant.oosCleared_acts (p : Plant) (n : Fin 6) : p.Acts (p.oosCleared n) := by
  unfold Plant.oosCleared
  split
  · exact p.enterResting_acts n _
  · exact .refl p

theorem Plant.resetTripped_acts (p : Plant) (n : Fin 6) : p.Acts (p.resetTripped n) := by
  unfold Plant.resetTripped
  dsimp only
  split
  · split
    · exact (((p.append_kept _ _ _ _).acts.trans (Plant.enterResting_acts _ _ _)).trans
        (Plant.enterOff_acts _ _)).trans (Plant.reexamine_acts _)
    · exact (p.append_kept _ _ _ _).acts.trans (Plant.enterResting_acts _ _ _)
  · split
    · exact (((p.append_kept _ _ _ _).acts.trans (Plant.enterResting_acts _ _ _)).trans
        (Plant.enterOff_acts _ _)).trans (Plant.reexamine_acts _)
    · exact (p.append_kept _ _ _ _).acts.trans (Plant.enterResting_acts _ _ _)

theorem Plant.resetField_acts (p : Plant) (n : Fin 6) : p.Acts (p.resetField n) := by
  unfold Plant.resetField
  split
  · exact p.resetTripped_acts n
  · exact .refl p

theorem Plant.ageOut_acts (p : Plant) (n : Fin 6) : p.Acts (p.ageOut n) := p.setPump_acts n _

theorem Plant.trimHistories_acts (p : Plant) : p.Acts p.trimHistories :=
  foldl_acts _ (fun q n => q.setPump_acts n _) _ _

theorem Plant.feedbackChange_acts (p : Plant) (n : Fin 6) (b : Bool) : p.Acts (p.feedbackChange n b) := by
  unfold Plant.feedbackChange
  split
  · split
    · exact (p.enterRunning_kept n).acts
    · exact .refl p
  · split
    · exact .refl p
    · exact (p.trip_acts n _).trans (Plant.reexamineAfter_acts _ _ _)
  all_goals exact .refl p

theorem Plant.faultChange_acts (p : Plant) (n : Fin 6) (b : Bool) : p.Acts (p.faultChange n b) := by
  unfold Plant.faultChange
  split
  · split
    case h_5 => exact .refl p
    case h_6 => exact .refl p
    case h_7 => exact .refl p
    all_goals exact (p.trip_acts n _).trans (Plant.reexamineAfter_acts _ _ _)
  · exact .refl p

theorem Plant.shedPumps_acts (p : Plant) (l : List (Fin 6)) (k : Nat) : p.Acts (p.shedPumps l k).1 := by
  induction k generalizing p l with
  | zero => exact .refl p
  | succ k ih =>
    unfold Plant.shedPumps
    split
    · split
      · exact ((p.stopPump_acts _ _).trans (Plant.reexamineAfter_acts _ _ _)).trans (ih _ _)
      · exact .refl p
    · exact .refl p

end Sys2Proof.Machine
end

