-- ==== Sys2Proof/Laws/Settle.lean ====
section
/-! SUPPORT. What the end of an event does (`conclude`): the load budget's service and the conditions handed. -/

namespace Sys2Proof.Machine

/-! One round of the load budget (R27 to R29). -/

/-- What one round can be: a grant to the waiting pump, a suspension of the rakes, the head's claim, a grant to a
rake, or a storm trigger. -/
theorem Plant.serveOnce_cases {p q : Plant} (h : p.serveOnce = some q) :
    (∃ n, p.waitingPump = some n ∧ p.fits (pumpHolder n) = true ∧ q = p.startPump n) ∨
    (∃ n, p.waitingPump = some n ∧ q = p.suspendRakes) ∨
    (∃ n, p.waitingPump = none ∧ p.claimToEnter = some n ∧
      q = p.setClaim (pumpHolder n) { status := .waiting, units := p.pumpUnits n }) ∨
    (∃ n, p.waitingPump = none ∧ p.rakeToGrant = some n ∧ q = p.grantRake n) ∨
    (∃ n, p.stormTrigger = some n ∧ q = p.triggerRake n .storm) := by
  unfold Plant.serveOnce at h
  dsimp only at h
  split at h
  · rename_i n hn
    split at h
    · exact Or.inl ⟨n, hn, by assumption, (Option.some.inj h).symm⟩
    · split at h
      · exact Or.inr (Or.inl ⟨n, hn, (Option.some.inj h).symm⟩)
      · obtain ⟨m, hm, rfl⟩ := Option.map_eq_some_iff.mp h
        exact Or.inr (Or.inr (Or.inr (Or.inr ⟨m, hm, rfl⟩)))
  · rename_i hn
    split at h
    · rename_i n hc
      exact Or.inr (Or.inr (Or.inl ⟨n, hn, hc, (Option.some.inj h).symm⟩))
    · split at h
      · rename_i n hr
        exact Or.inr (Or.inr (Or.inr (Or.inl ⟨n, hn, hr, (Option.some.inj h).symm⟩)))
      · obtain ⟨m, hm, rfl⟩ := Option.map_eq_some_iff.mp h
        exact Or.inr (Or.inr (Or.inr (Or.inr ⟨m, hm, rfl⟩)))

theorem Plant.serveOnce_kept {p q : Plant} (h : p.serveOnce = some q) : p.Kept q := by
  rcases Plant.serveOnce_cases h with ⟨n, _, _, rfl⟩ | ⟨n, _, rfl⟩ | ⟨n, _, _, rfl⟩ | ⟨n, _, _, rfl⟩ | ⟨n, _, rfl⟩
  · exact p.startPump_kept n
  · exact p.suspendRakes_kept
  · exact p.setClaim_kept _ _
  · exact p.grantRake_kept n
  · exact p.triggerRake_kept n _

/-- What every round keeps, the whole service keeps. -/
theorem Plant.serve_induct (I : Plant → Prop) (step : ∀ p q : Plant, I p → p.serveOnce = some q → I q) (k : Nat)
    (p : Plant) (h : I p) : I (p.serve k) := by
  induction k generalizing p with
  | zero => exact h
  | succ k ih =>
    unfold Plant.serve
    split
    · rename_i q hq
      exact ih q (step p q h hq)
    · exact h

theorem Plant.serve_kept (p : Plant) (k : Nat) : p.Kept (p.serve k) :=
  Plant.serve_induct (fun q => p.Kept q) (fun _ _ h hq => h.trans (Plant.serveOnce_kept hq)) k p (.refl p)

theorem Plant.concludeAfter_kept (p : Plant) (views : List Plant) : p.Kept (p.concludeAfter views) := by
  unfold Plant.concludeAfter
  dsimp only
  split
  · exact .refl p
  · exact ((p.serve_kept _).trans (Plant.handPumps_kept _ _)).trans (Plant.handRakes_kept _ _)

theorem Plant.conclude_kept (p : Plant) : p.Kept p.conclude := p.concludeAfter_kept []

/-! Conditions handed leave the units alone. -/

/-- The pumps, rakes, claims, queue and stagger are the same. -/
def Plant.SameUnits (p q : Plant) : Prop :=
  q.pumps = p.pumps ∧ q.rakes = p.rakes ∧ q.claims = p.claims ∧ q.queue = p.queue ∧ q.stagger = p.stagger

theorem Plant.SameUnits.refl (p : Plant) : p.SameUnits p := ⟨rfl, rfl, rfl, rfl, rfl⟩

theorem Plant.SameUnits.trans {p q r : Plant} (h : p.SameUnits q) (k : q.SameUnits r) : p.SameUnits r :=
  ⟨k.1.trans h.1, k.2.1.trans h.2.1, k.2.2.1.trans h.2.2.1, k.2.2.2.1.trans h.2.2.2.1, k.2.2.2.2.trans h.2.2.2.2⟩

theorem Plant.SameUnits.pump {p q : Plant} (h : p.SameUnits q) (n : Fin 6) : q.pump n = p.pump n := by
  unfold Plant.pump; rw [h.1]
theorem Plant.SameUnits.rake {p q : Plant} (h : p.SameUnits q) (n : Fin 2) : q.rake n = p.rake n := by
  unfold Plant.rake; rw [h.2.1]
theorem Plant.SameUnits.claim {p q : Plant} (h : p.SameUnits q) (n : Fin 8) : q.claim n = p.claim n := by
  unfold Plant.claim; rw [h.2.2.1]

theorem foldl_units {α : Type} (f : Plant → α → Plant) (step : ∀ (p : Plant) a, p.SameUnits (f p a)) (l : List α)
    (p : Plant) : p.SameUnits (l.foldl f p) :=
  foldl_rel Plant.SameUnits Plant.SameUnits.refl (fun _ _ _ h k => h.trans k) f step l p

theorem Plant.annunciate_units (p : Plant) : p.SameUnits p.annunciate := ⟨rfl, rfl, rfl, rfl, rfl⟩

theorem Plant.clearFirstOut_units (p : Plant) : p.SameUnits p.clearFirstOut := by
  unfold Plant.clearFirstOut
  split <;> exact ⟨rfl, rfl, rfl, rfl, rfl⟩

theorem Plant.hand_units (p : Plant) (k : Fin 40) (b : Bool) : p.SameUnits (p.hand k b) := by
  unfold Plant.hand
  split
  · exact .refl p
  · split
    · unfold Plant.pointOn
      dsimp only
      refine .trans ?_ (Plant.annunciate_units _)
      split <;> exact ⟨rfl, rfl, rfl, rfl, rfl⟩
    · unfold Plant.pointOff
      dsimp only
      refine .trans (.trans ?_ (Plant.clearFirstOut_units _)) (Plant.annunciate_units _)
      exact ⟨rfl, rfl, rfl, rfl, rfl⟩

theorem Plant.handEach_units (p : Plant) (views : List Plant) (k : Fin 40) (c : Plant → Bool) :
    p.SameUnits (p.handEach views k c) := foldl_units _ (fun q _ => q.hand_units _ _) _ _

theorem Plant.handPumps_units (p : Plant) (views : List Plant) : p.SameUnits (p.handPumps views) := by
  unfold Plant.handPumps
  dsimp only
  refine .trans (.trans ?_ (Plant.handEach_units _ _ _ _)) (Plant.handEach_units _ _ _ _)
  exact (foldl_units _ (fun q n => q.handEach_units _ _ _) _ _).trans
    (foldl_units _ (fun q n => q.handEach_units _ _ _) _ _)

theorem Plant.handRakes_units (p : Plant) (views : List Plant) : p.SameUnits (p.handRakes views) := by
  unfold Plant.handRakes
  dsimp only
  exact ((foldl_units _ (fun q n => q.handEach_units _ _ _) _ _).trans
    (foldl_units _ (fun q n => q.handEach_units _ _ _) _ _)).trans (foldl_units _ (fun q n => q.handEach_units _ _ _) _ _)

theorem Plant.handLevels_units (p : Plant) : p.SameUnits p.handLevels :=
  (foldl_units _ (fun q _ => q.hand_units _ _) _ _).trans (Plant.hand_units _ _ _)

theorem Plant.handSettings_units (p : Plant) : p.SameUnits p.handSettings :=
  (Plant.hand_units _ _ _).trans (Plant.hand_units _ _ _)

theorem Plant.handAll_units (p : Plant) : p.SameUnits p.handAll := foldl_units _ (fun q _ => q.hand_units _ _) _ _

/-- A property of a plant that looks at its inputs, its orders and its units alone, and that every round of the load
budget keeps, holds after an event is concluded. -/
theorem Plant.concludeAfter_induct (I : Plant → Prop)
    (units : ∀ p q : Plant, p.Kept q → p.SameUnits q → I p → I q)
    (step : ∀ p q : Plant, I p → p.serveOnce = some q → I q) (p : Plant) (views : List Plant) (h : I p) :
    I (p.concludeAfter views) := by
  unfold Plant.concludeAfter
  dsimp only
  split
  · exact h
  · refine units _ _ (Plant.handRakes_kept _ _) (Plant.handRakes_units _ _) ?_
    refine units _ _ (Plant.handPumps_kept _ _) (Plant.handPumps_units _ _) ?_
    exact Plant.serve_induct I step _ _ h

theorem Plant.conclude_induct (I : Plant → Prop)
    (units : ∀ p q : Plant, p.Kept q → p.SameUnits q → I p → I q)
    (step : ∀ p q : Plant, I p → p.serveOnce = some q → I q) (p : Plant) (h : I p) : I p.conclude :=
  Plant.concludeAfter_induct I units step p [] h

/-! Claims. -/

@[simp] theorem Plant.claim_setClaim_same (p : Plant) (h : Fin 8) (c : Claim) : (p.setClaim h c).claim h = c := by
  show (vset p.claims h c).get h = c
  rw [vset_get_same]

theorem Plant.claim_setClaim_ne (p : Plant) {h k : Fin 8} (hk : h ≠ k) (c : Claim) :
    (p.setClaim h c).claim k = p.claim k := by
  show (vset p.claims h c).get k = _
  rw [vset_get_ne _ _ hk]
  rfl

theorem Plant.claim_setClaim (p : Plant) (h k : Fin 8) (c : Claim) :
    (p.setClaim h c).claim k = if h = k then c else p.claim k := by
  split
  · rename_i e; subst e; simp
  · rename_i e; exact p.claim_setClaim_ne e c

theorem pumpHolder_inj {n m : Fin 6} (h : pumpHolder n = pumpHolder m) : n = m := by
  have := congrArg Fin.val h
  simp only [pumpHolder] at this
  exact Fin.ext this

theorem rakeHolder_inj {n m : Fin 2} (h : rakeHolder n = rakeHolder m) : n = m := by
  have := congrArg Fin.val h
  simp only [rakeHolder] at this
  exact Fin.ext (by omega)

theorem pumpHolder_ne_rakeHolder (n : Fin 6) (m : Fin 2) : pumpHolder n ≠ rakeHolder m := by
  intro h
  have := congrArg Fin.val h
  simp only [pumpHolder, rakeHolder] at this
  omega

/-! Rakes leave the pumps alone, and pumps the rakes. -/

/-- The pumps, the queue, the stagger and the pump claims are the same. -/
def Plant.SamePumps (p q : Plant) : Prop :=
  q.pumps = p.pumps ∧ q.queue = p.queue ∧ q.stagger = p.stagger ∧
    ∀ n : Fin 6, q.claim (pumpHolder n) = p.claim (pumpHolder n)

theorem Plant.SamePumps.refl (p : Plant) : p.SamePumps p := ⟨rfl, rfl, rfl, fun _ => rfl⟩

theorem Plant.SamePumps.trans {p q r : Plant} (h : p.SamePumps q) (k : q.SamePumps r) : p.SamePumps r :=
  ⟨k.1.trans h.1, k.2.1.trans h.2.1, k.2.2.1.trans h.2.2.1, fun n => (k.2.2.2 n).trans (h.2.2.2 n)⟩

theorem Plant.SamePumps.pump {p q : Plant} (h : p.SamePumps q) (n : Fin 6) : q.pump n = p.pump n := by
  unfold Plant.pump; rw [h.1]

theorem Plant.SameUnits.samePumps {p q : Plant} (h : p.SameUnits q) : p.SamePumps q :=
  ⟨h.1, h.2.2.2.1, h.2.2.2.2, fun _ => h.claim _⟩

theorem Plant.setRake_samePumps (p : Plant) (n : Fin 2) (r : Rake) : p.SamePumps (p.setRake n r) :=
  ⟨rfl, rfl, rfl, fun _ => rfl⟩

theorem Plant.append_units (p : Plant) (a b : Byte) (d : List Byte) (u : Bool) : p.SameUnits (p.append a b d u) :=
  ⟨rfl, rfl, rfl, rfl, rfl⟩

theorem Plant.setRakeClaim_samePumps (p : Plant) (n : Fin 2) (c : Claim) : p.SamePumps (p.setClaim (rakeHolder n) c) :=
  ⟨rfl, rfl, rfl, fun m => p.claim_setClaim_ne (pumpHolder_ne_rakeHolder m n).symm c⟩

theorem Plant.reverseRake_samePumps (p : Plant) (n : Fin 2) : p.SamePumps (p.reverseRake n) :=
  (p.setRake_samePumps n _).trans (Plant.append_units _ _ _ _ _).samePumps

theorem Plant.checkOverload_samePumps (p : Plant) (n : Fin 2) : p.SamePumps (p.checkOverload n) := by
  unfold Plant.checkOverload
  split
  · exact p.reverseRake_samePumps n
  · exact .refl p

theorem Plant.startRake_samePumps (p : Plant) (n : Fin 2) : p.SamePumps (p.startRake n) :=
  ((p.setRake_samePumps n _).trans (Plant.append_units _ _ _ _ _).samePumps).trans (Plant.checkOverload_samePumps _ _)

theorem Plant.endCycle_samePumps (p : Plant) (n : Fin 2) : p.SamePumps (p.endCycle n) :=
  ((p.append_units _ _ _ _).samePumps.trans (Plant.setRakeClaim_samePumps _ n _)).trans (Plant.setRake_samePumps _ _ _)

theorem Plant.backInRaking_samePumps (p : Plant) (n : Fin 2) : p.SamePumps (p.backInRaking n) := by
  unfold Plant.backInRaking
  split
  · exact p.endCycle_samePumps n
  · exact p.checkOverload_samePumps n

theorem Plant.resumeRake_samePumps (p : Plant) (n : Fin 2) : p.SamePumps (p.resumeRake n) := by
  unfold Plant.resumeRake
  dsimp only
  split
  · exact (p.setRake_samePumps n _).trans (Plant.append_units _ _ _ _ _).samePumps
  · exact ((p.setRake_samePumps n _).trans (Plant.append_units _ _ _ _ _).samePumps).trans
      (Plant.backInRaking_samePumps _ _)

theorem Plant.grantRake_samePumps (p : Plant) (n : Fin 2) : p.SamePumps (p.grantRake n) := by
  unfold Plant.grantRake
  dsimp only
  split
  · exact (p.setRakeClaim_samePumps _ _).trans (Plant.startRake_samePumps _ _)
  · exact (p.setRakeClaim_samePumps _ _).trans (Plant.resumeRake_samePumps _ _)
  all_goals exact .refl p

theorem Plant.triggerRake_samePumps (p : Plant) (n : Fin 2) (t : Trigger) : p.SamePumps (p.triggerRake n t) :=
  (p.setRake_samePumps n _).trans (Plant.setRakeClaim_samePumps _ _ _)

theorem Plant.suspendRake_samePumps (p : Plant) (n : Fin 2) : p.SamePumps (p.suspendRake n) :=
  ((p.setRake_samePumps n _).trans (Plant.setRakeClaim_samePumps _ _ _)).trans (Plant.append_units _ _ _ _ _).samePumps

theorem Plant.suspendRakes_samePumps (p : Plant) : p.SamePumps p.suspendRakes :=
  foldl_rel Plant.SamePumps Plant.SamePumps.refl (fun _ _ _ h k => h.trans k) _ (fun q n => q.suspendRake_samePumps n) _ _

/-! A pump after an event is concluded. -/

theorem Plant.pump_setClaim (p : Plant) (h : Fin 8) (c : Claim) (n : Fin 6) : (p.setClaim h c).pump n = p.pump n := rfl

theorem Plant.pump_append (p : Plant) (a b : Byte) (d : List Byte) (u : Bool) (n : Fin 6) :
    (p.append a b d u).pump n = p.pump n := rfl

/-- R39, R40: the pump started is in STARTING or RUNNING, and no other pump has changed. -/
theorem Plant.pump_startPump (p : Plant) (n m : Fin 6) :
    (n = m → ((p.startPump n).pump m).state.inMotion = true) ∧ (n ≠ m → (p.startPump n).pump m = p.pump m) := by
  unfold Plant.startPump Plant.enterRunning
  dsimp only
  constructor
  · rintro rfl
    split
    · rw [Plant.pump_append, Plant.pump_setPump_same]; rfl
    · rw [Plant.pump_append, Plant.pump_setPump_same]; rfl
  · intro h
    split
    · rw [Plant.pump_append, Plant.pump_setPump_ne _ h, Plant.pump_append, Plant.pump_setPump_ne _ h]
      rfl
    · rw [Plant.pump_append, Plant.pump_setPump_ne _ h]
      rfl

@[simp] theorem Plant.startPump_queue (p : Plant) (n : Fin 6) :
    (p.startPump n).queue = p.queue.filter (fun m => m != n) := by
  unfold Plant.startPump Plant.enterRunning
  dsimp only
  split <;> simp

@[simp] theorem Plant.startPump_claims (p : Plant) (n : Fin 6) :
    (p.startPump n).claims = vset p.claims (pumpHolder n) { p.claim (pumpHolder n) with status := .held } := by
  unfold Plant.startPump Plant.enterRunning
  dsimp only
  split <;> simp

@[simp] theorem Plant.startPump_rakes (p : Plant) (n : Fin 6) : (p.startPump n).rakes = p.rakes := by
  unfold Plant.startPump Plant.enterRunning
  dsimp only
  split <;> simp

theorem Plant.claim_startPump (p : Plant) (n : Fin 6) (h : Fin 8) :
    (p.startPump n).claim h =
      if pumpHolder n = h then { p.claim (pumpHolder n) with status := .held } else p.claim h := by
  unfold Plant.claim
  rw [Plant.startPump_claims, vset_get]
  rfl

theorem Plant.waitingPump_status {p : Plant} {n : Fin 6} (h : p.waitingPump = some n) :
    (p.claim (pumpHolder n)).status = .waiting := by
  have := List.find?_some h
  simpa using this

theorem Plant.claimToEnter_mem {p : Plant} {n : Fin 6} (h : p.claimToEnter = some n) : n ∈ p.queue := by
  unfold Plant.claimToEnter at h
  split at h
  · exact List.mem_of_mem_head? h
  · cases h

/-- A pump that stands neither in the queue nor with a waiting claim is left as it is. -/
theorem Plant.conclude_pump_kept (p : Plant) (n : Fin 6) (hq : n ∉ p.queue)
    (hc : (p.claim (pumpHolder n)).status ≠ .waiting) :
    p.conclude.pump n = p.pump n ∧ n ∉ p.conclude.queue ∧
      p.conclude.claim (pumpHolder n) = p.claim (pumpHolder n) := by
  refine Plant.conclude_induct
    (fun q => q.pump n = p.pump n ∧ n ∉ q.queue ∧ q.claim (pumpHolder n) = p.claim (pumpHolder n)) ?_ ?_ p
    ⟨rfl, hq, rfl⟩
  · intro q r _ hu ⟨h1, h2, h3⟩
    exact ⟨(hu.pump n).trans h1, by rw [hu.2.2.2.1]; exact h2, (hu.claim _).trans h3⟩
  · intro q r ⟨h1, h2, h3⟩ hr
    rcases Plant.serveOnce_cases hr with ⟨m, hm, _, rfl⟩ | ⟨m, _, rfl⟩ | ⟨m, _, hm, rfl⟩ | ⟨m, _, _, rfl⟩ | ⟨m, _, rfl⟩
    · have hne : m ≠ n := by
        rintro rfl
        exact hc (by rw [← h3]; exact Plant.waitingPump_status hm)
      refine ⟨((q.pump_startPump m n).2 hne).trans h1, ?_, ?_⟩
      · rw [Plant.startPump_queue]
        exact fun hx => h2 (List.mem_of_mem_filter hx)
      · rw [Plant.claim_startPump, if_neg (fun e => hne (pumpHolder_inj e))]
        exact h3
    · have k := q.suspendRakes_samePumps
      exact ⟨(k.pump n).trans h1, by rw [k.2.1]; exact h2, (k.2.2.2 n).trans h3⟩
    · have hne : m ≠ n := by
        rintro rfl
        exact h2 (Plant.claimToEnter_mem hm)
      exact ⟨h1, h2, (q.claim_setClaim_ne (fun e => hne (pumpHolder_inj e)) _).trans h3⟩
    · have k := q.grantRake_samePumps m
      exact ⟨(k.pump n).trans h1, by rw [k.2.1]; exact h2, (k.2.2.2 n).trans h3⟩
    · have k := q.triggerRake_samePumps m .storm
      exact ⟨(k.pump n).trans h1, by rw [k.2.1]; exact h2, (k.2.2.2 n).trans h3⟩

/-- R39: the end of an event leaves a pump as it is or starts it. -/
theorem Plant.conclude_pump (p : Plant) (n : Fin 6) :
    p.conclude.pump n = p.pump n ∨ (p.conclude.pump n).state.inMotion = true := by
  refine Plant.conclude_induct (fun q => q.pump n = p.pump n ∨ (q.pump n).state.inMotion = true) ?_ ?_ p (Or.inl rfl)
  · intro q r _ hu h
    rw [hu.pump n]; exact h
  · intro q r h hr
    rcases Plant.serveOnce_cases hr with ⟨m, hm, _, rfl⟩ | ⟨m, _, rfl⟩ | ⟨m, _, hm, rfl⟩ | ⟨m, _, _, rfl⟩ | ⟨m, _, rfl⟩
    · by_cases e : m = n
      · exact Or.inr ((q.pump_startPump m n).1 e)
      · rw [(q.pump_startPump m n).2 e]; exact h
    · rw [q.suspendRakes_samePumps.pump n]; exact h
    · exact h
    · rw [(q.grantRake_samePumps m).pump n]; exact h
    · rw [(q.triggerRake_samePumps m .storm).pump n]; exact h

/-- With nobody queued and no pump claim waiting the end of an event leaves every pump as it is. -/
theorem Plant.conclude_pumps_kept (p : Plant) (hq : p.queue = [])
    (hc : ∀ n : Fin 6, (p.claim (pumpHolder n)).status ≠ .waiting) : p.SamePumps p.conclude := by
  have hw : ∀ q : Plant, p.SamePumps q → q.waitingPump = none := by
    intro q h
    apply List.find?_eq_none.mpr
    intro n _
    rw [h.2.2.2 n]
    simpa using hc n
  refine Plant.conclude_induct (fun q => p.SamePumps q) ?_ ?_ p (.refl p)
  · intro q r _ hu h
    exact h.trans hu.samePumps
  · intro q r h hr
    rcases Plant.serveOnce_cases hr with ⟨m, hm, _, rfl⟩ | ⟨m, hm, rfl⟩ | ⟨m, _, hm, rfl⟩ | ⟨m, _, _, rfl⟩ | ⟨m, _, rfl⟩
    · rw [hw q h] at hm; cases hm
    · exact h.trans q.suspendRakes_samePumps
    · have := Plant.claimToEnter_mem hm
      rw [h.2.1, hq] at this
      cases this
    · exact h.trans (q.grantRake_samePumps m)
    · exact h.trans (q.triggerRake_samePumps m .storm)

end Sys2Proof.Machine
end

