-- ==== Sys2Proof/Laws/Levels.lean ====
section
/-! SUPPORT. The channel select of a scan (R6), and what storm posture and its conditions become (R32). -/

namespace Sys2Proof.Machine

/-! The channel select. -/

theorem LevelUnit.selectSent_none {l : LevelUnit} (h : l.scan = none) : l.selectSent = none := by
  rw [LevelUnit.selectSent, h]; rfl

theorem LevelUnit.selectSent_some {l : LevelUnit} {x : Scan} (h : l.scan = some x) : l.selectSent = some x.select := by
  rw [LevelUnit.selectSent, h]; rfl

/-- While a channel is left to ask for, the select word is the channel's number. -/
theorem Scan.select_eq {x : Scan} (h : x.codes.length < 8) : x.select = BitVec.ofNat 16 x.codes.length := by
  simp [Scan.select, Scan.channel, packWord, Nat.mod_eq_of_lt h]

/-! Storm posture. -/

theorem Plant.RunsOnly.mode {p q : Plant} (h : p.RunsOnly q) : q.mode = p.mode := h.1.mode

/-- R32: posture is active while one of its conditions holds; nothing else of the mode unit moves. -/
theorem Plant.stormRecompute_mode (p : Plant) : p.stormRecompute.mode =
    { p.mode with storm := p.mode.wetWell || p.mode.overflow || p.mode.floatHigh } := by
  unfold Plant.stormRecompute
  dsimp only
  split
  · rename_i h
    rw [h]
  · rw [(foldl_kept _ (fun q n => q.standingTrigger_kept n) _ _).1.1.mode, (Plant.limitsChanged_acts _).inputs.mode]
    rfl

theorem Plant.stormRecompute_weirs (p : Plant) : p.stormRecompute.weirs = p.weirs := by
  unfold Plant.stormRecompute
  dsimp only
  split
  · rfl
  · rw [(foldl_kept _ (fun q n => q.standingTrigger_kept n) _ _).1.1.weirs, (Plant.limitsChanged_acts _).inputs.weirs]
    rfl

/-- What an operation that leaves the mode unit and the weirs alone keeps. -/
theorem Plant.PostureLaw.of_inputs {p q : Plant} (h : p.PostureLaw) (k : p.SameInputs q) : q.PostureLaw := by
  refine ⟨by rw [k.mode]; exact h.storm, ?_⟩
  rw [k.mode, h.overflow, Plant.anyRecordOpen, Plant.anyRecordOpen, k.weirs]

/-- R32: with the overflow condition as the open records give it, a recomputation makes posture lawful. -/
theorem Plant.stormRecompute_posture {p : Plant} (h : p.mode.overflow = p.anyRecordOpen) : p.stormRecompute.PostureLaw :=
  ⟨by rw [Plant.stormRecompute_mode],
    by rw [Plant.stormRecompute_mode]; unfold Plant.anyRecordOpen at *; rw [Plant.stormRecompute_weirs]; exact h⟩

/-- The overflow condition handed to the mode unit makes posture what its law says, whatever it was. -/
theorem Plant.evaluateOverflow_posture (p : Plant) : p.evaluateOverflow.PostureLaw := Plant.stormRecompute_posture rfl

/-- With a lawful posture, a recomputation moves nothing. -/
theorem Plant.stormRecompute_of_posture {p : Plant} (h : p.mode.storm = (p.mode.wetWell || p.mode.overflow || p.mode.floatHigh)) :
    p.stormRecompute = p := by
  unfold Plant.stormRecompute
  exact if_pos h.symm

theorem Plant.evaluateWetWell_posture {p : Plant} (h : p.PostureLaw) : p.evaluateWetWell.PostureLaw := by
  unfold Plant.evaluateWetWell
  dsimp only
  split
  · exact h
  · exact (Plant.stormRecompute_posture (p := { p with mode := { p.mode with wetWell := p.wetWellNow } })
      h.overflow).of_inputs (Plant.hand_kept _ _ _).1.1

theorem Plant.evaluateFloatHigh_posture {p : Plant} (h : p.PostureLaw) : p.evaluateFloatHigh.PostureLaw :=
  Plant.stormRecompute_posture (p := { p with mode := { p.mode with floatHigh := p.floatHighActive } }) h.overflow

end Sys2Proof.Machine
end

