-- ==== Sys2Proof/Laws/Steps.lean ====
section
/-! SUPPORT. The end of a command, and the step of an access that is granted. -/

namespace Sys2Proof.Machine

/-! The end of a command. -/

/-- A step's entries mark pages, and nothing else moves. -/
theorem markEntries_deposits (t : State) :
    (markEntries t).deposits.gen = t.deposits.gen ∧ (markEntries t).deposits.scanPos = t.deposits.scanPos ∧
      ∀ i, t.deposits.dirty.get i = true → (markEntries t).deposits.dirty.get i = true := by
  unfold markEntries
  split
  · exact ⟨rfl, rfl, fun _ h => h⟩
  · refine ⟨rfl, rfl, fun i h => ?_⟩
    show (Vector.ofFn _)[i.val] = true
    rw [Vector.getElem_ofFn]
    show (t.deposits.dirty.get i || _ || _) = true
    rw [h, Bool.true_or, Bool.true_or]

/-- R96 to R98, R106: the pages that a step's entries name are marked. -/
theorem markEntries_marks (t : State) (hl : t.plant.loading = false) {d : Draft} (hd : d ∈ t.plant.out) {i : Fin 16}
    (hi : i ∈ d.pages) : (markEntries t).deposits.dirty.get i = true := by
  unfold markEntries
  rw [hl]
  show (Vector.ofFn _)[i.val] = true
  rw [Vector.getElem_ofFn, Bool.or_eq_true, Bool.or_eq_true]
  exact Or.inl (Or.inr (List.any_eq_true.mpr ⟨d, hd, by simpa using hi⟩))

/-- R4, R33, R62: the pages that the step has marked itself are marked at its end. -/
theorem markEntries_own (t : State) (hl : t.plant.loading = false) {i : Fin 16} (hi : i ∈ t.plant.marks) :
    (markEntries t).deposits.dirty.get i = true := by
  unfold markEntries
  rw [hl]
  show (Vector.ofFn _)[i.val] = true
  rw [Vector.getElem_ofFn, Bool.or_eq_true]
  exact Or.inr (by simpa using hi)

/-- The pages that show a change are marked, and nothing else moves. -/
theorem markChanged_deposits (s t : State) :
    (markChanged s t).deposits.gen = t.deposits.gen ∧ (markChanged s t).deposits.scanPos = t.deposits.scanPos ∧
      ∀ i, t.deposits.dirty.get i = true → (markChanged s t).deposits.dirty.get i = true := by
  unfold markChanged
  split
  · exact ⟨rfl, rfl, fun _ h => h⟩
  · refine ⟨rfl, rfl, fun i h => ?_⟩
    show (Vector.ofFn _)[i.val] = true
    rw [Vector.getElem_ofFn]
    show (t.deposits.dirty.get i || _) = true
    rw [h, Bool.true_or]

/-- A page once marked in the step stays marked at its end. -/
theorem finish_dirty (s t : State) {i : Fin 16} (h : (markEntries t).deposits.dirty.get i = true) :
    (finish s t).deposits.dirty.get i = true := (markChanged_deposits s (takeMarks s (flush (markEntries t)))).2.2 i h

theorem finish_pages (s t : State) (hg : t.deposits.gen = s.deposits.gen) (hs : t.deposits.scanPos = s.deposits.scanPos)
    (hk : ∀ i, s.deposits.dirty.get i = true → t.deposits.dirty.get i = true) : s.Pages (finish s t) := by
  obtain ⟨e1, e2, e3⟩ := markEntries_deposits t
  obtain ⟨c1, c2, _⟩ := markChanged_deposits s (takeMarks s (flush (markEntries t)))
  refine ⟨c1.trans (e1.trans hg), c2.trans (e2.trans hs), fun i h => finish_dirty s t (e3 i (hk i h)), ?_⟩
  intro hl i hc
  have hl2 : (takeMarks s (flush (markEntries t))).plant.loading = false := by
    rw [finish_plant] at hl
    show (markEntries t).plant.loading = false
    rw [markEntries_plant]
    exact hl
  have hf : finish s t = markChanged s (takeMarks s (flush (markEntries t))) := rfl
  rw [hf] at hc ⊢
  unfold markChanged at hc ⊢
  rw [hl2] at hc ⊢
  show (Vector.ofFn _)[i.val] = true
  rw [Vector.getElem_ofFn]
  have : pageChanged s (takeMarks s (flush (markEntries t))) i = true := hc
  show (_ || pageChanged s (takeMarks s (flush (markEntries t))) i) = true
  rw [this, Bool.or_true]

theorem finish_pages_same (s t : State) (h : t.deposits = s.deposits) : s.Pages (finish s t) :=
  finish_pages s t (by rw [h]) (by rw [h]) (fun i hi => by rw [h]; exact hi)

theorem finish_rest (s t : State) :
    finish s t = { t with plant := (finish s t).plant, log := (finish s t).log, deposits := (finish s t).deposits } := by
  unfold finish markChanged markEntries
  split <;> split <;> rfl

theorem finish_out (s t : State) : (finish s t).plant.out = [] := by simp

theorem finish_logged (s t : State) (ds : List Draft) (hl : t.log = s.log) (ho : ∃ more, t.plant.out = ds ++ more) :
    s.Logged (finish s t) ds := by
  obtain ⟨more, hm⟩ := ho
  refine ⟨more, ?_⟩
  rw [finish_log, hm, hl, finish_plant]

/-- A plant event that is due takes a plant step. -/
theorem plantEvent_step (s : State) (act : Plant → Plant) (ds : List Draft)
    (ho : ∃ more, ((act s.plant).conclude).out = ds ++ more) :
    s.PlantStep (s.plantEvent true act) ds := by
  refine ⟨?_, finish_pages_same _ _ rfl, finish_logged _ _ _ rfl ho, by simp [State.plantEvent]⟩
  exact finish_rest _ _

theorem plantEvent_plant (s : State) (act : Plant → Plant) :
    (s.plantEvent true act).plant = { (act s.plant).conclude with out := [], marks := s.plant.marks } := by
  simp [State.plantEvent]

/-! Accesses. -/

theorem State.Takes.granting {s : State} {a : Access} (h : s.Takes a) :
    (s.present a).granting (normalAccess a) = true := by
  obtain ⟨hr, hf, hp, ht⟩ := h
  have hpres : (s.present a).port = .waiting (normalAccess a) ∧ (s.present a).load = .none ∧
      (s.present a).holder = .free ∧ (s.present a).lastWinner = s.lastWinner ∧
      (s.present a).memberChosen = s.memberChosen := by
    unfold State.present
    rcases hp with ⟨hi, hu⟩ | ⟨hw, _⟩
    · rw [if_neg (by rw [hu]; exact Bool.false_ne_true), if_pos hi]
      exact ⟨rfl, hr, hf, rfl, rfl⟩
    · split
      · exact ⟨hw, hr, hf, rfl, rfl⟩
      · rw [if_neg (by rw [hw]; simp)]
        exact ⟨hw, hr, hf, rfl, rfl⟩
  obtain ⟨h1, h2, h3, h4, h5⟩ := hpres
  have hu : (s.present a).upstreamAsks = true := by
    unfold State.upstreamAsks State.running
    rw [h1, h2]
    rfl
  unfold State.granting State.grantsUpstream State.sideChosen
  rw [h1, h3, hu, h5, h4]
  rcases ht with hm | hw
  · rw [hm]
    simp
  · rw [hw]
    cases s.memberChosen.isSome <;> simp

theorem accessStep_takes {s : State} {a : Access} (h : s.Takes a) (judge : State → State × Verdict) :
    s.accessStep a judge =
      finish s ((judge (s.present a)).1.judged (normalAccess a) (judge (s.present a)).2) := by
  unfold State.accessStep
  rw [if_pos h.granting]

theorem State.Takes.present {s : State} {a : Access} (h : s.Takes a) :
    s.present a = { s with port := .waiting (normalAccess a), prdy := false } := by
  obtain ⟨_, _, hp, _⟩ := h
  unfold State.present
  rcases hp with ⟨hi, hu⟩ | ⟨hw, hp⟩
  · rw [if_neg (by rw [hu]; exact Bool.false_ne_true), if_pos hi]
  · split
    · rw [← hw]
    · rw [if_neg (by rw [hw]; simp)]
      rw [← hw, ← hp]

/-- R124: an access that arrives while UPRST is asserted is ignored, and PRDY is not given for it. -/
theorem State.present_ignored {s : State} (h : s.uprst = true) (a : Access) : s.present a = { s with prdy := false } := by
  unfold State.present
  exact if_pos h

/-- R124: so is one that an owner's command carries: it is neither judged nor recorded. -/
theorem accessStep_ignored {s : State} (h : s.uprst = true) (hp : s.port = .idle) (a : Access)
    (judge : State → State × Verdict) : s.accessStep a judge = { s with prdy := false } := by
  have hg : ({ s with prdy := false } : State).granting (normalAccess a) = false := by
    simp [State.granting, hp]
  unfold State.accessStep
  rw [s.present_ignored h a]
  dsimp only
  rw [if_neg (by rw [hg]; exact Bool.false_ne_true)]

theorem laneData_laneData (l : Lanes) (d : Word) : laneData l (laneData l d) = laneData l d := by
  cases l
  · rfl
  · show d &&& 0x00FF &&& 0x00FF = d &&& 0x00FF
    rw [BitVec.and_assoc]; rfl
  · show d &&& 0xFF00 &&& 0xFF00 = d &&& 0xFF00
    rw [BitVec.and_assoc]; rfl

theorem accessAddress_normal (a : Access) : accessAddress (normalAccess a) = accessAddress a := rfl

theorem laneData_normal (a : Access) (hw : a.write = true) :
    laneData (normalAccess a).lanes (normalAccess a).data = laneData a.lanes a.data := by
  show laneData a.lanes (if a.write then laneData a.lanes a.data else 0) = _
  rw [if_pos hw, laneData_laneData]

/-! What the recording of an outcome does. -/

theorem recordRefusal_plant (s : State) (a : Access) (c : RefusalCause) :
    (s.recordRefusal a c).plant =
      if coalesced s.plant s.refusals (accessAddress a) c then s.plant
      else { s.plant with out := s.plant.out ++ [s.refusalEntry a c] } := by
  unfold State.recordRefusal
  dsimp only
  rw [markPage_plant]
  split <;> rfl

theorem recordRefusal_rest (s : State) (a : Access) (c : RefusalCause) :
    s.recordRefusal a c = { s with
      refusals := (s.recordRefusal a c).refusals, deposits := (s.recordRefusal a c).deposits
      plant := (s.recordRefusal a c).plant } := by
  unfold State.recordRefusal markPage
  dsimp only
  split <;> split <;> rfl

theorem recordRefusal_records (s : State) (a : Access) (c : RefusalCause) : s.Records (s.recordRefusal a c) a c := by
  unfold State.recordRefusal
  dsimp only
  refine ⟨?_, ?_, ?_, ?_⟩
  · rw [markPage_refusals]; split <;> rfl
  · rw [markPage_refusals]; split <;> rfl
  · intro h
    rw [markPage_refusals, if_pos h]
    exact ⟨rfl, rfl⟩
  · intro h
    rw [markPage_refusals, if_neg (by rw [h]; exact Bool.false_ne_true)]
    exact ⟨rfl, rfl⟩

theorem markPage_deposits (s : State) (i : Fin 16) :
    (markPage s i).deposits.gen = s.deposits.gen ∧ (markPage s i).deposits.scanPos = s.deposits.scanPos ∧
      ∀ j, s.deposits.dirty.get j = true → (markPage s i).deposits.dirty.get j = true := by
  unfold markPage
  split
  · exact ⟨rfl, rfl, fun _ h => h⟩
  · refine ⟨rfl, rfl, fun j h => ?_⟩
    show (vset s.deposits.dirty i true).get j = true
    rw [vset_get]
    split
    · rfl
    · exact h

theorem recordRefusal_deposits (s : State) (a : Access) (c : RefusalCause) :
    (s.recordRefusal a c).deposits.gen = s.deposits.gen ∧ (s.recordRefusal a c).deposits.scanPos = s.deposits.scanPos ∧
      ∀ j, s.deposits.dirty.get j = true → (s.recordRefusal a c).deposits.dirty.get j = true := by
  unfold State.recordRefusal
  dsimp only
  split <;> exact markPage_deposits _ _

theorem coalesced_congr {p q : Plant} (h : q.clock = p.clock) (r : RefusalRecord) (a : Nat) (c : RefusalCause) :
    coalesced q r a c = coalesced p r a c := by
  unfold coalesced Plant.since
  rw [h]

/-- What a judgment may have done before its outcome takes the port: `u` is `s` with the access in hand and what the
judgment did to the plant, the log, the settings unit, the link line and the page marks. -/
structure Judging (s u : State) (a : Access) : Prop where
  rest  : u = { s with
    port := .waiting (normalAccess a), prdy := false
    plant := u.plant, log := u.log, settings := u.settings, link := u.link, deposits := u.deposits }
  gen   : u.deposits.gen = s.deposits.gen
  scan  : u.deposits.scanPos = s.deposits.scanPos
  kept  : ∀ i, s.deposits.dirty.get i = true → u.deposits.dirty.get i = true

theorem Judging.start {s : State} {a : Access} (h : s.Takes a) : Judging s (s.present a) a := by
  rw [h.present]
  exact ⟨rfl, rfl, rfl, fun _ h => h⟩

theorem Judging.withPlant {s u : State} {a : Access} (h : Judging s u a) (p : Plant) : Judging s (u.withPlant p) a := by
  refine ⟨?_, h.2, h.3, h.4⟩
  have := h.1
  unfold State.withPlant
  rw [this]

theorem Judging.onPlant {s u : State} {a : Access} (h : Judging s u a) (f : Plant → Plant) :
    Judging s (u.onPlant f) a := h.withPlant _

/-- The state of an outcome before the end of the command. -/
theorem judged_facts {s u : State} {a : Access} (v : Verdict) (h : Judging s u a) (hf : s.holder = .free)
    (hw : v.refusal ≠ none → a.write = true) (hc : u.plant.clock = s.plant.clock) :
    (u.judged (normalAccess a) v).plant = { u.plant with out := u.plant.out ++ s.outcomeEntries a v } ∧
    (u.judged (normalAccess a) v).Granted a v ∧ s.RefusalKept (u.judged (normalAccess a) v) a v ∧
    u.judged (normalAccess a) v = { s with
      port := (u.judged (normalAccess a) v).port, prdy := (u.judged (normalAccess a) v).prdy
      verdict := (u.judged (normalAccess a) v).verdict, holder := (u.judged (normalAccess a) v).holder
      lastWinner := (u.judged (normalAccess a) v).lastWinner, refusals := (u.judged (normalAccess a) v).refusals
      deposits := (u.judged (normalAccess a) v).deposits, plant := (u.judged (normalAccess a) v).plant
      log := u.log, settings := u.settings, link := u.link } ∧
    ((u.judged (normalAccess a) v).deposits.gen = s.deposits.gen ∧
      (u.judged (normalAccess a) v).deposits.scanPos = s.deposits.scanPos ∧
      ∀ i, s.deposits.dirty.get i = true → (u.judged (normalAccess a) v).deposits.dirty.get i = true) := by
  obtain ⟨hr, hg, hs, hk⟩ := h
  have hh : u.holder = .free := by rw [hr]; exact hf
  have href : u.refusals = s.refusals := by rw [hr]
  have plain : { u.plant with out := u.plant.out ++ ([] : List Draft) } = u.plant := by rw [List.append_nil]
  have refused : ∀ (t : State) (c : RefusalCause), a.write = true → t.plant = u.plant → t.refusals = u.refusals →
      t.deposits = u.deposits →
      (t.recordRefusal (normalAccess a) c).plant = { u.plant with out := u.plant.out ++
          (if coalesced s.plant s.refusals (accessAddress a) c then [] else [s.refusalEntry a c]) } ∧
      s.Records (t.recordRefusal (normalAccess a) c) a c ∧
      ((t.recordRefusal (normalAccess a) c).deposits.gen = s.deposits.gen ∧
        (t.recordRefusal (normalAccess a) c).deposits.scanPos = s.deposits.scanPos ∧
        ∀ i, s.deposits.dirty.get i = true → (t.recordRefusal (normalAccess a) c).deposits.dirty.get i = true) := by
    intro t c hwr hp hrf hd
    have hco : coalesced t.plant t.refusals (accessAddress (normalAccess a)) c =
        coalesced s.plant s.refusals (accessAddress a) c := by
      rw [hrf, href, accessAddress_normal, hp]
      exact coalesced_congr hc _ _ _
    have hent : t.refusalEntry (normalAccess a) c = s.refusalEntry a c := by
      unfold State.refusalEntry
      rw [laneData_normal a hwr, hrf, href]
      rfl
    refine ⟨?_, ?_, ?_⟩
    · rw [recordRefusal_plant, hco, hent, hp]
      split
      · rw [List.append_nil]
      · rfl
    · have k := recordRefusal_records t (normalAccess a) c
      refine ⟨?_, ?_, ?_, ?_⟩
      · rw [k.count, hrf, href]
      · rw [k.last, laneData_normal a hwr, hp, hc]; rfl
      · intro hx
        obtain ⟨k1, k2⟩ := k.again (hco.trans hx)
        rw [k1, k2, hrf, href]
        exact ⟨rfl, rfl⟩
      · intro hx
        obtain ⟨k1, k2⟩ := k.afresh (hco.trans hx)
        rw [k1, k2, hp, hc]
        exact ⟨rfl, rfl⟩
    · obtain ⟨k1, k2, k3⟩ := recordRefusal_deposits t (normalAccess a) c
      rw [k1, k2, hd]
      exact ⟨hg, hs, fun i hi => k3 i (by rw [hd]; exact hk i hi)⟩
  have wr : v.refusal ≠ none → a.write = true := hw
  unfold State.judged
  cases v with
  | forward =>
    refine ⟨?_, ⟨rfl, rfl, rfl, rfl, ?_⟩, href, ?_, hg, hs, hk⟩
    · exact plain.symm
    · show u.prdy = _; rw [hr]; rfl
    · rw [hr]
  | rewrite d =>
    refine ⟨?_, ⟨rfl, rfl, rfl, rfl, ?_⟩, href, ?_, hg, hs, hk⟩
    · exact plain.symm
    · show u.prdy = _; rw [hr]; rfl
    · rw [hr]
  | translate x =>
    refine ⟨?_, ⟨rfl, rfl, rfl, rfl, ?_⟩, href, ?_, hg, hs, hk⟩
    · exact plain.symm
    · show u.prdy = _; rw [hr]; rfl
    · rw [hr]
  | absorb =>
    refine ⟨?_, ⟨rfl, rfl, rfl, ?_, rfl⟩, href, ?_, hg, hs, hk⟩
    · exact plain.symm
    · exact hh
    · rw [hr]
  | trim d c =>
    obtain ⟨k1, k2, k3⟩ := refused
      { u with
        lastWinner := .upstream, verdict := some (Verdict.trim d c),
        port := .granted (normalAccess a) (Verdict.trim d c), holder := .upstream } c (wr (by simp [Verdict.refusal]))
      rfl rfl rfl
    refine ⟨k1, ?_, k2, ?_, k3⟩
    · dsimp only
      rw [recordRefusal_rest]
      refine ⟨rfl, rfl, rfl, rfl, ?_⟩
      show u.prdy = _; rw [hr]; rfl
    · dsimp only
      rw [recordRefusal_rest]
      rw [hr]
  | refuse c =>
    obtain ⟨k1, k2, k3⟩ := refused
      { u with
        lastWinner := .upstream, verdict := some (Verdict.refuse c),
        port := .idle, prdy := true } c (wr (by simp [Verdict.refusal])) rfl rfl rfl
    refine ⟨k1, ?_, k2, ?_, k3⟩
    · dsimp only
      rw [recordRefusal_rest]
      refine ⟨rfl, rfl, rfl, ?_, rfl⟩
      exact hh
    · dsimp only
      rw [recordRefusal_rest]
      rw [hr]

/-- An access that is granted and judged takes an access step. -/
theorem access_step {s : State} {a : Access} (h : s.Takes a) {judge : State → State × Verdict} {u : State} {v : Verdict}
    (hj : judge (s.present a) = (u, v)) (hu : Judging s u a) (hw : v.refusal ≠ none → a.write = true)
    (hc : u.plant.clock = s.plant.clock) :
    s.AccessStep (s.accessStep a judge) a v ∧ (s.accessStep a judge).plant = { u.plant with out := [], marks := s.plant.marks } ∧
      (s.accessStep a judge).log =
        (u.plant.out ++ s.outcomeEntries a v).foldl (fun l d => l.append u.plant.clock d) u.log ∧
      (s.accessStep a judge).settings = u.settings ∧ (s.accessStep a judge).link = u.link := by
  rw [accessStep_takes h, hj]
  dsimp only
  obtain ⟨k1, k2, k3, k4, k5⟩ := judged_facts v hu h.free hw hc
  generalize hx : u.judged (normalAccess a) v = x at *
  have e := finish_rest s x
  refine ⟨⟨?_, ?_, ?_, finish_pages s x k5.1 k5.2.1 k5.2.2, finish_out s x⟩, ?_, ?_, ?_, ?_⟩
  · rw [e]; exact ⟨k2.1, k2.2, k2.3, k2.4, k2.5⟩
  · rw [e]
    unfold State.RefusalKept at k3 ⊢
    split at k3
    · exact ⟨k3.1, k3.2, k3.3, k3.4⟩
    · exact k3
  · rw [e, k4]
  · rw [finish_plant, k1]
  · rw [finish_log, k1, k4]
  · rw [finish_settings, k4]
  · rw [finish_link, k4]

end Sys2Proof.Machine
end

