-- ==== Sys2Proof/Laws/Link.lean ====
section
/-! SUPPORT. The link line and the reporter: what each of their shared operations can change. -/

namespace Sys2Proof.Machine

/-- What the link line and the reporter do as soon as they can: the transmitter, the S7 in force, the reply slot, the
entry read asked for, the urgent list and the alert cycle move, page marks are added, and an alert's entry read may be
marked as no longer wanted; nothing else moves. -/
structure State.SettleStep (s t : State) : Prop where
  rest   : t = { s with
    link := { s.link with tx := t.link.tx, s7 := t.link.s7, pendingS7 := t.link.pendingS7 }
    reporter := { s.reporter with
      slot := t.reporter.slot, readReq := t.reporter.readReq, urgent := t.reporter.urgent, cycle := t.reporter.cycle }
    deposits := t.deposits, holder := t.holder }
  holder : t.holder = s.holder ∨ t.holder = discardRead s.holder .alert
  gen    : t.deposits.gen = s.deposits.gen
  scan   : t.deposits.scanPos = s.deposits.scanPos
  kept   : ∀ i, s.deposits.dirty.get i = true → t.deposits.dirty.get i = true

theorem State.SettleStep.refl (s : State) : s.SettleStep s := ⟨rfl, Or.inl rfl, rfl, rfl, fun _ h => h⟩

theorem discardRead_twice (h : Holder) (use : ReadUse) : discardRead (discardRead h use) use = discardRead h use := by
  cases h <;> simp [discardRead]

theorem State.SettleStep.trans {s t u : State} (h : s.SettleStep t) (k : t.SettleStep u) : s.SettleStep u := by
  obtain ⟨h1, h2, h3, h4, h5⟩ := h
  obtain ⟨k1, k2, k3, k4, k5⟩ := k
  refine ⟨?_, ?_, k3.trans h3, k4.trans h4, fun i hi => k5 i (h5 i hi)⟩
  · rw [k1, h1]
  · rcases k2 with k2 | k2 <;> rcases h2 with h2 | h2 <;> rw [k2, h2]
    · exact Or.inl rfl
    · exact Or.inr rfl
    · exact Or.inr rfl
    · exact Or.inr (discardRead_twice _ _)

theorem applyS7_step (s : State) (words : List Word) : s.SettleStep (s.applyS7 words) := by
  have hm := markPage_deposits (s.setLink { s.link with s7 := words, pendingS7 := none }) 14
  refine ⟨?_, Or.inl ?_, hm.1, hm.2.1, hm.2.2⟩
  · unfold State.applyS7 markPage State.setLink
    split <;> rfl
  · unfold State.applyS7 markPage State.setLink
    split <;> rfl

theorem settleS7_step (s : State) : s.SettleStep s.settleS7 := by
  unfold State.settleS7
  split
  · split
    · exact applyS7_step _ _
    · exact .refl s
  · exact .refl s

theorem handReply_step (s : State) (r : Reply) : s.SettleStep (s.handReply r) := by
  unfold State.handReply State.sendFrame
  split
  · rename_i t ht
    split at ht
    · obtain rfl := Option.some.inj ht
      exact ⟨rfl, Or.inl rfl, rfl, rfl, fun _ h => h⟩
    · exact absurd ht (by simp)
  · exact ⟨rfl, Or.inl rfl, rfl, rfl, fun _ h => h⟩

theorem settleReply_step (s : State) : s.SettleStep s.settleReply := by
  unfold State.settleReply
  split
  · split
    · exact handReply_step _ _
    · exact .refl s
  · exact .refl s
  · exact .refl s
  · exact .refl s

theorem handAlert_step (s : State) (payload : List Byte) : s.SettleStep (s.handAlert payload) := by
  unfold State.handAlert State.sendFrame
  split
  · rename_i t ht
    split at ht
    · obtain rfl := Option.some.inj ht
      exact ⟨rfl, Or.inl rfl, rfl, rfl, fun _ h => h⟩
    · exact absurd ht (by simp)
  · exact ⟨rfl, Or.inl rfl, rfl, rfl, fun _ h => h⟩

theorem endCycle_step (s : State) : s.SettleStep s.endCycle := by
  unfold State.endCycle
  split
  · refine State.SettleStep.trans ?_ (settleS7_step _)
    exact ⟨rfl, Or.inr rfl, rfl, rfl, fun _ h => h⟩
  · exact .refl s

theorem pruneUrgent_step (s : State) : s.SettleStep s.pruneUrgent := ⟨rfl, Or.inl rfl, rfl, rfl, fun _ h => h⟩

theorem makeSend_step (s : State) : s.SettleStep s.makeSend := by
  unfold State.makeSend
  dsimp only
  split
  · exact ⟨rfl, Or.inl rfl, rfl, rfl, fun _ h => h⟩
  · exact (pruneUrgent_step s).trans (endCycle_step _)

theorem settleAlert_step (s : State) : s.SettleStep s.settleAlert := by
  unfold State.settleAlert
  split
  · exact .refl s
  · split
    · split
      · exact handAlert_step _ _
      · exact .refl s
    · split
      · exact makeSend_step s
      · exact .refl s
    · exact .refl s
    · exact .refl s
    · exact .refl s

/-- Everything that `settle` can do. -/
theorem settle_step (s : State) : s.SettleStep s.settle :=
  ((settleS7_step s).trans (settleReply_step _)).trans (settleAlert_step _)

/-- With the transmitter in hand nothing is settled. -/
theorem settle_busy {s : State} (h : s.link.tx.isIdle = false) : s.settle = s := by
  have hq : s.link.quiet = false := by unfold Link.quiet; rw [h]; rfl
  have h1 : s.settleS7 = s := by
    unfold State.settleS7
    split
    · rw [hq]; simp
    · rfl
  have h2 : s.settleReply = s := by
    unfold State.settleReply
    split
    · rw [h]; simp
    · rfl
    · rfl
    · rfl
  have h3 : s.settleAlert = s := by
    unfold State.settleAlert
    split
    · rfl
    · split
      · rw [h]; simp
      · rw [hq]; simp
      · rfl
      · rfl
      · rfl
  unfold State.settle
  rw [h1, h2, h3]

/-- With no S7 pending, no reply in READY and no alert cycle nothing is settled. -/
theorem settle_still {s : State} (hp : s.link.pendingS7 = none) (hr : ∀ r, s.reporter.slot ≠ .ready r)
    (hc : s.reporter.cycle = none) : s.settle = s := by
  have h1 : s.settleS7 = s := by unfold State.settleS7; rw [hp]
  have h2 : s.settleReply = s := by
    unfold State.settleReply
    split
    · rename_i r hs; exact absurd hs (hr r)
    · rfl
    · rfl
    · rfl
  have h3 : s.settleAlert = s := by unfold State.settleAlert; rw [hc]
  unfold State.settle
  rw [h1, h2, h3]

/-! The end of an event at the link line or the reporter. -/

theorem linkEvent_none {s : State} (h : s.load ≠ .none) (b : Bool) (act : State → State) : s.linkEvent b act = s := by
  unfold State.linkEvent State.running
  rw [beq_eq_false_iff_ne.mpr h]
  rfl

theorem linkEvent_runs {s : State} (h : s.load = .none) (act : State → State) :
    s.linkEvent true act = finish s (act s).settle := by
  unfold State.linkEvent State.running
  rw [h]
  rfl

/-- An event that has only moved the link line, then settled. -/
theorem linkEvent_link {s : State} (h : s.load = .none) (ho : s.plant.out = []) (l : Link)
    (act : State → State) (ha : act s = s.setLink l) :
    s.LinkStep (s.linkEvent true act) ∧ (s.linkEvent true act).link.rx = l.rx ∧
      (s.linkEvent true act).link.counts = l.counts ∧ (s.linkEvent true act).link.inbox = l.inbox ∧
      (s.linkEvent true act).link.ldcd = l.ldcd := by
  rw [linkEvent_runs h, ha]
  have k := settle_step (s.setLink l)
  generalize (s.setLink l).settle = u at k
  obtain ⟨k1, k2, k3, k4, k5⟩ := k
  have hp : u.plant = s.plant := by rw [k1]; rfl
  have hl : u.log = s.log := by rw [k1]; rfl
  have e := finish_rest s u
  have e1 : (finish s u).plant = s.plant := by
    rw [finish_plant, hp]
    have : ({ s.plant with out := [], marks := s.plant.marks } : Plant) = { s.plant with out := s.plant.out } := by rw [ho]
    exact this
  have e2 : (finish s u).log = s.log := by rw [finish_log, hp, ho, hl]; rfl
  refine ⟨⟨?_, ?_, finish_pages s u k3 k4 k5⟩, ?_, ?_, ?_, ?_⟩
  · rw [e, e1, e2, k1]; rfl
  · rw [e]; exact k2
  · rw [e, k1]; rfl
  · rw [e, k1]; rfl
  · rw [e, k1]; rfl
  · rw [e, k1]; rfl

end Sys2Proof.Machine
end

