-- ==== Sys2Proof/Laws/Memory.lean ====
section
/-! SUPPORT. What the memory operations do: reading after writing, and the canonical form. -/

namespace Sys2Proof.Machine

theorem Memory.wf_nil : Memory.wf [] := by
  refine ⟨List.Pairwise.nil, ?_⟩
  intro c h
  cases h

theorem Memory.wf_tail {c : Host.Cell} {m : Memory} (h : Memory.wf (c :: m)) : Memory.wf m :=
  ⟨(List.pairwise_cons.mp h.1).2, fun x hx => h.2 x (List.mem_cons_of_mem _ hx)⟩

/-- Every cell of a memory after a write is the written one or was there before. -/
theorem Memory.mem_write {m : Memory} {a : Nat} {b : Byte} {c : Host.Cell} (h : c ∈ m.write a b) :
    c = (a, b) ∧ b ≠ unlistedByte ∨ c ∈ m := by
  induction m with
  | nil =>
    unfold Memory.write at h
    split at h
    · cases h
    · exact Or.inl ⟨List.mem_singleton.mp h, by assumption⟩
  | cons x m ih =>
    obtain ⟨k, d⟩ := x
    unfold Memory.write at h
    split at h
    · split at h
      · exact Or.inr h
      · rcases List.mem_cons.mp h with h | h
        · exact Or.inl ⟨h, by assumption⟩
        · exact Or.inr h
    · split at h
      · split at h
        · exact Or.inr (List.mem_cons_of_mem _ h)
        · rcases List.mem_cons.mp h with h | h
          · exact Or.inl ⟨h, by assumption⟩
          · exact Or.inr (List.mem_cons_of_mem _ h)
      · rcases List.mem_cons.mp h with h | h
        · exact Or.inr (by rw [h]; exact List.mem_cons_self)
        · rcases ih h with h | h
          · exact Or.inl h
          · exact Or.inr (List.mem_cons_of_mem _ h)

/-- A write keeps the canonical form. -/
theorem Memory.wf_write {m : Memory} (h : m.wf) (a : Nat) (b : Byte) : (m.write a b).wf := by
  refine ⟨?_, ?_⟩
  · induction m with
    | nil => unfold Memory.write; split <;> simp
    | cons x m ih =>
      obtain ⟨k, d⟩ := x
      have hp := List.pairwise_cons.mp h.1
      have ht := Memory.wf_tail h
      unfold Memory.write
      split
      · rename_i hak
        split
        · exact h.1
        · refine List.pairwise_cons.mpr ⟨?_, h.1⟩
          intro c hc
          rcases List.mem_cons.mp hc with hc | hc
          · rw [hc]; exact hak
          · exact lt_trans hak (hp.1 c hc)
      · split
        · rename_i hak
          split
          · exact hp.2
          · exact List.pairwise_cons.mpr ⟨fun c hc => by simpa [hak] using hp.1 c hc, hp.2⟩
        · rename_i h1 h2
          refine List.pairwise_cons.mpr ⟨?_, ih ht⟩
          intro c hc
          rcases Memory.mem_write hc with hc | hc
          · rw [hc.1]
            show k < a
            omega
          · exact hp.1 c hc
  · intro c hc
    rcases Memory.mem_write hc with hc | hc
    · rw [hc.1]; exact hc.2
    · exact h.2 c hc

/-- Below the first listed address nothing is listed. -/
theorem Memory.read_of_lt {m : Memory} {a : Nat} (h : ∀ c ∈ m, a < c.1) : m.read a = unlistedByte := by
  cases m with
  | nil => rfl
  | cons x m =>
    obtain ⟨k, d⟩ := x
    have hk : a < k := h (k, d) List.mem_cons_self
    unfold Memory.read
    rw [if_neg (by omega), if_pos hk]

/-- Reading the address written gives the byte written. -/
theorem Memory.read_write_same {m : Memory} (h : m.wf) (a : Nat) (b : Byte) : (m.write a b).read a = b := by
  induction m with
  | nil =>
    unfold Memory.write
    split
    · rename_i hb; rw [hb]; rfl
    · unfold Memory.read; rw [if_pos rfl]
  | cons x m ih =>
    obtain ⟨k, d⟩ := x
    have hp := List.pairwise_cons.mp h.1
    unfold Memory.write
    split
    · rename_i hak
      split
      · rename_i hb
        unfold Memory.read
        rw [if_neg (by omega), if_pos hak, hb]
      · unfold Memory.read; rw [if_pos rfl]
    · split
      · rename_i hak
        split
        · rename_i hb
          rw [hb, hak]
          exact Memory.read_of_lt (fun c hc => hp.1 c hc)
        · unfold Memory.read; rw [if_pos rfl]
      · rename_i h1 h2
        unfold Memory.read
        rw [if_neg (by omega), if_neg h1]
        exact ih (Memory.wf_tail h)

/-- Reading another address gives what it gave before. -/
theorem Memory.read_write_ne {m : Memory} (h : m.wf) {a x : Nat} (hx : x ≠ a) (b : Byte) :
    (m.write a b).read x = m.read x := by
  induction m with
  | nil =>
    unfold Memory.write
    split
    · rfl
    · unfold Memory.read
      rw [if_neg (Ne.symm hx)]
      split <;> rfl
  | cons y m ih =>
    obtain ⟨k, d⟩ := y
    have hp := List.pairwise_cons.mp h.1
    unfold Memory.write
    split
    · rename_i hak
      split
      · rfl
      · rw [Memory.read, if_neg (Ne.symm hx)]
        split
        · rename_i hxa
          rw [Memory.read, if_neg (by omega), if_pos (by omega)]
        · rfl
    · split
      · rename_i hak
        split
        · conv_rhs => rw [Memory.read]
          rw [if_neg (by omega)]
          split
          · rename_i hxk
            exact Memory.read_of_lt (fun c hc => lt_trans hxk (hp.1 c hc))
          · rfl
        · rw [Memory.read, Memory.read, hak]
          rw [if_neg (show k ≠ x by omega), if_neg (show k ≠ x by omega)]
      · conv_lhs => rw [Memory.read]
        conv_rhs => rw [Memory.read]
        split
        · rfl
        · split
          · rfl
          · exact ih (Memory.wf_tail h)

/-- Storing bytes keeps the canonical form. -/
theorem Memory.wf_writeBytes {m : Memory} (h : m.wf) (a : Nat) (bs : List Byte) : (m.writeBytes a bs).wf := by
  induction bs generalizing m a with
  | nil => exact h
  | cons b bs ih => exact ih (Memory.wf_write h a b) (a + 1)

/-- Storing those bytes of a burst that landed keeps the canonical form. -/
theorem Memory.wf_writeLanded (landed : Nat → Bool) {m : Memory} (h : m.wf) (a i : Nat) (bs : List Byte) :
    (Memory.writeLanded landed m a i bs).wf := by
  induction bs generalizing m a i with
  | nil => exact h
  | cons b bs ih =>
    unfold Memory.writeLanded
    split
    · exact ih (Memory.wf_write h a b) (a + 1) (i + 1)
    · exact ih h (a + 1) (i + 1)

/-- Bytes outside the stored ones read as before. -/
theorem Memory.read_writeBytes_outside {m : Memory} (h : m.wf) (a : Nat) (bs : List Byte) (x : Nat)
    (hx : x < a ∨ a + bs.length ≤ x) : (m.writeBytes a bs).read x = m.read x := by
  induction bs generalizing m a with
  | nil => rfl
  | cons b bs ih =>
    have hl : (b :: bs).length = bs.length + 1 := rfl
    unfold Memory.writeBytes
    rw [ih (Memory.wf_write h a b) (a + 1) (by omega)]
    exact Memory.read_write_ne h (by omega) b

/-- The stored bytes read back. -/
theorem Memory.read_writeBytes_inside {m : Memory} (h : m.wf) (a : Nat) (bs : List Byte) (i : Nat)
    (hi : i < bs.length) : (m.writeBytes a bs).read (a + i) = bs[i] := by
  induction bs generalizing m a i with
  | nil => exact absurd hi (Nat.not_lt_zero i)
  | cons b bs ih =>
    unfold Memory.writeBytes
    cases i with
    | zero =>
      rw [Memory.read_writeBytes_outside (Memory.wf_write h a b) (a + 1) bs (a + 0) (by omega)]
      exact Memory.read_write_same h a b
    | succ i =>
      have hl : i < bs.length := Nat.lt_of_succ_lt_succ hi
      have := ih (Memory.wf_write h a b) (a + 1) i hl
      rw [show a + (i + 1) = a + 1 + i by omega, this]
      rfl

/-- Bytes outside a burst cut off read as before. -/
theorem Memory.read_writeLanded_outside (landed : Nat → Bool) {m : Memory} (h : m.wf) (a i : Nat)
    (bs : List Byte) (x : Nat) (hx : x < a ∨ a + bs.length ≤ x) :
    (Memory.writeLanded landed m a i bs).read x = m.read x := by
  induction bs generalizing m a i with
  | nil => rfl
  | cons b bs ih =>
    have hl : (b :: bs).length = bs.length + 1 := rfl
    unfold Memory.writeLanded
    split
    · rw [ih (Memory.wf_write h a b) (a + 1) (i + 1) (by omega)]
      exact Memory.read_write_ne h (by omega) b
    · exact ih h (a + 1) (i + 1) (by omega)

/-- Equal canonical memories are equal data: reading decides them. -/
theorem Memory.wf_ext {m n : Memory} (hm : m.wf) (hn : n.wf) (h : ∀ a, m.read a = n.read a) : m = n := by
  induction m generalizing n with
  | nil =>
    cases n with
    | nil => rfl
    | cons y n =>
      obtain ⟨k, d⟩ := y
      have hd := hn.2 (k, d) List.mem_cons_self
      have hk := h k
      rw [Memory.read, Memory.read, if_pos rfl] at hk
      exact absurd hk.symm hd
  | cons x m ih =>
    obtain ⟨j, c⟩ := x
    have hc := hm.2 (j, c) List.mem_cons_self
    have hpm := List.pairwise_cons.mp hm.1
    cases n with
    | nil =>
      have hj := h j
      rw [Memory.read, Memory.read, if_pos rfl] at hj
      exact absurd hj hc
    | cons y n =>
      obtain ⟨k, d⟩ := y
      have hd := hn.2 (k, d) List.mem_cons_self
      have hpn := List.pairwise_cons.mp hn.1
      have hjk : j = k := by
        rcases Nat.lt_trichotomy j k with hlt | heq | hgt
        · have := h j
          rw [Memory.read, Memory.read, if_pos rfl, if_neg (by omega), if_pos hlt] at this
          exact absurd this hc
        · exact heq
        · have := h k
          rw [Memory.read, Memory.read, if_neg (by omega), if_pos hgt, if_pos rfl] at this
          exact absurd this.symm hd
      subst hjk
      have hcd := h j
      rw [Memory.read, Memory.read, if_pos rfl, if_pos rfl] at hcd
      subst hcd
      rw [ih (Memory.wf_tail hm) (Memory.wf_tail hn)]
      intro a
      by_cases ha : j = a
      · subst ha
        rw [Memory.read_of_lt (fun c hc => hpm.1 c hc), Memory.read_of_lt (fun c hc => hpn.1 c hc)]
      · have := h a
        rw [Memory.read, Memory.read, if_neg ha, if_neg ha] at this
        by_cases hlt : a < j
        · rw [Memory.read_of_lt (fun c hc => lt_trans hlt (hpm.1 c hc)),
            Memory.read_of_lt (fun c hc => lt_trans hlt (hpn.1 c hc))]
        · rw [if_neg hlt, if_neg hlt] at this
          exact this

end Sys2Proof.Machine
end

