-- ==== Sys2Proof/Laws/Resets.lean ====
section
/-! SUPPORT. What a reset leaves of the burst that it cuts off (R110, R132). -/

namespace Sys2Proof.Machine

/-! Blocks in memory. -/

theorem Memory.readWords_succ (m : Memory) (a k : Nat) :
    m.readWords a (k + 1) = m.readWords a k ++ [m.readWord (a + 2 * k)] := by
  induction k generalizing a with
  | zero => rfl
  | succ k ih =>
    have h : m.readWords a (k + 1 + 1) = m.readWord a :: m.readWords (a + 2) (k + 1) := rfl
    rw [h, ih, show a + 2 + 2 * k = a + 2 * (k + 1) by omega]
    rfl

theorem Memory.readWords_congr {m n : Memory} (a k : Nat) (h : ∀ x, a ≤ x → x < a + 2 * k → m.read x = n.read x) :
    m.readWords a k = n.readWords a k := by
  induction k generalizing a with
  | zero => rfl
  | succ k ih =>
    show m.readWord a :: m.readWords (a + 2) k = n.readWord a :: n.readWords (a + 2) k
    rw [ih (a + 2) (fun x hx hy => h x (by omega) (by omega))]
    unfold Memory.readWord
    rw [h a (by omega) (by omega), h (a + 1) (by omega) (by omega)]

theorem Memory.readWord_writeBytes {m : Memory} (h : m.wf) (a : Nat) (w : Word) :
    (m.writeBytes a (wordBytes w)).readWord a = w := by
  have h0 := Memory.read_writeBytes_inside h a (wordBytes w) 0 (by show 0 < 2; decide)
  have h1 := Memory.read_writeBytes_inside h a (wordBytes w) 1 (by show 1 < 2; decide)
  unfold Memory.readWord
  rw [Nat.add_zero] at h0
  rw [h0, h1]
  show w.extractLsb' 8 8 ++ w.extractLsb' 0 8 = w
  apply BitVec.eq_of_getLsbD_eq
  intro i hi
  rw [BitVec.getLsbD_append]
  by_cases h8 : i < 8
  · simp [h8]
  · simp [h8, show i - 8 < 8 by omega, show 8 + (i - 8) = i by omega]

theorem blockSum_snoc (ws : List Word) (w : Word) : blockSum (ws ++ [w]) = blockSum ws + w := by
  unfold blockSum
  rw [List.foldl_append]
  rfl

/-! The burst cut off. -/

/-- R171: no block whose check word is made to fail is valid. -/
theorem failingCheck_fails (free : Word) (body : List Word) : blockValid (body ++ [failingCheck free body]) = false := by
  unfold blockValid failingCheck checkWord
  rw [blockSum_snoc, beq_eq_false_iff_ne]
  split
  · rename_i h
    have hx : free ^^^ 1 ≠ free := by
      intro e
      have := congrArg (fun w : Word => w.getLsbD 0) e
      simp at this
    generalize free ^^^ 1 = other at hx ⊢
    bv_omega
  · bv_omega

theorem cutBlock_wf (n : Nat) {m : Memory} (h : m.wf) (a : Nat) (bytes : List Byte) : (cutBlock n m a bytes).wf := by
  unfold cutBlock
  dsimp only
  split
  · exact Memory.wf_writeLanded _ h a 0 bytes
  · exact Memory.wf_writeBytes (Memory.wf_writeLanded _ h a 0 bytes) _ _

/-- Bytes outside the burst read as before. -/
theorem read_cutBlock_outside (n : Nat) {m : Memory} (h : m.wf) (a : Nat) (bytes : List Byte) (x : Nat)
    (hx : x < a ∨ a + bytes.length ≤ x) : (cutBlock n m a bytes).read x = m.read x := by
  have hc := Memory.wf_writeLanded (Config.cutLanded n) h a 0 bytes
  unfold cutBlock
  dsimp only
  split
  · exact Memory.read_writeLanded_outside _ h a 0 bytes x hx
  · rename_i hb
    have hw : bytes.length / 2 ≠ 0 := by
      intro h0
      simp [h0] at hb
    have hl : (wordBytes (failingCheck (Config.cutCheck n)
      ((Memory.writeLanded (Config.cutLanded n) m a 0 bytes).readWords a (bytes.length / 2 - 1)))).length = 2 := rfl
    rw [Memory.read_writeBytes_outside hc _ _ x (by omega)]
    exact Memory.read_writeLanded_outside _ h a 0 bytes x hx

/-- R110, R132: the block cut off fails its check word. -/
theorem cutBlock_fails (n : Nat) {m : Memory} (h : m.wf) (a : Nat) (bytes : List Byte) (hl : 2 ≤ bytes.length) :
    blockValid ((cutBlock n m a bytes).readWords a (bytes.length / 2)) = false := by
  have hc := Memory.wf_writeLanded (Config.cutLanded n) h a 0 bytes
  have hw : bytes.length / 2 ≠ 0 := by omega
  unfold cutBlock
  dsimp only
  split
  · rename_i hb
    simp only [hw, decide_false, Bool.false_or, Bool.and_eq_true, Bool.not_eq_true'] at hb
    exact hb.2
  · obtain ⟨k, hk⟩ : ∃ k, bytes.length / 2 = k + 1 := ⟨bytes.length / 2 - 1, by omega⟩
    rw [hk, Nat.add_sub_cancel, Memory.readWords_succ, Memory.readWord_writeBytes hc]
    rw [Memory.readWords_congr (n := Memory.writeLanded (Config.cutLanded n) m a 0 bytes) a k
      (fun x _ hx => Memory.read_writeBytes_outside hc _ _ x (Or.inl hx))]
    exact failingCheck_fails _ _

/-- A reset keeps memory in its canonical form. -/
theorem State.cutMemory_wf (s : State) (h : s.mem.wf) : s.cutMemory.wf := by
  unfold State.cutMemory
  split
  · split
    · exact cutBlock_wf _ h _ _
    · exact Memory.wf_writeLanded _ h _ 0 _
  · exact h

end Sys2Proof.Machine
end

