-- ==== Sys2Proof/Tests/Slice0.lean ====
section
/-! SUPPORT. Tests of the model: the well-formedness checks, the worked numbers of the spec, and for every statement with
hypotheses a state that meets them, clause by clause. -/

namespace Sys2Proof.Tests

open Sys2Proof.Machine

set_option Elab.async false

/-! Small states. -/

/-- The part outside LOAD with the default settings, in LOCAL. -/
def base : State :=
  { State.reset with
    load := .none
    plant := { Plant.reset with mode := { ModeUnit.reset with mode := .localControl, cause := .start } } }

def withMode (s : State) (f : ModeUnit → ModeUnit) : State := s.onPlant (fun p => { p with mode := f p.mode })

/-- The part in AUTO with the freshness condition. -/
def auto : State := withMode base (fun m => { m with mode := .auto, cause := .none, fresh := true, freshTimer := .running 5 })

def withPump (s : State) (n : Fin 6) (f : Pump → Pump) : State :=
  s.onPlant (fun p => { p with pumps := vset p.pumps n (f (p.pumps.get n)) })

def withRake (s : State) (n : Fin 2) (f : Rake → Rake) : State :=
  s.onPlant (fun p => { p with rakes := vset p.rakes n (f (p.rakes.get n)) })

def withWeir (s : State) (n : Fin 3) (f : Weir → Weir) : State :=
  s.onPlant (fun p => { p with weirs := vset p.weirs n (f (p.weirs.get n)) })

def withClaim (s : State) (h : Fin 8) (c : Claim) : State :=
  s.onPlant (fun p => { p with claims := vset p.claims h c })

def withPoint (s : State) (k : Fin 40) (x : AlarmPoint) : State := s.onPlant (fun p => p.setPoint k x)

def withLevels (s : State) (f : LevelUnit → LevelUnit) : State := s.onPlant (fun p => { p with levels := f p.levels })

def withChannel (s : State) (c : Fin 8) (f : Channel → Channel) : State :=
  withLevels s (fun l => { l with channels := vset l.channels c (f (l.channels.get c)) })

def withClock (s : State) (f : Clock → Clock) : State := s.onPlant (fun p => { p with clock := f p.clock })

def withShadow (s : State) (i : Fin 32) (w : Word) : State := s.onPlant (fun p => p.setShadow i w)

/-- A line's raw contact has been `c` for its stability time. -/
def settling (s : State) (l : Fin 30) (c : Contact) : State :=
  s.onPlant (fun p => { p with lines :=
    { p.lines with raw := vset p.lines.raw l c, stability := vset p.lines.stability l (.running 0) } })

/-- A line has settled as `c`. -/
def settled (s : State) (l : Fin 30) (c : Contact) : State :=
  s.onPlant (fun p => { p with lines :=
    { p.lines with raw := vset p.lines.raw l c, debounced := vset p.lines.debounced l c } })

def withLink (s : State) (f : Link → Link) : State := { s with link := f s.link }

def withRx (s : State) (f : Receiver → Receiver) : State := withLink s (fun l => { l with rx := f l.rx })

def withTx (s : State) (tx : Transmitter) : State := withLink s (fun l => { l with tx := tx })

def withReporter (s : State) (f : Reporter → Reporter) : State := { s with reporter := f s.reporter }

def withLog (s : State) (f : LogUnit → LogUnit) : State := { s with log := f s.log }

def withTxn (s : State) (t : Transaction) : State := { s with settings := { s.settings with txn := some t } }

def held (units : Nat) : Claim := { status := .held, units := units }

/-- A log entry in the queue, urgent or not. -/
def queued (seq : Nat) (urgent : Bool) : QueuedEntry :=
  { seq := seq, bytes := entryBytes seq 0 srcSystem 0x01 0 [], urgent := urgent }

/-- A record of an overflow. -/
def record : OverflowRecord :=
  { startTime := 0, startUptime := 0, duration := none, endTime := none, peak := 1500, peakTime := 0, volume := some 0
    flags := RecordFlags.none }

/-- A curve in S5 for weir 1. -/
def curveWords : List Word :=
  sealBlock 256 ((List.range 16).flatMap (fun k => [BitVec.ofNat 16 (10 * k), BitVec.ofNat 16 (5 * k)]))

def withCurve (s : State) : State :=
  s.onPlant (fun p => p.setSection 5 { words := curveWords, source := .trial, storedDiffers := false, pendingReset := false })

/-- A frame of the reporter's. -/
def frameOf (owner : TxOwner) : TxFrame := { address := 1, kind := 0x82, tag := 7, payload := [], owner := owner }

def replyOf : Reply := { kind := 0x82, tag := 7, payload := [], next := 1, ofPoll := true, gap := some 2 }

def buildOf : Build := { tag := 7, mask := 0x1FF, gap := none, items := [], next := 1, examined := 0 }

/-- The command takes `s` to a state with the property. -/
def after (c : Instr) (s : State) (good : State → Bool) : Bool :=
  match exec c s with
  | .next t => good t
  | .fault _ => false
  | .refused _ => false

/-- In `s` an access that arrives is granted at once, or the one that waits is granted now. -/
theorem takes_of {s : State} {a : Access}
    (h : s.load = .none ∧ s.holder = .free ∧ (s.port = .idle ∧ s.uprst = false) ∧ s.memberChosen = none) : s.Takes a :=
  ⟨h.1, h.2.1, Or.inl h.2.2.1, Or.inl h.2.2.2⟩

theorem base_asks_nothing : base.memberChosen = none := by decide +kernel

theorem takes_base (a : Access) : base.Takes a := takes_of ⟨rfl, rfl, ⟨rfl, rfl⟩, base_asks_nothing⟩

theorem takes_auto (a : Access) : auto.Takes a := takes_of (by decide +kernel)

/-! Well-formedness: each check with a command that it refuses. -/

theorem test_wellFormed_refuses :
    WellFormed (.rawContactChange 0 .closed) = false ∧ WellFormed (.rawContactChange 18 .closed) = false ∧
    WellFormed (.debounceExpiry 29) = false ∧ WellFormed (.pumpReset 0 0x0003) = false ∧
    WellFormed (.screenRake 0 0x0006) = false ∧ WellFormed (.screenReset 1 0x0003) = false ∧
    WellFormed (.ackBadCode 0x27) = false ∧ WellFormed (.ackBadCode 0x83) = false ∧
    WellFormed (.ackBadCode 0xFF) = false ∧ WellFormed (.settingsSectionWord .stored 0x10 .word 0) = false ∧
    WellFormed (.townAlarmAck 0 []) = false ∧ WellFormed (.townAlarmAck 0 [40]) = false ∧
    WellFormed (.frameRejected false 0x01 0 [0, 0, 0, 0]) = false ∧
    WellFormed (.frameRejected true 0x03 0 [0, 0, 0, 0]) = false := by decide +kernel

theorem test_wellFormed_accepts :
    WellFormed (.rawContactChange 6 .closed) = true ∧ WellFormed (.debounceExpiry 28) = true ∧
    WellFormed (.pumpReset 0 0x0004) = true ∧ WellFormed (.screenRake 0 0x0001) = true ∧
    WellFormed (.ackBadCode 0x28) = true ∧ WellFormed (.settingsSectionWord .trial 0x0F .low 0) = true ∧
    WellFormed (.townAlarmAck 0 [0xFF]) = true ∧ WellFormed (.frameRejected true 0x01 0 [0, 0, 0, 0]) = true ∧
    WellFormed .powerUp = true := by decide +kernel

/-! No row of the table gives bits. -/

theorem test_no_word_spells_a_command : decodeTableWord 16 0 = none ∧ base.withFetchWord 16 0 = base := by decide +kernel

/-! The spec's worked numbers. -/

/-- R153. -/
theorem test_crc_of_nine_digits : crc16 [0x31, 0x32, 0x33, 0x34, 0x35, 0x36, 0x37, 0x38, 0x39] = 0x29B1 := by decide +kernel

/-- R171. -/
theorem test_header_check_word : checkWord ([0x4752, 0x0001, 0x0000] ++ List.replicate 12 0) = 0xB8AC := by decide +kernel

theorem test_default_sections_valid : ∀ i : Fin 9, blockValid (defaultSection i) = true ∧ contentGood i (defaultSection i) = true := by
  decide +kernel

/-- R87: below, at, between and above the points of a curve. -/
theorem test_flow_on_a_curve :
    flowAt [(10, 4), (20, 9)] 9 = (0, false) ∧ flowAt [(10, 4), (20, 9)] 10 = (4, false) ∧
    flowAt [(10, 4), (20, 9)] 15 = (6, false) ∧ flowAt [(10, 4), (20, 9)] 20 = (9, false) ∧
    flowAt [(10, 4), (20, 9)] 21 = (9, true) := by decide +kernel

/-- R125, R126: regions of the default window table at their edges. -/
theorem test_regions_of_the_default_table :
    regionOf defaultWindows 0x0EFFFE = .plain ∧ regionOf defaultWindows 0x0F0000 = .logRing ∧
    regionOf defaultWindows 0x0F7FFE = .logRing ∧ regionOf defaultWindows 0x0F8000 = .commandWord 0 ∧
    regionOf defaultWindows 0x0F803E = .commandWord 31 ∧ regionOf defaultWindows 0x0F8040 = .commandBeyond ∧
    regionOf defaultWindows 0x0F8100 = .staging 0 ∧ regionOf defaultWindows 0x0F8112 = .staging 9 ∧
    regionOf defaultWindows 0x0F8114 = .portOther ∧ regionOf defaultWindows 0x0F8140 = .entry 0 ∧
    regionOf defaultWindows 0x0F815E = .entry 15 ∧ regionOf defaultWindows 0x0F8160 = .portOther ∧
    regionOf defaultWindows 0x0F8170 = .advance ∧ regionOf defaultWindows 0x0F8171 = .advance ∧
    regionOf defaultWindows 0x0F8172 = .portOther ∧ regionOf defaultWindows 0x0F816E = .portOther ∧
    regionOf defaultWindows 0x0F8400 = .status ∧ regionOf defaultWindows 0x0F8800 = .plain ∧
    regionOf defaultWindows 0x0FE000 = .settings .trial 0 ∧ regionOf defaultWindows 0x0FFFFE = .settings .stored 0xFFE ∧
    regionOf defaultWindows 0x100000 = .plain := by decide +kernel

/-- Every page has words 1 to 30. -/
theorem test_pages_are_full : ∀ i : Fin 16, (pageWords base 0 i).length = 30 := by decide +kernel

/-- R123, R133: a word write to a spare word is granted, sets its shadow, and reaches memory at the completion. -/
theorem test_spare_word_write :
    (match exec .upstreamGrant { base with port := .waiting (wordWrite 0x0F800A 0x1234), prdy := false } with
     | .next t =>
       (match exec .upstreamComplete t with
        | .next u => u.mem.readWord 0x0F800A == 0x1234 && u.plant.shadow.get 5 == 0x1234 && u.prdy && u.plant.corr.isEmpty
        | _ => false)
     | _ => false) = true := by decide +kernel

/-- R148: with nothing in memory the load defaults H, and with it every section. -/
theorem test_load_of_empty_memory :
    (match exec .loadStage1End State.reset with
     | .next t => decide (t.load = .stage2 false ∧ t.kept = [{ sec := 8, content := false }] ∧ t.windows = defaultWindows)
     | _ => false) = true := by decide +kernel

/-! For every statement with hypotheses, states that meet them: each clause, and where a range has an edge, at the edge. -/

theorem test_witness_front : ({ base with pending := [.ackAll, .keyUp] } : State).pending = .ackAll :: [.keyUp] := rfl

/-- A due event; none with the tick phase at 98, and at 99. -/
theorem test_witness_empty_queue :
    let due := base.onPlant (fun p => { p with lines := { p.lines with beaconTimer := .running 0 } })
    let last := withClock base (fun c => { c with phase := 99 })
    (due.pending = [] ∧ due.plant.out = [] ∧ due.dueEvent = some .beaconFlashPhase) ∧
    (base.pending = [] ∧ base.plant.out = [] ∧ base.dueEvent = none ∧ base.plant.clock.phase + 1 < 100) ∧
    (last.pending = [] ∧ last.dueEvent = none ∧ 100 ≤ last.plant.clock.phase + 1) ∧
    ((withTx base (.pending (frameOf .reply))).load = .none ∧ (withTx base (.pending (frameOf .reply))).link.tx ≠ .idle) ∧
    (base.load = .none ∧ base.link.pendingS7 = none ∧ base.reporter.cycle = none ∧ base.reporter.slot = .none) ∧
    State.reset.load ≠ .none := by decide +kernel

/-- A command that changes the window table, and one that changes a generation count. -/
theorem test_witness_every_command :
    (∃ t, exec .powerUp { base with windows := [] } = .next t ∧ t.windows ≠ []) ∧
    (∃ t, exec .depositGrant (markPage base 0) = .next t ∧ t.deposits.gen ≠ (markPage base 0).deposits.gen) :=
  ⟨⟨_, rfl, by decide +kernel⟩, ⟨_, rfl, by decide +kernel⟩⟩

theorem base_lawful : base.plant.Lawful where
  absent := by decide +kernel
  starting := by unfold Plant.oneStarting; decide +kernel
  pumps := by decide +kernel
  queue := by decide +kernel
  waiting := by decide +kernel
  rakes := by unfold Plant.rakesHold; decide +kernel
  rakesWait := by unfold Plant.rakesWait; decide +kernel
  posture := ⟨by decide +kernel, by decide +kernel⟩
  apart := by unfold Plant.outputsApart; decide +kernel
  budget := by unfold Plant.withinBudget; decide +kernel
  identity := by decide +kernel
  aline := by decide +kernel
  demand := by decide +kernel
  load := fun h => absurd h (by decide +kernel)

theorem test_witness_settled : base.Settled ∧ ∃ t, step { base with pending := [.uprstRelease] } = .next t :=
  ⟨⟨by decide +kernel, by decide +kernel, base_lawful, fun h => absurd rfl h⟩, _, rfl⟩

theorem test_witness_log_law : base.plant.out = [] ∧ base.LogLaw :=
  ⟨by decide +kernel, by unfold LogUnit.lawful; decide +kernel, by decide +kernel, by decide +kernel, by decide +kernel, by decide +kernel, fun h => absurd rfl h,
    fun _ h => nomatch h⟩

theorem test_witness_restart :
    let cut := { base with holder := .logWriter (queued 1 false) }
    let page := { base with holder := .deposit 3 (pageImage base 3 1) }
    let word := { base with holder := .corrector 8 0x0102 }
    base.mem.wf ∧ base.writing = none ∧ cut.mem.wf ∧ cut.writing = some (0x0F0020, (queued 1 false).bytes) ∧
      (queued 1 false).bytes.length / 2 = 16 ∧ page.writing = some (0x0F84C0, pageImage base 3 1) ∧
      (pageImage base 3 1).length / 2 = 32 ∧ word.writing = some (0x0F8010, [0x02, 0x01]) := by decide +kernel

/-- R110: the check word of a burst cut off is made to fail where the free one would pass, and is left where it fails. -/
theorem test_failing_check :
    failingCheck (checkWord [1, 2]) [1, 2] = checkWord [1, 2] ^^^ 1 ∧ failingCheck 0x1234 [1, 2] = 0x1234 ∧
    blockValid ([1, 2] ++ [failingCheck (checkWord [1, 2]) [1, 2]]) = false := by decide +kernel

theorem test_witness_upstream_reset :
    let t : Transaction := { range := .stored, sec := 1, next := 0x200, received := 0, forwarded := 0, staging := []
                             idle := .running 10 }
    (base.plant.out = [] ∧ base.uprst = false ∧ base.load = .none ∧ base.settings.txn = none ∧
      ¬ (base.plant.mode.mode = .localControl ∧ base.plant.mode.cause = .upstream)) ∧
    ((withTxn base t).uprst = false ∧ (withTxn base t).load = .none ∧ (withTxn base t).settings.txn = some t) ∧
    (State.reset.plant.out = [] ∧ State.reset.uprst = false ∧ State.reset.load ≠ .none) ∧
    ({ base with uprst := true } : State).uprst = true := by decide +kernel

/-- A stored H that is valid, one that fails its content checks, and none. -/
theorem test_witness_load_stage_1 :
    let good : Memory := [(0x0FF000, 0x52), (0x0FF001, 0x47), (0x0FF002, 0x01), (0x0FF01E, 0xAC), (0x0FF01F, 0xB8)]
    let bad : Memory := [(0x0FF000, 0xFF), (0x0FF001, 0xFF)]
    State.reset.load = .stage1 false ∧ blockValid (storedSection [] 8) = false ∧
    (blockValid (storedSection bad 8) = true ∧ contentGood 8 (storedSection bad 8) = false) ∧
    (blockValid (storedSection good 8) = true ∧ contentGood 8 (storedSection good 8) = true) := by decide +kernel

theorem test_witness_load_end :
    let s := { State.reset with load := .stage2 true }
    let good (c : Channel) : Channel := { c with state := .good, value := some 700 }
    s.load = .stage2 true ∧ s.plant.out = [] ∧ 0 < s.capacity ∧ spareWord 5 = true ∧ spareWord 18 = true ∧
      ((withChannel (withChannel s 3 good) 4 good).plant.levels.channels.get (upstreamChannel 1)).state = .good ∧
      ((withChannel (withChannel s 3 good) 4 good).plant.levels.channels.get (downstreamChannel 1)).value = some 700 ∧
      (s.plant.levels.channels.get (upstreamChannel 0)).state ≠ .good := by decide +kernel

/-- Stage 2 with pump 1's fault input and the high float ACTIVE (storm posture follows), pump 2 and screen 1 out of service
in memory, weir 1 GOOD at its start level. -/
def restarting : State :=
  settled (settled (withChannel
    { State.reset with
      load := .stage2 true
      mem := (Memory.writeBytes [] (0x0F8000 + 2 * (pumpWord 1).val) [2, 0]).writeBytes (0x0F8000 + 2 * (screenWord 0).val)
        [2, 0] }
    5 (fun c => { c with state := .good, value := some 1520 })) 12 .closed) 26 .closed

theorem test_witness_restarting : restarting.Settled where
  canonical := by decide +kernel
  handed := by decide +kernel
  lawful := {
    absent := by decide +kernel
    starting := by unfold Plant.oneStarting; decide +kernel
    pumps := by decide +kernel
    queue := by decide +kernel
    waiting := by decide +kernel
    rakes := by unfold Plant.rakesHold; decide +kernel
    rakesWait := by unfold Plant.rakesWait; decide +kernel
    posture := ⟨by decide +kernel, by decide +kernel⟩
    apart := by unfold Plant.outputsApart; decide +kernel
    budget := by unfold Plant.withinBudget; decide +kernel
    identity := by decide +kernel
    aline := by decide +kernel
    demand := by decide +kernel
    load := by decide +kernel }
  load := by decide +kernel

/-- Its units: pump 1 trips, pump 2 and screen 1 stay out, screen 2 meets a storm, weir 1 rises and weir 2 does not; and
with a level 1 mm lower, and a pump that is not there. -/
theorem test_witness_load_end_units :
    let word (i : Fin 32) := restarting.mem.readWord ((restarting.window .command).base + 2 * i.val)
    let absent := withPump (restarting.onPlant (fun p => p.setSection 1
      { p.sections.get 1 with words := (defaultSection 1).set 0 0 })) 0 (fun q => { q with state := .absent })
    restarting.load = .stage2 true ∧ 0 < restarting.capacity ∧
    (restarting.plant.pumpPresent 0 = true ∧ (word (pumpWord 0)).getLsbD 1 = false ∧
      restarting.plant.faultActive 0 = true ∧ (word (pumpWord 1)).getLsbD 1 = true ∧
      (word (pumpWord 2)).getLsbD 1 = false ∧ restarting.plant.faultActive 2 = false ∧
      absent.plant.pumpPresent 0 = false ∧ (absent.plant.pump 0).state = .absent) ∧
    (restarting.plant.rakePresent 0 = true ∧ (word (screenWord 0)).getLsbD 1 = true ∧
      (word (screenWord 1)).getLsbD 1 = false ∧ restarting.plant.active 26 = true ∧ State.reset.plant.active 26 = false) ∧
    (restarting.plant.weirPresent 0 = true ∧ (restarting.plant.levels.channels.get (weirChannel 0)).value = some 1520 ∧
      restarting.plant.crest 0 + restarting.plant.startMargin 0 = 1520 ∧
      (restarting.plant.levels.channels.get (weirChannel 1)).state ≠ .good) := by decide +kernel

/-- Weir 1 in OVERFLOWING with a volume to step, with its curve and without; an open transaction; a running cycle. -/
theorem test_witness_seconds_tick :
    let spill := withWeir base 0 (fun w =>
      { w with state := .overflowing, openRecord := some record, channelGood := true, level := some 1510 })
    let t : Transaction := { range := .stored, sec := 1, next := 0x200, received := 0, forwarded := 0, staging := []
                             idle := .running 10 }
    (base.plant.weir 0).steps = false ∧ base.plant.loading = false ∧ base.settings.txn = none ∧
    (((withCurve spill).plant.weir 0).steps = true ∧ ((withCurve spill).plant.weir 0).openRecord = some record ∧
      ((withCurve spill).plant.curve 0).isSome = true ∧ ((withCurve spill).plant.weir 0).channelGood = true ∧
      ((withCurve spill).plant.weir 0).level = some 1510) ∧
    ((spill.plant.weir 0).steps = true ∧ (spill.plant.weir 0).openRecord = some record ∧ spill.plant.curve 0 = none) ∧
    (withTxn base t).settings.txn = some t ∧
    (withReporter base (fun r => { r with cycle := some { sends := 0, phase := .timing, timer := .running 1 } })).reporter.cycle =
      some { sends := 0, phase := .timing, timer := .running 1 } := by decide +kernel

theorem test_witness_raw_contact :
    base.plant.out = [] ∧ isInputLine 5 = false ∧ isInputLine 6 = true ∧ isInputLine 28 = true ∧
    State.reset.load = .stage1 false ∧ base.load = .none := by decide +kernel

/-- A line that changes its reading, one that does not, and one in LOAD. -/
theorem test_witness_debounce :
    let s := settling base 6 .closed
    let same := settling base 28 .opened
    let early := settling State.reset 6 .closed
    (s.plant.out = [] ∧ isInputLine 6 = true ∧ s.plant.lines.stability.get 6 = .running 0) ∧
    (same.plant.lines.stability.get 28 = .running 0 ∧ (same.plant.settleLine 28).active 28 = same.plant.active 28) ∧
    (early.plant.lines.stability.get 6 = .running 0 ∧ early.plant.loading = true) := by decide +kernel

/-- The owners' events: home reached with the rake away from home, and left; overload; both floats. -/
theorem test_witness_owners_events :
    let rake (l : Fin 30) (c : Contact) (f : Rake → Rake) :=
      withClaim (withRake (settling base l c) 1 f) 7 (held 2)
    let home := rake 23 .closed (fun r => { r with state := .raking, homeLeave := true })
    let passing := rake 23 .closed (fun r => { r with state := .raking, homeLeave := false })
    let leaving (st : RakeState) := withRake (settling (settled base 23 .closed) 23 .opened) 1 (fun r => { r with state := st })
    let stuck := rake 25 .closed (fun r => { r with state := .raking })
    let calm (s : State) := s.plant.queue = [] ∧ (∀ h, (s.plant.claim h).status ≠ .waiting) ∧ s.plant.mode.storm = false
    let moves (s : State) (l : Fin 30) := s.plant.out = [] ∧ s.plant.loading = false ∧
      s.plant.lines.stability.get l = .running 0 ∧ (s.plant.settleLine l).active l ≠ s.plant.active l
    (moves home (homeLine 1) ∧ (home.plant.settleLine 23).active 23 = true ∧ (home.plant.rake 1).state = .raking ∧
      (home.plant.rake 1).homeLeave = true ∧ calm home) ∧
    (moves passing (homeLine 1) ∧ (passing.plant.rake 1).homeLeave = false ∧ calm passing) ∧
    (∀ st ∈ [RakeState.raking, .reversing, .suspended, .idle], moves (leaving st) (homeLine 1) ∧ calm (leaving st) ∧
      ((leaving st).plant.settleLine 23).active 23 = false ∧ ((leaving st).plant.rake 1).state = st) ∧
    (moves stuck (overloadLine 1) ∧ (stuck.plant.settleLine 25).active 25 = true ∧ calm stuck) ∧
    (moves (settling base 26 .closed) 26 ∧ moves (settling (settled base 26 .closed) 26 .opened) 26) ∧
    (∀ s ∈ [base, auto], moves (settling (settled s 27 .closed) 27 .opened) 27 ∧
      ((settling (settled s 27 .closed) 27 .opened).plant.settleLine 27).active 27 = false) := by decide +kernel

theorem test_witness_pump_inputs :
    let starting := withClaim (withPump (settling base 6 .closed) 0 (fun q => { q with state := .starting })) 0 (held 4)
    let faulted (st : PumpState) := withPump (settling base 17 .closed) 5 (fun q => { q with state := st })
    let lost := withPump (settling (settled base 6 .closed) 6 .opened) 0 (fun q => { q with state := .running })
    let late := withPump base 0 (fun q => { q with state := .starting, feedback := .running 0 })
    (starting.plant.out = [] ∧ starting.plant.loading = false ∧
      starting.plant.lines.stability.get (feedbackLine 0) = .running 0 ∧ starting.plant.feedbackActive 0 = false ∧
      (starting.plant.settleLine (feedbackLine 0)).feedbackActive 0 = true ∧
      (starting.plant.pump 0).state = .starting ∧ 0 ∉ starting.plant.queue ∧
      (starting.plant.claim (pumpHolder 0)).status = .held) ∧
    (∀ st ∈ [PumpState.off, .resting, .starting, .running],
      (faulted st).plant.lines.stability.get (faultLine 5) = .running 0 ∧ (faulted st).plant.faultActive 5 = false ∧
      ((faulted st).plant.settleLine (faultLine 5)).faultActive 5 = true ∧ ((faulted st).plant.pump 5).state = st) ∧
    (lost.plant.lines.stability.get (feedbackLine 0) = .running 0 ∧ lost.plant.feedbackActive 0 = true ∧
      (lost.plant.settleLine (feedbackLine 0)).feedbackActive 0 = false ∧ (lost.plant.pump 0).state = .running) ∧
    ((late.plant.pump 0).state = .starting ∧ (late.plant.pump 0).feedback = .running 0) := by decide +kernel

theorem test_witness_low_low_float :
    let s := withPump (settling auto 27 .closed) 2 (fun q => { q with state := .running })
    s.plant.out = [] ∧ s.plant.loading = false ∧ s.plant.lines.stability.get 27 = .running 0 ∧
    s.plant.lowLowActive = false ∧ (s.plant.settleLine 27).lowLowActive = true ∧
    (s.plant.pump 2).state.inMotion = true ∧ (s.plant.pump 3).state.inMotion = false ∧
    s.plant.faultActive 2 = false := by decide +kernel

/-- To the generator with five pumps running, more than its budget holds, and back to the mains. -/
theorem test_witness_supply :
    let run (s : State) (n : Fin 6) := withClaim (withPump s n (fun q => { q with state := .running })) (pumpHolder n) (held 4)
    let s := [0, 1, 2, 3, 4].foldl run (settling auto 28 .closed)
    let back := withMode (settling (settled base 28 .closed) 28 .opened) (fun m => { m with supply := .generator })
    (s.plant.out = [] ∧ s.plant.loading = false ∧ s.plant.lines.stability.get 28 = .running 0 ∧
      s.plant.onGenerator = false ∧ (s.plant.settleLine 28).onGenerator = true ∧ s.plant.mode.supply = supplyOf (!true) ∧
      (∀ n, (s.plant.claim (pumpHolder n)).status = .held → (s.plant.pump n).state.inMotion = true) ∧
      s.plant.generatorBudget < s.plant.heldUnits ∧ ∀ n, s.plant.faultActive n = false) ∧
    (back.plant.lines.stability.get 28 = .running 0 ∧ back.plant.onGenerator = true ∧
      (back.plant.settleLine 28).onGenerator = false ∧ back.plant.mode.supply = supplyOf (!false) ∧
      ∀ n, (back.plant.claim (pumpHolder n)).status = .held → (back.plant.pump n).state.inMotion = true) := by
  decide +kernel

/-- To the generator with a rake in motion beside the pumps; back to the mains with rakes suspended in either state, one
of them away from home with the home input ACTIVE. -/
theorem test_witness_supply_and_rakes :
    let run (s : State) (n : Fin 6) := withClaim (withPump s n (fun q => { q with state := .running })) (pumpHolder n) (held 4)
    let s := withClaim (withRake ([0, 1, 2].foldl run (settling auto 28 .closed)) 0 (fun r => { r with state := .raking })) 6
      (held 2)
    let back (n : Fin 2) (reversing : Bool) := withClaim (withRake
      (withMode (settling (settled (settled base 28 .closed) 22 .closed) 28 .opened) (fun m => { m with supply := .generator }))
      n (fun r => { r with state := .suspended, fromReversing := reversing, homeLeave := true })) (rakeHolder n)
      { status := .waiting, units := 2 }
    (s.plant.generatorBudget < s.plant.heldUnits ∧ s.plant.rakesInMotion = [0] ∧
      (∀ n, (s.plant.pump n).state.inMotion = true → (s.plant.claim (pumpHolder n)).status = .held)) ∧
    (∀ n reversing, (back n reversing).plant.queue = [] ∧ (back n reversing).plant.rakesWait ∧
      (∀ m, ((back n reversing).plant.claim (pumpHolder m)).status ≠ .waiting) ∧
      (back n reversing).plant.mode.storm = false ∧ (back n reversing).plant.lines.stability.get 28 = .running 0 ∧
      (back n reversing).plant.onGenerator = true ∧ ((back n reversing).plant.settleLine 28).onGenerator = false ∧
      (back n reversing).plant.heldUnits +
        ((allRakes.filter (fun m => ((back n reversing).plant.claim (rakeHolder m)).status = .waiting)).map
          (fun m => ((back n reversing).plant.claim (rakeHolder m)).units)).sum ≤ (back n reversing).plant.mainsBudget ∧
      ((back n reversing).plant.claim (rakeHolder n)).status = .waiting ∧
      ((back n reversing).plant.rake n).state = .suspended ∧ (back n reversing).plant.homeActive n = (n == 0)) := by
  unfold Plant.rakesWait
  decide +kernel

theorem test_witness_beacon :
    let s := base.onPlant (fun p => { p with lines := { p.lines with beaconTimer := .running 0 } })
    s.plant.out = [] ∧ s.plant.lines.beaconTimer = .running 0 := by decide +kernel

/-- A scan of `n` codes. -/
def scanning (s : State) (codes : List Nat) : State := withLevels s (fun l => { l with scan := some { codes := codes, timer := .running 0 } })

theorem test_witness_scan :
    let due := withLevels base (fun l => { l with period := .running 0 })
    let s := scanning base [1, 1, 1, 1, 1, 1]
    due.plant.out = [] ∧ due.plant.levels.period = .running 0 ∧ base.plant.levels.scan = none ∧
    s.plant.levels.scan = some { codes := [1, 1, 1, 1, 1, 1], timer := .running 0 } ∧
    (scanning base [1, 1, 1, 1, 1, 1, 1]).plant.levels.selectSent = some 7 ∧
    (scanning base [1, 1, 1, 1, 1, 1, 1]).plant.levels.scan = some { codes := [1, 1, 1, 1, 1, 1, 1], timer := .running 0 } ∧
    (0xE000 : Word).getLsbD 15 = true ∧ ((0xE000 : Word).extractLsb' 12 3).toNat = 6 := by decide +kernel

/-- An exchange with no reply; a reply with no marker; a wrong echo; the third failure in a row, in LOAD, in AUTO and in
LOCAL. -/
theorem test_witness_failed_scan :
    let s := scanning base []
    let third := withLevels s (fun l => { l with failCount := 2 })
    (s.plant.out = [] ∧ s.plant.levels.scan = some { codes := [], timer := .running 0 } ∧ s.plant.levels.failCount ≠ 2) ∧
    (0x7FFF : Word).getLsbD 15 = false ∧ ((0x9000 : Word).extractLsb' 12 3).toNat ≠ 0 ∧
    third.plant.levels.failCount = 2 ∧ third.plant.loading = false ∧
    ((withChannel third 0 (fun c => { c with state := .good })).plant.levels.channels.get 0).state = .good ∧
    (third.plant.levels.channels.get 1).state ≠ .good ∧
    (let early := withLevels (scanning State.reset []) (fun l => { l with failCount := 2 })
     early.plant.levels.failCount = 2 ∧ early.plant.loading = true) ∧
    (∀ mode ∈ [Mode.auto, .localControl],
      let s := withMode third (fun m => { m with mode := mode })
      s.plant.mode.mode = mode ∧ s.plant.loading = false ∧ s.plant.queue = [] ∧
        (∀ h, (s.plant.claim h).status ≠ .waiting) ∧ s.plant.mode.storm = false ∧
        after .exchangeTimeout s (fun t => t.plant.desired == s.plant.desired) = true) := by decide +kernel

/-- The words of `Plant.SamePosture`, as a test reads them. -/
def samePosture (p q : Plant) : Bool :=
  decide (p.mode.storm = (p.mode.wetWell || p.mode.overflow || p.mode.floatHigh)) &&
    decide (p.mode.overflow = p.anyRecordOpen) && decide (q.mode.wetWell = p.mode.wetWell) &&
    decide (q.mode.floatHigh = p.mode.floatHigh) &&
    decide (∀ n, (q.weir n).openRecord.isSome = (p.weir n).openRecord.isSome)

theorem samePosture_of {p q : Plant} (h : samePosture p q = true) : p.SamePosture q := by
  simp only [samePosture, Bool.and_eq_true, decide_eq_true_eq] at h
  exact ⟨⟨h.1.1.1.1, h.1.1.1.2⟩, h.1.1.2, h.1.2, h.2⟩

/-- Codes at the edges of the fault codes 200 and 4000, in GOOD, at the fourth good sample and before it. -/
theorem test_witness_complete_scan :
    let s := withChannel (withChannel (scanning base [199, 200, 4000, 4001, 200, 200, 200]) 1
      (fun c => { c with state := .good, ring := [1, 2, 3, 4], goodCount := 4 })) 2
      (fun c => { c with ring := [1, 2, 3], goodCount := 3 })
    (s.plant.out = [] ∧ s.plant.levels.scan = some { codes := [199, 200, 4000, 4001, 200, 200, 200], timer := .running 0 } ∧
      (0xF0C8 : Word).getLsbD 15 = true ∧ ((0xF0C8 : Word).extractLsb' 12 3).toNat = 7 ∧ s.plant.loading = false) ∧
    (∀ c, s.plant.lowCode c = 200 ∧ s.plant.highCode c = 4000) ∧
    (s.plant.levels.channels.get 1).state = .good ∧
    ((s.plant.levels.channels.get 2).state ≠ .good ∧ (s.plant.levels.channels.get 2).goodCount + 1 = 4) ∧
    ((s.plant.levels.channels.get 0).state ≠ .good ∧ (s.plant.levels.channels.get 0).goodCount + 1 ≠ 4) := by
  decide +kernel

/-- The consumers of a complete scan: a level that raises storm posture, and one that ends it; with no condition of posture
moved, AUTO, and in LOCAL a rise and a fall of the desired count; a differential that triggers an idle rake. -/
theorem test_witness_scan_consumers :
    let ready (c : Channel) : Channel := { c with state := .good, ring := [3600, 3600, 3600, 3600], goodCount := 4, value := some 4395 }
    let low (c : Channel) : Channel := { c with state := .good, ring := [400, 400, 400, 400], goodCount := 4, value := some 488 }
    let scan (s : State) (c0 : Nat) := scanning s [c0, 3600, 400, 400, 400, 400, 400]
    let rise := scan (withChannel base 0 ready) 3600
    let demanded := withShadow (withPump base 0 (fun q => { q with state := .off })) 8 1
    let fall := (scan (withChannel demanded 0 low) 400).onPlant (fun p => { p with queue := [0], desired := 1 })
    let storming := withMode (scan (withChannel base 0 low) 400) (fun m => { m with wetWell := true, storm := true })
    let tilted := withChannel (withChannel (scan base 400) 1 ready) 2 low
    let reply : Word := 0xF190
    (reply.getLsbD 15 = true ∧ (reply.extractLsb' 12 3).toNat = 7) ∧
    (after (.exchangeReply reply) rise (fun t => t.plant.mode.wetWell && t.plant.mode.storm && decide (0 < t.plant.desired))
      && !rise.plant.mode.wetWell && !rise.plant.mode.storm) = true ∧
    (let standing := withMode rise (fun m => { m with wetWell := true, storm := true })
     after (.exchangeReply reply) standing
      (fun t => samePosture standing.plant t.plant && decide (standing.plant.desired < t.plant.desired)) = true ∧
      standing.plant.mode.mode = .localControl) ∧
    (after (.exchangeReply reply) (scan auto 400) (fun t => samePosture (scan auto 400).plant t.plant) = true ∧
      (scan auto 400).plant.mode.mode ≠ .localControl) ∧
    (after (.exchangeReply reply) fall (fun t => samePosture fall.plant t.plant && decide (t.plant.desired = 0)) = true ∧
      fall.plant.desired = 1 ∧
      fall.plant.mode.mode = .localControl ∧ fall.plant.demandedCount = 1 ∧ fall.plant.queue.Nodup ∧
      ∀ n, n ∈ fall.plant.queue ↔ (fall.plant.pump n).state = .off ∧ fall.plant.demand n = true) ∧
    (after (.exchangeReply reply) storming (fun t => !t.plant.mode.wetWell) = true ∧ storming.plant.mode.overflow = false ∧
      storming.plant.mode.floatHigh = false) ∧
    (after (.exchangeReply reply) tilted
        (fun t => samePosture tilted.plant t.plant && (t.plant.rake 0).counts && !t.plant.mode.storm) = true ∧
      (tilted.plant.rake 0).state = .idle ∧ tilted.plant.mode.storm = false) := by decide +kernel

theorem test_witness_clock_set :
    let s := withClock base (fun c => { c with stagedLow := some 0x1234, staging := .running 0 })
    base.plant.out = [] ∧ base.Takes (base.commandWrite 2 0xFFFF) ∧
    (base.Takes (base.commandWrite 3 0xFFFF) ∧ base.plant.clock.stagedLow = none) ∧
    (s.Takes (s.commandWrite 3 0xFFFF) ∧ s.plant.clock.stagedLow = some 0x1234) ∧ s.plant.clock.staging = .running 0 ∧
    s.plant.loading = false :=
  ⟨by decide +kernel, takes_base _, ⟨takes_base _, by decide +kernel⟩,
    ⟨takes_of (by decide +kernel), by decide +kernel⟩, by decide +kernel, by decide +kernel⟩

/-- In AUTO; in LOCAL with the freshness condition; without it; with UPRST asserted after the access began to wait. -/
theorem test_witness_mode_request :
    let fresh := withMode base (fun m => { m with fresh := true })
    let a : Access := base.commandWrite 0 1
    let late := { fresh with uprst := true, port := .waiting (normalAccess a), prdy := false }
    (auto.plant.out = [] ∧ auto.Takes (auto.commandWrite 0 2) ∧ auto.plant.mode.mode = .auto) ∧
    (fresh.Takes (fresh.commandWrite 0 1) ∧ fresh.plant.mode.mode = .localControl ∧ fresh.plant.mode.fresh = true ∧
      fresh.uprst = false) ∧
    (base.Takes (base.commandWrite 0 1) ∧ base.plant.mode.mode = .localControl ∧ base.plant.mode.fresh = false) ∧
    (late.Takes a ∧ late.plant.mode.mode = .localControl ∧ late.uprst = true) :=
  ⟨⟨by decide +kernel, takes_auto _, by decide +kernel⟩,
    ⟨takes_of (by decide +kernel), by decide +kernel, by decide +kernel, by decide +kernel⟩,
    ⟨takes_base _, by decide +kernel, by decide +kernel⟩,
    ⟨⟨by decide +kernel, by decide +kernel, Or.inr ⟨rfl, rfl⟩, Or.inl (by decide +kernel)⟩, by decide +kernel, by decide +kernel⟩⟩

theorem test_witness_freshness :
    let lapsing (s : State) := withMode s (fun m => { m with freshTimer := .running 0 })
    base.plant.out = [] ∧ base.Takes (base.commandWrite 1 0) ∧
    ((lapsing base).plant.mode.freshTimer = .running 0 ∧ (lapsing base).plant.mode.mode ≠ .auto) ∧
    ((lapsing auto).plant.mode.freshTimer = .running 0 ∧ (lapsing auto).plant.mode.mode = .auto) ∧
    (let run (s : State) (d : Nat) := (withPump (lapsing s) 0 (fun q => { q with state := .running, minRun := .running 5 })).onPlant
        (fun p => { p with desired := d })
     let moving (s : State) := allPumps.filter (fun n => (s.plant.pump n).state.inMotion)
     ((moving (run auto 2)).length ≤ (run auto 2).plant.desired ∧ (run auto 2).plant.rotation.Nodup) ∧
     (run auto 0).plant.desired < (moving (run auto 0)).length) :=
  ⟨by decide +kernel, takes_base _, by decide +kernel, by decide +kernel, by decide +kernel⟩

theorem test_witness_pump_word :
    base.plant.out = [] ∧ base.Takes (base.commandWrite (pumpWord 0) 0xFFFF) ∧
    base.Takes (base.commandWrite (pumpWord 5) 0xFFFF) ∧
    (base.plant.mode.mode ≠ .auto ∧ (5 : Word).getLsbD 1 = base.plant.pumpOosSet 0 ∧ (base.plant.pump 0).state ≠ .tripped ∧
      base.plant.queue = [] ∧ (∀ h, (base.plant.claim h).status ≠ .waiting) ∧ base.plant.mode.storm = false) :=
  ⟨by decide +kernel, takes_base _, takes_base _, by decide +kernel⟩

/-- Each row of R50's table, and what follows a demand. -/
theorem test_witness_run_field :
    let as (st : PumpState) := withPump auto 0 (fun q => { q with state := st })
    let oos := withShadow (as .outOfService) 8 0x0002
    let dry := settled (as .off) 27 .closed
    let limited := withPump auto 0 (fun q => { q with state := .off, history := [0, 0, 0, 0, 0, 0] })
    let running (t : Timer) := withClaim (withShadow (withPump auto 0 (fun q => { q with state := .running, minRun := t })) 8 1) 0 (held 4)
    (auto.plant.out = [] ∧ auto.Takes (auto.commandWrite (pumpWord 0) 1) ∧ auto.plant.mode.mode = .auto ∧
      (1 : Word).getLsbD 1 = auto.plant.pumpOosSet 0 ∧ (1 : Word).getLsbD 2 = false) ∧
    (oos.Takes (oos.commandWrite (pumpWord 0) 3) ∧ (3 : Word).getLsbD 1 = oos.plant.pumpOosSet 0 ∧
      (oos.plant.pump 0).state = .outOfService) ∧
    (∀ st ∈ [PumpState.absent, .tripped, .off, .resting], ((as st).plant.pump 0).state = st ∧
      (as st).memberChosen = none ∧ (as st).plant.demand 0 = false) ∧
    (dry.plant.lowLowActive = true ∧ dry.memberChosen = none) ∧
    (limited.plant.currentLimit 0 ≤ (limited.plant.pump 0).history.length ∧ limited.memberChosen = none) ∧
    (∀ t ∈ [Timer.running 1, Timer.stopped], (running t).plant.demand 0 = true ∧ 0 ∉ (running t).plant.queue ∧
      ((running t).plant.claim (pumpHolder 0)).status = .held ∧ (running t).plant.faultActive 0 = false ∧
      (running t).memberChosen = none) :=
  ⟨⟨by decide +kernel, takes_auto _, by decide +kernel, by decide +kernel, by decide +kernel⟩,
    ⟨takes_of (by decide +kernel), by decide +kernel, by decide +kernel⟩,
    by decide +kernel, by decide +kernel, by decide +kernel, by decide +kernel⟩

theorem test_witness_oos_field :
    let as (st : PumpState) := withPump auto 0 (fun q => { q with state := st })
    let out := withShadow (as .outOfService) 8 2
    (auto.plant.out = [] ∧ auto.plant.loading = false ∧ auto.Takes (auto.commandWrite (pumpWord 0) 3) ∧
      (3 : Word).getLsbD 1 = (!auto.plant.pumpOosSet 0) ∧ (auto.plant.pump 0).state ≠ .absent ∧
      (auto.plant.pump 0).state ≠ .outOfService) ∧
    (((as .absent).plant.pump 0).state = .absent ∧ 0 ∉ (as .absent).plant.queue ∧
      ((as .absent).plant.claim (pumpHolder 0)).status = .none ∧ (as .absent).memberChosen = none) ∧
    (((as .running).plant.pump 0).state.inMotion = true ∧ (as .running).plant.mode.mode = .auto) ∧
    (out.Takes (out.commandWrite (pumpWord 0) 0) ∧ (0 : Word).getLsbD 1 = (!out.plant.pumpOosSet 0) ∧
      (out.plant.pump 0).state = .outOfService ∧ out.plant.faultActive 0 = false) ∧
    ((settled out 12 .closed).plant.faultActive 0 = true ∧ (settled out 12 .closed).memberChosen = none) :=
  ⟨⟨by decide +kernel, by decide +kernel, takes_auto _, by decide +kernel, by decide +kernel, by decide +kernel⟩, by decide +kernel,
    by decide +kernel,
    ⟨takes_of (by decide +kernel), by decide +kernel, by decide +kernel,
      by decide +kernel⟩, by decide +kernel⟩

/-- One second before the minimum off from the trip has gone by, and then; with the fault input ACTIVE. -/
theorem test_witness_reset_field :
    let s (u : Time) := withClock (withPump auto 0 (fun q => { q with state := .tripped, tripUptime := some 0 }))
      (fun c => { c with uptime := u })
    let faulty := settled (s 0) 12 .closed
    (s 179).Takes ((s 179).commandWrite (pumpWord 0) 4) ∧
    ((s 179).plant.out = [] ∧ (s 179).plant.loading = false ∧ (4 : Word).getLsbD 1 = (s 179).plant.pumpOosSet 0 ∧
      (4 : Word).getLsbD 2 = true ∧ ((s 179).plant.pump 0).state = .tripped ∧
      ((s 179).plant.pump 0).tripUptime = some 0 ∧ (s 179).plant.faultActive 0 = false ∧
      ((s 179).plant.clock.uptime - 0).toNat < (s 179).plant.minOffTime 0) ∧
    (s 180).memberChosen = none ∧ (s 180).plant.minOffTime 0 ≤ ((s 180).plant.clock.uptime - 0).toNat ∧
    (faulty.plant.faultActive 0 = true ∧ 0 ∉ faulty.plant.queue ∧
      (faulty.plant.claim (pumpHolder 0)).status = .none ∧ faulty.memberChosen = none) :=
  ⟨takes_of (by decide +kernel), by decide +kernel, by decide +kernel,
    by decide +kernel, by decide +kernel⟩

theorem test_witness_pump_timers :
    let run (d : Bool) := withClaim (withPump auto 0 (fun q => { q with state := .running, minRun := .running 0, deferred := d })) 0
      (held 4)
    let rest (h : List Time) := withPump auto 0 (fun q => { q with state := .resting, minOff := .running 0, history := h })
    let old := withClock (withPump auto 0 (fun q => { q with history := [0, 1] })) (fun c => { c with uptime := 3600 })
    (∀ d, (run d).plant.out = [] ∧ (run d).plant.loading = false ∧ ((run d).plant.pump 0).state = .running ∧
      ((run d).plant.pump 0).minRun = .running 0 ∧ ((run d).plant.pump 0).deferred = d ∧ 0 ∉ (run d).plant.queue ∧
      ((run d).plant.claim (pumpHolder 0)).status = .held ∧ (run d).plant.faultActive 0 = false) ∧
    (((rest []).plant.pump 0).state = .resting ∧ ((rest []).plant.pump 0).minOff = .running 0 ∧
      (rest []).plant.faultActive 0 = false ∧ (rest []).plant.demand 0 = false ∧ (rest []).plant.mode.mode = .auto ∧
      ((rest []).plant.claim (pumpHolder 0)).status ≠ .waiting) ∧
    (settled (rest []) 12 .closed).plant.faultActive 0 = true ∧
    ((withShadow (rest [0, 0, 0, 0, 0]) 8 1).plant.demand 0 = true ∧
      ((rest [0, 0, 0, 0, 0]).plant.pump 0).history.length < (rest [0, 0, 0, 0, 0]).plant.currentLimit 0) ∧
    ((rest [0, 0, 0, 0, 0, 0]).plant.currentLimit 0 ≤ ((rest [0, 0, 0, 0, 0, 0]).plant.pump 0).history.length) ∧
    ((old.plant.pump 0).history = 0 :: [1] ∧ 3600 ≤ (old.plant.clock.uptime - 0).toNat ∧ old.plant.mode.mode = .auto ∧
      0 ∉ old.plant.queue ∧ (old.plant.claim (pumpHolder 0)).status ≠ .waiting) ∧
    ((run false).plant.queue = [] ∧ (∀ h, ((run false).plant.claim h).status ≠ .waiting) ∧
      (run false).plant.mode.storm = false ∧
      (∀ n, ((run false).plant.alarms.points.get (tripPoint n)).condition = (run false).plant.tripCondition n ∧
        ((run false).plant.alarms.points.get (limitPoint n)).condition = (run false).plant.limitCondition n) ∧
      (∀ n, ((run false).plant.alarms.points.get (jamPoint n)).condition = (((run false).plant.rake n).state == .jammed) ∧
        ((run false).plant.alarms.points.get (blindedPoint n)).condition = ((run false).plant.rake n).blinded ∧
        ((run false).plant.alarms.points.get (heldPoint n)).condition = ((run false).plant.rake n).held) ∧
      ((run false).plant.alarms.points.get 31).condition = (run false).plant.floatHighActive ∧
      ((run false).plant.alarms.points.get 32).condition = (run false).plant.lowLowActive) := by decide +kernel

/-- An empty queue; a head whose units just fit, and one that fits by the units of a raking rake. -/
theorem test_witness_stagger :
    let s := auto.onPlant (fun p => { p with stagger := .running 0 })
    let q := s.onPlant (fun p => { p with queue := [0] })
    let full := [1, 2, 3, 4, 5].foldl (fun t n => withClaim t (pumpHolder n) (held 4)) q
    let raking := withRake (withClaim (withClaim full 6 (held 2)) 7 (held 2)) 0 (fun r => { r with state := .raking })
    (s.plant.out = [] ∧ s.plant.loading = false ∧ s.plant.stagger = .running 0 ∧ s.plant.queue = [] ∧
      ∀ n, (s.plant.claim (pumpHolder n)).status ≠ .waiting) ∧
    (full.plant.stagger = .running 0 ∧ full.plant.queue = 0 :: [] ∧ (∀ m, (full.plant.pump m).state ≠ .starting) ∧
      (∀ m, (full.plant.claim (pumpHolder m)).status ≠ .waiting) ∧ (full.plant.claim (pumpHolder 0)).status = .none ∧
      full.plant.heldUnits + full.plant.pumpUnits 0 = full.plant.budget) ∧
    (raking.plant.budget < raking.plant.heldUnits + raking.plant.pumpUnits 0 ∧
      raking.plant.heldUnits + raking.plant.pumpUnits 0 ≤ raking.plant.budget + raking.plant.rakeHeldUnits ∧
      ∀ m, (raking.plant.claim (rakeHolder m)).status = .held ∧
        raking.plant.budget + raking.plant.rakeHeldUnits <
          raking.plant.heldUnits + raking.plant.pumpUnits 0 + (raking.plant.claim (rakeHolder m)).units) ∧
    (let tight := withRake (withClaim raking 5 (held 5)) 1 (fun r => { r with state := .reversing })
     tight.plant.rakesHold ∧ tight.plant.budget + tight.plant.rakeHeldUnits < tight.plant.heldUnits + tight.plant.pumpUnits 0 ∧
       (tight.plant.claim (pumpHolder 0)).status = .none ∧ tight.plant.queue = 0 :: []) := by
  unfold Plant.rakesHold
  decide +kernel

theorem test_witness_screen_word :
    base.plant.out = [] ∧ base.Takes (base.commandWrite (screenWord 0) 0xFFFF) ∧
    base.Takes (base.commandWrite (screenWord 1) 0) := ⟨by decide +kernel, takes_base _, takes_base _⟩

theorem test_witness_screen_fields :
    let s (st : RakeState) := withRake base 0 (fun r => { r with state := st })
    let out := withShadow (s .outOfService) 16 2
    (base.plant.out = [] ∧ base.plant.loading = false ∧ (s .suspended).Takes ((s .suspended).commandWrite (screenWord 0) 2) ∧
      (2 : Word).getLsbD 1 = true ∧ (s .suspended).plant.screenOosSet 0 = false ∧
      ((s .suspended).plant.rake 0).state = .suspended) ∧
    (out.Takes (out.commandWrite (screenWord 0) 0) ∧ out.plant.screenOosSet 0 = true ∧
      (out.plant.rake 0).state = .outOfService ∧ out.plant.mode.storm = false ∧
      (out.plant.claim (rakeHolder 0)).status = .none) ∧
    ((s .jammed).Takes ((s .jammed).commandWrite (screenWord 0) 4) ∧
      (4 : Word).getLsbD 1 = (s .jammed).plant.screenOosSet 0 ∧ ((s .jammed).plant.rake 0).state = .jammed ∧
      ((s .jammed).plant.claim (rakeHolder 0)).status = .none ∧ (s .jammed).plant.overloadActive 0 = false ∧
      (settled (s .jammed) 24 .closed).plant.overloadActive 0 = true ∧ (settled (s .jammed) 24 .closed).memberChosen = none) :=
  ⟨⟨by decide +kernel, by decide +kernel, takes_of (by decide +kernel), by decide +kernel, by decide +kernel,
      by decide +kernel⟩,
    ⟨takes_of (by decide +kernel), by decide +kernel, by decide +kernel, by decide +kernel,
      by decide +kernel⟩,
    ⟨takes_of (by decide +kernel), by decide +kernel, by decide +kernel,
      by decide +kernel, by decide +kernel, by decide +kernel, by decide +kernel⟩⟩

/-- At the interval's end and by command; with units that just fit, and one unit more held. -/
theorem test_witness_triggered_rake :
    let due := withRake base 0 (fun r => { r with interval := .running 0 })
    (due.plant.out = [] ∧ due.plant.loading = false ∧ (due.plant.rake 0).interval = .running 0 ∧
      (due.plant.rake 0).state = .idle ∧ (due.plant.claim (rakeHolder 0)).status = .none ∧ due.plant.queue = [] ∧
      (∀ m, (due.plant.claim (pumpHolder m)).status ≠ .waiting) ∧
      (∀ m, m ≠ 0 → (due.plant.claim (rakeHolder m)).status ≠ .waiting)) ∧
    (base.Takes (base.commandWrite (screenWord 0) 1) ∧ (1 : Word).getLsbD 0 = true ∧
      (1 : Word).getLsbD 1 = base.plant.screenOosSet 0) ∧
    ((withClaim due 0 (held 22)).plant.heldUnits + due.plant.rakeUnits 0 = due.plant.budget ∧
      (settled due 24 .closed).plant.overloadActive 0 = true) ∧
    ((withClaim due 0 (held 23)).plant.budget < (withClaim due 0 (held 23)).plant.heldUnits + due.plant.rakeUnits 0 ∧
      due.plant.mode.storm = false) :=
  ⟨by decide +kernel, ⟨takes_base _, by decide +kernel, by decide +kernel⟩, by decide +kernel, by decide +kernel⟩

theorem test_witness_rake_timers :
    let s (f : Rake → Rake) := withClaim (withRake base 1 f) 7 (held 2)
    let raking := s (fun r => { r with state := .raking, cycle := .running 0 })
    let back (n : Nat) := s (fun r => { r with state := .reversing, reverse := .running 0, attempts := n })
    let home (n : Nat) := settled (withRake (back n) 1 (fun r => { r with homeLeave := true })) 23 .closed
    let waiting := withClaim (withClaim (withRake base 1 (fun r => { r with state := .waiting, hold := .running 0 })) 7
      { status := .waiting, units := 2 }) 0 (held 23)
    (raking.plant.out = [] ∧ raking.plant.loading = false ∧ (raking.plant.rake 1).state = .raking ∧
      (raking.plant.rake 1).cycle = .running 0) ∧
    (((back 4).plant.rake 1).state = .reversing ∧ ((back 4).plant.rake 1).reverse = .running 0 ∧
      (back 4).plant.retryLimit 1 < ((back 4).plant.rake 1).attempts) ∧
    (((back 3).plant.rake 1).attempts = (back 3).plant.retryLimit 1 ∧ (back 3).plant.queue = [] ∧
      (∀ m, ((back 3).plant.claim (pumpHolder m)).status ≠ .waiting) ∧
      ((back 3).plant.claim (rakeHolder 1)).status = .held ∧ (back 3).plant.overloadActive 1 = false ∧
      ((back 3).plant.rake 1).homeLeave = false ∧ (back 3).plant.mode.storm = false ∧
      ((home 3).plant.rake 1).homeLeave = true ∧ (home 3).plant.homeActive 1 = true ∧
      (settled (back 3) 25 .closed).plant.overloadActive 1 = true) ∧
    ((waiting.plant.rake 1).state = .waiting ∧ (waiting.plant.rake 1).hold = .running 0 ∧ waiting.plant.queue = [] ∧
      (∀ m, (waiting.plant.claim (pumpHolder m)).status ≠ .waiting) ∧
      (∀ m, (waiting.plant.claim (rakeHolder m)).status = .waiting →
        waiting.plant.budget < waiting.plant.heldUnits + (waiting.plant.claim (rakeHolder m)).units) ∧
      waiting.plant.mode.storm = false) := by decide +kernel

theorem test_witness_confirm_timers :
    let rising := withWeir base 2 (fun w => { w with state := .rising, startConfirm := .running 0, level := some 1520 })
    let falling := withWeir base 2 (fun w =>
      { w with state := .falling, endConfirm := .running 0, openRecord := some record, level := some 1499 })
    (rising.plant.out = [] ∧ rising.plant.loading = false ∧ (rising.plant.weir 2).state = .rising ∧
      (rising.plant.weir 2).startConfirm = .running 0) ∧
    ((falling.plant.weir 2).state = .falling ∧ (falling.plant.weir 2).endConfirm = .running 0 ∧
      (falling.plant.weir 2).openRecord = some record) := by decide +kernel

/-- Levels at the crest 1500 and the start level 1520, and just below each. -/
theorem test_witness_weir_level :
    let s (st : WeirState) (r : Option OverflowRecord) (v : Nat) :=
      (withWeir (withChannel base 5 (fun c => { c with state := .good, value := some v })) 0
        (fun w => { w with state := st, openRecord := r })).plant
    (base.plant.weirPresent 0 = true ∧ base.plant.crest 0 = 1500 ∧ base.plant.startMargin 0 = 20 ∧
      base.plant.startConfirmTime 0 ≠ 0 ∧ base.plant.endConfirmTime 0 ≠ 0) ∧
    (∀ v ∈ [1499, 1500, 1519, 1520],
      ((s .normal none v).levels.channels.get (weirChannel 0)).state = .good ∧
      ((s .normal none v).levels.channels.get (weirChannel 0)).value = some v ∧
      ((s .normal none v).weir 0).state = .normal ∧ ((s .normal none v).weir 0).openRecord = none ∧
      ((s .rising none v).weir 0).state = .rising ∧
      ((s .overflowing (some record) v).weir 0).openRecord = some record ∧
      ((s .falling (some record) v).weir 0).state = .falling) ∧
    (let at0 := (s .overflowing (some record) 1499).setSection 4
        { (base.plant.sections.get 4) with words := ((defaultSection 4).set 3 0).set 4 0 }
     at0.startConfirmTime 0 = 0 ∧ at0.endConfirmTime 0 = 0 ∧ at0.weirPresent 0 = true ∧ at0.crest 0 = 1500 ∧
       (at0.weir 0).state = .overflowing ∧ (at0.weir 0).openRecord = some record ∧ at0.loading = false) ∧
    ((withWeir base 0 (fun w => { w with state := .falling, openRecord := some record })).plant.levels.channels.get
      (weirChannel 0)).state ≠ .good := by decide +kernel

theorem test_witness_flow :
    let curve : List (Nat × Nat) := [(10, 4), (20, 9)]
    (curve.map Prod.fst).Pairwise (· < ·) ∧ (curve.map Prod.snd).Pairwise (· ≤ ·) ∧ curve.head? = some (10, 4) ∧
    curve[0]? = some (10, 4) ∧ curve[0 + 1]? = some (20, 9) ∧ curve.getLast? = some (20, 9) ∧ 10 < 15 ∧ 15 < 20 := by decide +kernel

theorem test_witness_acknowledge :
    let s := withPoint base 39 { condition := false, state := .returnedUnack }
    s.plant.out = [] ∧ s.Takes (s.commandWrite 4 (BitVec.ofNat 16 39)) ∧ s.Takes (s.commandWrite 4 0x0083) ∧
    s.Takes (s.commandWrite 4 0x00FF) ∧
    [(0x0028 : Word), 0x007F, 0x0084, 0x0100].all (fun v =>
      decide (0x27 < v.toNat ∧ (v.toNat < 0x80 ∨ 0x83 < v.toNat) ∧ v ≠ 0x00FF)) = true :=
  ⟨by decide +kernel, takes_of (by decide +kernel),
    takes_of (by decide +kernel),
    takes_of (by decide +kernel), by decide +kernel⟩

theorem test_witness_handed_condition :
    let s := withPoint base 0 { condition := true, state := .activeUnack }
    base.plant.loading = false ∧ (base.plant.alarms.points.get 0).condition = false ∧
    (s.plant.alarms.points.get 0).condition = true ∧ (s.plant.alarms.points.get 0).state = .activeUnack ∧
    s.plant.pointLatches 0 = true := by decide +kernel

theorem test_witness_staging :
    let s (n : Nat) := withLog base (fun l => { l with staging := some (List.replicate n 0) })
    base.plant.out = [] ∧ base.Takes (base.portWrite 0 0x0080) ∧ base.Takes (base.stagingByte 9 true 0xFF) ∧
    (base.Takes (base.portWrite (2 + 2 * (7 : Fin 8).val) 0) ∧ base.log.staging = none) ∧
    ((s 8).Takes ((s 8).portWrite (2 + 2 * (7 : Fin 8).val) 0) ∧ (s 8).log.staging = some (List.replicate 8 0) ∧
      (List.replicate 8 (0 : Word)).length = (7 : Fin 8).val + 1) :=
  ⟨by decide +kernel, takes_base _, takes_base _, ⟨takes_base _, by decide +kernel⟩,
    ⟨takes_of (by decide +kernel), by decide +kernel, by decide +kernel⟩⟩

/-- Kinds 0x7F, 0x80, 0xFE and 0xFF; detail lengths 17 and 18; and a staging of eight words. -/
theorem test_witness_commit :
    let s (ws : List Word) := withLog base (fun l => { l with staging := some ws })
    let words (kind len : Word) : List Word := [kind, len] ++ List.replicate 7 0
    (∀ ws, (s ws).log.staging = some ws) ∧
    ((s (words 0x80 17)).plant.out = [] ∧ (s (words 0x80 17)).Takes ((s (words 0x80 17)).portWrite 0x12 0)) ∧
    (words 0x7F 17).length = 9 ∧ (words 0xFF 18).length = 9 ∧ (words 0xFE 18).length = 9 ∧
    (List.replicate 8 (0 : Word)).length ≠ 9 ∧ base.log.staging = none :=
  ⟨fun _ => rfl, ⟨by decide +kernel, takes_of (by decide +kernel)⟩, by decide +kernel, by decide +kernel, by decide +kernel⟩

theorem test_witness_advance :
    let s := withLog base (fun l => { l with t := 2, a := 2 })
    (s.plant.out = [] ∧ s.Takes (s.portWrite 0x70 0xFFFF) ∧ s.log.p < s.log.t ∧ s.plant.loading = false ∧
      s.log.t < 4294967296) ∧
    (base.Takes (base.portWrite 0x70 0) ∧ base.log.t ≤ base.log.p) :=
  ⟨⟨by decide +kernel, takes_of (by decide +kernel), by decide +kernel, by decide +kernel, by decide +kernel⟩,
    takes_base _, by decide +kernel⟩

/-- A ring not full, one full, and the end of an urgent entry's burst. -/
theorem test_witness_log_writer :
    let s := withLog base (fun l => { l with queue := [queued 1 true], a := 2 })
    let full := withLog base (fun l => { l with queue := [queued 1025 false], t := 1025, a := 1026 })
    let writing := { s with holder := .logWriter (queued 1 true) }
    (s.plant.out = [] ∧ s.log.queue = queued 1 true :: [] ∧ s.grantsMember .logWriter = true ∧
      s.log.t - s.log.o ≠ s.capacity) ∧
    (full.grantsMember .logWriter = true ∧ full.log.t - full.log.o = full.capacity ∧ full.plant.loading = false) ∧
    (writing.holder = .logWriter (queued 1 true) ∧ writing.mem.wf ∧ (queued 1 true).urgent = true ∧
      writing.reporter.urgent.length < 8 ∧ (writing.reporter.urgent.map Prod.fst).Pairwise (· < ·)) := by decide +kernel

theorem test_witness_access :
    let a (write : Bool) (lanes : Lanes) : Access := { wordAddr := 0x7C005, write := write, lanes := lanes, data := 0xABCD }
    let s (write : Bool) (lanes : Lanes) := { base with port := .granted (a write lanes) .forward, holder := .upstream }
    (base.plant.out = [] ∧ base.port = .idle ∧ base.uprst = false) ∧
    (({ base with uprst := true } : State).uprst = true ∧ ({ base with uprst := true } : State).prdy = true ∧
      (s true .word).uprst = false ∧ (s true .word).port ≠ .idle) ∧
    (∀ write lanes, (s write lanes).port = .granted (a write lanes) .forward ∧ (s write lanes).mem.wf) ∧
    base.shadowPlace (Verdict.forward.address (a true .word)) = some 5 ∧ base.shadowPlace 0 = none :=
  ⟨by decide +kernel, by decide +kernel, fun _ _ => ⟨rfl, Memory.wf_nil⟩, by decide +kernel, by decide +kernel⟩

/-- An access for each region, granted. -/
theorem test_witness_classifier :
    let a (address : Nat) (write : Bool) (lanes : Lanes) : Access :=
      { wordAddr := BitVec.ofNat 23 (address / 2), write := write, lanes := lanes, data := 0 }
    let s (x : Access) := { base with port := .waiting (normalAccess x), prdy := false }
    (∀ x, (s x).plant.out = [] ∧ (s x).port = .waiting (normalAccess x) ∧ (s x).Takes x) ∧
    base.Takes (base.entryRead 15 .high) ∧
    (∀ address ∈ [0x000000, 0x0F8040, 0x0F8400, 0x0F0000, 0x0F8114, 0x0F8140, 0x0F8170, 0x0F8000, 0x0F800A, 0x0FE020,
        0x0FF022, 0x0FF026, 0x0FE0FE],
      accessAddress (a address true .word) = address) ∧
    (regionOf base.windows 0x0F800A = .commandWord 5 ∧ spareWord 5 = true ∧
      regionOf [{ kind := .shield, base := 0x100, exp := 8 }] 0x1FE = .shield ∧
      regionOf base.windows 0x0FF026 = .settings .stored 0x26 ∧ sectionAt ⟨0x26 / 2, by decide +kernel⟩ = none ∧
      regionOf base.windows 0x0FE024 = .settings .trial 0x24) :=
  ⟨fun _ => ⟨rfl, rfl, rfl, rfl, Or.inr ⟨rfl, rfl⟩, Or.inl base_asks_nothing⟩, takes_base _,
    by decide +kernel, by decide +kernel⟩

theorem test_witness_corrector :
    let s := base.onPlant (fun p => { p with corr := [31, 0] })
    (s.plant.corr = 31 :: [0] ∧ s.grantsMember .corrector = true) ∧
    (({ s with holder := .corrector 31 0 } : State).holder = .corrector 31 0 ∧ s.mem.wf) := by decide +kernel

theorem test_witness_deposit :
    let s := markPage { base with deposits := { base.deposits with scanPos := 15 } } 14
    (s.grantsMember .deposit = true ∧ s.deposits.dirty.get 14 = true ∧
      (∀ j : Fin 16, (j.val + 16 - s.deposits.scanPos % 16) % 16 < ((14 : Fin 16).val + 16 - s.deposits.scanPos % 16) % 16 →
        s.deposits.dirty.get j = false)) ∧
    (({ base with holder := .deposit 15 [1] } : State).holder = .deposit 15 [1] ∧ base.mem.wf) := by decide +kernel

/-- The five refusals and the opening, at the edges of the values. -/
theorem test_witness_enable :
    let t : Transaction := { range := .stored, sec := 1, next := 0x200, received := 0, forwarded := 0, staging := []
                             idle := .running 10 }
    let locked := { base with settings := { base.settings with lock := 0x100 } }
    base.plant.out = [] ∧ (∀ range v, base.Takes (wordWrite (rangeBase range + 0x20) v)) ∧
    ((withTxn base t).settings.txn ≠ none ∧ (withTxn base t).memberChosen = none) ∧
    ((0xDFFF : Word).toNat < 0xE000 ∧ 0xE008 < (0xE009 : Word).toNat ∧ ¬ (0xE008 : Word).toNat < 0xE000) ∧
    (locked.settings.lock.getLsbD ((0xE008 : Word).toNat - 0xE000) = true ∧ locked.memberChosen = none ∧
      base.settings.lock.getLsbD ((0xE008 : Word).toNat - 0xE000) = false) :=
  ⟨by decide +kernel, fun _ _ => takes_base _, ⟨by decide +kernel, by decide +kernel⟩, by decide +kernel, ⟨by decide +kernel, by decide +kernel, by decide +kernel⟩⟩

/-- A word accepted, one out of order, the last word of H good, with a wrong sum, and with bad content; the idle timer. -/
theorem test_witness_section_words :
    let t (ws : List Word) : Transaction := { range := .stored, sec := 8, next := 2 * ws.length, received := ws.length
                                              forwarded := ws.length, staging := ws, idle := .running 0 }
    let good := (defaultSection 8).take 15
    let s := withTxn base (t good)
    (base.plant.out = [] ∧ (sectionAt 15).isSome = true ∧ base.Takes (settingsAccess .stored 15 .word 0xB8AC) ∧
      base.settings.txn = none) ∧
    (s.settings.txn = some (t good) ∧ s.memberChosen = none ∧ sectionAt 15 = some (t good).sec ∧
      2 * (15 : Fin 2048).val = (t good).next ∧ (t good).received + 1 = sectionLength (t good).sec ∧
      blockValid (good ++ [0xB8AC]) = true ∧ contentGood 8 (good ++ [0xB8AC]) = true ∧
      blockValid (good ++ [0xB8AD]) = false ∧ (t good).idle = .running 0) ∧
    (blockValid (0xFFFF :: List.replicate 14 0 ++ [0]) = true ∧
      contentGood 8 (0xFFFF :: List.replicate 14 0 ++ [0]) = false) ∧
    ((t (good.take 14)).received + 1 ≠ sectionLength (t (good.take 14)).sec ∧ 2 * (14 : Fin 2048).val = (t (good.take 14)).next) :=
  ⟨⟨by decide +kernel, by decide +kernel, takes_base _, by decide +kernel⟩, by decide +kernel, by decide +kernel, by decide +kernel⟩

/-- A section's defaults with some words changed, and its check word. -/
def changed (sec : Fin 9) (words : List (Nat × Word)) : List Word :=
  let body := words.foldl (fun ws w => ws.set w.1 w.2) (defaultSection sec)
  sealBlock body.length (body.take (body.length - 1))

/-- R144: a start level above 9999 passes, in its order; the first out of its order fails. -/
theorem test_start_levels_have_no_range :
    contentGood 2 (changed 2 [(47, 12000)]) = true ∧ contentGood 2 (changed 2 [(42, 12000)]) = false := by decide +kernel

/-- `s` with every word of the section accepted but the last. -/
def committing (s : State) (sec : Fin 9) (ws : List Word) : State :=
  withTxn s { range := .stored, sec := sec, next := sectionOffset sec + 2 * (ws.length - 1), received := ws.length - 1
              forwarded := ws.length - 1, staging := ws.take (ws.length - 1), idle := .running 10 }

/-- The last word commits the section. -/
def commits (s : State) (sec : Fin 9) (ws : List Word) (good : State → Bool) : Bool :=
  after (.settingsSectionWord .stored ⟨(sectionOffset sec / 2 + (ws.length - 1)) % 2048, Nat.mod_lt _ (by decide)⟩ .word
    (ws.getLastD 0)) (committing s sec ws)
    (fun t => t.settings.last == some { sec := sec, range := .stored, result := .commit } && good t)

/-- R145: commits that each clause of the effects speaks of. A pump and a rake leave, and come back; the budget, the
freshness limit, the storm and start levels, and a float's sense change; a weir leaves with a record open, and a crest
moves; curves, classes and the link's settings are replaced. -/
theorem test_witness_commit_effects :
    let running := withClaim (withPump auto 0 (fun q => { q with state := .running, history := [0, 0, 0] })) 0 (held 4)
    let raking := withClaim (withRake base 1 (fun r => { r with state := .raking })) 7 (held 2)
    let spill := withWeir base 2 (fun w => { w with state := .overflowing, openRecord := some record })
    commits running 1 (changed 1 [(0, 0), (20, 1)]) (fun t => !t.plant.pumpPresent 0 && (t.plant.pump 0).state == .absent) = true ∧
    (let five := auto.onPlant (fun p => { p with
       sections := vset p.sections 1 { p.sections.get 1 with words := changed 1 [(80, 0)] }
       pumps := Vector.ofFn (fun n : Fin 6 =>
         { p.pumps.get n with state := if n = 5 then PumpState.absent else PumpState.resting }) })
     commits five 1 (changed 1 [])
        (fun t => t.plant.pumpPresent 5 && decide (∀ n, five.plant.pumpPresent n = true → t.plant.pumpPresent n = true)) = true ∧
      five.plant.pumpPresent 5 = false ∧ ∀ n, five.plant.pumpPresent n = false → (five.plant.pump n).state = .absent) ∧
    commits running 2 (changed 2 [(36, 3), (37, 3)]) (fun t => decide (t.plant.budget = 3) && t.plant.mode.loadShed) = true ∧
    commits auto 2 (changed 2 [(35, 2)]) (fun t => decide (t.plant.freshnessLimit ≠ auto.plant.mode.freshLimit)) = true ∧
    commits (withChannel auto 0 (fun c => { c with state := .good, value := some 900 })) 2 (changed 2 [(38, 800), (42, 700)])
      (fun t => t.plant.mode.wetWell && decide (t.plant.startLevels ≠ auto.plant.startLevels)) = true ∧
    commits running 2 (changed 2 [(1, 0x0800)]) (fun t => t.plant.lowLowActive && !(t.plant.pump 0).state.inMotion) = true ∧
    commits raking 3 (changed 3 [(16, 0)]) (fun t => !t.plant.rakePresent 1) = true ∧
    commits (raking.onPlant (fun p => p.setSection 3 { p.sections.get 3 with words := changed 3 [(0, 0)] })) 3 (changed 3 [])
      (fun t => t.plant.rakePresent 0) = true ∧
    commits spill 4 (changed 4 [(16, 0)]) (fun t => !t.plant.weirPresent 2 && (t.plant.weir 2).lastClosed.isSome) = true ∧
    commits spill 4 (changed 4 [(17, 1400)]) (fun t => decide (t.plant.crest 2 = 1400)) = true ∧
    commits spill 5 (changed 5 ((List.range 16).flatMap (fun k => [(2 * k, BitVec.ofNat 16 (9 * k)), (2 * k + 1, 5)])))
      (fun t => (t.plant.curve 0).isSome) = true ∧
    commits base 6 (changed 6 [(0, 2)]) (fun _ => true) = true ∧
    commits base 7 (changed 7 [(3, 9)]) (fun t => t.link.pendingS7 == none) = true ∧
    commits (withTx base (.pending (frameOf .reply))) 7 (changed 7 [(3, 9)]) (fun t => t.link.pendingS7 != none) = true := by
  decide +kernel

theorem test_witness_lock_and_freeze :
    let t : Transaction := { range := .stored, sec := 1, next := 0x200, received := 0, forwarded := 0, staging := []
                             idle := .running 10 }
    let frozen := { base with settings := { base.settings with freeze := true } }
    base.plant.out = [] ∧ (∀ v, base.Takes (wordWrite 0x0FF022 v) ∧ base.Takes (wordWrite 0x0FF024 v)) ∧
    ((withTxn base t).settings.txn ≠ none ∧ frozen.settings.freeze = true ∧ frozen.memberChosen = none) ∧
    ((0x81FF : Word) &&& 0xFE00 = 0x8000 ∧ (0x8200 : Word) &&& 0xFE00 ≠ 0x8000 ∧ (0x01FF : Word) &&& 0xFE00 ≠ 0x8000) :=
  ⟨by decide +kernel, fun _ => ⟨takes_base _, takes_base _⟩, ⟨by decide +kernel, by decide +kernel, by decide +kernel⟩, by decide +kernel⟩

theorem test_witness_check_words : (List.replicate 18 (0 : Byte)).length ≤ 18 := by decide +kernel

/-- The receiver in each state; a length byte of 96 and 97; a character of each judgment. -/
theorem test_witness_receiver :
    let s (st : RxState) (header : List Byte) (high : Option Byte) := withRx base (fun r =>
      { r with state := st, header := header, crcHigh := high, gap := some 40 })
    (base.plant.out = [] ∧ base.load = .none ∧ State.reset.load ≠ .none ∧ State.reset.plant.out = []) ∧
    ((s .header [1, 1] none).link.rx.state = .header ∧ (s .header [1, 1] none).link.rx.header.length < 3 ∧
      (s .header [1, 1] none).link.rx.gap ≠ none ∧ (s .header [1, 1] none).link.rx.inBreak = false) ∧
    ((s .header [1, 1, 1] none).link.rx.header.length = 3 ∧ (0x60 : Byte).toNat ≤ 96 ∧ 96 < (0x61 : Byte).toNat) ∧
    ((s .payload [1, 1, 1, 1] none).link.rx.state = .payload ∧ (s .check [1, 1, 1, 0] none).link.rx.crcHigh = none ∧
      (s .check [1, 1, 1, 0] (some 0xFF)).link.rx.crcHigh = some 0xFF ∧
      (0xFF : Byte) ++ (0xFF : Byte) = (s .check [1, 1, 1, 0] (some 0xFF)).link.rx.crc ∧
      (0xFF : Byte) ++ (0xFE : Byte) ≠ (s .check [1, 1, 1, 0] (some 0xFF)).link.rx.crc) ∧
    (base.link.rx.state = .hunt ∧ (withRx base (fun r => { r with inBreak := true })).link.rx.inBreak = true) := by
  decide +kernel

theorem test_witness_frame_sent :
    let payload : List Byte := List.replicate 96 0xC3
    base.link.rx.state = .hunt ∧ base.link.rx.inBreak = false ∧ payload.length ≤ 96 ∧ base.link.stationAddress = 1 ∧
    (withTx base (.sending (frameOf .alert))).link.tx = .sending (frameOf .alert) ∧ (∀ f, base.link.tx ≠ .sending f) :=
  ⟨by decide +kernel, by decide +kernel, by decide +kernel, by decide +kernel, rfl, fun _ h => nomatch h⟩

/-- A frame over the line, received as it was sent. -/
theorem test_frame_round_trip :
    let f : TxFrame := { address := 1, kind := 0x01, tag := 9, payload := [1, 0, 0, 0], owner := .reply }
    ((f.characters.map (fun b =>
      ({ data := b, parityBit := false, stopBit := true, underRts := false } : LineChar))).foldl Link.receive base.link).inbox =
      [{ broadcast := false, kind := 0x01, tag := 9, payload := [1, 0, 0, 0] }] := by decide +kernel

theorem test_witness_transmitter :
    (base.plant.out = [] ∧ base.load = .none ∧ State.reset.load ≠ .none ∧ State.reset.plant.out = []) ∧
    (withTx base (.pending (frameOf .reply))).link.tx = .pending (frameOf .reply) ∧
    (withTx base (.keying (frameOf .alert) (.running 0))).link.tx = .keying (frameOf .alert) (.running 0) := by decide +kernel

/-- The sent indication of a reply; of an ALERT, the second and the third of its cycle; of a disowned ALERT; an S7 pending. -/
theorem test_witness_sent :
    let s (o : TxOwner) := withTx base (.sending (frameOf o))
    let reply := withReporter (s .reply) (fun r => { r with slot := .held replyOf })
    let alert (n : Nat) := withReporter (s .alert) (fun r =>
      { r with cycle := some { sends := n, phase := .sending, timer := .stopped } })
    let pending := withLink reply (fun l => { l with pendingS7 := some defaultS7 })
    (∀ o, (s o).plant.out = [] ∧ (s o).load = .none ∧ (s o).link.tx = .sending (frameOf o) ∧ (frameOf o).owner = o) ∧
    (reply.reporter.slot = .held replyOf ∧ reply.reporter.waiting = none ∧ reply.reporter.cycle = none) ∧
    ((alert 1).reporter.cycle = some { sends := 1, phase := .sending, timer := .stopped } ∧
      (alert 1).reporter.slot = .none ∧ 1 + 1 < 3 ∧ 3 ≤ 2 + 1) ∧
    (pending.link.pendingS7 = some defaultS7 ∧ pending.link.rx.state = .hunt ∧ reply.link.pendingS7 = none) ∧
    ((s .disowned).reporter.cycle = none ∧ (s .disowned).reporter.slot = .none) :=
  ⟨fun _ => ⟨rfl, rfl, rfl, rfl⟩, by decide +kernel, by decide +kernel, by decide +kernel, by decide +kernel⟩

/-- A POLL, an ALARM_ACK and a CLOCK_SET that wait at the sent indication of a reply, without and with an ALERT refused BUSY;
a reply in READY at the sent indication of an ALERT. -/
theorem test_witness_waiting :
    let s (w : TownFrame) := withReporter (withTx base (.sending (frameOf .reply))) (fun r =>
      { r with slot := .held replyOf, waiting := some w })
    let frame (kind : Byte) (payload : List Byte) : TownFrame := { broadcast := false, kind := kind, tag := 9, payload := payload }
    let busy := withReporter (s (frame 0x02 [0xFF])) (fun r =>
      { r with cycle := some { sends := 1, phase := .ready [1], timer := .stopped } })
    let ready := withReporter (withTx base (.sending (frameOf .alert))) (fun r =>
      { r with slot := .ready replyOf, cycle := some { sends := 1, phase := .sending, timer := .stopped } })
    ((s (frame 0x01 [1, 0, 0, 0])).reporter.waiting = some (frame 0x01 (natBytes 4 (1 : BitVec 32).toNat)) ∧
      (s (frame 0x03 [1, 0, 0, 0])).reporter.waiting = some (frame 0x03 (natBytes 4 (1 : Time).toNat)) ∧
      (s (frame 0x02 [39])).reporter.slot = .held replyOf ∧ (s (frame 0x02 [39])).link.inbox = [] ∧
      (s (frame 0x02 [39])).reporter.cycle = none ∧ (∀ b ∈ [(39 : Byte)], b.toNat ≤ 39) ∧
      (s (frame 0x02 [39])).plant.out = [] ∧ (s (frame 0x02 [39])).load = .none) ∧
    busy.reporter.cycle = some { sends := 1, phase := .ready [1], timer := .stopped } ∧
    (ready.reporter.slot = .ready replyOf ∧ ready.link.tx = .sending (frameOf .alert) ∧
      ready.reporter.cycle = some { sends := 1, phase := .sending, timer := .stopped }) := by decide +kernel

/-- No reply held, an ack in order and one that is not, a gap record, entries to report and none; a reply that can be
withdrawn, and one that cannot. -/
theorem test_witness_poll :
    let s := withLog base (fun l => { l with t := 3, a := 3, s := 2, tmiss := 1 })
    let gap := withReporter s (fun r => { r with gapRecord := some (1, 2) })
    let heldBy (tx : Transmitter) := withTx (withReporter base (fun r => { r with slot := .held replyOf })) tx
    (s.plant.out = [] ∧ s.load = .none ∧ s.plant.loading = false ∧ s.reporter.slot = .none ∧ s.log.o ≤ s.log.w ∧
      s.log.w ≤ (2 : BitVec 32).toNat ∧ (2 : BitVec 32).toNat ≤ s.log.s ∧ s.log.s < (3 : BitVec 32).toNat) ∧
    (gap.reporter.gapRecord = some (1, 2) ∧ 2 ≤ (2 : BitVec 32).toNat) ∧
    (base.log.t ≤ base.log.w ∧ s.log.w < s.log.t) ∧
    ((heldBy (.pending (frameOf .reply))).link.tx.withdraws .reply = true ∧
      (heldBy (.sending (frameOf .reply))).link.tx.withdraws .reply = false ∧
      (heldBy (.sending (frameOf .reply))).reporter.slot = .held replyOf) ∧
    (withLink (heldBy (.pending (frameOf .reply))) (fun l => { l with pendingS7 := some defaultS7 })).link.pendingS7 =
      some defaultS7 := by decide +kernel

theorem test_witness_town_frames :
    (base.plant.out = [] ∧ base.load = .none ∧ base.reporter.slot = .none ∧ base.plant.loading = false) ∧
    (1 ≤ (List.replicate 40 (39 : Byte)).length ∧ (List.replicate 40 (39 : Byte)).length ≤ 40 ∧
      (List.replicate 40 (39 : Byte)).all (fun b => decide (b.toNat ≤ 39)) = true) ∧
    (base.reporter.cycle = none ∧ (∀ r, base.reporter.slot ≠ .ready r) ∧ base.link.pendingS7 = none) ∧
    frameTaken true 0x01 [0, 0, 0, 0] = false ∧ frameTaken false 0x02 [40] = false ∧
    ((0x09 : Byte) ≠ 0x01 ∧ (0x09 : Byte) ≠ 0x02 ∧ (0x09 : Byte) ≠ 0x03) :=
  ⟨by decide +kernel, by decide +kernel, ⟨rfl, fun _ => Slot.noConfusion, rfl⟩, by decide +kernel, by decide +kernel, by decide +kernel⟩

/-- The timers run out; all conditions of an alert cycle; a send due on a quiet line, and on a line in use. -/
theorem test_witness_link_timers :
    let timers := withReporter base (fun r => { r with linkTimer := .running 0, pollTimer := .running 0 })
    let urgent := withReporter (withLog base (fun l => { l with t := 2, a := 2 })) (fun r => { r with urgent := [(1, false)] })
    let due := withReporter urgent (fun r => { r with cycle := some { sends := 1, phase := .timing, timer := .running 0 } })
    (timers.plant.out = [] ∧ timers.load = .none ∧ timers.reporter.linkTimer = .running 0 ∧ timers.plant.loading = false ∧
      timers.reporter.pollTimer = .running 0 ∧ timers.reporter.cycle = none ∧ timers.reporter.slot = .none ∧
      timers.link.pendingS7 = none) ∧
    ((∃ x ∈ urgent.reporter.urgent, urgent.log.s ≤ x.1 ∧ x.2 = false) ∧ urgent.reporter.linkUp = false ∧
      urgent.reporter.pollTimer.isRunning = false ∧ urgent.link.ldcd = false ∧ urgent.link.tx = .idle ∧
      urgent.link.rx.state = .hunt ∧ urgent.link.pendingS7 = none ∧ urgent.reporter.cycle = none ∧
      urgent.reporter.slot = .none ∧ urgent.log.o ≤ urgent.log.w ∧ urgent.log.w ≤ urgent.log.s) ∧
    (due.reporter.cycle = some { sends := 1, phase := .timing, timer := .running 0 } ∧
      due.reporter.urgent.find? (fun y => decide (due.log.w ≤ y.1)) = some (1, false) ∧
      (withReporter due (fun r => { r with urgent := [] })).reporter.urgent.find? (fun y => decide (due.log.w ≤ y.1)) = none ∧
      (withLink due (fun l => { l with ldcd := true })).link.ldcd = true) := by decide +kernel

/-- An entry read asked for; one no longer wanted; a build's, retired, unreadable and good; an alert's. -/
theorem test_witness_reader :
    let entry := (queued 1 false).bytes
    let mem : Memory := Memory.writeBytes [] 0x0F0020 entry
    let asks := withReporter base (fun r => { r with readReq := some (1, .build) })
    let s (use : ReadUse) (live : Bool) := { base with holder := .reader 1 use live, mem := mem }
    let building := withReporter (s .build true) (fun r => { r with slot := .preparing buildOf })
    let alert := withReporter (s .alert true) (fun r =>
      { r with cycle := some { sends := 0, phase := .fetching 1, timer := .stopped } })
    (asks.plant.out = [] ∧ asks.reporter.readReq = some (1, .build) ∧ asks.grantsMember .reader = true) ∧
    (s .build false).holder = .reader 1 .build false ∧
    (building.holder = .reader 1 .build true ∧ building.reporter.slot = .preparing buildOf ∧
      building.reporter.cycle = none ∧ bytesNat ((building.slotBytes 1).take 4) = 1 ∧
      blockValid (bytesWords (building.slotBytes 1)) = true ∧ building.log.o ≤ 1) ∧
    (bytesNat ((base.slotBytes 1).take 4) ≠ 1 ∧ 1 < (withLog base (fun l => { l with o := 2 })).log.o) ∧
    (alert.holder = .reader 1 .alert true ∧ alert.reporter.slot = .none ∧ alert.link.tx.isIdle = true ∧
      alert.reporter.cycle = some { sends := 0, phase := .fetching 1, timer := .stopped } ∧
      bytesNat ((alert.slotBytes 1).take 4) = 1) := by decide +kernel

/-- R151: 0xC3 on LTXD with parity EVEN: start, 1 1 0 0 0 0 1 1 from the least significant bit on, parity 0, stop. -/
theorem test_marker_on_the_line :
    characterBits true 0xC3 = [false, true, true, false, false, false, false, true, true, false, true] := by decide

/-- R69, R4: a rake whose reverse timer expires with its overload input ACTIVE turns its outputs over twice; page 1 shows
what it showed and is marked all the same. -/
theorem test_reversed_twice_marks_page1 :
    let s := withClaim (withRake (settled base 24 .closed) 0 (fun r =>
      { r with state := .reversing, attempts := 1, reverse := .running 0 })) 6 (held 2)
    ∃ t, exec (.reverseExpiry 0) s = .next t ∧ pageChanged s t 1 = false ∧ t.deposits.dirty.get 1 = true ∧
      t.deposits.dirty.get 0 = false := ⟨_, rfl, by decide +kernel⟩

/-- R68: a rake that reached home while it was reversed ends its cycle as it is again in RAKING, its overload input ACTIVE
as well (log 47). -/
theorem test_home_in_reversing_ends_cycle :
    let s := withClaim (withRake (settled (settled base 24 .closed) 22 .closed) 0 (fun r =>
      { r with state := .reversing, homeLeave := true, attempts := 1, reverse := .running 0 })) 6 (held 2)
    ∃ t, exec (.reverseExpiry 0) s = .next t ∧ (t.plant.rake 0).state = .idle ∧
      (t.plant.claim 6).status = .none := ⟨_, rfl, by decide +kernel⟩

/-- R33: the overflow condition ends and holds again in one event: page 0 is marked. -/
theorem test_overflow_ends_and_holds_again_marks_page0 :
    let p := (withWeir base 0 (fun w => { w with state := .falling, openRecord := some record })).plant
    let q : Plant := { p with mode := { p.mode with overflow := true, floatHigh := true, storm := true } }
    ((q.closeRecord 0).openRecord 1).mode = q.mode ∧ ((q.closeRecord 0).openRecord 1).marks.contains 0 = true := by
  decide +kernel

/-- R62: a demand given to a pump in OFF and withdrawn in one event leaves its page, and page 2, as they were; both are
marked, and no other pump's. -/
theorem test_demand_given_and_withdrawn_marks_the_page :
    let p := (withPump base 1 (fun q => { q with state := .off })).plant
    let q := (p.giveDemand 1).withdrawDemand 1
    q.queue = p.queue ∧ q.shadow = p.shadow ∧ q.pumps = p.pumps ∧ q.marks.contains 3 = true ∧
      q.marks.contains 2 = true ∧ q.marks.contains 4 = false := by decide +kernel

/-- R26, R77: a claim entered and dropped in one event marks page 0 and the screen's page; one set to what it was marks
none. -/
theorem test_claim_entered_and_dropped_marks_page0 :
    let p := base.plant
    let q := (p.setClaim 7 { status := .waiting, units := 2 }).dropClaim 7
    q.claims = p.claims ∧ q.marks.contains 0 = true ∧ q.marks.contains 9 = true ∧ (p.dropClaim 7).marks = [] := by
  decide +kernel

/-- R4: a beacon that goes OFF and ON again in one event marks page 1. -/
theorem test_beacon_dropped_and_raised_marks_page1 :
    let p := (withPoint base 30 { condition := true, state := .activeUnack }).plant.annunciate
    p.lines.beaconOn = true ∧ ((p.hand 30 false).hand 30 true).lines.beaconOn = true ∧
      ((p.hand 30 false).hand 30 true).marks.contains 1 = true := by decide +kernel

end Sys2Proof.Tests
end

section
/-! The flow read from a weir's discharge curve (R87): one equation of `flowAt` per place of the head, the points that a
head has passed, and O37. -/

namespace Sys2Proof.Machine

/-! Where the head falls. -/

theorem flowAt_below_first {h q : Nat} {rest : List (Nat × Nat)} {head : Int} (below : head < h) :
    flowAt ((h, q) :: rest) head = (0, false) :=
  if_pos below

theorem flowAt_last_point {h q : Nat} {head : Int} (reached : (h : Int) ≤ head) :
    flowAt [(h, q)] head = (q, decide ((h : Int) < head)) :=
  if_neg (Int.not_lt.mpr reached)

theorem flowAt_between {h1 q1 h2 q2 : Nat} {rest : List (Nat × Nat)} {head : Int} (reached : (h1 : Int) ≤ head)
    (below : head < h2) :
    flowAt ((h1, q1) :: (h2, q2) :: rest) head = (q1 + (head.toNat - h1) * (q2 - q1) / (h2 - h1), false) :=
  (if_neg (Int.not_lt.mpr reached)).trans (if_pos below)

/-- A first point is passed once the head reaches the second. -/
theorem flowAt_passed {h1 q1 h2 q2 : Nat} {rest : List (Nat × Nat)} {head : Int} (ascend : h1 < h2)
    (reached : (h2 : Int) ≤ head) :
    flowAt ((h1, q1) :: (h2, q2) :: rest) head = flowAt ((h2, q2) :: rest) head := by
  have past_first : ¬ head < (h1 : Int) := by omega
  have past_second : ¬ head < (h2 : Int) := by omega
  simp only [flowAt, flowFrom, if_neg past_first, if_neg past_second]

/-- The points before one that the head reaches do not count. -/
theorem flowAt_append {h q : Nat} {rest : List (Nat × Nat)} {head : Int} (reached : (h : Int) ≤ head) :
    ∀ before : List (Nat × Nat), ((before ++ (h, q) :: rest).map Prod.fst).Pairwise (· < ·) →
      flowAt (before ++ (h, q) :: rest) head = flowAt ((h, q) :: rest) head
  | [], _ => rfl
  | [(h0, q0)], ascend => by
    have first_lt : h0 < h := (List.pairwise_cons.mp ascend).1 h (by simp)
    exact flowAt_passed first_lt reached
  | (h0, q0) :: (h1, q1) :: before, ascend => by
    obtain ⟨first_lt, ascend_rest⟩ := List.pairwise_cons.mp ascend
    have second_lt : h1 < h := (List.pairwise_cons.mp ascend_rest).1 h (by simp)
    calc flowAt ((h0, q0) :: (h1, q1) :: (before ++ (h, q) :: rest)) head
        = flowAt ((h1, q1) :: (before ++ (h, q) :: rest)) head :=
          flowAt_passed (first_lt h1 (by simp)) (by omega)
      _ = flowAt ((h, q) :: rest) head := flowAt_append reached ((h1, q1) :: before) ascend_rest

/-- A head that reaches point `i` is read from point `i` on. -/
theorem flowAt_eq_flowAt_drop {curve : List (Nat × Nat)} {i h q : Nat} {head : Int}
    (ascend : (curve.map Prod.fst).Pairwise (· < ·)) (point : curve[i]? = some (h, q)) (reached : (h : Int) ≤ head) :
    flowAt curve head = flowAt ((h, q) :: curve.drop (i + 1)) head := by
  obtain ⟨inside, at_i⟩ := List.getElem?_eq_some_iff.mp point
  have split_curve : curve = curve.take i ++ (h, q) :: curve.drop (i + 1) := by
    rw [← at_i, ← List.drop_eq_getElem_cons inside, List.take_append_drop]
  have read := flowAt_append reached (curve.take i) (split_curve ▸ ascend)
  rwa [← split_curve] at read

/-! The reading at, between and above the points. -/

theorem flowAt_first_head {h q : Nat} {rest : List (Nat × Nat)}
    (ascend : (((h, q) :: rest).map Prod.fst).Pairwise (· < ·)) : flowAt ((h, q) :: rest) h = (q, false) := by
  cases rest with
  | nil => simp [flowAt_last_point]
  | cons nextPoint more =>
    obtain ⟨h2, q2⟩ := nextPoint
    have first_lt : h < h2 := (List.pairwise_cons.mp ascend).1 h2 (by simp)
    simp [flowAt_between (Int.le_refl h) (Int.ofNat_lt.mpr first_lt)]

theorem flowAt_point {curve : List (Nat × Nat)} {i h q : Nat} (ascend : (curve.map Prod.fst).Pairwise (· < ·))
    (point : curve[i]? = some (h, q)) : flowAt curve h = (q, false) := by
  obtain ⟨inside, at_i⟩ := List.getElem?_eq_some_iff.mp point
  have ascend_drop := ascend.drop (i := i)
  rw [← List.map_drop, List.drop_eq_getElem_cons inside, at_i] at ascend_drop
  rw [flowAt_eq_flowAt_drop ascend point (Int.le_refl h), flowAt_first_head ascend_drop]

theorem flowAt_between_points {curve : List (Nat × Nat)} {i h1 q1 h2 q2 head : Nat}
    (ascend : (curve.map Prod.fst).Pairwise (· < ·)) (point : curve[i]? = some (h1, q1))
    (nextPoint : curve[i + 1]? = some (h2, q2)) (above : h1 < head) (below : head < h2) :
    flowAt curve head = (q1 + (head - h1) * (q2 - q1) / (h2 - h1), false) := by
  obtain ⟨inside, at_next⟩ := List.getElem?_eq_some_iff.mp nextPoint
  have reached : (h1 : Int) ≤ head := by omega
  rw [flowAt_eq_flowAt_drop ascend point reached, List.drop_eq_getElem_cons inside, at_next,
    flowAt_between reached (Int.ofNat_lt.mpr below), Int.toNat_natCast]

theorem flowAt_above_last {curve : List (Nat × Nat)} {h q head : Nat}
    (ascend : (curve.map Prod.fst).Pairwise (· < ·)) (last : curve.getLast? = some (h, q)) (above : h < head) :
    flowAt curve head = (q, true) := by
  obtain ⟨before, rfl⟩ := List.getLast?_eq_some_iff.mp last
  have reached : (h : Int) ≤ head := by omega
  rw [flowAt_append reached before ascend, flowAt_last_point reached]
  simp [above]

/-! The flow does not fall as the head rises. -/

theorem interpolation_le_end {h1 q1 h2 q2 x : Nat} (rise : q1 ≤ q2) (below : x ≤ h2) :
    q1 + (x - h1) * (q2 - q1) / (h2 - h1) ≤ q2 := by
  have part : (x - h1) * (q2 - q1) / (h2 - h1) ≤ q2 - q1 :=
    Nat.div_le_of_le_mul (Nat.mul_le_mul_right _ (Nat.sub_le_sub_right below h1))
  omega

theorem interpolation_mono {h1 q1 h2 q2 x y : Nat} (le : x ≤ y) :
    q1 + (x - h1) * (q2 - q1) / (h2 - h1) ≤ q1 + (y - h1) * (q2 - q1) / (h2 - h1) :=
  Nat.add_le_add_left (Nat.div_le_div_right (Nat.mul_le_mul_right _ (Nat.sub_le_sub_right le h1))) q1

/-- Along the curve: a head that has passed the second point is read from there on; one between the first two points is
read no higher than the second point's flow, which is the reading at its head. -/
theorem flowAt_mono {curve : List (Nat × Nat)} {x y : Int} (ascend : (curve.map Prod.fst).Pairwise (· < ·))
    (rise : (curve.map Prod.snd).Pairwise (· ≤ ·)) (le : x ≤ y) : (flowAt curve x).1 ≤ (flowAt curve y).1 := by
  induction curve generalizing x with
  | nil => exact Nat.le_refl 0
  | cons point rest ih =>
    obtain ⟨h1, q1⟩ := point
    rcases Int.lt_or_le x h1 with x_below | x_reached
    · rw [flowAt_below_first x_below]
      exact Nat.zero_le _
    have y_reached : (h1 : Int) ≤ y := Int.le_trans x_reached le
    cases rest with
    | nil => rw [flowAt_last_point x_reached, flowAt_last_point y_reached]
    | cons nextPoint more =>
      obtain ⟨h2, q2⟩ := nextPoint
      obtain ⟨first_lt, ascend_rest⟩ := List.pairwise_cons.mp ascend
      obtain ⟨first_le, rise_rest⟩ := List.pairwise_cons.mp rise
      have heads : h1 < h2 := first_lt h2 (by simp)
      have flows : q1 ≤ q2 := first_le q2 (by simp)
      rcases Int.lt_or_le y h2 with y_below | y_passed
      · rw [flowAt_between x_reached (Int.lt_of_le_of_lt le y_below), flowAt_between y_reached y_below]
        exact interpolation_mono (Int.toNat_le_toNat le)
      rw [flowAt_passed heads y_passed]
      rcases Int.lt_or_le x h2 with x_below | x_passed
      · calc (flowAt ((h1, q1) :: (h2, q2) :: more) x).1
            = q1 + (x.toNat - h1) * (q2 - q1) / (h2 - h1) := by rw [flowAt_between x_reached x_below]
          _ ≤ q2 := interpolation_le_end flows (by omega)
          _ = (flowAt ((h2, q2) :: more) h2).1 := by rw [flowAt_first_head ascend_rest]
          _ ≤ (flowAt ((h2, q2) :: more) y).1 := ih ascend_rest rise_rest y_passed
      · rw [flowAt_passed heads x_passed]
        exact ih ascend_rest rise_rest le

/-- Settles O37: the equations of `flowAt` by the place of the head, carried to any point by `flowAt_append`, and
`flowAt_mono`. -/
theorem flowIsReadFromTheCurve : Obligations.FlowIsReadFromTheCurve := by
  refine ⟨?below, ?atPoint, ?between, ?above, ?mono⟩
  case below =>
    intro curve h q head first below
    obtain ⟨rest, rfl⟩ := List.head?_eq_some_iff.mp first
    exact flowAt_below_first below
  case atPoint => exact fun _ _ _ _ => flowAt_point
  case between => exact fun _ _ _ _ _ _ _ => flowAt_between_points
  case above => exact fun _ _ _ _ => flowAt_above_last
  case mono => exact fun _ _ _ => flowAt_mono

end Sys2Proof.Machine
end

section
/-! The enable word of the settings unit (R140): what a refusal and a page mark leave of an access step, the order of the
five judgments, the transaction as it opens, and O49. -/

namespace Sys2Proof.Machine

/-! What a granted access does, by what its judgment does. -/

/-- A judgment that refuses a write and moves nothing leaves the refusal alone. -/
theorem access_refused {s : State} {a : Access} (taken : s.Takes a) (write : a.write = true) (out : s.plant.out = [])
    {judge : State → State × Verdict} {cause : RefusalCause}
    (judged : judge (s.present a) = (s.present a, .refuse cause)) :
    s.AccessOnly (s.accessStep a judge) a (.refuse cause) := by
  have present_eq := taken.present
  obtain ⟨step, plant, log, settings, link⟩ :=
    access_step taken judged (Judging.start taken) (fun _ => write) (by rw [present_eq])
  rw [present_eq] at plant log settings link
  refine ⟨step, plant.trans ?_, settings, link, log.trans ?_⟩
  · simp only [← out]
  · simp only [out, List.nil_append]

theorem Judging.withSettings {s u : State} {a : Access} (h : Judging s u a) (unit : SettingsUnit) :
    Judging s { u with settings := unit } a := by
  obtain ⟨rest, gen, scan, kept⟩ := h
  exact ⟨by rw [rest], gen, scan, kept⟩

theorem markPage_rest (s : State) (i : Fin 16) : markPage s i = { s with deposits := (markPage s i).deposits } := by
  unfold markPage
  split <;> rfl

theorem Judging.markPage {s u : State} {a : Access} (h : Judging s u a) (i : Fin 16) :
    Judging s (Machine.markPage u i) a := by
  obtain ⟨rest, gen, scan, kept⟩ := h
  obtain ⟨mark_gen, mark_scan, mark_kept⟩ := markPage_deposits u i
  exact ⟨by rw [markPage_rest, rest], mark_gen.trans gen, mark_scan.trans scan, fun j dirty => mark_kept j (kept j dirty)⟩

theorem markPage_dirty {s : State} (running : s.plant.loading = false) (i : Fin 16) :
    (markPage s i).deposits.dirty.get i = true := by
  unfold markPage
  rw [if_neg (by rw [running]; exact Bool.false_ne_true)]
  exact vset_get_same ..

/-- The outcome of an access takes no page mark away. -/
theorem judged_keeps_dirty {s : State} (a : Access) (v : Verdict) {i : Fin 16} (dirty : s.deposits.dirty.get i = true) :
    (s.judged a v).deposits.dirty.get i = true := by
  have recorded (t : State) (cause : RefusalCause) (same : t.deposits = s.deposits) :
      (t.recordRefusal a cause).deposits.dirty.get i = true :=
    (recordRefusal_deposits t a cause).2.2 i (by rw [same]; exact dirty)
  cases v with
  | forward => exact dirty
  | rewrite _ => exact dirty
  | translate _ => exact dirty
  | absorb => exact dirty
  | trim _ cause => exact recorded _ cause rfl
  | refuse cause => exact recorded _ cause rfl

/-- A page that the judgment has marked is dirty at the end of the access. -/
theorem accessStep_dirty {s u : State} {a : Access} {v : Verdict} (taken : s.Takes a) {judge : State → State × Verdict}
    (judged : judge (s.present a) = (u, v)) {i : Fin 16} (dirty : u.deposits.dirty.get i = true) :
    (s.accessStep a judge).deposits.dirty.get i = true := by
  rw [accessStep_takes taken, judged]
  exact finish_dirty _ _ ((markEntries_deposits _).2.2 i (judged_keeps_dirty _ _ dirty))

/-! The five judgments. -/

/-- R140: the five judgments as the rule words them, the section named by the value itself. -/
theorem enableRefusal_eq (s : State) (range : SettingsRange) (v : Word) :
    s.enableRefusal range v =
      if s.settings.txn ≠ none then some .busy
      else if v.toNat < 0xE000 ∨ 0xE008 < v.toNat then some .badCode
      else if s.settings.freeze = true then some .frozen
      else if range = .trial ∧ (v = 0xE000 ∨ v = 0xE008) then some .notTrial
      else if s.settings.lock.getLsbD (v.toNat - 0xE000) = true then some .locked
      else none := by
  simp only [State.enableRefusal, Option.isSome_iff_ne_none, Bool.or_eq_true, decide_eq_true_eq, ← BitVec.toNat_inj]
  rfl

/-- The judgments read the settings unit alone, which the arrival of the access leaves as it was. -/
theorem enableRefusal_present {s : State} {a : Access} (taken : s.Takes a) (range : SettingsRange) (v : Word) :
    (s.present a).enableRefusal range v = s.enableRefusal range v := by
  rw [taken.present]
  rfl

/-- R140: a write that fails a judgment is refused with its cause, and nothing else happens. -/
theorem enable_refused {s : State} {a : Access} {range : SettingsRange} {v : Word} {cause : RefusalCause}
    (taken : s.Takes a) (write : a.write = true) (out : s.plant.out = []) (fails : s.enableRefusal range v = some cause) :
    s.AccessOnly (s.accessStep a (fun t => t.judgeEnable range v)) a (.refuse cause) := by
  refine access_refused taken write out ?_
  unfold State.judgeEnable
  rw [enableRefusal_present taken, fails]

/-! The transaction as it opens. -/

/-- The first word offsets of the sections, in section order (9.2). -/
theorem sectionOffset_eq_getD (sec : Fin 9) :
    sectionOffset sec = [0x100, 0x200, 0x300, 0x400, 0x480, 0x500, 0x700, 0x800, 0x000].getD sec.val 0 := by
  revert sec
  decide

/-- R140: the low byte of an enable value in range names the section. -/
theorem enabledSection_val {v : Word} (coded : ¬ (v.toNat < 0xE000 ∨ 0xE008 < v.toNat)) :
    (enabledSection v).val = v.toNat - 0xE000 := by
  show (v.toNat - 0xE000) % 9 = _
  omega

/-- R140: a write that passes is absorbed and opens the transaction, and page 0 is marked dirty outside LOAD. -/
theorem enable_opens {s : State} {a : Access} {range : SettingsRange} {v : Word}
    (taken : s.Takes a) (out : s.plant.out = []) (passes : s.enableRefusal range v = none) :
    let t := s.accessStep a (fun u => u.judgeEnable range v)
    s.AccessStep t a .absorb ∧ t.plant = s.plant ∧ t.log = s.log ∧ t.link = s.link ∧
      (s.plant.loading = false → t.deposits.dirty.get 0 = true) ∧
      t.settings = { s.settings with txn := some (openTransaction range (enabledSection v)) } := by
  let opened : SettingsUnit := { s.settings with txn := some (openTransaction range (enabledSection v)) }
  have judged : (s.present a).judgeEnable range v = (markPage { s.present a with settings := opened } 0, .absorb) := by
    unfold State.judgeEnable
    rw [enableRefusal_present taken, passes, taken.present]
  have judging : Judging s (markPage { s.present a with settings := opened } 0) a :=
    ((Judging.start taken).withSettings opened).markPage 0
  have plant_same : (markPage { s.present a with settings := opened } 0).plant = s.plant := by
    rw [markPage_plant, taken.present]
  have log_same : (markPage { s.present a with settings := opened } 0).log = s.log := by
    rw [markPage_log, taken.present]
  obtain ⟨step, plant, log, settings, link⟩ :=
    access_step (judge := fun u => u.judgeEnable range v) taken judged judging (fun refused => absurd rfl refused)
      (by rw [plant_same])
  rw [plant_same] at plant
  rw [plant_same, log_same, out] at log
  rw [markPage_settings] at settings
  rw [markPage_link, taken.present] at link
  refine ⟨step, plant.trans ?_, log, link, fun running => ?_, settings⟩
  · simp only [← out]
  · exact accessStep_dirty taken judged (markPage_dirty (by rw [taken.present]; exact running) 0)

/-- SETTINGS_ENABLE is the word write to the enable word of its range. -/
theorem exec_settingsEnable (range : SettingsRange) (v : Word) (s : State) :
    exec (.settingsEnable range v) s =
      .next (s.accessStep (wordWrite (rangeBase range + 0x20) v) (fun t => t.judgeEnable range v)) := by
  rfl

/-- Settles O49: the judgments one after another by `enableRefusal_eq`, the first that fails by `enable_refused`, and
`enable_opens` where none does. -/
theorem enableWordPassesFiveJudgments : Obligations.EnableWordPassesFiveJudgments := by
  intro s range v out a taken
  refine ⟨_, exec_settingsEnable range v s, ?_⟩
  have order := enableRefusal_eq s range v
  split_ifs at order ⊢ with busy uncoded frozen notTrial locked
  case neg =>
    obtain ⟨step, plant, log, link, dirty, settings⟩ := enable_opens taken out order
    refine ⟨step, plant, log, link, dirty, enabledSection v, enabledSection_val uncoded, ?_⟩
    rw [← sectionOffset_eq_getD]
    exact settings
  all_goals exact enable_refused taken rfl out order

end Sys2Proof.Machine
end

section
/-! The part after power-up and its simplest steps: O1, O4, O5 and O18. -/

namespace Sys2Proof.Machine

/-- Settles O1: the front of the queue is the first branch of `step`. -/
theorem frontCommandRuns : Obligations.FrontCommandRuns := by
  intro c rest s front
  simp only [step, front]

/-- A command that acts on the plant alone, at its end: a plant step with the entries that the act appended. -/
theorem finish_onPlant_step (s : State) (act : Plant → Plant) {entries : List Draft}
    (appended : ∃ more, (act s.plant).out = entries ++ more) :
    s.PlantStep (finish s (s.onPlant act)) entries where
  rest := finish_rest _ _
  pages := finish_pages_same _ _ rfl
  log := finish_logged _ _ _ rfl appended
  out := finish_out _ _

theorem finish_onPlant_plant (s : State) (act : Plant → Plant) :
    (finish s (s.onPlant act)).plant = { act s.plant with out := [], marks := s.plant.marks } := by
  rw [finish_plant, State.onPlant_plant]

theorem finish_onPlant_log (s : State) (act : Plant → Plant) :
    (finish s (s.onPlant act)).log =
      (act s.plant).out.foldl (fun l d => l.append (act s.plant).clock d) s.log := by
  rw [finish_log, State.onPlant_plant, State.onPlant_log]

/-- Settles O18: the phase is due, and `togglePhase` is all that the command does to the plant. -/
theorem beaconTurnsOverAtPhaseEnd : Obligations.BeaconTurnsOverAtPhaseEnd := by
  intro s out due
  have due_eq : s.plant.lines.beaconTimer.due = true := by rw [due]; rfl
  refine ⟨_, congrArg Host.Outcome.next (if_pos due_eq), finish_onPlant_step s _ ⟨[], ?out⟩, ?log, ?plant⟩
  case out => exact out
  case log => rw [finish_onPlant_log]; simp only [out, List.foldl_nil]
  case plant => rw [finish_onPlant_plant]; simp only [← out]; rfl

/-- Settles O4: the values are those of `State.reset`. -/
theorem powerUpStateAsSpecified : Obligations.PowerUpStateAsSpecified := by
  unfold Obligations.PowerUpStateAsSpecified
  decide

theorem plant_reset_lawful : Plant.reset.Lawful where
  absent := by decide
  starting := by unfold Plant.oneStarting; decide
  pumps := by decide
  queue := by decide
  waiting := by decide
  rakes := by unfold Plant.rakesHold; decide
  rakesWait := by unfold Plant.rakesWait; decide
  posture := ⟨by decide, by decide⟩
  apart := by unfold Plant.outputsApart; decide
  budget := by unfold Plant.withinBudget; decide
  identity := by decide
  aline := by decide
  demand := by decide
  load := by decide

theorem state_reset_settled : State.reset.Settled where
  canonical := Memory.wf_nil
  handed := rfl
  lawful := plant_reset_lawful
  load := by decide

theorem state_reset_logLaw : State.reset.LogLaw where
  law := by unfold LogUnit.lawful; decide
  room := by decide
  places := by decide
  queue := by decide
  numbers := by decide
  loading := by decide
  writing := by intro e h; cases h

/-- Settles O5. -/
theorem lawsHoldAtPowerUp : Obligations.LawsHoldAtPowerUp := ⟨state_reset_settled, state_reset_logLaw⟩

end Sys2Proof.Machine
end

section
/-! What every command leaves of the queue of commands, the window table, the generation counts, and the law of the log
(R111): one lemma per operation of the state, for O3 and O7. -/

namespace Sys2Proof.Machine

-- In sequence: in parallel these theorems keep some thirty workers at once, each with a stack of its own, and the check
-- bounds the size of the whole.
set_option Elab.async false

/-! Moves of the log unit that keep its law. -/

/-- The part of the law of the log that speaks of the log unit alone (R107, R109 to R111). -/
structure LogUnit.Ordered (l : LogUnit) (capacity : Nat) : Prop where
  law     : l.lawful capacity
  places  : l.queue.length ≤ queuePlaces
  queue   : l.t + l.queue.length = l.a
  numbers : l.queue.map QueuedEntry.seq = List.range' l.t l.queue.length

/-- The log unit may have taken entries and moved the cursors P, W and S within their law; O, T and the head of the queue
are where they were. -/
structure LogUnit.Goes (l m : LogUnit) : Prop where
  ordered : ∀ capacity, l.Ordered capacity → m.Ordered capacity
  tail    : m.t = l.t
  oldest  : m.o = l.o
  queue   : ∃ more, m.queue = l.queue ++ more

theorem LogUnit.Goes.refl (l : LogUnit) : l.Goes l := ⟨fun _ h => h, rfl, rfl, [], (List.append_nil _).symm⟩

theorem LogUnit.Goes.trans {l m n : LogUnit} (h : l.Goes m) (k : m.Goes n) : l.Goes n := by
  obtain ⟨more, hq⟩ := h.queue
  obtain ⟨more', kq⟩ := k.queue
  exact ⟨fun c o => k.ordered c (h.ordered c o), k.tail.trans h.tail, k.oldest.trans h.oldest, more ++ more', by
    rw [kq, hq, List.append_assoc]⟩

/-- Moves of the cursors P, W and S alone, and of what the law does not speak of. -/
theorem LogUnit.Goes.of_cursors {l m : LogUnit} (a : m.a = l.a) (t : m.t = l.t) (o : m.o = l.o) (queue : m.queue = l.queue)
    (cursors : l.o ≤ l.p → l.p ≤ l.t → l.o ≤ l.w → l.w ≤ l.s → l.s ≤ l.t →
      m.o ≤ m.p ∧ m.p ≤ m.t ∧ m.o ≤ m.w ∧ m.w ≤ m.s ∧ m.s ≤ m.t) : l.Goes m where
  ordered capacity h := by
    obtain ⟨⟨o_pos, op, pt, ow, ws, st, ring, ta, room⟩, places, count, numbers⟩ := h
    obtain ⟨op', pt', ow', ws', st'⟩ := cursors op pt ow ws st
    refine ⟨⟨?_, op', pt', ow', ws', st', ?_, ?_, ?_⟩, ?_, ?_, ?_⟩
    all_goals simp only [a, t, o, queue]; assumption
  tail := t
  oldest := o
  queue := ⟨[], by rw [queue, List.append_nil]⟩

/-- R109: an entry appended is numbered and queued at the end, or dropped. -/
theorem LogUnit.append_goes (l : LogUnit) (c : Clock) (d : Draft) : l.Goes (l.append c d) := by
  by_cases accepted : l.accepts = true
  · have place : l.queue.length < queuePlaces := by
      simp only [LogUnit.accepts, Bool.and_eq_true, decide_eq_true_eq] at accepted
      exact accepted.1
    simp only [LogUnit.append, if_pos accepted]
    refine ⟨fun capacity h => ?_, rfl, rfl, _, rfl⟩
    obtain ⟨⟨o_pos, op, pt, ow, ws, st, ring, ta, room⟩, places, count, numbers⟩ := h
    refine ⟨⟨o_pos, op, pt, ow, ws, st, ring, ?_, ?_⟩, ?_, ?_, ?_⟩
    · dsimp only; omega
    · dsimp only; omega
    · simp only [List.length_append, List.length_singleton]; omega
    · simp only [List.length_append, List.length_singleton]; omega
    · simp only [List.map_append, List.map_cons, List.map_nil, List.length_append, List.length_singleton,
        List.range'_concat, numbers, ← count, Nat.one_mul]
  · simp only [LogUnit.append, if_neg accepted]
    exact .of_cursors rfl rfl rfl rfl (fun op pt ow ws st => ⟨op, pt, ow, ws, st⟩)

theorem LogUnit.appends_go (l : LogUnit) (c : Clock) (ds : List Draft) :
    l.Goes (ds.foldl (fun m d => m.append c d) l) := by
  induction ds generalizing l with
  | nil => exact .refl l
  | cons d ds ih => exact (l.append_goes c d).trans (ih _)

theorem LogUnit.setW_goes (l : LogUnit) (v : Nat) : l.Goes (l.setW v) :=
  .of_cursors rfl rfl rfl rfl (fun op pt ow ws st => by simp only [LogUnit.setW]; omega)

theorem LogUnit.setS_goes (l : LogUnit) (v : Nat) : l.Goes (l.setS v) :=
  .of_cursors rfl rfl rfl rfl (fun op pt ow ws st => by simp only [LogUnit.setS]; omega)

theorem LogUnit.advance_goes (l : LogUnit) (k : Nat) : l.Goes (l.advance k) :=
  .of_cursors rfl rfl rfl rfl (fun op pt ow ws st => by simp only [LogUnit.advance]; omega)

theorem LogUnit.lowerMissed_goes (l : LogUnit) (g : Nat) : l.Goes (l.lowerMissed g) :=
  .of_cursors rfl rfl rfl rfl (fun op pt ow ws st => ⟨op, pt, ow, ws, st⟩)

theorem LogUnit.staging_goes (l : LogUnit) (x : Option (List Word)) (r : CommitResult) :
    l.Goes { l with staging := x, lastCommit := r } :=
  .of_cursors rfl rfl rfl rfl (fun op pt ow ws st => ⟨op, pt, ow, ws, st⟩)

/-! The frame. -/

/-- Nothing has reached the queue of commands, the load stage, the window table or the generation counts; the log unit has
moved within its law; and the memory port, if it has moved, has not gone to the log writer, nor to anyone in LOAD. -/
structure State.LogFrame (s t : State) : Prop where
  pending : t.pending = s.pending
  load    : t.load = s.load
  windows : t.windows = s.windows
  gen     : t.deposits.gen = s.deposits.gen
  log     : s.log.Goes t.log
  free    : s.load ≠ .none → s.holder = .free → t.holder = .free
  writer  : ∀ e, t.holder = .logWriter e → s.holder = .logWriter e

theorem State.LogFrame.refl (s : State) : s.LogFrame s := ⟨rfl, rfl, rfl, rfl, .refl _, fun _ h => h, fun _ h => h⟩

theorem State.LogFrame.trans {s t u : State} (h : s.LogFrame t) (k : t.LogFrame u) : s.LogFrame u where
  pending := k.pending.trans h.pending
  load := k.load.trans h.load
  windows := k.windows.trans h.windows
  gen := k.gen.trans h.gen
  log := h.log.trans k.log
  free := fun load free => k.free (by rw [h.load]; exact load) (h.free load free)
  writer := fun e held => h.writer e (k.writer e held)

/-- Commands that move none of the fields of the frame but the log. -/
theorem State.LogFrame.of_log {s t : State} (log : s.log.Goes t.log) (pending : t.pending = s.pending := by rfl)
    (load : t.load = s.load := by rfl) (windows : t.windows = s.windows := by rfl)
    (gen : t.deposits.gen = s.deposits.gen := by rfl) (holder : t.holder = s.holder := by rfl) : s.LogFrame t :=
  ⟨pending, load, windows, gen, log, fun _ h => holder.trans h, fun _ h => holder.symm.trans h⟩

theorem State.LogFrame.ite {s t u : State} {c : Prop} [Decidable c] (ht : c → s.LogFrame t) (hu : ¬ c → s.LogFrame u) :
    s.LogFrame (if c then t else u) := by
  split
  · exact ht ‹_›
  · exact hu ‹_›

/-- What the frame is for: the law of the log is kept. -/
theorem State.LogFrame.logLaw {s t : State} (h : s.LogFrame t) (law : s.LogLaw) : t.LogLaw := by
  have capacity : t.capacity = s.capacity := by unfold State.capacity; rw [h.windows]
  obtain ⟨lawful, places, count, numbers⟩ :=
    h.log.ordered s.capacity ⟨law.law, law.places, law.queue, law.numbers⟩
  refine ⟨by rw [capacity]; exact lawful, by rw [capacity]; exact law.room, places, count, numbers, ?loading, ?writing⟩
  case loading =>
    intro load
    rw [h.load] at load
    obtain ⟨empty, free⟩ := law.loading load
    exact ⟨by rw [h.log.tail, h.log.oldest]; exact empty, h.free load free⟩
  case writing =>
    intro e held
    obtain ⟨head, room⟩ := law.writing e (h.writer e held)
    obtain ⟨more, queue⟩ := h.log.queue
    rw [capacity, queue, h.log.tail, h.log.oldest, List.head?_append, head]
    exact ⟨rfl, room⟩

/-! The operations of the state. -/

theorem finish_logFrame (s t : State) : t.LogFrame (finish s t) :=
  .of_log (by rw [finish_log]; exact t.log.appends_go _ _) (finish_pending s t) (finish_load s t) (finish_windows s t)
    ((markChanged_deposits _ _).1.trans (markEntries_deposits t).1) (finish_holder s t)

theorem State.LogFrame.finish {s t : State} (h : s.LogFrame t) (u : State) : s.LogFrame (finish u t) :=
  h.trans (finish_logFrame u t)

theorem onPlant_logFrame (s : State) (f : Plant → Plant) : s.LogFrame (s.onPlant f) := .of_log (.refl _)

theorem withPlant_logFrame (s : State) (p : Plant) : s.LogFrame (s.withPlant p) := .of_log (.refl _)

theorem setLink_logFrame (s : State) (l : Link) : s.LogFrame (s.setLink l) := .of_log (.refl _)

theorem setReporter_logFrame (s : State) (r : Reporter) : s.LogFrame (s.setReporter r) := .of_log (.refl _)

theorem setSlot_logFrame (s : State) (x : Slot) : s.LogFrame (s.setSlot x) := .of_log (.refl _)

theorem countReport_logFrame (s : State) (f : ReportCounts → ReportCounts) : s.LogFrame (s.countReport f) :=
  .of_log (.refl _)

theorem settings_logFrame (s : State) (u : SettingsUnit) : s.LogFrame { s with settings := u } := .of_log (.refl _)

theorem setStaging_logFrame (s : State) (x : Option (List Word)) : s.LogFrame (s.setStaging x) :=
  .of_log (s.log.staging_goes x s.log.lastCommit)

theorem setLastCommit_logFrame (s : State) (r : CommitResult) : s.LogFrame (s.setLastCommit r) :=
  .of_log (s.log.staging_goes s.log.staging r)

theorem closeTxn_logFrame (s : State) (t : Transaction) (r : SettingsResult) : s.LogFrame (s.closeTxn t r) :=
  .of_log (.refl _)

theorem markPage_logFrame (s : State) (i : Fin 16) : s.LogFrame (markPage s i) := by
  rw [markPage_rest]
  exact .of_log (.refl _) rfl rfl rfl (markPage_deposits s i).1

theorem recordRefusal_logFrame (s : State) (a : Access) (cause : RefusalCause) : s.LogFrame (s.recordRefusal a cause) := by
  rw [recordRefusal_rest]
  exact .of_log (.refl _) rfl rfl rfl (recordRefusal_deposits s a cause).1

theorem State.SettleStep.logFrame {s t : State} (h : s.SettleStep t) : s.LogFrame t := by
  refine ⟨?_, ?_, ?_, h.gen, ?_, ?_, ?_⟩
  · rw [h.rest]
  · rw [h.rest]
  · rw [h.rest]
  · rw [h.rest]; exact .refl _
  · intro _ free
    rcases h.holder with same | discarded
    · rw [same, free]
    · rw [discarded, free]; rfl
  · intro e held
    rcases h.holder with same | discarded
    · rw [← same, held]
    · rw [discarded] at held
      cases holder : s.holder <;> rw [holder] at held <;> simp_all [discardRead]

theorem linkEvent_logFrame (s : State) (occurs : Bool) {act : State → State} (h : s.LogFrame (act s)) :
    s.LogFrame (s.linkEvent occurs act) :=
  .ite (fun _ => (h.trans (settle_step _).logFrame).finish s) (fun _ => .refl s)

theorem plantEvent_logFrame (s : State) (occurs : Bool) (act : Plant → Plant) : s.LogFrame (s.plantEvent occurs act) :=
  .ite (fun _ => (onPlant_logFrame s _).finish s) (fun _ => .refl s)

/-! Accesses. -/

theorem present_logFrame (s : State) (a : Access) : s.LogFrame (s.present a) :=
  .ite (fun _ => .of_log (.refl _)) (fun _ => .ite (fun _ => .of_log (.refl _)) (fun _ => .refl s))

/-- Outside LOAD a holder other than the log writer may take the port. -/
theorem State.LogFrame.of_holder {s t : State} (running : s.load = .none) (holder : ∀ e, t.holder ≠ .logWriter e)
    (log : s.log.Goes t.log) (pending : t.pending = s.pending := by rfl) (load : t.load = s.load := by rfl)
    (windows : t.windows = s.windows := by rfl) (gen : t.deposits.gen = s.deposits.gen := by rfl) : s.LogFrame t :=
  ⟨pending, load, windows, gen, log, fun loading => absurd running loading, fun e held => absurd held (holder e)⟩

theorem judged_logFrame (s : State) (running : s.load = .none) (a : Access) (v : Verdict) : s.LogFrame (s.judged a v) := by
  cases v with
  | forward => exact .of_holder running (by simp [State.judged]) (.refl _)
  | rewrite d => exact .of_holder running (by simp [State.judged]) (.refl _)
  | translate x => exact .of_holder running (by simp [State.judged]) (.refl _)
  | absorb => exact .of_log (.refl _)
  | trim d cause =>
    exact (State.LogFrame.of_holder (t := { s with
      lastWinner := .upstream, verdict := some (.trim d cause), port := .granted a (.trim d cause), holder := .upstream })
      running (by simp) (.refl _)).trans (recordRefusal_logFrame _ _ _)
  | refuse cause =>
    exact (State.LogFrame.of_log (s := s) (t := { s with
      lastWinner := .upstream, verdict := some (.refuse cause), port := .idle, prdy := true })
      (.refl _)).trans (recordRefusal_logFrame _ a cause)

theorem grantsUpstream_running {s : State} (h : s.grantsUpstream = true) : s.load = .none := by
  have asks : s.upstreamAsks = true := by
    simp only [State.grantsUpstream, State.sideChosen, beq_iff_eq] at h
    split at h
    · cases h
    · split at h <;> simp_all
  simp only [State.upstreamAsks, State.running, Bool.and_eq_true, beq_iff_eq] at asks
  exact asks.1

theorem grantsMember_running {s : State} {m : Member} (h : s.grantsMember m = true) : s.load = .none ∧ s.holder = .free := by
  simp only [State.grantsMember, Bool.and_eq_true, beq_iff_eq] at h
  obtain ⟨side, chosen⟩ := h
  have asks : s.memberAsks m = true := List.find?_some chosen
  simp only [State.memberAsks, State.running, Bool.and_eq_true, beq_iff_eq] at asks
  refine ⟨asks.1, ?_⟩
  simp only [State.sideChosen] at side
  split at side
  · cases side
  · simp_all

theorem accessStep_logFrame (s : State) (a : Access) {judge : State → State × Verdict}
    (h : (s.present a).LogFrame (judge (s.present a)).1) : s.LogFrame (s.accessStep a judge) := by
  refine (present_logFrame s a).trans (.ite (fun granted => ?_) (fun _ => .refl _))
  have running : (s.present a).load = .none := grantsUpstream_running (by
    simp only [State.granting, Bool.and_eq_true] at granted
    exact granted.2)
  exact (h.trans (judged_logFrame _ (by rw [h.load]; exact running) _ _)).finish s

theorem classify_logFrame (s : State) (a : Access) : s.LogFrame (s.classify a).1 := by
  unfold State.classify
  split
  · exact .refl s
  · split
    case h_3 i _ =>
      split
      · exact onPlant_logFrame s (fun p => p.setShadow i a.data)
      · exact .refl s
    all_goals exact .refl s

theorem classifyWaiting_logFrame (s : State) : s.LogFrame s.classifyWaiting := by
  unfold State.classifyWaiting
  split
  case h_1 a waiting =>
    refine .ite (fun granted => ?_) (fun _ => .refl s)
    simp only [Bool.and_eq_true] at granted
    have frame := classify_logFrame s a
    exact (frame.trans (judged_logFrame _ (by rw [frame.load]; exact grantsUpstream_running granted.1) _ _)).finish s
  all_goals exact .refl s

/-! Judgments of the owners. -/

theorem judgeMode_logFrame (s : State) (v : Word) : s.LogFrame (s.judgeMode v).1 := by
  unfold State.judgeMode
  split
  · exact withPlant_logFrame _ _
  · split_ifs <;> exact withPlant_logFrame _ _
  · exact withPlant_logFrame _ _
  · exact withPlant_logFrame _ _

theorem clockSetHigh_logFrame (s : State) (v : Word) : s.LogFrame (s.clockSetHigh v).1 := by
  unfold State.clockSetHigh
  split
  · exact (onPlant_logFrame s _).trans (markPage_logFrame _ _)
  · exact .refl s

theorem judgeAck_logFrame (s : State) (v : Word) : s.LogFrame (s.judgeAck v).1 := by
  unfold State.judgeAck
  split
  case h_1 ks _ => exact onPlant_logFrame s (fun p => p.acknowledge false ks)
  case h_2 => exact .refl s

theorem stageWord_logFrame (s : State) (place : Nat) (v : Word) : s.LogFrame (s.stageWord place v).1 := by
  unfold State.stageWord
  split
  · split <;> exact setStaging_logFrame _ _
  · exact .refl s

theorem appendStaged_logFrame (s : State) (ws : List Word) : s.LogFrame (s.appendStaged ws) :=
  (State.LogFrame.of_log (t := { s with log := s.log.append _ _ }) (s.log.append_goes _ _)).trans
    (setLastCommit_logFrame _ _)

theorem commitStaging_logFrame (s : State) (ws : List Word) : s.LogFrame (s.commitStaging ws).1 := by
  unfold State.commitStaging
  have closed := setStaging_logFrame s none
  split_ifs
  · exact closed.trans (setLastCommit_logFrame _ _)
  · exact closed.trans (setLastCommit_logFrame _ _)
  · exact closed.trans (appendStaged_logFrame _ _)

theorem judgeCommit_logFrame (s : State) (v : Word) : s.LogFrame (s.judgeCommit v).1 := by
  unfold State.judgeCommit
  split
  · split
    · exact commitStaging_logFrame _ _
    · exact stageWord_logFrame _ _ _
  · exact stageWord_logFrame _ _ _

theorem judgeAdvance_logFrame (s : State) (k : Word) : s.LogFrame (s.judgeAdvance k).1 := by
  unfold State.judgeAdvance
  split
  · exact .refl s
  · exact .of_log (s.log.advance_goes _)

theorem judgeEnable_logFrame (s : State) (range : SettingsRange) (v : Word) : s.LogFrame (s.judgeEnable range v).1 := by
  unfold State.judgeEnable
  split
  · exact .refl s
  · exact (settings_logFrame s _).trans (markPage_logFrame _ _)

theorem abandonTxn_logFrame (s : State) (why : SettingsResult) : s.LogFrame (s.abandonTxn why) := by
  unfold State.abandonTxn
  split
  · exact .refl s
  · exact (onPlant_logFrame s _).trans (closeTxn_logFrame _ _ _)

theorem commitS7_logFrame (s : State) (words : List Word) : s.LogFrame (s.commitS7 words) :=
  .ite (fun _ => (applyS7_step _ _).logFrame) (fun _ => setLink_logFrame _ _)

theorem commitTransaction_logFrame (s : State) (t : Transaction) : s.LogFrame (s.commitTransaction t) := by
  have closed (f : Plant → Plant) (r : SettingsResult) : s.LogFrame ((s.onPlant f).closeTxn t r) :=
    (onPlant_logFrame s f).trans (closeTxn_logFrame _ _ _)
  unfold State.commitTransaction
  split_ifs
  · exact closed _ _
  · exact closed _ _
  · exact (closed _ _).trans (commitS7_logFrame _ _)
  · exact (closed _ _).trans (markPage_logFrame _ _)
  · exact closed _ _

theorem judgeSectionWord_logFrame (s : State) (range : SettingsRange) (offset : Fin 2048) (lanes : Lanes) (v : Word) :
    s.LogFrame (s.judgeSectionWord range offset lanes v).1 := by
  unfold State.judgeSectionWord
  split
  · exact .refl s
  · split
    · have accepted (u : SettingsUnit) := (settings_logFrame s u).trans (markPage_logFrame _ 0)
      exact (accepted _).trans (.ite (fun _ => commitTransaction_logFrame _ _) (fun _ => .refl _))
    · exact abandonTxn_logFrame _ _

theorem judgeLock_logFrame (s : State) (v : Word) : s.LogFrame (s.judgeLock v).1 := by
  unfold State.judgeLock
  split_ifs
  · exact .refl s
  · exact .refl s
  · exact .refl s
  · exact .ite (fun _ => .refl s)
      (fun _ => ((settings_logFrame s _).trans (onPlant_logFrame _ _)).trans (markPage_logFrame _ _))

theorem judgeFreeze_logFrame (s : State) (v : Word) : s.LogFrame (s.judgeFreeze v).1 := by
  unfold State.judgeFreeze
  split_ifs
  · exact .refl s
  · exact .refl s
  · exact .refl s
  · exact ((settings_logFrame s _).trans (onPlant_logFrame _ _)).trans (markPage_logFrame _ _)

/-! The reporter. -/

theorem withdrawRead_logFrame (s : State) (use : ReadUse) : s.LogFrame (s.withdrawRead use) := by
  refine ⟨rfl, rfl, rfl, rfl, .refl _, fun _ free => ?_, fun e held => ?_⟩
  · simp only [State.withdrawRead, free, discardRead]
  · simp only [State.withdrawRead] at held
    cases holder : s.holder <;> rw [holder] at held <;> simp_all [discardRead]

theorem withdrawFrame_logFrame (s : State) : s.LogFrame s.withdrawFrame := setLink_logFrame _ _

theorem abandonReply_logFrame (s : State) : s.LogFrame s.abandonReply :=
  (((withdrawRead_logFrame s _).trans (setSlot_logFrame _ _)).trans (countReport_logFrame _ _)).trans
    (markPage_logFrame _ _)

theorem takeAck_logFrame (s : State) (inOrder : Bool) (ack : Nat) : s.LogFrame (s.takeAck inOrder ack) :=
  .ite (fun _ => (State.LogFrame.of_log (t := { s with log := s.log.setW ack }) (s.log.setW_goes _)).trans
    (setReporter_logFrame _ _)) (fun _ => countReport_logFrame _ _)

theorem settleGap_logFrame (s : State) (inOrder : Bool) (ack : Nat) : s.LogFrame (s.settleGap inOrder ack) := by
  unfold State.settleGap
  split
  · exact .refl s
  · refine (setReporter_logFrame s _).trans (.ite (fun _ => ?_) (fun _ => .refl _))
    exact (State.LogFrame.of_log (t := { s.setReporter _ with log := (s.setReporter _).log.lowerMissed _ })
      (LogUnit.lowerMissed_goes _ _)).trans (onPlant_logFrame _ _)

theorem goOnBuild_logFrame (s : State) (b : Build) : s.LogFrame (s.goOnBuild b) :=
  .ite (fun _ => (handReply_step s _).logFrame)
    (fun _ => (setSlot_logFrame s _).trans (setReporter_logFrame _ _))

theorem startBuild_logFrame (s : State) (tag : Byte) (mask : Word) : s.LogFrame (s.startBuild tag mask) :=
  (pruneUrgent_step s).logFrame.trans (goOnBuild_logFrame _ _)

theorem linkUp_logFrame (s : State) : s.LogFrame s.linkUp := (setReporter_logFrame s _).trans (onPlant_logFrame _ _)

theorem handlePoll_logFrame (s : State) (tag : Byte) (ack : Nat) : s.LogFrame (s.handlePoll tag ack) :=
  ((((linkUp_logFrame s).trans (endCycle_step _).logFrame).trans (takeAck_logFrame _ _ _)).trans
    (settleGap_logFrame _ _ _)).trans (startBuild_logFrame _ _ _)

theorem townSetTime_logFrame (s : State) (payload : List Byte) : s.LogFrame (s.townSetTime payload) :=
  (onPlant_logFrame s _).trans (markPage_logFrame _ _)

theorem handleFrame_logFrame (s : State) (f : TownFrame) : s.LogFrame (s.handleFrame f) :=
  .ite (fun _ => handlePoll_logFrame _ _ _) (fun _ => .ite
    (fun _ => (onPlant_logFrame s _).trans (handReply_step _ _).logFrame)
    (fun _ => (townSetTime_logFrame s _).trans (handReply_step _ _).logFrame))

theorem holdFrame_logFrame (s : State) (f : TownFrame) : s.LogFrame (s.holdFrame f) :=
  (State.LogFrame.ite (fun _ => countReport_logFrame s supersede) (fun _ => .refl s)).trans (setReporter_logFrame _ _)

theorem addressed_logFrame (s : State) (f : TownFrame) : s.LogFrame (s.addressed f) := by
  unfold State.addressed
  split
  · exact handleFrame_logFrame _ _
  · exact (abandonReply_logFrame s).trans (handleFrame_logFrame _ _)
  · exact (abandonReply_logFrame s).trans (handleFrame_logFrame _ _)
  · refine .ite (fun _ => ?_) (fun _ => holdFrame_logFrame _ _)
    exact (((withdrawFrame_logFrame s).trans (settleS7_step _).logFrame).trans (abandonReply_logFrame _)).trans
      (handleFrame_logFrame _ _)

theorem judgeFrame_logFrame (s : State) (f : TownFrame) : s.LogFrame (s.judgeFrame f) :=
  .ite (fun _ => countReport_logFrame _ _) (fun _ => .ite (fun _ => townSetTime_logFrame _ _)
    (fun _ => addressed_logFrame _ _))

theorem popInbox_logFrame (s : State) (f : TownFrame) : s.LogFrame (s.popInbox f) :=
  .ite (fun _ => setLink_logFrame _ _) (fun _ => .refl s)

theorem townFrame_logFrame (s : State) (f : TownFrame) : s.LogFrame (s.townFrame f) :=
  linkEvent_logFrame s true ((popInbox_logFrame s f).trans (judgeFrame_logFrame _ f))

theorem takeWaiting_logFrame (s : State) : s.LogFrame s.takeWaiting := by
  unfold State.takeWaiting
  split
  · exact (setReporter_logFrame s _).trans (handleFrame_logFrame _ _)
  · exact .refl s

theorem replySent_logFrame (s : State) : s.LogFrame s.replySent := by
  unfold State.replySent
  split
  case h_1 r held =>
    have first : s.LogFrame (if r.ofPoll then { s with log := s.log.setS r.next } else s) :=
      .ite (fun _ => .of_log (s.log.setS_goes _)) (fun _ => .refl s)
    refine State.LogFrame.trans ?_ (takeWaiting_logFrame _)
    split
    · exact (first.trans (setReporter_logFrame _ _)).trans (setSlot_logFrame _ _)
    · exact first.trans (setSlot_logFrame _ _)
  all_goals exact .refl s

theorem alertSent_logFrame (s : State) : s.LogFrame s.alertSent := by
  unfold State.alertSent
  split
  · exact .refl s
  · have sent (r : Reporter) (f : ReportCounts → ReportCounts) : s.LogFrame ((s.setReporter r).countReport f) :=
      (setReporter_logFrame s r).trans (countReport_logFrame _ f)
    exact (sent _ _).trans (.ite (fun _ => (endCycle_step _).logFrame) (fun _ => .refl _))

theorem sentIndication_logFrame (s : State) (owner : TxOwner) : s.LogFrame (s.sentIndication owner) := by
  cases owner
  · exact replySent_logFrame s
  · exact alertSent_logFrame s
  · exact .refl s

theorem transmitted_logFrame (s : State) : s.LogFrame s.transmitted := by
  unfold State.transmitted
  split
  case h_1 f sending =>
    exact ((setLink_logFrame s _).trans (settleS7_step _).logFrame).trans (sentIndication_logFrame _ _)
  all_goals exact .refl s

theorem judgeEntry_logFrame (s : State) (b : Build) (x : Nat) (bytes : List Byte) :
    s.LogFrame (s.judgeEntry b x bytes) :=
  .ite (fun _ => startBuild_logFrame _ _ _) (fun _ => .ite
    (fun _ => (countReport_logFrame s _).trans (goOnBuild_logFrame _ _)) (fun _ => .ite
      (fun _ => goOnBuild_logFrame _ _) (fun _ => goOnBuild_logFrame _ _)))

theorem alertFetched_logFrame (s : State) (x : Nat) (bytes : List Byte) : s.LogFrame (s.alertFetched x bytes) :=
  .ite (fun _ => (handAlert_step _ _).logFrame)
    (fun _ => (setReporter_logFrame s _).trans (makeSend_step _).logFrame)

theorem takeEntry_logFrame (s : State) (seq : Nat) (use : ReadUse) (bytes : List Byte) :
    s.LogFrame (s.takeEntry seq use bytes) := by
  unfold State.takeEntry
  split
  · split
    · exact (pruneUrgent_step s).logFrame.trans (judgeEntry_logFrame _ _ _ _)
    all_goals exact .refl s
  · exact alertFetched_logFrame _ _ _

theorem startCycle_logFrame (s : State) : s.LogFrame s.startCycle :=
  (setReporter_logFrame s _).trans (makeSend_step _).logFrame

end Sys2Proof.Machine
end

section
/-! The frame of every command, and O3 and O7 from it. -/

namespace Sys2Proof.Machine

-- In sequence: in parallel these theorems keep some thirty workers at once, each with a stack of its own, and the check
-- bounds the size of the whole.
set_option Elab.async false

/-! Commands within the frame. -/

/-- A command that frees the memory port. -/
theorem State.LogFrame.of_freed {s t : State} (log : s.log.Goes t.log) (freed : t.holder = .free)
    (pending : t.pending = s.pending := by rfl) (load : t.load = s.load := by rfl)
    (windows : t.windows = s.windows := by rfl) (gen : t.deposits.gen = s.deposits.gen := by rfl) : s.LogFrame t :=
  ⟨pending, load, windows, gen, log, fun _ _ => freed, fun e held => by rw [freed] at held; cases held⟩

theorem secondsTick_logFrame (s : State) : s.LogFrame s.secondsTick := by
  have ticked : s.LogFrame { s with
      plant := s.plant.secondsTick, settings := s.settings.tick, reporter := s.reporter.tick } := .of_log (.refl _)
  have page (t : State) (n : Fin 3) :
      t.LogFrame (if (s.plant.weir n).steps then markPage t (weirPageNumber n) else t) :=
    .ite (fun _ => markPage_logFrame _ _) (fun _ => .refl _)
  exact ((ticked.trans (markPage_logFrame _ 0)).trans (page _ 0)).trans ((page _ 1).trans (page _ 2))

theorem settleWrite_logFrame (s : State) (address : Nat) (data : Word) : s.LogFrame (s.settleWrite address data) := by
  unfold State.settleWrite
  split
  · exact .ite (fun _ => .refl s) (fun _ => onPlant_logFrame s _)
  · exact .refl s

theorem completeUpstream_logFrame (s : State) : s.LogFrame s.completeUpstream := by
  unfold State.completeUpstream
  split
  case h_1 a v granted =>
    refine State.LogFrame.finish ?_ s
    unfold State.completeAccess
    refine .ite (fun _ => ?_) (fun _ => .of_freed (.refl _) rfl)
    refine State.LogFrame.trans ?_ (settleWrite_logFrame _ _ _)
    exact .of_freed (.refl _) rfl
  all_goals exact .refl s

theorem grantCorrector_logFrame (s : State) : s.LogFrame s.grantCorrector := by
  unfold State.grantCorrector
  split
  · exact .ite (fun granted => .of_holder (grantsMember_running granted).1 (by simp [State.grantMember]) (.refl _))
      (fun _ => .refl s)
  · exact .refl s

theorem completeCorrection_logFrame (s : State) : s.LogFrame s.completeCorrection := by
  unfold State.completeCorrection
  split
  case h_1 =>
    refine State.LogFrame.trans ?_ (onPlant_logFrame _ _)
    exact .of_freed (.refl _) rfl
  all_goals exact .refl s

theorem completeDeposit_logFrame (s : State) : s.LogFrame s.completeDeposit := by
  unfold State.completeDeposit
  split
  case h_1 => exact .of_freed (.refl _) rfl
  all_goals exact .refl s

theorem grantReader_logFrame (s : State) : s.LogFrame s.grantReader := by
  unfold State.grantReader
  split
  · exact .ite (fun granted => .of_holder (grantsMember_running granted).1 (by simp [State.grantMember]) (.refl _))
      (fun _ => .refl s)
  · exact .refl s

theorem completeRead_logFrame (s : State) : s.LogFrame s.completeRead := by
  unfold State.completeRead
  have freed : s.LogFrame s.freePort := .of_freed (.refl _) rfl
  split
  case h_1 =>
    exact .ite (fun _ => ((freed.trans (takeEntry_logFrame _ _ _ _)).trans (settle_step _).logFrame).finish s)
      (fun _ => freed)
  all_goals exact .refl s

theorem upstreamReset_logFrame (s : State) : s.LogFrame s.upstreamReset := by
  have dropped : s.LogFrame s.upstreamDrops :=
    ((onPlant_logFrame s _).trans (setStaging_logFrame _ none)).trans (.of_log (.refl _))
  refine .ite (fun _ => .refl s) (fun _ => .ite (fun _ => ?_) (fun _ => dropped))
  exact (((dropped.trans (onPlant_logFrame _ _)).trans (abandonTxn_logFrame _ _)).trans (onPlant_logFrame _ _)).finish s

/-- The commands that take the part out of the frame: the resets, the ends of the load stages, the grant and the
completion of the log writer, and the grant of the deposit agent. -/
def leavesFrame : Instr → Bool
  | .powerUp | .panelReset | .loadStage1End | .loadEnd | .logWriteGrant | .logWriteComplete | .depositGrant => true
  | _ => false

/-- A command that is an access of its owner, under what its judgment does. -/
theorem access_exec {s : State} (a : Access) (judge : State → State × Verdict)
    (h : ∀ t : State, t.LogFrame (judge t).1) :
    ∃ t, (Host.Outcome.next (s.accessStep a judge) : Result) = .next t ∧ s.LogFrame t :=
  ⟨_, rfl, accessStep_logFrame s a (h _)⟩

theorem exec_logFrame (c : Instr) (inside : leavesFrame c = false) (s : State) :
    ∃ t, exec c s = .next t ∧ s.LogFrame t := by
  have plant (b : Bool) (f : Plant → Plant) : s.LogFrame (if b then finish s (s.onPlant f) else s) :=
    .ite (fun _ => (onPlant_logFrame s f).finish s) (fun _ => .refl s)
  have link (b : Bool) (f : State → Link) : s.LogFrame (s.linkEvent b (fun t => t.setLink (f t))) :=
    linkEvent_logFrame s b (setLink_logFrame s _)
  cases c with
  | powerUp | panelReset | loadStage1End | loadEnd | logWriteGrant | logWriteComplete | depositGrant => cases inside
  | upstreamReset => exact ⟨_, rfl, upstreamReset_logFrame s⟩
  | uprstRelease => exact ⟨_, rfl, .of_log (.refl _)⟩
  | secondsTick => exact ⟨_, rfl, secondsTick_logFrame s⟩
  | rawContactChange | debounceExpiry | beaconFlashPhase | scanStart | exchangeTimeout => exact ⟨_, rfl, plant _ _⟩
  | exchangeReply reply => exact ⟨_, rfl, (onPlant_logFrame s _).finish s⟩
  | clockStagingExpiry => exact ⟨_, rfl, .ite (fun _ => onPlant_logFrame s _) (fun _ => .refl s)⟩
  | freshnessExpiry | feedbackTimeout | minimumRunExpiry | minimumOffExpiry | staggerExpiry | startHistoryAgeOut
  | intervalExpiry | cycleTimeout | reverseExpiry | holdExpiry | startConfirmExpiry | endConfirmExpiry =>
    exact ⟨_, rfl, plantEvent_logFrame s _ _⟩
  | clockSetLowWrite v => exact access_exec _ _ (fun t => onPlant_logFrame t (fun p => p.stageLow v))
  | clockSetHighWrite => exact access_exec _ _ (fun t => clockSetHigh_logFrame t _)
  | modeRequestNone | modeRequestAuto | modeRequestLocal | modeRequestBadCode =>
    exact access_exec _ _ (fun t => judgeMode_logFrame t _)
  | freshnessWrite v =>
    exact access_exec _ _ (fun t => onPlant_logFrame t (fun p => (p.setShadow 1 v).freshnessTaken v))
  | pumpOos | pumpReset | pumpRun => exact access_exec _ _ (fun t => withPlant_logFrame t _)
  | screenRake | screenOos | screenReset => exact access_exec _ _ (fun t => withPlant_logFrame t _)
  | ackPoint | ackLevel | ackAll | ackBadCode => exact access_exec _ _ (fun t => judgeAck_logFrame t _)
  | stagingOpen => exact access_exec _ _ (fun t => setStaging_logFrame t _)
  | stagingWord => exact access_exec _ _ (fun t => stageWord_logFrame t _ _)
  | stagingCommit => exact access_exec _ _ (fun t => judgeCommit_logFrame t _)
  | stagingByteWrite => exact access_exec _ _ (fun t => setStaging_logFrame t _)
  | logAdvance => exact access_exec _ _ (fun t => judgeAdvance_logFrame t _)
  | logEntryRead => exact access_exec _ _ (fun t => .refl t)
  | upstreamAccess a => exact ⟨_, rfl, present_logFrame s a⟩
  | upstreamGrant => exact ⟨_, rfl, classifyWaiting_logFrame s⟩
  | upstreamComplete => exact ⟨_, rfl, completeUpstream_logFrame s⟩
  | correctorGrant => exact ⟨_, rfl, grantCorrector_logFrame s⟩
  | correctionComplete => exact ⟨_, rfl, completeCorrection_logFrame s⟩
  | depositComplete => exact ⟨_, rfl, completeDeposit_logFrame s⟩
  | reportReaderGrant => exact ⟨_, rfl, grantReader_logFrame s⟩
  | entryReadComplete => exact ⟨_, rfl, completeRead_logFrame s⟩
  | settingsEnable => exact access_exec _ _ (fun t => judgeEnable_logFrame t _ _)
  | settingsSectionWord =>
    exact ⟨_, rfl, .ite (fun _ => accessStep_logFrame s _ (judgeSectionWord_logFrame _ _ _ _ _)) (fun _ => .refl s)⟩
  | lockWordWrite => exact access_exec _ _ (fun t => judgeLock_logFrame t _)
  | freezeWordWrite => exact access_exec _ _ (fun t => judgeFreeze_logFrame t _)
  | settingsIdleExpiry => exact ⟨_, rfl, .ite (fun _ => (abandonTxn_logFrame s _).finish s) (fun _ => .refl s)⟩
  | characterReceived | gapTimerExpiry | keyUp | keyUpExpiry | lineReturnsToMark => exact ⟨_, rfl, link _ _⟩
  | transmitComplete => exact ⟨_, rfl, linkEvent_logFrame s true (transmitted_logFrame s)⟩
  | ldcdChange active =>
    exact ⟨_, rfl, (State.LogFrame.of_log (s := s) (t := { s with ldcdPin := active }) (.refl _)).trans
      (linkEvent_logFrame _ true (setLink_logFrame _ _))⟩
  | poll | townAlarmAck | townClockSet | frameRejected => exact ⟨_, rfl, townFrame_logFrame s _⟩
  | linkTimerExpiry =>
    exact ⟨_, rfl, linkEvent_logFrame s _ ((setReporter_logFrame s _).trans (onPlant_logFrame _ _))⟩
  | pollWaitExpiry => exact ⟨_, rfl, linkEvent_logFrame s _ (setReporter_logFrame s _)⟩
  | alertCycleStart => exact ⟨_, rfl, linkEvent_logFrame s _ (startCycle_logFrame s)⟩
  | alertTimerExpiry => exact ⟨_, rfl, linkEvent_logFrame s _ (setReporter_logFrame s _)⟩

/-! The commands outside the frame. -/

theorem takeMarks_logFrame (s t : State) : t.LogFrame (takeMarks s t) := .of_log (.refl _)

theorem flush_logFrame (t : State) : t.LogFrame (flush t) := .of_log (t.log.appends_go _ _)

/-- The queue of commands, the load stage, the window table and the generation counts are the same. -/
def State.SameFrame (s t : State) : Prop :=
  t.pending = s.pending ∧ t.load = s.load ∧ t.windows = s.windows ∧ t.deposits.gen = s.deposits.gen

theorem State.LogFrame.same {s t : State} (h : s.LogFrame t) : s.SameFrame t := ⟨h.pending, h.load, h.windows, h.gen⟩

theorem State.SameFrame.refl (s : State) : s.SameFrame s := ⟨rfl, rfl, rfl, rfl⟩

theorem State.SameFrame.trans {s t u : State} (h : s.SameFrame t) (k : t.SameFrame u) : s.SameFrame u := by
  obtain ⟨h1, h2, h3, h4⟩ := h
  obtain ⟨k1, k2, k3, k4⟩ := k
  exact ⟨k1.trans h1, k2.trans h2, k3.trans h3, k4.trans h4⟩

theorem retireFull_same (s : State) : s.SameFrame s.retireFull := by
  unfold State.retireFull
  split <;> exact ⟨rfl, rfl, rfl, rfl⟩

theorem grantLogWriter_same (s : State) : s.SameFrame s.grantLogWriter := by
  unfold State.grantLogWriter
  split
  case h_1 e _ _ =>
    split
    · exact (retireFull_same s).trans (finish_logFrame s (s.retireFull.grantMember .logWriter (.logWriter e))).same
    · exact .refl s
  case h_2 => exact .refl s

theorem handUrgent_logFrame (s : State) (e : QueuedEntry) : s.LogFrame (s.handUrgent e) :=
  .ite (fun _ => setReporter_logFrame s _) (fun _ => .refl s)

theorem completeLogWrite_same (s : State) : s.SameFrame s.completeLogWrite := by
  unfold State.completeLogWrite
  split
  case h_1 e _ => exact ((handUrgent_logFrame _ e).finish s).same
  all_goals exact .refl s

/-- The grant of the deposit agent moves the generation count of the page it takes. -/
theorem grantDeposit_same (s : State) :
    s.grantDeposit.pending = s.pending ∧ s.grantDeposit.load = s.load ∧ s.grantDeposit.windows = s.windows := by
  unfold State.grantDeposit
  split
  · split <;> exact ⟨rfl, rfl, rfl⟩
  · exact ⟨rfl, rfl, rfl⟩

/-- Settles O3: `exec_logFrame`, and for each command that leaves the frame what it leaves alone. -/
theorem everyCommandTakesANextState : Obligations.EveryCommandTakesANextState := by
  intro c s
  cases inside : leavesFrame c with
  | false =>
    obtain ⟨t, run, frame⟩ := exec_logFrame c inside s
    exact ⟨t, run, frame.pending, fun moved => absurd frame.windows moved, fun moved => absurd frame.gen moved⟩
  | true =>
    cases c with
    | powerUp => exact ⟨_, rfl, rfl, fun _ => .inl rfl, fun _ => .inl rfl⟩
    | panelReset => exact ⟨_, rfl, rfl, fun _ => .inr (.inl rfl), fun moved => absurd rfl moved⟩
    | loadStage1End =>
      refine ⟨_, rfl, ?_, fun _ => .inr (.inr rfl), fun moved => absurd ?_ moved⟩
      all_goals cases s.load <;> rfl
    | loadEnd =>
      refine ⟨_, rfl, ?_, fun moved => absurd ?_ moved, fun moved => absurd ?_ moved⟩
      all_goals cases s.load <;> rfl
    | logWriteGrant =>
      obtain ⟨pending, -, windows, gen⟩ := grantLogWriter_same s
      exact ⟨_, rfl, pending, fun moved => absurd windows moved, fun moved => absurd gen moved⟩
    | logWriteComplete =>
      obtain ⟨pending, -, windows, gen⟩ := completeLogWrite_same s
      exact ⟨_, rfl, pending, fun moved => absurd windows moved, fun moved => absurd gen moved⟩
    | depositGrant =>
      obtain ⟨pending, -, windows⟩ := grantDeposit_same s
      exact ⟨_, rfl, pending, fun moved => absurd windows moved, fun _ => .inr rfl⟩
    | _ => cases inside

end Sys2Proof.Machine
end

section
/-! The law of the log over the commands that leave the frame (R110, R111, R119, R148), and O7. -/

namespace Sys2Proof.Machine

/-- The law of the log speaks of the log unit, the window table, the load stage and the holder of the memory port. -/
theorem State.LogLaw.congr {s t : State} (law : s.LogLaw) (log : t.log = s.log) (windows : t.windows = s.windows)
    (load : t.load = s.load) (holder : t.holder = s.holder) : t.LogLaw := by
  have capacity : t.capacity = s.capacity := by unfold State.capacity; rw [windows]
  refine ⟨?_, ?_, ?_, ?_, ?_, ?_, ?_⟩
  all_goals simp only [log, load, holder, capacity]
  exacts [law.law, law.room, law.places, law.queue, law.numbers, law.loading, law.writing]

/-! The log writer (R110, R111). -/

/-- R111: a full ring gives up its oldest entry; after the grant there is room for one more. -/
theorem retireFull_law {s : State} (law : s.LogLaw) :
    s.retireFull.log.Ordered s.capacity ∧ s.retireFull.log.t - s.retireFull.log.o < s.capacity ∧
      s.retireFull.log.queue = s.log.queue := by
  obtain ⟨o_pos, op, pt, ow, ws, st, ring, ta, room⟩ := law.law
  have places := law.room
  unfold State.retireFull
  split
  case isTrue full =>
    simp only [LogUnit.full, beq_iff_eq] at full
    show s.log.retire.Ordered s.capacity ∧ s.log.retire.t - s.log.retire.o < s.capacity ∧
      s.log.retire.queue = s.log.queue
    have fields : s.log.retire.a = s.log.a ∧ s.log.retire.t = s.log.t ∧ s.log.retire.o = s.log.o + 1 ∧
        s.log.retire.queue = s.log.queue ∧ s.log.retire.p = max s.log.p (s.log.o + 1) ∧
        s.log.retire.w = max s.log.w (s.log.o + 1) ∧ s.log.retire.s = max s.log.s (s.log.o + 1) := by
      unfold LogUnit.retire
      dsimp only
      split_ifs <;> refine ⟨rfl, rfl, rfl, rfl, ?_, ?_, ?_⟩ <;> try dsimp only
      all_goals omega
    obtain ⟨fa, ft, fo, fq, fp, fw, fs⟩ := fields
    refine ⟨⟨?_, ?_, ?_, ?_⟩, ?_, fq⟩
    · unfold LogUnit.lawful
      rw [fa, ft, fo, fp, fw, fs]
      omega
    · rw [fq]; exact law.places
    · rw [fq, ft, fa]; exact law.queue
    · rw [fq, ft]; exact law.numbers
    · rw [ft, fo]; omega
  case isFalse notFull =>
    simp only [LogUnit.full, beq_iff_eq] at notFull
    exact ⟨⟨law.law, law.places, law.queue, law.numbers⟩, by omega, rfl⟩

theorem grantLogWriter_logLaw {s : State} (law : s.LogLaw) : s.grantLogWriter.LogLaw := by
  unfold State.grantLogWriter
  split
  case h_2 => exact law
  case h_1 e rest queue =>
    split
    case isFalse => exact law
    case isTrue granted =>
      have running := (grantsMember_running granted).1
      obtain ⟨ordered, free, same⟩ := retireFull_law law
      obtain ⟨-, load, windows, -⟩ := retireFull_same s
      refine (finish_logFrame s _).logLaw ?_
      have capacity : (s.retireFull.grantMember .logWriter (.logWriter e)).capacity = s.capacity := by
        unfold State.capacity; exact congrArg ringCapacity windows
      refine ⟨by rw [capacity]; exact ordered.law, by rw [capacity]; exact law.room, ordered.places, ordered.queue,
        ordered.numbers, fun loading => absurd (load.trans running) loading, fun d held => ?_⟩
      obtain rfl : e = d := by simpa [State.grantMember] using held
      rw [capacity]
      exact ⟨by rw [show (s.retireFull.grantMember .logWriter (.logWriter e)).log.queue = s.log.queue from same, queue]; rfl,
        free⟩

theorem completeLogWrite_logLaw {s : State} (law : s.LogLaw) : s.completeLogWrite.LogLaw := by
  unfold State.completeLogWrite
  split
  case h_1 e held =>
    obtain ⟨head, room⟩ := law.writing e held
    obtain ⟨o_pos, op, pt, ow, ws, st, ring, ta, free⟩ := law.law
    obtain ⟨rest, queue⟩ := List.head?_eq_some_iff.mp head
    have count := law.queue
    have numbers := law.numbers
    have places := law.places
    simp only [queue, List.length_cons] at count places
    simp only [queue, List.map_cons, List.length_cons, List.range'_succ, List.cons.injEq] at numbers
    refine ((handUrgent_logFrame _ e).finish s).logLaw ⟨⟨o_pos, op, ?_, ow, ws, ?_, ?_, ?_, ?_⟩, law.room, ?_, ?_, ?_, ?_, ?_⟩
    all_goals dsimp only [State.freePort]
    · omega
    · omega
    · exact Nat.sub_le_of_le_add (by omega : _ ≤ s.capacity + _)
    · omega
    · omega
    · simp only [queue, List.tail_cons]; omega
    · simp only [queue, List.tail_cons]; omega
    · simp only [queue, List.tail_cons]; exact numbers.2
    · intro loading
      rw [(law.loading loading).2] at held
      cases held
    · intro d held'; cases held'
  all_goals exact law

theorem grantDeposit_logLaw {s : State} (law : s.LogLaw) : s.grantDeposit.LogLaw := by
  unfold State.grantDeposit
  split
  case h_2 => exact law
  case h_1 i dirty =>
    split
    case isFalse => exact law
    case isTrue granted =>
      have frame : s.LogFrame { s with
          deposits := { s.deposits with dirty := (s.deposits.take i).dirty, scanPos := (s.deposits.take i).scanPos }
          holder := .deposit i (pageImage s i (s.deposits.gen.get i + 1))
          lastWinner := .internal, rotation := .reader } :=
        .of_holder (grantsMember_running granted).1 (by simp) (.refl _)
      exact (frame.logLaw law).congr rfl rfl rfl rfl

/-! Stage 1 of the load: the ring of the table then in force (R125, R148). -/

/-- R125: the ring of a valid table has at least 32 slots. -/
theorem ringCapacity_of_valid {ws : List Word} (valid : windowTableValid ws = true) :
    32 ≤ ringCapacity (windowTable ws) := by
  simp only [windowTableValid, Bool.and_eq_true, beq_iff_eq] at valid
  obtain ⟨⟨⟨⟨⟨⟨⟨⟨-, -⟩, -⟩, ring⟩, -⟩, -⟩, allowed⟩, -⟩, -⟩ := valid
  cases found : (windowTable ws).find? (fun w => w.kind == .logRing) with
  | none =>
    rw [List.find?_eq_none] at found
    have : kindCount .logRing (windowTable ws) = 0 := List.countP_eq_zero.mpr found
    omega
  | some w =>
    have kind : w.kind = .logRing := by simpa using List.find?_some found
    have member := List.all_eq_true.mp allowed w (List.mem_of_find?_eq_some found)
    simp only [Window.expAllowed, kind, Bool.and_eq_true, decide_eq_true_eq] at member
    have size : 2 ^ 10 ≤ 2 ^ w.exp := Nat.pow_le_pow_right (by decide) member.1.1
    have window : findWindow (windowTable ws) .logRing = w := by unfold findWindow; rw [found]; rfl
    unfold ringCapacity
    rw [window, Window.size]
    omega

theorem loadFailure_sec {ws : List Word} {i : Fin 9} {k : KeptDefault} (h : loadFailure ws i = some k) : k.sec = i := by
  unfold loadFailure at h
  split_ifs at h <;> cases h <;> rfl

theorem mem_sections_but_header {i : Fin 9} (h : i ≠ 8) : i ∈ ([0, 1, 2, 3, 4, 5, 6, 7] : List (Fin 9)) := by
  revert h
  revert i
  decide

/-- R148: a section that the load does not default has passed its checks. -/
theorem loadFailure_of_not_defaulted {m : Memory} {i : Fin 9} (h : defaulted (loadFailures m) i = false) :
    loadFailure (storedSection m i) i = none := by
  unfold loadFailures at h
  split at h
  case h_1 k failed => simp [defaulted, loadFailure_sec failed] at h
  case h_2 passed =>
    by_cases header : i = 8
    · rw [header]; exact passed
    · cases failed : loadFailure (storedSection m i) i with
      | none => rfl
      | some k =>
        have : k ∈ ([0, 1, 2, 3, 4, 5, 6, 7] : List (Fin 9)).filterMap (fun j => loadFailure (storedSection m j) j) :=
          List.mem_filterMap.mpr ⟨i, mem_sections_but_header header, failed⟩
        rw [defaulted, List.any_eq_false] at h
        exact absurd (by simp [loadFailure_sec failed]) (h k this)

theorem vector_get_ofFn {α : Type} {n : Nat} (f : Fin n → α) (i : Fin n) : (Vector.ofFn f).get i = f i := by
  show (Vector.ofFn f)[i.val] = f i
  rw [Vector.getElem_ofFn]

theorem defaultTable_room : 32 ≤ ringCapacity (windowTable (defaultSection 0)) := by decide

theorem loadedTable_room (m : Memory) :
    32 ≤ ringCapacity (windowTable (loadedShadow m (loadFailures m) 0).words) := by
  cases h : defaulted (loadFailures m) 0 with
  | true =>
    have words : (loadedShadow m (loadFailures m) 0).words = defaultSection 0 := by
      unfold loadedShadow; rw [if_pos h]; rfl
    rw [words]
    exact defaultTable_room
  | false =>
    have words : (loadedShadow m (loadFailures m) 0).words = storedSection m 0 := by
      unfold loadedShadow; rw [h]; rfl
    have passed := loadFailure_of_not_defaulted h
    unfold loadFailure at passed
    split_ifs at passed with block content
    rw [words]
    exact ringCapacity_of_valid (by simpa [contentGood] using content)

theorem loadStage1_windows (s : State) (panel : Bool) :
    (s.loadStage1 panel).windows = windowTable (loadedShadow s.mem (loadFailures s.mem) 0).words := by
  unfold State.loadStage1
  dsimp only
  rw [vector_get_ofFn]

theorem loadStage1_room (s : State) (panel : Bool) : 32 ≤ (s.loadStage1 panel).capacity := by
  unfold State.capacity
  rw [loadStage1_windows]
  exact loadedTable_room s.mem

theorem loadStage1_logLaw {s : State} {panel : Bool} (law : s.LogLaw) (load : s.load = .stage1 panel) :
    (s.loadStage1 panel).LogLaw := by
  obtain ⟨empty, free⟩ := law.loading (by rw [load]; simp)
  obtain ⟨o_pos, op, pt, ow, ws, st, ring, ta, places⟩ := law.law
  refine ⟨⟨o_pos, op, pt, ow, ws, st, ?_, ta, places⟩, loadStage1_room s panel, law.places, law.queue, law.numbers,
    fun _ => ⟨empty, free⟩, fun e held => ?_⟩
  · show s.log.t - s.log.o ≤ _
    omega
  · rw [show (s.loadStage1 panel).holder = s.holder from rfl, free] at held
    cases held

/-! The recovery (R119 to R121). -/

theorem slotSequence_pos {m : Memory} {t : List Window} {i x : Nat} (h : slotSequence m t i = some x) : x ≠ 0 := by
  unfold slotSequence at h
  dsimp only at h
  split_ifs at h with valid
  simp only [Bool.and_eq_true, bne_iff_ne, beq_iff_eq] at valid
  cases h
  exact valid.1.2

/-- R119: the oldest retained number is at least 1, and the ring bounds how far it lies below the number it starts from. -/
theorem oldestSequence_bounds (m : Memory) (t : List Window) (x k : Nat) (pos : 1 ≤ x) :
    1 ≤ oldestSequence m t x k ∧ oldestSequence m t x k ≤ x ∧ x - oldestSequence m t x k ≤ k := by
  induction k generalizing x with
  | zero => exact ⟨pos, le_refl x, by simp [oldestSequence]⟩
  | succ k ih =>
    unfold oldestSequence
    split
    case isTrue valid =>
      have := slotSequence_pos valid
      obtain ⟨low, high, span⟩ := ih (x - 1) (by omega)
      omega
    case isFalse => omega

theorem recoverTail_bounds (m : Memory) (t : List Window) :
    1 ≤ (recoverTail m t).2 ∧ (recoverTail m t).2 ≤ (recoverTail m t).1 ∧
      (recoverTail m t).1 - (recoverTail m t).2 ≤ ringCapacity t := by
  unfold recoverTail
  dsimp only
  split
  · exact ⟨le_refl 1, le_refl 1, Nat.zero_le _⟩
  · exact oldestSequence_bounds m t _ _ (by omega)

theorem recoverCursors_bounds (m : Memory) (t : List Window) {tail oldest : Nat} (h : oldest ≤ tail) :
    oldest ≤ (recoverCursors m t tail oldest).1 ∧ (recoverCursors m t tail oldest).1 ≤ tail ∧
      oldest ≤ (recoverCursors m t tail oldest).2 ∧ (recoverCursors m t tail oldest).2 ≤ tail := by
  unfold recoverCursors
  dsimp only
  split
  case isTrue shown =>
    simp only [Bool.and_eq_true, decide_eq_true_eq] at shown
    obtain ⟨⟨⟨⟨-, op⟩, pt⟩, ow⟩, wt⟩ := shown
    exact ⟨op, pt, ow, wt⟩
  case isFalse => exact ⟨le_refl _, h, le_refl _, h⟩

theorem recoverLog_ordered (m : Memory) (t : List Window) : (recoverLog m t).Ordered (ringCapacity t) := by
  obtain ⟨o_pos, ot, ring⟩ := recoverTail_bounds m t
  obtain ⟨op, pt, ow, wt⟩ := recoverCursors_bounds m t ot
  exact ⟨⟨o_pos, op, pt, ow, le_refl _, wt, ring, le_refl _, by simp [recoverLog]⟩, by simp [recoverLog], rfl, rfl⟩

theorem loadEnd_logLaw {s : State} {panel : Bool} (law : s.LogLaw) (load : s.load = .stage2 panel) :
    (s.loadEnd panel).LogLaw := by
  obtain ⟨-, free⟩ := law.loading (by rw [load]; simp)
  obtain ⟨lawful, places, count, numbers⟩ := recoverLog_ordered s.mem s.windows
  obtain ⟨u, ends, log, windows, loaded, holder⟩ : ∃ u, s.loadEnd panel = takeMarks s (flush u) ∧
      u.log = recoverLog s.mem s.windows ∧ u.windows = s.windows ∧ u.load = .none ∧ u.holder = s.holder := by
    unfold State.loadEnd
    exact ⟨_, rfl, rfl, rfl, rfl, rfl⟩
  have capacity : u.capacity = ringCapacity s.windows := by unfold State.capacity; rw [windows]
  rw [ends]
  refine ((flush_logFrame u).trans (takeMarks_logFrame s _)).logLaw ⟨?_, ?_, ?_, ?_, ?_, ?_, ?_⟩
  · rw [log, capacity]; exact lawful
  · rw [capacity]; exact law.room
  · rw [log]; exact places
  · rw [log]; exact count
  · rw [log]; exact numbers
  · exact fun loading => absurd loaded loading
  · intro e held
    rw [holder, free] at held
    cases held

/-! Every command. -/

theorem exec_logLaw {s t : State} {c : Instr} (law : s.LogLaw) (run : exec c s = .next t) : t.LogLaw := by
  cases inside : leavesFrame c with
  | false =>
    obtain ⟨u, run', frame⟩ := exec_logFrame c inside s
    rw [run'] at run
    cases run
    exact frame.logLaw law
  | true =>
    cases c with
    | powerUp => cases run; exact state_reset_logLaw.congr rfl rfl rfl rfl
    | panelReset =>
      cases run
      exact ⟨state_reset_logLaw.law, state_reset_logLaw.room, state_reset_logLaw.places, state_reset_logLaw.queue,
        state_reset_logLaw.numbers, fun _ => ⟨rfl, rfl⟩, fun e held => by cases held⟩
    | loadStage1End =>
      cases run
      split
      · exact loadStage1_logLaw law ‹_›
      all_goals exact law
    | loadEnd =>
      cases run
      split
      · exact loadEnd_logLaw law ‹_›
      all_goals exact law
    | logWriteGrant => cases run; exact grantLogWriter_logLaw law
    | logWriteComplete => cases run; exact completeLogWrite_logLaw law
    | depositGrant => cases run; exact grantDeposit_logLaw law
    | _ => cases inside

theorem tick10_logFrame (s : State) : s.LogFrame s.tick10 := by
  have counted : s.LogFrame s.countTick := .of_log (.refl _)
  have second (b : Prop) [Decidable b] :
      s.countTick.LogFrame (if b then s.countTick.secondsTick else s.countTick) :=
    .ite (fun _ => secondsTick_logFrame _) (fun _ => .refl _)
  have sampled (t : State) : t.LogFrame (t.sampleLdcd.setLink t.sampleLdcd.link.keyUp) :=
    (setLink_logFrame t _).trans (setLink_logFrame _ _)
  exact (counted.trans (second _)).trans (linkEvent_logFrame _ true
    (act := fun t => t.sampleLdcd.setLink t.sampleLdcd.link.keyUp) (sampled _))

/-- Settles O7: the law is kept by every command, be it queued or due, and by the tick, which is within the frame. -/
theorem everyStepKeepsLogLaw : Obligations.EveryStepKeepsLogLaw := by
  intro s t _ law run
  unfold step at run
  split at run
  case h_1 c rest _ =>
    have popped : State.LogLaw { s with pending := rest } := law.congr rfl rfl rfl rfl
    exact exec_logLaw popped run
  case h_2 =>
    unfold State.idle at run
    split at run
    · exact exec_logLaw law run
    · cases run
      exact (tick10_logFrame s).logLaw law

end Sys2Proof.Machine
end

section
/-! The 10 ms tick (R14, R156, R157), and O2. -/

namespace Sys2Proof.Machine

/-- A command that has moved neither the plant nor, with nothing handed in the plant, the log: its end marks pages. -/
theorem finish_samePlant {s u : State} (plant : u.plant = s.plant) (out : s.plant.out = []) :
    finish s u = { u with deposits := (finish s u).deposits } := by
  have samePlant : (finish s u).plant = u.plant := by
    rw [finish_plant, plant]
    simp only [← out]
  have sameLog : (finish s u).log = u.log := by
    rw [finish_log, plant, out, List.foldl_nil]
  exact (finish_rest s u).trans (by rw [samePlant, sameLog])

/-! The seconds tick. -/

theorem Plant.setWeir_self (p : Plant) (n : Fin 3) : p.setWeir n (p.weir n) = p := by
  show { p with weirs := p.weirs.set n.val p.weirs[n.val] n.isLt } = p
  rw [Vector.set_getElem_self]

/-- R86: a volume step moves the weir's record alone. -/
theorem Plant.volumeStep_eq (p : Plant) (n : Fin 3) :
    p.volumeStep n = p.setWeir n ((p.volumeStep n).weir n) := by
  have set (w : Weir) : p.setWeir n w = p.setWeir n ((p.setWeir n w).weir n) := by
    rw [show (p.setWeir n w).weir n = w from vset_get_same _ _ _]
  unfold Plant.volumeStep
  dsimp only
  split
  · exact (p.setWeir_self n).symm
  · exact (p.setWeir_self n).symm
  · exact (p.setWeir_self n).symm
  · split
    · exact (p.setWeir_self n).symm
    · split <;> exact set _

/-- The volume steps of a tick move the weirs alone. -/
theorem volumeSteps_rest (p : Plant) :
    allWeirs.foldl (fun q n => q.volumeStep n) p =
      { p with weirs := (allWeirs.foldl (fun q n => q.volumeStep n) p).weirs } := by
  have step (q : Plant) (n : Fin 3) : ∃ ws, q.volumeStep n = { q with weirs := ws } := ⟨_, q.volumeStep_eq n⟩
  obtain ⟨w0, h0⟩ := step p 0
  obtain ⟨w1, h1⟩ := step (p.volumeStep 0) 1
  obtain ⟨w2, h2⟩ := step ((p.volumeStep 0).volumeStep 1) 2
  show ((p.volumeStep 0).volumeStep 1).volumeStep 2 = { p with weirs := (((p.volumeStep 0).volumeStep 1).volumeStep 2).weirs }
  rw [h2, h1, h0]

theorem markPage_eq (s : State) (i : Fin 16) : ∃ d, markPage s i = { s with deposits := d } := ⟨_, markPage_rest s i⟩

/-- R15, R86: the marks of a seconds tick. -/
theorem markTick_eq (before s : State) : ∃ d, State.markTick before s = { s with deposits := d } := by
  have stepped (t : State) (n : Fin 3) :
      ∃ d, (if (before.plant.weir n).steps then markPage t (weirPageNumber n) else t) = { t with deposits := d } := by
    split
    · exact markPage_eq t _
    · exact ⟨t.deposits, rfl⟩
  obtain ⟨d, first⟩ := markPage_eq s 0
  obtain ⟨d0, step0⟩ := stepped (markPage s 0) 0
  obtain ⟨d1, step1⟩ := stepped _ 1
  obtain ⟨d2, step2⟩ := stepped _ 2
  refine ⟨d2, ?_⟩
  simp only [State.markTick, allWeirs, List.foldl_cons, List.foldl_nil]
  rw [step2, step1, step0, first]

/-- R14: beside the plant, a seconds tick counts the timers of the settings unit and of the reporter, and marks pages. -/
theorem secondsTick_eq (s : State) : ∃ d, s.secondsTick = { s with
    plant := s.plant.secondsTick, settings := s.settings.tick, reporter := s.reporter.tick, deposits := d } :=
  markTick_eq s _

/-- A seconds tick appends nothing. -/
theorem secondsTick_plant_out (p : Plant) : p.secondsTick.out = p.out := by
  unfold Plant.secondsTick
  dsimp only
  rw [volumeSteps_rest]

theorem secondsTick_plant_marks (p : Plant) : p.secondsTick.marks = p.marks := by
  unfold Plant.secondsTick
  dsimp only
  rw [volumeSteps_rest]

/-! The sample of LDCD and the key-up. -/

/-- R156: a key-up moves the transmitter alone. -/
theorem keyUp_rest (l : Link) : l.keyUp = { l with tx := l.keyUp.tx } := by
  unfold Link.keyUp
  split
  · split <;> rfl
  all_goals rfl

theorem keyUp_busy {l : Link} (busy : l.tx ≠ .idle) : l.keyUp.tx.isIdle = false := by
  unfold Link.keyUp
  split
  case h_1 f pending =>
    split
    · dsimp only
      split <;> rfl
    · rw [pending]; rfl
  case h_2 idle => exact absurd idle busy
  case h_3 f k keying => rw [keying]; rfl
  case h_4 f sending => rw [sending]; rfl

/-- R156: a tick over a pending frame keys up once the receiver hunts. -/
theorem keyUp_pending {l : Link} {f : TxFrame} (pending : l.tx = .pending f) :
    l.keyUp.tx = if l.rx.state ≠ .hunt then .pending f
      else if l.keyUpDelay = 0 then .sending f else .keying f (.running (l.keyUpDelay / 10)) := by
  have keyed : l.keyUp = if l.rx.state = .hunt then
      { l with tx := if l.keyUpDelay = 0 then .sending f else .keying f (.ofMs l.keyUpDelay) } else l := by
    unfold Link.keyUp
    rw [pending]
  rw [keyed]
  by_cases hunt : l.rx.state = .hunt
  · rw [if_pos hunt, if_neg (not_not.mpr hunt)]
    rfl
  · rw [if_neg hunt, if_pos hunt, pending]

theorem keyUp_other {l : Link} (other : ∀ f, l.tx ≠ .pending f) : l.keyUp = l := by
  unfold Link.keyUp
  split
  case h_1 f pending => exact absurd pending (other f)
  all_goals rfl

/-- The link line as a tick of the state `v` leaves it. -/
def State.tickLink (v : State) : Link := { v.link with ldcd := v.ldcdPin }.keyUp

theorem tick10_eq (s : State) :
    s.tick10 = (if s.plant.clock.phase + 1 < 100 then s.countTick else s.countTick.secondsTick).linkEvent true
      (fun t => t.setLink t.tickLink) := by
  have phase : (ticksPerSecond ≤ s.countTick.plant.clock.phase) = ¬ (s.plant.clock.phase + 1 < 100) := by
    simp only [State.countTick, ticksPerSecond, not_lt]
  unfold State.tick10
  simp only [phase, ite_not]
  rfl

/-- A tick over a line in hand, or with nothing held back, settles nothing. -/
theorem tickLink_settled {v : State} (running : v.load = .none) (out : v.plant.out = [])
    (still : v.link.tx ≠ .idle ∨
      v.link.pendingS7 = none ∧ v.reporter.cycle = none ∧ ∀ r, v.reporter.slot ≠ .ready r) :
    v.linkEvent true (fun t => t.setLink t.tickLink) =
      { v with link := v.tickLink, deposits := (v.linkEvent true (fun t => t.setLink t.tickLink)).deposits } := by
  have settled : (v.setLink v.tickLink).settle = v.setLink v.tickLink := by
    rcases still with busy | ⟨pending, cycle, slot⟩
    · exact settle_busy (keyUp_busy (l := { v.link with ldcd := v.ldcdPin }) busy)
    · refine settle_still ?_ slot cycle
      show v.tickLink.pendingS7 = none
      rw [State.tickLink, keyUp_rest]
      exact pending
  rw [linkEvent_runs running, settled]
  exact finish_samePlant rfl out

/-- Settles O2: `dueEvent` decides `idle`; the tick is `tick10_eq`, a link event on the counted state, of which
`linkEvent_link` says what it moves and `tickLink_settled` where it settles nothing. -/
theorem emptyQueueTakesDueEventOrTick : Obligations.EmptyQueueTakesDueEventOrTick := by
  intro s empty out
  have idle : step s = s.idle := by unfold step; rw [empty]
  refine ⟨fun c due => ?due, fun noEvent => ?tick⟩
  case due => rw [idle, State.idle, due]
  case tick =>
    intro counted
    have ticks : step s = .next s.tick10 := by rw [idle, State.idle, noEvent]
    refine ⟨s.tick10, counted.secondsTick, ticks, rfl, ?_⟩
    intro v tx
    have run : s.tick10 = v.linkEvent true (fun t => t.setLink t.tickLink) := tick10_eq s
    obtain ⟨d, second⟩ := secondsTick_eq counted
    have fields : v.load = s.load ∧ v.plant.out = [] ∧ v.link = counted.link ∧ v.ldcdPin = s.ldcdPin ∧
        v.reporter.slot = s.reporter.slot ∧ (s.reporter.cycle = none → v.reporter.cycle = none) := by
      by_cases phase : s.plant.clock.phase + 1 < 100
      · rw [show v = counted from if_pos phase]
        exact ⟨rfl, out, rfl, rfl, rfl, fun h => h⟩
      · rw [show v = counted.secondsTick from if_neg phase, second]
        refine ⟨rfl, (secondsTick_plant_out _).trans out, rfl, rfl, rfl, fun h => ?_⟩
        show s.reporter.cycle.map AlertCycle.tick = none
        rw [h]; rfl
    obtain ⟨load, vout, link, pin, slot, cycle⟩ := fields
    refine ⟨fun loading => ?_, fun running => ?_⟩
    · rw [run]
      exact linkEvent_none (by rw [load]; exact loading) _ _
    · have vrunning := load.trans running
      obtain ⟨frame, rx, counts, -, ldcd⟩ := linkEvent_link vrunning vout v.tickLink
        (fun t => t.setLink t.tickLink) rfl
      have rest := keyUp_rest { v.link with ldcd := v.ldcdPin }
      rw [run]
      refine ⟨frame, ?_, ?_, ?_, fun still => ?_⟩
      · rw [ldcd, State.tickLink, rest, pin]
      · rw [rx, State.tickLink, rest, link]
      · rw [counts, State.tickLink, rest, link]
      · have settled := tickLink_settled vrunning vout (still.imp
          (fun busy => by
            rw [link]
            show (match s.link.tx with
              | .keying f k => Transmitter.keying f k.tick
              | .idle => .idle
              | .pending f => .pending f
              | .sending f => .sending f) ≠ .idle
            cases tx : s.link.tx <;> simp_all)
          (fun ⟨pending, noCycle, notReady⟩ =>
            ⟨by rw [link]; exact pending, cycle noCycle, by rw [slot]; exact notReady⟩))
        have keyed : ({ v.link with ldcd := v.ldcdPin } : Link).keyUp.tx = tx := by
          have rxState : v.link.rx.state = s.link.rx.state := by rw [link]
          have delay : v.link.keyUpDelay = s.link.keyUpDelay := by rw [link]; rfl
          rcases now : v.link.tx with _ | f | ⟨f, k⟩ | f
          case pending =>
            rw [keyUp_pending (l := { v.link with ldcd := v.ldcdPin }) now]
            simp only [tx, now, rxState]
            rw [← delay]
            rfl
          all_goals
            rw [keyUp_other (l := { v.link with ldcd := v.ldcdPin }) (by intro g; simp only [now]; exact nofun)]
            simp only [tx, now]
        rw [settled, State.tickLink, rest, keyed, pin]

end Sys2Proof.Machine
end

section
/-! Words and their bytes, blocks and their check words (R171), and O52. -/

namespace Sys2Proof.Machine

/-! Words and bytes. -/

theorem wordBytes_length (w : Word) : (wordBytes w).length = 2 := rfl

theorem natBytes_length (k n : Nat) : (natBytes k n).length = k := by
  induction k generalizing n with
  | zero => rfl
  | succ k ih => simp only [natBytes, List.length_cons, ih]

theorem wordBytes_join (w : Word) : w.extractLsb' 8 8 ++ w.extractLsb' 0 8 = w := by
  ext i hi
  simp only [BitVec.getElem_append, BitVec.getElem_extractLsb']
  split
  · simp only [Nat.zero_add]; rfl
  · rename_i high
    rw [show 8 + (i - 8) = i by omega]; rfl

theorem bytesWords_wordBytes (w : Word) (rest : List Byte) : bytesWords (wordBytes w ++ rest) = w :: bytesWords rest := by
  simp only [wordBytes, List.cons_append, List.nil_append, bytesWords, wordBytes_join]

theorem bytesWords_word (w : Word) : bytesWords (wordBytes w) = [w] := bytesWords_wordBytes w []

theorem bytesWords_wordsBytes (ws : List Word) : bytesWords (wordsBytes ws) = ws := by
  induction ws with
  | nil => rfl
  | cons w ws ih =>
    rw [wordsBytes, List.flatMap_cons, bytesWords_wordBytes]
    exact congrArg _ ih

/-- An even number of bytes is cut into words from its front on. -/
theorem bytesWords_append {k : Nat} : ∀ {xs : List Byte} (_ : xs.length = 2 * k) (ys : List Byte),
    bytesWords (xs ++ ys) = bytesWords xs ++ bytesWords ys := by
  induction k with
  | zero => intro xs len ys; rw [List.length_eq_zero_iff.mp len]; rfl
  | succ k ih =>
    intro xs len ys
    match xs, len with
    | lo :: hi :: rest, len =>
      have shorter : rest.length = 2 * k := by simp only [List.length_cons] at len; omega
      simp only [List.cons_append, bytesWords, ih shorter ys]

theorem bytesWords_length {k : Nat} : ∀ {xs : List Byte}, xs.length = 2 * k → (bytesWords xs).length = k := by
  induction k with
  | zero => intro xs len; rw [List.length_eq_zero_iff.mp len]; rfl
  | succ k ih =>
    intro xs len
    match xs, len with
    | lo :: hi :: rest, len =>
      have shorter : rest.length = 2 * k := by simp only [List.length_cons] at len; omega
      simp only [bytesWords, List.length_cons, ih shorter]

/-! Blocks. -/

theorem blockSum_eq_ofNat (ws : List Word) : blockSum ws = BitVec.ofNat 16 (ws.map BitVec.toNat).sum := by
  induction ws using List.reverseRecOn with
  | nil => rfl
  | append_singleton ws w ih =>
    rw [blockSum_snoc, ih, List.map_append, List.sum_append, List.map_singleton, List.sum_singleton, BitVec.ofNat_add,
      BitVec.ofNat_toNat, BitVec.setWidth_eq]

/-- R171: the check word makes the sum. -/
theorem blockSum_sealed (ws : List Word) : blockSum (ws ++ [checkWord ws]) = 0xFFFF := by
  rw [blockSum_snoc, checkWord, add_sub_cancel]

theorem blockValid_iff (ws : List Word) : blockValid ws = true ↔ blockSum ws = 0xFFFF := beq_iff_eq

theorem blockValid_sealed (ws : List Word) : blockValid (ws ++ [checkWord ws]) = true :=
  (blockValid_iff _).mpr (blockSum_sealed ws)

theorem blockSum_zeros (n : Nat) : blockSum (List.replicate n 0) = 0 := by
  induction n with
  | zero => rfl
  | succ n ih => rw [List.replicate_succ', blockSum_snoc, ih]; rfl

theorem blockValid_zeros (n : Nat) : blockValid (List.replicate n 0) = false := by
  rw [← Bool.not_eq_true, blockValid_iff, blockSum_zeros]
  decide

/-- A block sealed from words that fit has its number of words. -/
theorem sealBlock_length {n : Nat} {ws : List Word} (fits : ws.length < n) : (sealBlock n ws).length = n := by
  simp only [sealBlock, List.length_append, List.length_replicate, List.length_singleton]
  omega

theorem defaultSection_length (i : Fin 9) : (defaultSection i).length = sectionLength i :=
  sealBlock_length (by revert i; decide)

theorem defaultSection_valid (i : Fin 9) : blockValid (defaultSection i) = true := blockValid_sealed _

/-! Pages (12.3). -/

theorem timeWords_length (t : Option Time) : (timeWords t).length = 2 := by cases t <;> rfl

theorem shortRecord_length (n : Fin 3) (r : Option OverflowRecord) : (shortRecord n r).length = 10 := by cases r <;> rfl

theorem fullRecord_length (n : Fin 3) (r : Option OverflowRecord) : (fullRecord n r).length = 14 := by
  cases r with
  | none => rfl
  | some r =>
    simp only [fullRecord, List.length_append, timeWords_length]
    rfl

theorem page0_length (s : State) (count : Nat) : (page0 s count).length = 29 := by
  have last : (lastRefusalWords s.refusals.last).length = 5 := by cases s.refusals.last <;> rfl
  have logged : (loggedRefusalWords s.refusals.logged).length = 4 := by cases s.refusals.logged <;> rfl
  simp only [page0, List.length_append, last, logged]
  rfl

theorem page1_length (s : State) : (page1 s).length = 23 := rfl

theorem pumpPage_length (p : Plant) (n : Fin 6) : (pumpPage p n).length ≤ 30 := by
  simp only [pumpPage, List.length_append, timeWords_length]
  by_cases lead : n = 0
  · rw [if_pos lead]; simp only [List.length_cons, List.length_nil]; decide
  · rw [if_neg lead]; simp only [List.length_cons, List.length_nil]; decide

theorem rakePage_length (p : Plant) (n : Fin 2) : (rakePage p n).length = 9 := by
  simp only [rakePage, List.length_append, timeWords_length]
  rfl

theorem weirPage_length (p : Plant) (n : Fin 3) : (weirPage p n).length = 29 := by
  simp only [weirPage, List.length_append, shortRecord_length, fullRecord_length]
  rfl

theorem page13_length (s : State) : (page13 s).length = 14 := rfl

theorem page15_length (s : State) : (page15 s).length = 20 := rfl

theorem page14_length (s : State) : (page14 s).length = 30 := by
  simp only [page14, List.length_append]
  cases s.reporter.gapRecord <;> rfl

theorem pageBody_length {ws : List Word} (fits : ws.length ≤ 30) : (pageBody ws).length = 30 := by
  simp only [pageBody, List.length_append, List.length_replicate]
  omega

/-- 12.3: words 1 to 30 of every page. -/
theorem pageWords_length (s : State) (count : Nat) (i : Fin 16) : (pageWords s count i).length = 30 := by
  refine pageBody_length ?_
  split
  · exact (page0_length s count).trans_le (by decide)
  · exact (page1_length s).trans_le (by decide)
  iterate 6 exact pumpPage_length _ _
  iterate 2 exact (rakePage_length _ _).trans_le (by decide)
  iterate 3 exact (weirPage_length _ _).trans_le (by decide)
  · exact (page13_length s).trans_le (by decide)
  · exact (page14_length s).le
  · exact (page15_length s).trans_le (by decide)

theorem pageImage_words (s : State) (i : Fin 16) (gen : Word) :
    bytesWords (pageImage s i gen) = (gen :: pageWords s s.plant.corr.length i) ++
      [checkWord (gen :: pageWords s s.plant.corr.length i)] := bytesWords_wordsBytes _

/-! Entries (12.4). -/

/-- An entry is fifteen words of fields and its check word. -/
theorem entryBytes_words (seq : Nat) (time : Time) (source kind : Byte) (flags : Nat) {detail : List Byte}
    (fits : detail.length ≤ 18) :
    ∃ body : List Word, body.length = 15 ∧
      bytesWords (entryBytes seq time source kind flags detail) = body ++ [checkWord body] := by
  have len : (natBytes 4 seq ++ natBytes 4 time.toNat ++ [source, kind, BitVec.ofNat 8 flags,
      BitVec.ofNat 8 detail.length] ++ (detail ++ List.replicate (18 - detail.length) 0)).length = 2 * 15 := by
    simp only [List.length_append, natBytes_length, List.length_cons, List.length_nil, List.length_replicate]
    omega
  refine ⟨_, bytesWords_length len, ?_⟩
  rw [entryBytes, bytesWords_append len, bytesWords_word]

theorem entryBytes_block (seq : Nat) (time : Time) (source kind : Byte) (flags : Nat) {detail : List Byte}
    (fits : detail.length ≤ 18) :
    (bytesWords (entryBytes seq time source kind flags detail)).length = 16 ∧
      blockValid (bytesWords (entryBytes seq time source kind flags detail)) = true := by
  obtain ⟨body, len, words⟩ := entryBytes_words seq time source kind flags fits
  rw [words]
  exact ⟨by rw [List.length_append, len]; rfl, blockValid_sealed body⟩

/-- Settles O52: each block that the part makes ends in the check word of the words before it. -/
theorem checkWordsMakeBlocksValid : Obligations.CheckWordsMakeBlocksValid := by
  refine ⟨fun ws => ⟨blockSum_eq_ofNat ws, rfl, blockSum_sealed ws, blockValid_iff ws⟩, blockValid_zeros, by decide,
    fun i => ⟨?sections, defaultSection_valid i⟩, fun s i gen => ?pages,
    fun seq time source kind flags detail fits => entryBytes_block seq time source kind flags fits,
    fun count => entryBytes_block _ _ _ _ _ ?gap⟩
  case sections => exact (defaultSection_length i).trans (by revert i; decide)
  case pages =>
    rw [pageImage_words]
    refine ⟨?_, blockValid_sealed _⟩
    rw [List.length_append, List.length_cons, pageWords_length]
    rfl
  case gap => rw [detail2, natBytes_length]; decide

end Sys2Proof.Machine
end

section
/-! The processor's staging, its commit and the advance word (R114 to R118), the lock and freeze words (R146, R147):
O40, O41, O42 and O51. -/

namespace Sys2Proof.Machine

/-! Accesses whose judgment leaves the plant as it was, or hands entries alone. -/

theorem Judging.withLog {s u : State} {a : Access} (h : Judging s u a) (log : LogUnit) :
    Judging s { u with log := log } a := by
  obtain ⟨rest, gen, scan, kept⟩ := h
  exact ⟨by rw [rest], gen, scan, kept⟩

/-- A judgment that hands entries and moves nothing else in the plant: the log unit takes them, and the entry of the
outcome after them. -/
theorem access_entries {s u : State} {a : Access} {v : Verdict} {entries : List Draft} (taken : s.Takes a)
    (out : s.plant.out = []) {judge : State → State × Verdict} (judged : judge (s.present a) = (u, v))
    (judging : Judging s u a) (write : v.refusal ≠ none → a.write = true)
    (plant : u.plant = { s.plant with out := entries }) :
    let t := s.accessStep a judge
    s.AccessStep t a v ∧ t.plant = s.plant ∧
      t.log = (entries ++ s.outcomeEntries a v).foldl (fun l d => l.append s.plant.clock d) u.log ∧
      t.settings = u.settings ∧ t.link = u.link := by
  obtain ⟨step, plant_end, log, settings, link⟩ := access_step taken judged judging write (by rw [plant])
  rw [plant] at plant_end log
  exact ⟨step, plant_end.trans (by simp only [← out]), log, settings, link⟩

/-- A judgment that leaves the plant as it was. -/
theorem access_samePlant {s u : State} {a : Access} {v : Verdict} (taken : s.Takes a) (out : s.plant.out = [])
    {judge : State → State × Verdict} (judged : judge (s.present a) = (u, v)) (judging : Judging s u a)
    (write : v.refusal ≠ none → a.write = true) (plant : u.plant = s.plant) :
    let t := s.accessStep a judge
    s.AccessStep t a v ∧ t.plant = s.plant ∧
      t.log = (s.outcomeEntries a v).foldl (fun l d => l.append s.plant.clock d) u.log ∧
      t.settings = u.settings ∧ t.link = u.link :=
  access_entries (entries := []) taken out judged judging write (by rw [plant]; simp only [← out])

/-! The staging (R114, R116). -/

theorem State.Takes.present_log {s : State} {a : Access} (taken : s.Takes a) : (s.present a).log = s.log := by
  rw [taken.present]

theorem State.Takes.present_plant {s : State} {a : Access} (taken : s.Takes a) : (s.present a).plant = s.plant := by
  rw [taken.present]

theorem State.Takes.present_settings {s : State} {a : Access} (taken : s.Takes a) :
    (s.present a).settings = s.settings := by
  rw [taken.present]

theorem State.Takes.present_link {s : State} {a : Access} (taken : s.Takes a) : (s.present a).link = s.link := by
  rw [taken.present]

/-- An access whose judgment has moved nothing but the log unit. -/
theorem access_logOnly {s : State} {a : Access} {v : Verdict} {log : LogUnit} (taken : s.Takes a)
    (out : s.plant.out = []) {judge : State → State × Verdict}
    (judged : judge (s.present a) = ({ s.present a with log := log }, v)) (write : v.refusal ≠ none → a.write = true) :
    let t := s.accessStep a judge
    s.AccessStep t a v ∧ t.plant = s.plant ∧ t.settings = s.settings ∧ t.link = s.link ∧
      t.log = (s.outcomeEntries a v).foldl (fun l d => l.append s.plant.clock d) log := by
  obtain ⟨step, plant, log_end, settings, link⟩ :=
    access_samePlant taken out judged ((Judging.start taken).withLog log) write taken.present_plant
  exact ⟨step, plant, settings.trans taken.present_settings, link.trans taken.present_link, log_end⟩

/-- R114: a word at the next offset is staged. -/
theorem stageWord_next {s : State} {place : Nat} {ws : List Word} (staging : s.log.staging = some ws)
    (next : ws.length = place) (v : Word) :
    s.stageWord place v = ({ s with log := { s.log with staging := some (ws ++ [v]) } }, .absorb) := by
  unfold State.stageWord
  rw [staging]
  exact if_pos next

/-- R114, R116: any other is out of order, and the staging is closed. -/
theorem stageWord_disorder {s : State} {place : Nat} (disorder : ∀ ws, s.log.staging = some ws → ws.length ≠ place)
    (v : Word) :
    s.stageWord place v = ({ s with log := { s.log with staging := none } }, .refuse .orderBroken) := by
  unfold State.stageWord
  split
  case h_1 ws staging => exact if_neg (disorder ws staging)
  case h_2 closed => rw [← closed]

/-- Settles O40: an access that moves the log unit alone, with the staging that its judgment leaves. -/
theorem stagingIsFilledInOrder : Obligations.StagingIsFilledInOrder := by
  intro s out staged
  refine ⟨fun v taken => ⟨_, rfl, ?opened⟩, fun k v taken => ⟨_, rfl, fun ws staging next => ?next, fun disorder => ?disorder⟩,
    fun k high b taken => ⟨_, rfl, ?byte⟩⟩
  case opened =>
    have judged : (fun t : State => (t.setStaging (some [v]), Verdict.absorb)) (s.present (s.portWrite 0 v)) =
        ({ s.present (s.portWrite 0 v) with log := { s.log with staging := some [v] } }, .absorb) := by
      dsimp only [State.setStaging]; rw [taken.present_log]
    exact access_logOnly taken out judged (fun h => absurd rfl h)
  case next =>
    have judged := stageWord_next (s := s.present (s.portWrite (2 + 2 * k.val) v)) (by rw [taken.present_log]; exact staging)
      next v
    rw [taken.present_log] at judged
    exact access_logOnly taken out judged (fun h => absurd rfl h)
  case disorder =>
    have judged := stageWord_disorder (s := s.present (s.portWrite (2 + 2 * k.val) v))
      (by rw [taken.present_log]; exact disorder) v
    rw [taken.present_log] at judged
    exact access_logOnly taken out judged (fun _ => rfl)
  case byte =>
    have judged : (fun t : State => (t.setStaging none, Verdict.refuse .orderBroken)) (s.present (s.stagingByte k high b)) =
        ({ s.present (s.stagingByte k high b) with log := { s.log with staging := none } }, .refuse .orderBroken) := by
      dsimp only [State.setStaging]; rw [taken.present_log]
    exact access_logOnly taken out judged (fun _ => rfl)

/-! The commit (R115). -/

theorem stagedDetail_eq {ws : List Word} (few : ws ≠ []) : stagedDetail ws = (wordsBytes ws).drop 3 := by
  obtain ⟨w, ws, rfl⟩ := List.exists_cons_of_ne_nil few
  rfl

/-- R115: the judgments of a complete staging, by its kind and then its length. -/
theorem commitStaging_eq {s : State} {log : LogUnit} {clock : Clock} (log_eq : s.log = log)
    (clock_eq : s.plant.clock = clock) (ws : List Word) :
    s.commitStaging ws =
      if (stagedKind ws).toNat < 0x80 ∨ stagedKind ws = 0xFF then
        ({ s with log := { log with staging := none, lastCommit := .refused .kindReserved } }, .refuse .kindReserved)
      else if 17 < stagedLength ws then
        ({ s with log := { log with staging := none, lastCommit := .refused .badCode } }, .refuse .badCode)
      else
        ({ s with log := { ({ log with staging := none } : LogUnit).append clock
            { source := srcProcessor, kind := stagedKind ws, urgent := false
              detail := (stagedDetail ws).take (stagedLength ws) } with
          lastCommit := if log.accepts then .assigned log.a else .dropped } }, .absorb) := by
  subst log_eq clock_eq
  simp only [State.commitStaging, Bool.or_eq_true, decide_eq_true_eq]
  have reserved : (stagedKind ws).toNat = 0xFF ↔ stagedKind ws = 0xFF := by
    rw [← BitVec.toNat_inj]; rfl
  simp only [reserved]
  rfl

theorem LogUnit.accepts_iff (l : LogUnit) : l.accepts = true ↔ l.queue.length < 16 ∧ l.a < 4294967295 := by
  unfold LogUnit.accepts
  rw [Bool.and_eq_true, decide_eq_true_eq, decide_eq_true_eq]
  rfl

/-- Settles O41: `commitStaging_eq` with nine words staged, `stageWord_disorder` with any other number. -/
theorem commitJudgesTheStagedWords : Obligations.CommitJudgesTheStagedWords := by
  intro s v out taken
  have write (outcome : Verdict) : outcome.refusal ≠ none → (s.portWrite 0x12 v).write = true := fun _ => rfl
  have result {outcome : Verdict} {log : LogUnit}
      (judged : (s.present (s.portWrite 0x12 v)).judgeCommit v =
        ({ s.present (s.portWrite 0x12 v) with log := log }, outcome)) :=
    access_logOnly (judge := fun t => t.judgeCommit v) taken out judged (write outcome)
  refine ⟨_, rfl, ?_⟩
  by_cases complete : ∃ ws, s.log.staging = some ws ∧ ws.length = 9
  case neg =>
    have disorder : ∀ ws, s.log.staging = some ws → ws.length ≠ 9 := fun ws staging nine => complete ⟨ws, staging, nine⟩
    have judged : (s.present (s.portWrite 0x12 v)).judgeCommit v =
        ({ s.present (s.portWrite 0x12 v) with log := { s.log with staging := none } }, .refuse .orderBroken) := by
      have disordered := stageWord_disorder (s := s.present (s.portWrite 0x12 v)) (place := 9)
        (by rw [taken.present_log]; exact disorder) v
      rw [taken.present_log] at disordered
      unfold State.judgeCommit
      rw [taken.present_log]
      split
      case h_1 ws staging => rw [if_neg (disorder ws staging)]; exact disordered
      case h_2 => exact disordered
    obtain ⟨step, plant, settings, link, log⟩ := result judged
    exact ⟨plant, settings, link, fun _ => ⟨step, log⟩, fun ws staging nine => absurd nine (disorder ws staging)⟩
  case pos =>
    obtain ⟨ws, staging, nine⟩ := complete
    have judged := commitStaging_eq (s := s.present (s.portWrite 0x12 v)) taken.present_log
      (congrArg Plant.clock taken.present_plant) (ws ++ [v])
    have committed : (s.present (s.portWrite 0x12 v)).judgeCommit v =
        (s.present (s.portWrite 0x12 v)).commitStaging (ws ++ [v]) := by
      unfold State.judgeCommit
      rw [taken.present_log, staging]
      exact if_pos nine
    rw [← committed] at judged
    have first : (ws ++ [v]).getD 0 0 = ws.getD 0 0 := List.getD_append _ _ _ _ (by omega)
    have second : (ws ++ [v]).getD 1 0 = ws.getD 1 0 := List.getD_append _ _ _ _ (by omega)
    have kind : stagedKind (ws ++ [v]) = (ws.getD 0 0).extractLsb' 0 8 := by rw [stagedKind, first]
    have count : stagedLength (ws ++ [v]) = (ws.getD 1 0).toNat % 256 := by rw [stagedLength, second]
    rw [kind, count, stagedDetail_eq (by simp)] at judged
    by_cases reserved : ((ws.getD 0 0).extractLsb' 0 8).toNat < 0x80 ∨ (ws.getD 0 0).extractLsb' 0 8 = 0xFF
    case pos =>
      rw [if_pos reserved] at judged
      obtain ⟨step, plant, settings, link, log⟩ := result judged
      refine ⟨plant, settings, link, fun disorder => absurd nine (disorder ws staging), fun ws' staging' _ => ?_⟩
      obtain rfl : ws = ws' := Option.some.inj (staging.symm.trans staging')
      exact ⟨fun _ => ⟨step, log⟩, fun low high => absurd reserved (by simp only [not_or, not_lt]; exact ⟨low, high⟩),
        fun low high => absurd reserved (by simp only [not_or, not_lt]; exact ⟨low, high⟩)⟩
    case neg =>
      rw [if_neg reserved] at judged
      by_cases long : 17 < (ws.getD 1 0).toNat % 256
      case pos =>
        rw [if_pos long] at judged
        obtain ⟨step, plant, settings, link, log⟩ := result judged
        refine ⟨plant, settings, link, fun disorder => absurd nine (disorder ws staging), fun ws' staging' _ => ?_⟩
        obtain rfl : ws = ws' := Option.some.inj (staging.symm.trans staging')
        exact ⟨fun h => absurd h reserved, fun _ _ _ => ⟨step, log⟩, fun _ _ short => absurd long (not_lt.mpr short)⟩
      case neg =>
        rw [if_neg long] at judged
        simp only [LogUnit.accepts_iff] at judged
        obtain ⟨step, plant, settings, link, log⟩ := result judged
        refine ⟨plant, settings, link, fun disorder => absurd nine (disorder ws staging), fun ws' staging' _ => ?_⟩
        obtain rfl : ws = ws' := Option.some.inj (staging.symm.trans staging')
        exact ⟨fun h => absurd h reserved, fun _ _ h => absurd h long, fun _ _ _ => ⟨step, log⟩⟩

/-! The advance word (R118). -/

/-- 12.3: page 15 shows P in its words 7 and 8. -/
theorem pageChanged_of_cursor {s t : State} (low : s.log.p < 4294967296) (low' : t.log.p < 4294967296)
    (moved : t.log.p ≠ s.log.p) : pageChanged s t 15 = true := by
  simp only [pageChanged, bne_iff_ne, ne_eq]
  intro same
  have first : BitVec.ofNat 16 s.log.p = BitVec.ofNat 16 t.log.p := congrArg (fun l : List Word => l.getD 6 0) same
  have second : BitVec.ofNat 16 (s.log.p / 65536) = BitVec.ofNat 16 (t.log.p / 65536) :=
    congrArg (fun l : List Word => l.getD 7 0) same
  have low_eq := congrArg BitVec.toNat first
  have high_eq := congrArg BitVec.toNat second
  simp only [BitVec.toNat_ofNat] at low_eq high_eq
  omega

/-- Settles O42: the judgment by whether P has reached T; a moved P shows on page 15. -/
theorem advanceMovesTheProcessorCursor : Obligations.AdvanceMovesTheProcessorCursor := by
  intro s k out taken
  refine ⟨_, rfl, ?_⟩
  by_cases empty : s.log.t - s.log.p = 0
  case pos =>
    have judged : (s.present (s.portWrite 0x70 k)).judgeAdvance k = (s.present (s.portWrite 0x70 k), .refuse .emptyAdvance) := by
      unfold State.judgeAdvance
      rw [taken.present_log]
      exact if_pos empty
    have refused := access_refused (judge := fun t => t.judgeAdvance k) taken rfl out judged
    refine ⟨fun some => absurd empty (by omega), fun _ => refused, fun running small moved => absurd ?_ moved⟩
    rw [refused.log]
    have cursor (ds : List Draft) (l : LogUnit) : (ds.foldl (fun m d => m.append s.plant.clock d) l).p = l.p := by
      induction ds generalizing l with
      | nil => rfl
      | cons d ds ih =>
        rw [List.foldl_cons, ih]
        unfold LogUnit.append
        split <;> rfl
    exact cursor _ _
  case neg =>
    have judged : (s.present (s.portWrite 0x70 k)).judgeAdvance k =
        ({ s.present (s.portWrite 0x70 k) with log := s.log.advance k.toNat }, .absorb) := by
      unfold State.judgeAdvance
      rw [taken.present_log]
      exact if_neg empty
    obtain ⟨step, plant, settings, link, log⟩ :=
      access_logOnly (judge := fun t => t.judgeAdvance k) taken out judged (fun h => absurd rfl h)
    refine ⟨fun _ => ⟨step, log, plant, settings, link⟩, fun reached => absurd (by omega) empty,
      fun running small moved => ?_⟩
    refine step.pages.changed (by rw [plant]; exact running) 15 (pageChanged_of_cursor (by omega) ?_ moved)
    rw [log]
    show s.log.p + min k.toNat (s.log.t - s.log.p) < 4294967296
    omega

/-! The lock word and the freeze word (R146, R147). -/

theorem Judging.onPlantUnit {s u : State} {a : Access} (h : Judging s u a) (unit : SettingsUnit) (f : Plant → Plant) :
    Judging s (({ u with settings := unit }).onPlant f) a :=
  (h.withSettings unit).onPlant f

/-- R146: the upper seven bits of the lock word are its code. -/
theorem lockCode_iff (v : Word) : v.extractLsb' 9 7 = 0x40#7 ↔ v &&& 0xFE00 = 0x8000 := by
  have fields : v &&& 0xFE00 = v.extractLsb' 9 7 ++ 0#9 := by
    apply BitVec.eq_of_getLsbD_eq
    intro i hi
    rw [BitVec.getLsbD_and, BitVec.getLsbD_append]
    interval_cases i <;> simp
  rw [fields]
  constructor
  · intro code
    rw [code]; rfl
  · intro joined
    apply BitVec.eq_of_getLsbD_eq
    intro i hi
    have bit := congrArg (fun w : Word => w.getLsbD (9 + i)) joined
    simp only [BitVec.getLsbD_append, show ¬ 9 + i < 9 by omega, if_false, Nat.add_sub_cancel_left] at bit
    rw [bit]
    interval_cases i <;> rfl

/-- An access that has changed the settings unit, and either nothing else or an entry and the mark of page 0. -/
theorem access_unit {s u : State} {a : Access} {judge : State → State × Verdict} {unit : SettingsUnit}
    {entries : List Draft} (taken : s.Takes a) (out : s.plant.out = [])
    (judged : judge (s.present a) = (u, .absorb)) (judging : Judging s u a) (settings : u.settings = unit)
    (plant : u.plant = { s.plant with out := entries }) (log : u.log = s.log) (link : u.link = s.link)
    (dirty : s.plant.loading = false → entries ≠ [] → u.deposits.dirty.get 0 = true) :
    let t := s.accessStep a judge
    s.AccessStep t a .absorb ∧ t.settings = unit ∧ t.plant = s.plant ∧ t.link = s.link ∧
      t.log = entries.foldl (fun l d => l.append s.plant.clock d) s.log ∧
      (s.plant.loading = false → entries ≠ [] → t.deposits.dirty.get 0 = true) := by
  obtain ⟨step, plant_end, log_end, settings_end, link_end⟩ :=
    access_entries taken out judged judging (fun h => absurd rfl h) plant
  refine ⟨step, settings_end.trans settings, plant_end, link_end.trans link, ?_,
    fun running some => accessStep_dirty taken judged (dirty running some)⟩
  rw [log_end, log]
  simp only [State.outcomeEntries, Verdict.refusal, List.append_nil]

/-- R146, R147: the settings unit takes a new value, its entry is handed and page 0 marked. -/
theorem access_unitChanged {s : State} {a : Access} {judge : State → State × Verdict} {unit : SettingsUnit}
    {kind : Byte} {detail : List Byte} (taken : s.Takes a) (out : s.plant.out = [])
    (judged : judge (s.present a) = (markPage (({ s.present a with settings := unit }).onPlant
      (fun p => p.append srcSettings kind detail)) 0, .absorb)) :
    let entries : List Draft := [{ source := srcSettings, kind := kind, urgent := false, detail := detail }]
    let t := s.accessStep a judge
    s.AccessStep t a .absorb ∧ t.settings = unit ∧ t.plant = s.plant ∧ t.link = s.link ∧
      t.log = entries.foldl (fun l d => l.append s.plant.clock d) s.log ∧
      (s.plant.loading = false → entries ≠ [] → t.deposits.dirty.get 0 = true) := by
  refine access_unit taken out judged (((Judging.start taken).onPlantUnit unit _).markPage 0) ?_ ?_ ?_ ?_ ?_
  · rw [markPage_settings]; rfl
  · rw [markPage_plant, State.onPlant_plant, taken.present_plant]
    simp only [Plant.append, out, List.nil_append]
  · rw [markPage_log]; exact taken.present_log
  · rw [markPage_link]; exact taken.present_link
  · intro running _
    refine markPage_dirty ?_ 0
    rw [State.onPlant_plant, taken.present_plant]
    exact running

/-- An access that is absorbed and leaves everything as it was. -/
theorem access_unitSame {s : State} {a : Access} {judge : State → State × Verdict} {unit : SettingsUnit}
    (taken : s.Takes a) (out : s.plant.out = []) (same : s.settings = unit)
    (judged : judge (s.present a) = (s.present a, .absorb)) :
    let t := s.accessStep a judge
    s.AccessStep t a .absorb ∧ t.settings = unit ∧ t.plant = s.plant ∧ t.link = s.link ∧ t.log = s.log ∧
      (s.plant.loading = false → ([] : List Draft) ≠ [] → t.deposits.dirty.get 0 = true) :=
  access_unit (entries := []) taken out judged (Judging.start taken) (taken.present_settings.trans same)
    (by rw [taken.present_plant]; simp only [← out]) taken.present_log taken.present_link (fun _ some => absurd rfl some)

/-- R146: the lock word by its judgments, one after another. -/
theorem judgeLock_eq {s : State} {unit : SettingsUnit} (unit_eq : s.settings = unit) (v : Word) :
    s.judgeLock v =
      if unit.txn ≠ none then (s, .refuse .busy)
      else if unit.freeze = true then (s, .refuse .frozen)
      else if v &&& 0xFE00 ≠ 0x8000 then (s, .refuse .badCode)
      else if v.extractLsb' 0 9 = unit.lock then (s, .absorb)
      else (markPage (({ s with settings := { unit with lock := v.extractLsb' 0 9 } }).onPlant (fun p =>
        p.append srcSettings 0x63 (detail2 unit.lock.toNat ++ detail2 (v.extractLsb' 0 9).toNat))) 0, .absorb) := by
  subst unit_eq
  simp only [State.judgeLock, Option.isSome_iff_ne_none, ne_eq, lockCode_iff, State.setLock]
  split_ifs <;> rfl

/-- R147: the freeze word by its judgments, one after another. -/
theorem judgeFreeze_eq {s : State} {unit : SettingsUnit} (unit_eq : s.settings = unit) (v : Word) :
    s.judgeFreeze v =
      if unit.txn ≠ none then (s, .refuse .busy)
      else if v ≠ 0x0001 then (s, .refuse .badCode)
      else if unit.freeze = true then (s, .absorb)
      else (markPage (({ s with settings := { unit with freeze := true } }).onPlant (fun p =>
        p.append srcSettings 0x64 (detail2 unit.lock.toNat))) 0, .absorb) := by
  subst unit_eq
  simp only [State.judgeFreeze, Option.isSome_iff_ne_none, ne_eq]
  split_ifs <;> rfl

/-- Settles O51: the judgments of each word in their order, and for each what the access then does. -/
theorem lockAndFreezeWordsAreJudged : Obligations.LockAndFreezeWordsAreJudged := by
  intro s v out taken
  refine ⟨?lock, ?freeze⟩
  case lock =>
    intro a lock
    refine ⟨_, rfl, ?_⟩
    have judged := judgeLock_eq (lock.present_settings) v
    have refused {cause} (h) := access_refused (cause := cause) (judge := fun t => t.judgeLock v) lock rfl out h
    split_ifs at judged ⊢ with busy frozen code same
    · exact refused judged
    · exact refused judged
    · exact refused judged
    · exact access_unitSame (judge := fun t => t.judgeLock v) lock out (by rw [same]) judged
    · exact access_unitChanged (judge := fun t => t.judgeLock v) lock out judged
  case freeze =>
    intro a freeze
    refine ⟨_, rfl, ?_⟩
    have judged := judgeFreeze_eq (freeze.present_settings) v
    have refused {cause} (h) := access_refused (cause := cause) (judge := fun t => t.judgeFreeze v) freeze rfl out h
    split_ifs at judged ⊢ with busy code frozen
    · exact refused judged
    · exact refused judged
    · exact access_unitSame (judge := fun t => t.judgeFreeze v) freeze out (by rw [← frozen]) judged
    · exact access_unitChanged (judge := fun t => t.judgeFreeze v) freeze out judged

end Sys2Proof.Machine
end

section
/-! The memory port: what a completion leaves in memory, the arbiter's turns, and the corrector (R123, R131 to R134):
O44, O46 and O47. -/

namespace Sys2Proof.Machine

/-- A command that leaves nothing handed and the marks as they were: its end marks pages, and nothing else moves. -/
theorem finish_quiet {s u : State} (out : u.plant.out = []) (marks : u.plant.marks = s.plant.marks) :
    finish s u = { u with deposits := (finish s u).deposits } := by
  have samePlant : (finish s u).plant = u.plant := by
    rw [finish_plant, ← marks]
    simp only [← out]
  have sameLog : (finish s u).log = u.log := by
    rw [finish_log, out, List.foldl_nil]
  exact (finish_rest s u).trans (by rw [samePlant, sameLog])

/-! Lanes in memory and on PD. -/

/-- A word written lies in its two bytes, and no other byte moves. -/
theorem Memory.read_writeWord {m : Memory} (wf : m.wf) (a x : Nat) (w : Word) :
    (m.writeBytes a (wordBytes w)).read x =
      if x = a then w.extractLsb' 0 8 else if x = a + 1 then w.extractLsb' 8 8 else m.read x := by
  show ((m.write a (w.extractLsb' 0 8)).write (a + 1) (w.extractLsb' 8 8)).read x = _
  have wf' := Memory.wf_write wf a (w.extractLsb' 0 8)
  by_cases high : x = a + 1
  · rw [high, Memory.read_write_same wf', if_neg (by omega), if_pos rfl]
  · rw [Memory.read_write_ne wf' high, if_neg high]
    by_cases low : x = a
    · rw [low, Memory.read_write_same wf, if_pos rfl]
    · rw [Memory.read_write_ne wf low, if_neg low]

theorem Memory.read_writeByte {m : Memory} (wf : m.wf) (a x : Nat) (b : Byte) :
    (m.write a b).read x = if x = a then b else m.read x := by
  split
  case isTrue same => rw [same, Memory.read_write_same wf]
  case isFalse other => exact Memory.read_write_ne wf other b

/-- R123: a write stores the lanes that it names and no other byte. -/
theorem read_writeLanes {m : Memory} (wf : m.wf) (a x : Nat) (lanes : Lanes) (w : Word) :
    (writeLanes m a lanes w).read x =
      if x = a ∧ lanes ≠ .high then w.extractLsb' 0 8
      else if x = a + 1 ∧ lanes ≠ .low then w.extractLsb' 8 8
      else m.read x := by
  cases lanes with
  | word => simp only [writeLanes, Memory.read_writeWord wf, ne_eq, reduceCtorEq, not_false_eq_true, and_true]
  | low => simp only [writeLanes, Memory.read_writeByte wf, ne_eq, reduceCtorEq, not_false_eq_true, and_true,
      not_true_eq_false, and_false, if_false]
  | high => simp only [writeLanes, Memory.read_writeByte wf, ne_eq, reduceCtorEq, not_false_eq_true, and_true,
      not_true_eq_false, and_false, if_false]

theorem mergeLanes_low (old : Word) (high low : Byte) :
    mergeLanes old (high ++ low) .low = old.extractLsb' 8 8 ++ low := by
  apply BitVec.eq_of_getLsbD_eq
  intro i hi
  simp only [mergeLanes, BitVec.getLsbD_or, BitVec.getLsbD_and, BitVec.getLsbD_append]
  interval_cases i <;> simp

theorem mergeLanes_high (old : Word) (high low : Byte) :
    mergeLanes old (high ++ low) .high = high ++ old.extractLsb' 0 8 := by
  apply BitVec.eq_of_getLsbD_eq
  intro i hi
  simp only [mergeLanes, BitVec.getLsbD_or, BitVec.getLsbD_and, BitVec.getLsbD_append]
  interval_cases i <;> simp

/-! Accesses (R123, R124). -/

theorem joinCorr_of_differs (corr : List (Fin 32)) (i : Fin 32) (same : Prop) [Decidable same] :
    (if same then corr else joinCorr corr i) = if same ∨ i ∈ corr then corr else corr ++ [i] := by
  unfold joinCorr
  split_ifs <;> simp_all

/-- R133: the pending-correction set after a write of `data` at `address`. -/
def State.corrAfterWrite (s : State) (address : Nat) (data : Word) : List (Fin 32) :=
  match s.shadowPlace address with
  | some i => if s.plant.shadow.get i = data ∨ i ∈ s.plant.corr then s.plant.corr else s.plant.corr ++ [i]
  | none => s.plant.corr

theorem settleWrite_eq (s : State) (address : Nat) (data : Word) :
    s.settleWrite address data = { s with plant := { s.plant with corr := s.corrAfterWrite address data } } := by
  unfold State.settleWrite State.corrAfterWrite
  cases s.shadowPlace address with
  | none => rfl
  | some i =>
    dsimp only
    rw [← joinCorr_of_differs]
    split <;> rfl

/-- Settles O44: the arrival by the state of the port; the completion by `read_writeLanes`, `settleWrite_eq` and the
lanes of PD. -/
theorem accessArrivesAndCompletes : Obligations.AccessArrivesAndCompletes := by
  intro s a out
  refine ⟨fun idle free => congrArg Host.Outcome.next ?arrives, fun reset => congrArg Host.Outcome.next ?ignored,
    fun free busy => congrArg Host.Outcome.next ?none, fun v granted wf => ?completes⟩
  case arrives =>
    unfold State.present
    rw [if_neg (by rw [free]; exact Bool.false_ne_true), if_pos idle]
  case ignored => exact s.present_ignored reset a
  case none =>
    unfold State.present
    rw [if_neg (by rw [free]; exact Bool.false_ne_true), if_neg busy]
  case completes =>
    have run : exec .upstreamComplete s = .next (finish s (s.completeAccess a v)) := by
      show Host.Outcome.next s.completeUpstream = _
      unfold State.completeUpstream
      rw [granted]
    refine ⟨_, run, ?_⟩
    cases write : a.write with
    | false =>
      have read : s.completeAccess a v = { s with
          port := .idle, prdy := true, holder := .free
          pd := mergeLanes s.pd (s.mem.readWord (v.address a)) a.lanes } := by
        unfold State.completeAccess
        rw [write]; rfl
      rw [read]
      refine ⟨finish_pages_same _ _ rfl, fun _ => ⟨?_, ?_⟩, fun h => absurd h Bool.false_ne_true⟩
      · rw [finish_pd]
        cases a.lanes with
        | word => rfl
        | low => exact mergeLanes_low _ _ _
        | high => exact mergeLanes_high _ _ _
      · rw [finish_pd]
        exact finish_quiet out rfl
    | true =>
      have wrote : s.completeAccess a v = { s with
          port := .idle, prdy := true, holder := .free
          mem := writeLanes s.mem (v.address a) a.lanes (v.data a)
          plant := { s.plant with corr := s.corrAfterWrite (v.address a) (v.data a) } } := by
        unfold State.completeAccess
        rw [write]
        exact settleWrite_eq _ _ _
      rw [wrote]
      refine ⟨finish_pages_same _ _ rfl, fun h => absurd h Bool.true_eq_false.mp, fun _ =>
        ⟨fun x => ?_, fun i place => ?_, fun place => ?_, ?_⟩⟩
      · rw [finish_mem]; exact read_writeLanes wf _ _ _ _
      · rw [finish_plant]
        show s.corrAfterWrite _ _ = _
        unfold State.corrAfterWrite
        rw [place]
      · rw [finish_plant]
        show s.corrAfterWrite _ _ = _
        unfold State.corrAfterWrite
        rw [place]
      · rw [finish_mem, finish_plant]
        exact finish_quiet out rfl

/-! The arbiter (R131, R132). -/

/-- The place of a member in the ring that starts at `first`. -/
def Member.turn (first m : Member) : Fin 4 :=
  let place : Member → Fin 4
    | .corrector => 0
    | .logWriter => 1
    | .deposit => 2
    | .reader => 3
  place m - place first

theorem ring_getElem_turn (first m : Member) : first.ring[(first.turn m).val]? = some m := by
  cases first <;> cases m <;> rfl

theorem turn_of_ring {first m : Member} {i : Nat} (found : first.ring[i]? = some m) : i = (first.turn m).val := by
  have distinct : first.ring.Nodup := by cases first <;> decide
  exact (List.getElem?_inj (List.getElem?_eq_some_iff.mp found).1 distinct).mp
    (found.trans (ring_getElem_turn first m).symm)

/-- R132: the first member from a position onwards for which `f` holds. -/
theorem ring_find_iff (first m : Member) (f : Member → Bool) :
    first.ring.find? f = some m ↔ f m = true ∧ ∀ k, first.turn k < first.turn m → f k = false := by
  rw [List.find?_eq_some_iff_getElem]
  refine and_congr_right fun _ => ⟨?_, fun none => ?_⟩
  · rintro ⟨i, bound, found, before⟩ k earlier
    have here : i = (first.turn m).val := turn_of_ring (List.getElem?_eq_some_iff.mpr ⟨bound, found⟩)
    obtain ⟨bound', found'⟩ := List.getElem?_eq_some_iff.mp (ring_getElem_turn first k)
    have := before (first.turn k).val (by rw [here]; exact earlier)
    rw [found'] at this
    simpa using this
  · obtain ⟨bound, found⟩ := List.getElem?_eq_some_iff.mp (ring_getElem_turn first m)
    refine ⟨_, bound, found, fun j earlier => ?_⟩
    have turn : j = (first.turn first.ring[j]).val := turn_of_ring (List.getElem?_eq_some_iff.mpr ⟨_, rfl⟩)
    rw [none first.ring[j] (by rw [Fin.lt_def, ← turn]; exact earlier)]
    rfl

theorem grantsUpstream_iff (s : State) :
    s.grantsUpstream = true ↔
      s.holder = .free ∧ s.upstreamAsks = true ∧ (s.memberChosen = none ∨ s.lastWinner = .internal) := by
  unfold State.grantsUpstream State.sideChosen
  by_cases free : s.holder = .free
  · rw [free]
    cases s.upstreamAsks <;> cases s.memberChosen <;> cases s.lastWinner <;> simp
  · rw [if_pos (by simpa using free)]
    simp [free]

theorem grantsMember_iff (s : State) (m : Member) :
    s.grantsMember m = true ↔
      s.holder = .free ∧ s.memberChosen = some m ∧ (s.upstreamAsks = false ∨ s.lastWinner = .upstream) := by
  unfold State.grantsMember State.sideChosen
  by_cases free : s.holder = .free
  · rw [free]
    cases s.upstreamAsks <;> cases s.memberChosen <;> cases s.lastWinner <;> simp
  · rw [if_pos (by simpa using free)]
    simp [free]

theorem upstreamAsks_iff (s : State) : s.upstreamAsks = true ↔ s.load = .none ∧ ∃ a, s.port = .waiting a := by
  unfold State.upstreamAsks State.running UpstreamPort.isWaiting
  cases s.port <;> simp

theorem memberAsks_iff (s : State) (m : Member) :
    s.memberAsks m = true ↔ s.load = .none ∧ match m with
      | .corrector => s.plant.corr ≠ []
      | .logWriter => s.log.queue ≠ []
      | .deposit => ∃ i, s.deposits.dirty.get i = true
      | .reader => s.reporter.readReq ≠ none := by
  unfold State.memberAsks State.running
  rw [Bool.and_eq_true, beq_iff_eq]
  refine and_congr_right fun _ => ?_
  cases m with
  | corrector => simp
  | logWriter => simp
  | deposit =>
    have all (i : Fin 16) : i ∈ allPages := by revert i; decide
    simp only [List.any_eq_true]
    exact ⟨fun ⟨i, _, dirty⟩ => ⟨i, dirty⟩, fun ⟨i, dirty⟩ => ⟨i, all i, dirty⟩⟩
  | reader => simp [Option.isSome_iff_ne_none]

theorem memberChosen_none_iff (s : State) : s.memberChosen = none ↔ ∀ m, ¬ s.memberAsks m = true := by
  unfold State.memberChosen
  rw [List.find?_eq_none]
  have member (m : Member) : m ∈ s.rotation.ring := by cases s.rotation <;> cases m <;> decide
  exact ⟨fun h m => h m (member m), fun h m _ => h m⟩

/-- Settles O46: the grant of each side, and within the internal group `ring_find_iff`. -/
theorem arbiterAlternatesSidesAndRotates : Obligations.ArbiterAlternatesSidesAndRotates := by
  intro s upstream asks place turn
  have asks_iff (m : Member) : s.memberAsks m = true ↔ asks m := memberAsks_iff s m
  have turn_eq (m : Member) : turn m = (s.rotation.turn m).val := by
    cases rotation : s.rotation <;> cases m <;> simp only [turn, place, rotation] <;> rfl
  refine ⟨?_, fun m => ?_⟩
  · rw [grantsUpstream_iff, upstreamAsks_iff, memberChosen_none_iff]
    simp only [asks_iff]
    rfl
  · rw [grantsMember_iff, State.memberChosen, ring_find_iff, ← Bool.not_eq_true, upstreamAsks_iff]
    simp only [← Bool.not_eq_true, asks_iff, turn_eq, Fin.lt_def]
    constructor
    · rintro ⟨free, ⟨asking, first⟩, turn⟩
      exact ⟨free, asking, turn, first⟩
    · rintro ⟨free, asking, turn, first⟩
      exact ⟨free, ⟨asking, first⟩, turn⟩

/-! The corrector (R134). -/

/-- Settles O47: the earliest pending word is taken; its value lands as `Memory.read_writeWord` says. -/
theorem correctorWritesPendingWords : Obligations.CorrectorWritesPendingWords := by
  intro s i
  refine ⟨fun rest corr granted => congrArg Host.Outcome.next ?grant, fun v held wf => ?lands⟩
  case grant =>
    unfold State.grantCorrector
    rw [corr]
    exact if_pos granted
  case lands =>
    let corrected : Plant := s.plant.corrected i v
    have run : s.completeCorrection = { s with
        holder := .free, mem := s.mem.writeBytes (s.commandAddress i) (wordBytes v)
        plant := { s.plant with corr := corrected.corr } } := by
      unfold State.completeCorrection
      rw [held]
      show ({ s with mem := _, holder := _, plant := s.plant.corrected i v } : State) = _
      simp only [corrected, Plant.corrected]
      split <;> rfl
    have corr : corrected.corr = if s.plant.shadow.get i = v then s.plant.corr.filter (fun j => j != i) else s.plant.corr := by
      simp only [corrected, Plant.corrected]
      split <;> rfl
    refine ⟨_, congrArg Host.Outcome.next run, fun x => ?_, ?_, fun j => ?_, rfl⟩
    · exact Memory.read_writeWord wf _ x v
    · show corrected.corr.Sublist s.plant.corr
      rw [corr]
      split
      · exact List.filter_sublist
      · exact List.Sublist.refl _
    · show j ∈ corrected.corr ↔ _
      rw [corr]
      split <;> simp_all

end Sys2Proof.Machine
end

section
/-! What the status pages show (12.3, R136, R172), and O48. -/

namespace Sys2Proof.Machine

/-! Fields of a word. -/

theorem packWord_word (v : Nat) : packWord [(v, 0, 16)] = BitVec.ofNat 16 v := by
  apply BitVec.eq_of_toNat_eq
  simp [packWord]

/-- The words of a block that carries `body` from word 1 on, and zeros from its end to the check word. -/
def Carries (ws body : List Word) : Prop := ∀ k, k < 30 → ws.getD (k + 1) 0 = body.getD k 0

theorem pageBody_getD (body : List Word) (k : Nat) : (pageBody body).getD k 0 = body.getD k 0 := by
  unfold pageBody
  rw [List.getD_eq_getElem?_getD, List.getD_eq_getElem?_getD]
  by_cases inside : k < body.length
  · rw [List.getElem?_append_left inside]
  · rw [List.getElem?_append_right (by omega), List.getElem?_eq_none (l := body) (by omega), List.getElem?_replicate]
    split <;> rfl

theorem carries_block (gen : Word) (body : List Word) (check : Word) (fits : body.length ≤ 30) :
    Carries ((gen :: pageBody body) ++ [check]) body := by
  intro k hk
  rw [← pageBody_getD body k, List.cons_append, List.getD_cons_succ, List.getD_append]
  rw [pageBody_length fits]
  exact hk

theorem Carries.zeroFrom {ws body : List Word} (h : Carries ws body) {k : Nat} (short : body.length < k) :
    zeroFrom ws k := by
  intro j hj hk
  obtain ⟨i, rfl⟩ : ∃ i, j = i + 1 := ⟨j - 1, by omega⟩
  rw [h i (by omega), List.getD_eq_getElem?_getD, List.getElem?_eq_none (by omega)]
  rfl

theorem Carries.field {ws body : List Word} (h : Carries ws body) {k : Nat} {fields : List (Nat × Nat × Nat)}
    (hk : k < 30) (word : body.getD k 0 = packWord fields) : wordHolds ws (k + 1) fields :=
  (h k hk).trans word

theorem Carries.number {ws body : List Word} (h : Carries ws body) {k v : Nat}
    (hk : k < 30) (word : body.getD k 0 = BitVec.ofNat 16 v) : wordHolds ws (k + 1) [(v, 0, 16)] :=
  h.field hk (word.trans (packWord_word v).symm)

theorem Carries.pair {ws body : List Word} (h : Carries ws body) {k v : Nat} (hk : k < 29)
    (low : body.getD k 0 = BitVec.ofNat 16 v) (high : body.getD (k + 1) 0 = BitVec.ofNat 16 (v / 65536)) :
    pairHolds ws (k + 1) v :=
  ⟨h.number (by omega) low, h.number (by omega) high⟩

theorem packWord_congr {f g : List (Nat × Nat × Nat)}
    (same : (f.map (fun x => x.1 % 2 ^ x.2.2 * 2 ^ x.2.1)).sum = (g.map (fun x => x.1 % 2 ^ x.2.2 * 2 ^ x.2.1)).sum) :
    packWord f = packWord g := congrArg (BitVec.ofNat 16) same

/-! The named values hold the place that their table gives them (R172). -/

theorem SettingsSource.code_place (x : SettingsSource) : x.code = [SettingsSource.stored, .trial, .default].idxOf x := by
  cases x <;> rfl

theorem Mode.code_place (x : Mode) : x.code = [Mode.load, .auto, .localControl].idxOf x := by cases x <;> rfl

theorem ModeCause.code_place (x : ModeCause) :
    x.code = [ModeCause.none, .start, .lapse, .upstream, .commanded].idxOf x := by cases x <;> rfl

theorem ClaimStatus.code_place (x : ClaimStatus) : x.code = [ClaimStatus.none, .waiting, .held].idxOf x := by
  cases x <;> rfl

theorem lanesCode_place (x : Lanes) : lanesCode x = [Lanes.word, .low, .high].idxOf x + 1 := by cases x <;> rfl

theorem SettingsResult.code_place (x : SettingsResult) :
    x.code = [SettingsResult.commit, .orderBroken, .timeout, .upstream, .check, .content].idxOf x + 1 := by
  cases x <;> rfl

theorem Supply.code_bit (x : Supply) : x.code = bit (x == .generator) := by cases x <;> rfl

theorem rangeCode_bit (x : SettingsRange) : rangeCode x = bit (x == .trial) := by cases x <;> rfl

theorem FaultCause.code_place (x : FaultCause) : x.code = [FaultCause.start, .converter, .badSample].idxOf x := by
  cases x <;> rfl

theorem PumpState.code_place (x : PumpState) :
    x.code = [PumpState.absent, .off, .resting, .starting, .running, .tripped, .outOfService].idxOf x := by
  cases x <;> rfl

theorem TripCause.code_place (x : TripCause) : x.code = [TripCause.feedback, .feedbackLost, .fault].idxOf x := by
  cases x <;> rfl

theorem PumpState.inMotion_eq (x : PumpState) : x.inMotion = (x == .starting || x == .running) := by cases x <;> rfl

theorem RakeState.code_place (x : RakeState) :
    x.code = [RakeState.absent, .idle, .waiting, .raking, .reversing, .suspended, .jammed, .outOfService].idxOf x := by
  cases x <;> rfl

theorem Trigger.code_place (x : Trigger) :
    x.code = [Trigger.differential, .interval, .command, .storm].idxOf x := by cases x <;> rfl

theorem WeirState.code_place (x : WeirState) :
    x.code = [WeirState.normal, .rising, .overflowing, .falling].idxOf x := by cases x <;> rfl

theorem PointState.code_place (x : PointState) :
    x.code = [PointState.normal, .activeUnack, .activeAcked, .returnedUnack].idxOf x := by cases x <;> rfl

theorem BeaconDemand.code_place (x : BeaconDemand) : x.code = [BeaconDemand.off, .steady, .flash].idxOf x := by
  cases x <;> rfl

theorem RxState.code_place (x : RxState) : x.code = [RxState.hunt, .header, .payload, .check].idxOf x := by
  cases x <;> rfl

/-! Page 0. -/

theorem bit_le_one (b : Bool) : bit b ≤ 1 := by cases b <;> decide

theorem bit_lt_two (b : Bool) : bit b < 2 := by cases b <;> decide

/-- Two claims in one word: each byte is a status and a number of units. -/
theorem packWord_claims (x y : Claim) : packWord [(claimByte x, 0, 8), (claimByte y, 8, 8)] =
    packWord [([ClaimStatus.none, .waiting, .held].idxOf x.status, 0, 2), (x.units, 4, 4),
      ([ClaimStatus.none, .waiting, .held].idxOf y.status, 8, 2), (y.units, 12, 4)] := by
  have small (c : Claim) : c.status.code < 4 := by cases c.status <;> decide
  have hx := small x
  have hy := small y
  rw [← ClaimStatus.code_place, ← ClaimStatus.code_place]
  refine packWord_congr ?_
  simp only [claimByte, List.map_cons, List.map_nil, List.sum_cons, List.sum_nil]
  omega

/-- The fields of one section in a word of page 0. -/
def sectionFields (x : SettingsShadow) (j : Nat) : List (Nat × Nat × Nat) :=
  [([SettingsSource.stored, .trial, .default].idxOf x.source, 4 * j, 2), (bit x.storedDiffers, 4 * j + 2, 1),
    (bit x.pendingReset, 4 * j + 3, 1)]

theorem sectionFields_sum (x : SettingsShadow) (j : Nat) :
    ((sectionFields x j).map (fun f => f.1 % 2 ^ f.2.2 * 2 ^ f.2.1)).sum = sectionNibble x % 2 ^ 4 * 2 ^ (4 * j) := by
  have hs : x.source.code < 4 := by cases x.source <;> decide
  have hd := bit_lt_two x.storedDiffers
  have hr := bit_lt_two x.pendingReset
  have nibble : sectionNibble x % 2 ^ 4 = x.source.code + 4 * bit x.storedDiffers + 8 * bit x.pendingReset := by
    unfold sectionNibble; omega
  rw [nibble, sectionFields, ← SettingsSource.code_place]
  simp only [List.map_cons, List.map_nil, List.sum_cons, List.sum_nil]
  rw [Nat.mod_eq_of_lt (show x.source.code < 2 ^ 2 from hs), Nat.mod_eq_of_lt (show bit x.storedDiffers < 2 ^ 1 from hd),
    Nat.mod_eq_of_lt (show bit x.pendingReset < 2 ^ 1 from hr), pow_add, pow_add]
  ring

theorem sections_word (w x y z : SettingsShadow) :
    packWord (sectionFields w 0 ++ sectionFields x 1 ++ sectionFields y 2 ++ sectionFields z 3) =
      packWord [(sectionNibble w, 0, 4), (sectionNibble x, 4, 4), (sectionNibble y, 8, 4), (sectionNibble z, 12, 4)] := by
  refine packWord_congr ?_
  simp only [List.map_append, List.sum_append, sectionFields_sum, List.map_cons, List.map_nil, List.sum_cons, List.sum_nil]
  omega

theorem sections_last (w : SettingsShadow) : packWord (sectionFields w 0) = packWord [(sectionNibble w, 0, 4)] :=
  packWord_congr (sectionFields_sum w 0)

/-- Words 15 to 19 of page 0. -/
theorem page0_refusal (s : State) (count : Nat) {k : Nat} (hk : k < 5) :
    (page0 s count).getD (14 + k) 0 = (lastRefusalWords s.refusals.last).getD k 0 := by
  unfold page0
  cases s.refusals.last <;> interval_cases k <;> rfl

/-- Words 20 to 23 of page 0. -/
theorem page0_logged (s : State) (count : Nat) {k : Nat} (hk : k < 4) :
    (page0 s count).getD (19 + k) 0 = (loggedRefusalWords s.refusals.logged).getD k 0 := by
  unfold page0
  cases s.refusals.last <;> cases s.refusals.logged <;> interval_cases k <;> rfl

/-- Words 24 to 29 of page 0. -/
theorem page0_settings (s : State) (count : Nat) {k : Nat} (hk : k < 6) :
    (page0 s count).getD (23 + k) 0 = (sectionWords s.plant ++
      [s.settings.lock.setWidth 16, txnWord s.settings.txn, lastSettingsWord s.settings.last]).getD k 0 := by
  unfold page0
  cases s.refusals.last <;> cases s.refusals.logged <;> interval_cases k <;> rfl

theorem showsStation_of_carries {s : State} {ws : List Word} (h : Carries ws (page0 s s.plant.corr.length)) :
    s.ShowsStation ws := by
  refine ⟨h.pair (by decide) rfl rfl, h.pair (k := 2) (by decide) rfl rfl,
    h.field (k := 4) (by decide) ?flags, h.field (k := 5) (by decide) ?mode, h.field (k := 6) (by decide) rfl,
    h.field (k := 7) (by decide) rfl, fun k => ?claims, h.number (k := 12) (by decide) rfl,
    h.number (k := 13) (by decide) rfl, fun none => ?noRefusal, fun r some => ?refusal, fun none => ?noLogged,
    fun r some => ?logged, ?parts0, ?parts1, ?parts2, h.field (k := 26) (by decide) ?lock, fun none => ?noTxn,
    fun x some => ?txn, fun none => ?noLast, fun x some => ?last, h.zeroFrom ?rest⟩
  case flags =>
    refine packWord_congr ?_
    rw [Supply.code_bit]
  case mode =>
    refine packWord_congr ?_
    rw [Mode.code_place, ModeCause.code_place]
    rfl
  case claims =>
    rw [show 9 + k.val = (8 + k.val) + 1 by omega]
    refine h.field (by omega) (Eq.trans ?_ (packWord_claims _ _))
    revert k
    intro k
    match k with
    | 0 => rfl
    | 1 => rfl
    | 2 => rfl
    | 3 => rfl
  case noRefusal =>
    have words {k : Nat} (hk : k < 5) := page0_refusal s s.plant.corr.length hk
    rw [none] at words
    exact ⟨(h 14 (by decide)).trans (words (k := 0) (by decide)), (h 15 (by decide)).trans (words (k := 1) (by decide)),
      (h 16 (by decide)).trans (words (k := 2) (by decide)),
      h.pair (k := 17) (by decide) (words (k := 3) (by decide)) (words (k := 4) (by decide))⟩
  case refusal =>
    have words {k : Nat} (hk : k < 5) := page0_refusal s s.plant.corr.length hk
    rw [some] at words
    refine ⟨h.number (k := 14) (by decide) (words (k := 0) (by decide)),
      h.field (k := 15) (by decide) ((words (k := 1) (by decide)).trans ?_),
      (h 16 (by decide)).trans (words (k := 2) (by decide)),
      h.pair (k := 17) (by decide) (words (k := 3) (by decide)) (words (k := 4) (by decide))⟩
    rw [← lanesCode_place]
    rfl
  case noLogged =>
    have words {k : Nat} (hk : k < 4) := page0_logged s s.plant.corr.length hk
    rw [none] at words
    exact ⟨(h 19 (by decide)).trans (words (k := 0) (by decide)), (h 20 (by decide)).trans (words (k := 1) (by decide)),
      h.pair (k := 21) (by decide) (words (k := 2) (by decide)) (words (k := 3) (by decide))⟩
  case logged =>
    have words {k : Nat} (hk : k < 4) := page0_logged s s.plant.corr.length hk
    rw [some] at words
    refine ⟨h.number (k := 19) (by decide) (words (k := 0) (by decide)),
      h.field (k := 20) (by decide) ((words (k := 1) (by decide)).trans (packWord_congr ?_)),
      h.pair (k := 21) (by decide) (words (k := 2) (by decide)) (words (k := 3) (by decide))⟩
    simp
  case parts0 =>
    refine h.field (k := 23) (by decide) ((page0_settings s _ (k := 0) (by decide)).trans (sections_word _ _ _ _).symm)
  case parts1 =>
    refine h.field (k := 24) (by decide) ((page0_settings s _ (k := 1) (by decide)).trans (sections_word _ _ _ _).symm)
  case parts2 =>
    refine h.field (k := 25) (by decide) ((page0_settings s _ (k := 2) (by decide)).trans (sections_last _).symm)
  case lock =>
    refine (page0_settings s _ (k := 3) (by decide)).trans ?_
    apply BitVec.eq_of_toNat_eq
    have := s.settings.lock.isLt
    simp [packWord, sectionWords]
    omega
  case noTxn =>
    refine (h 27 (by decide)).trans ((page0_settings s _ (k := 4) (by decide)).trans ?_)
    rw [none]
    rfl
  case txn =>
    refine h.field (k := 27) (by decide) ((page0_settings s _ (k := 4) (by decide)).trans ?_)
    rw [some, ← rangeCode_bit]
    rfl
  case noLast =>
    refine (h 28 (by decide)).trans ((page0_settings s _ (k := 5) (by decide)).trans ?_)
    rw [none]
    rfl
  case last =>
    refine h.field (k := 28) (by decide) ((page0_settings s _ (k := 5) (by decide)).trans ?_)
    rw [some, ← rangeCode_bit, ← SettingsResult.code_place]
    rfl
  case rest => rw [page0_length]; decide

/-! Page 1. -/

theorem channelWord_good {c : Channel} (good : c.state = .good) :
    channelWord c = packWord [(bit c.stale, 3, 1), (c.goodCount, 4, 3)] := by
  unfold channelWord
  rw [good]

theorem channelWord_fault {c : Channel} {cause : FaultCause} (fault : c.state = .fault cause) :
    channelWord c = packWord [(1, 0, 1), ([FaultCause.start, .converter, .badSample].idxOf cause, 1, 2),
      (bit c.stale, 3, 1), (c.goodCount, 4, 3)] := by
  unfold channelWord
  rw [fault, ← FaultCause.code_place]

/-- The bits of the lines for which `f` holds, as a number. -/
def lineSum (ls : List (Fin 30)) (f : Fin 30 → Bool) : Nat := (ls.map (fun l => if f l then 2 ^ l.val else 0)).sum

theorem lineSum_snoc (ls : List (Fin 30)) (l : Fin 30) (f : Fin 30 → Bool) :
    lineSum (ls ++ [l]) f = 2 ^ l.val * bit (f l) + lineSum ls f := by
  unfold lineSum bit
  rw [List.map_append, List.sum_append, List.map_singleton, List.sum_singleton, Nat.add_comm]
  cases f l <;> simp

theorem lineSum_lt (f : Fin 30 → Bool) (ls : List (Fin 30)) : ls.Pairwise (· < ·) →
    ∀ b, (∀ l ∈ ls, l.val < b) → lineSum ls f < 2 ^ b := by
  induction ls using List.reverseRecOn with
  | nil => intro _ b _; exact Nat.two_pow_pos b
  | append_singleton ls l ih =>
    intro sorted b below
    obtain ⟨rest, -, last⟩ := List.pairwise_append.mp sorted
    have small := ih rest l.val (fun x hx => last x hx l (List.mem_singleton_self l))
    have := Nat.pow_le_pow_right (n := 2) (by decide) (below l (by simp) : l.val + 1 ≤ b)
    have := Nat.mul_le_mul_left (2 ^ l.val) (bit_le_one (f l))
    rw [lineSum_snoc]
    rw [Nat.pow_succ] at *
    omega

/-- Bit `k` is that of line `k`. -/
theorem lineSum_testBit (f : Fin 30 → Bool) (k : Nat) (ls : List (Fin 30)) : ls.Pairwise (· < ·) →
    (lineSum ls f).testBit k = ls.any (fun l => l.val == k && f l) := by
  induction ls using List.reverseRecOn with
  | nil => intro _; exact Nat.zero_testBit k
  | append_singleton ls l ih =>
    intro sorted
    obtain ⟨rest, -, last⟩ := List.pairwise_append.mp sorted
    have below : ∀ x ∈ ls, x.val < l.val := fun x hx => last x hx l (List.mem_singleton_self l)
    rw [lineSum_snoc, Nat.testBit_two_pow_mul_add _ (lineSum_lt f ls rest l.val below), List.any_append, ← ih rest,
      List.any_cons, List.any_nil, Bool.or_false]
    split
    case isTrue lower => rw [show (l.val == k) = false from beq_false_of_ne (by omega), Bool.false_and, Bool.or_false]
    case isFalse higher =>
      have none : (lineSum ls f).testBit k = false :=
        Nat.testBit_lt_two_pow ((lineSum_lt f ls rest l.val below).trans_le (Nat.pow_le_pow_right (by decide) (by omega)))
      rw [none, Bool.false_or]
      by_cases same : l.val = k
      · rw [same, Nat.sub_self, beq_self_eq_true, Bool.true_and]
        cases f l <;> rfl
      · rw [beq_false_of_ne same, Bool.false_and]
        refine Nat.testBit_lt_two_pow ((bit_lt_two (f l)).trans_le ?_)
        exact Nat.pow_le_pow_right (n := 2) (i := 1) (by decide) (by omega)

/-- The low and the high word of a number hold its 32 bits. -/
theorem testBit_of_pair {ws : List Word} {j v k : Nat} (hk : k < 32) (low : ws.getD j 0 = BitVec.ofNat 16 v)
    (high : ws.getD (j + 1) 0 = BitVec.ofNat 16 (v / 65536)) :
    (ws.getD (j + k / 16) 0).getLsbD (k % 16) = v.testBit k := by
  have inWord : k % 16 < 16 := Nat.mod_lt _ (by decide)
  by_cases lower : k < 16
  · rw [Nat.div_eq_of_lt lower, Nat.add_zero, low, BitVec.getLsbD_ofNat, Nat.mod_eq_of_lt lower, decide_eq_true lower,
      Bool.true_and]
  · rw [show k / 16 = 1 by omega, high, BitVec.getLsbD_ofNat, decide_eq_true inWord, Bool.true_and,
      show 65536 = 2 ^ 16 from rfl, Nat.testBit_div_two_pow, show k % 16 + 16 = k by omega]

theorem any_line {ls : List (Fin 30)} (f : Fin 30 → Bool) {l : Fin 30} (mem : l ∈ ls) :
    ls.any (fun x => x.val == l.val && f x) = f l := by
  rw [Bool.eq_iff_iff, List.any_eq_true]
  constructor
  · rintro ⟨x, -, hx⟩
    obtain ⟨same, hf⟩ := Bool.and_eq_true_iff.mp hx
    rwa [← Fin.ext (beq_iff_eq.mp same)]
  · intro hf
    exact ⟨l, mem, by rw [beq_self_eq_true, hf]; rfl⟩

theorem no_line {ls : List (Fin 30)} (f : Fin 30 → Bool) {k : Nat} (absent : ∀ l ∈ ls, l.val ≠ k) :
    ls.any (fun x => x.val == k && f x) = false := by
  rw [← Bool.not_eq_true, List.any_eq_true]
  rintro ⟨x, mem, hx⟩
  exact absent x mem (beq_iff_eq.mp (Bool.and_eq_true_iff.mp hx).1)

theorem inputLines_sorted : inputLines.Pairwise (· < ·) := by decide

theorem allLines_sorted : allLines.Pairwise (· < ·) := by decide

theorem mem_inputLines_iff (l : Fin 30) :
    l ∈ inputLines ↔ 6 ≤ l.val ∧ l.val ≤ 17 ∨ 22 ≤ l.val ∧ l.val ≤ 28 := by revert l; decide

theorem mem_allLines (l : Fin 30) : l ∈ allLines := List.mem_finRange l

theorem showsLevels_of_carries {s : State} {ws : List Word} (h : Carries ws (page1 s)) : s.ShowsLevels ws := by
  have body (j : Nat) (hj : j < 30) : ws.getD (j + 1) 0 = (page1 s).getD j 0 := h j hj
  have raw {k : Nat} (hk : k < 32) : (ws.getD (18 + k / 16) 0).getLsbD (k % 16) =
      inputLines.any (fun l => l.val == k && s.plant.lines.raw.get l == .closed) :=
    (testBit_of_pair hk (body 17 (by decide)) (body 18 (by decide))).trans (lineSum_testBit _ k _ inputLines_sorted)
  have debounced {k : Nat} (hk : k < 32) : (ws.getD (20 + k / 16) 0).getLsbD (k % 16) =
      inputLines.any (fun l => l.val == k && s.plant.lines.debounced.get l == .closed) :=
    (testBit_of_pair hk (body 19 (by decide)) (body 20 (by decide))).trans (lineSum_testBit _ k _ inputLines_sorted)
  have output {k : Nat} (hk : k < 32) : (ws.getD (22 + k / 16) 0).getLsbD (k % 16) =
      allLines.any (fun l => l.val == k && s.plant.outputOn l) :=
    (testBit_of_pair hk (body 21 (by decide)) (body 22 (by decide))).trans (lineSum_testBit _ k _ allLines_sorted)
  refine ⟨fun c => ⟨?value, fun good => ?good, fun cause fault => ?fault⟩, h.number (k := 16) (by decide) rfl,
    fun k hk => ⟨?input, fun n hn => ?pump, fun n hn => ?rake, fun n hn => ?reverse, fun hn => ?beacon, fun hn => ?above,
      fun hn => ?outputs⟩, h.zeroFrom (by rw [page1_length]; decide)⟩
  case value =>
    rw [Nat.add_comm 1]
    refine h.number (by omega) ?_
    fin_cases c <;> rfl
  case good =>
    rw [show 9 + c.val = (8 + c.val) + 1 by omega]
    refine h.field (by omega) (Eq.trans ?_ (channelWord_good good))
    fin_cases c <;> rfl
  case fault =>
    rw [show 9 + c.val = (8 + c.val) + 1 by omega]
    refine h.field (by omega) (Eq.trans ?_ (channelWord_fault fault))
    fin_cases c <;> rfl
  case input =>
    rintro l rfl isInput
    have mem := (mem_inputLines_iff l).mpr isInput
    refine ⟨(raw hk).trans (any_line _ mem), (debounced hk).trans (any_line _ mem),
      (output hk).trans ((any_line _ (mem_allLines l)).trans ?_)⟩
    unfold Plant.outputOn
    rw [dif_neg (by omega), if_neg (by omega), if_neg (by omega), if_neg (by omega), if_neg (by omega), if_neg (by omega)]
  case pump =>
    refine (output hk).trans ?_
    rw [← hn]
    refine (any_line s.plant.outputOn (mem_allLines ⟨n.val, by omega⟩)).trans ?_
    unfold Plant.outputOn
    rw [dif_pos n.isLt]
    rfl
  case rake =>
    refine (output hk).trans ?_
    rw [← hn]
    refine (any_line s.plant.outputOn (mem_allLines ⟨18 + n.val, by omega⟩)).trans ?_
    fin_cases n <;> rfl
  case reverse =>
    refine (output hk).trans ?_
    rw [← hn]
    refine (any_line s.plant.outputOn (mem_allLines ⟨20 + n.val, by omega⟩)).trans ?_
    fin_cases n <;> rfl
  case beacon =>
    refine (output hk).trans ?_
    rw [hn]
    exact any_line s.plant.outputOn (mem_allLines 29)
  case above =>
    exact (output hk).trans (no_line _ fun l _ => by omega)
  case outputs =>
    have absent : ∀ l ∈ inputLines, l.val ≠ k := fun l mem => by
      have := (mem_inputLines_iff l).mp mem
      omega
    exact ⟨(raw hk).trans (no_line _ absent), (debounced hk).trans (no_line _ absent)⟩

/-! Pages 2 to 12. -/

theorem timeWords_low (t : Option Time) : (timeWords t).getD 0 0 = BitVec.ofNat 16 (timeOr t) := by cases t <;> rfl

theorem timeWords_high (t : Option Time) : (timeWords t).getD 1 0 = BitVec.ofNat 16 (timeOr t / 65536) := by
  cases t <;> rfl

theorem placeOf_eq (n : Fin 6) (l : List (Fin 6)) : placeOf n l = if n ∈ l then l.idxOf n + 1 else 0 := by
  unfold placeOf
  by_cases mem : n ∈ l
  · rw [if_pos mem, List.findIdx?_eq_some_of_exists (p := fun m => m == n) ⟨n, mem, beq_self_eq_true n⟩]
    rfl
  · rw [if_neg mem, List.findIdx?_eq_none_iff.mpr fun x hx => beq_false_of_ne (by rintro rfl; exact mem hx)]

theorem getD_after {xs ys : List Word} {n : Nat} (len : xs.length = n) (k : Nat) :
    (xs ++ ys).getD (n + k) 0 = ys.getD k 0 := by
  rw [← len, List.getD_append_right _ _ _ _ (Nat.le_add_right _ _), Nat.add_sub_cancel_left]

/-- Words 7 to 12 of a pump's page. -/
theorem pumpPage_times (p : Plant) (n : Fin 6) {k : Nat} (hk : k < 2) :
    (pumpPage p n).getD (6 + k) 0 = (timeWords (p.pump n).history.head?).getD k 0 ∧
      (pumpPage p n).getD (8 + k) 0 = (timeWords (p.pump n).tripUptime).getD k 0 ∧
      (pumpPage p n).getD (10 + k) 0 = (timeWords (p.pump n).lastStart).getD k 0 := by
  have short (t : Option Time) : k < (timeWords t).length := by rw [timeWords_length]; exact hk
  unfold pumpPage
  dsimp only
  simp only [List.append_assoc]
  refine ⟨?_, ?_, ?_⟩
  · rw [getD_after (n := 6) rfl, List.getD_append _ _ _ _ (short _)]
  · rw [← List.append_assoc, getD_after (n := 8) (by rw [List.length_append, timeWords_length]; rfl),
      List.getD_append _ _ _ _ (short _)]
  · rw [← List.append_assoc, ← List.append_assoc,
      getD_after (n := 10) (by rw [List.length_append, List.length_append, timeWords_length, timeWords_length]; rfl),
      List.getD_append _ _ _ _ (short _)]

/-- Words 13 and 14 of the page of pump 1. -/
theorem pumpPage_station (p : Plant) {k : Nat} :
    (pumpPage p 0).getD (12 + k) 0 = ([packWord [(p.desired, 0, 3), (p.queue.length, 4, 3), (bit p.gateFree, 7, 1),
      ((p.rotation.head?.map (fun m => m.val + 1)).getD 0, 8, 4)], BitVec.ofNat 16 p.stagger.left]).getD k 0 := by
  unfold pumpPage
  dsimp only
  rw [if_pos rfl, getD_after (n := 12) (by simp only [List.length_append, timeWords_length]; rfl)]
  cases p.rotation <;> rfl

theorem pumpPage_end (p : Plant) (n : Fin 6) : (pumpPage p n).length < if n = 0 then 15 else 13 := by
  simp only [pumpPage, List.length_append, timeWords_length]
  by_cases lead : n = 0
  · rw [if_pos lead, if_pos lead]; simp only [List.length_cons, List.length_nil]; decide
  · rw [if_neg lead, if_neg lead]; simp only [List.length_cons, List.length_nil]; decide

theorem showsPump_of_carries {s : State} {n : Fin 6} {ws : List Word} (h : Carries ws (pumpPage s.plant n)) :
    s.ShowsPump n ws := by
  have low := pumpPage_times s.plant n (k := 0) (by decide)
  have high := pumpPage_times s.plant n (k := 1) (by decide)
  obtain ⟨oldLow, tripLow, startLow⟩ := low
  obtain ⟨oldHigh, tripHigh, startHigh⟩ := high
  refine ⟨h.field (k := 0) (by decide) ?state, h.field (k := 1) (by decide) ?places, h.number (k := 2) (by decide) rfl,
    h.number (k := 3) (by decide) rfl, h.number (k := 4) (by decide) rfl, h.field (k := 5) (by decide) rfl,
    h.pair (k := 6) (by decide) (oldLow.trans (timeWords_low _)) (oldHigh.trans (timeWords_high _)),
    h.pair (k := 8) (by decide) (tripLow.trans (timeWords_low _)) (tripHigh.trans (timeWords_high _)),
    h.pair (k := 10) (by decide) (startLow.trans (timeWords_low _)) (startHigh.trans (timeWords_high _)),
    fun lead => ?station, h.zeroFrom (pumpPage_end _ _)⟩
  case state =>
    rw [← PumpState.code_place, ← TripCause.code_place, ← PumpState.inMotion_eq]
    rfl
  case places =>
    rw [← placeOf_eq, ← placeOf_eq]
    rfl
  case station =>
    subst lead
    exact ⟨h.field (k := 12) (by decide) (pumpPage_station s.plant (k := 0)),
      h.number (k := 13) (by decide) (pumpPage_station s.plant (k := 1))⟩

theorem Rake.inCycle_iff (x : Rake) :
    x.inCycle = true ↔ x.state = .waiting ∨ x.state = .raking ∨ x.state = .reversing ∨ x.state = .suspended := by
  simp only [Rake.inCycle, Bool.or_eq_true, beq_iff_eq, or_assoc]

theorem jamCause_bit (x : Rake) :
    (if x.state = .jammed then x.jamCause.code else 0) = bit (x.state == .jammed && x.jamCause == .timeout) := by
  by_cases jammed : x.state = .jammed
  · rw [if_pos jammed, jammed]
    cases x.jamCause <;> rfl
  · rw [if_neg jammed, beq_false_of_ne jammed]
    rfl

theorem showsRake_of_carries {s : State} {n : Fin 2} {ws : List Word} (h : Carries ws (rakePage s.plant n)) :
    s.ShowsRake n ws := by
  refine ⟨h.field (k := 0) (by decide) ?state, h.field (k := 1) (by decide) ?lines, h 2 (by decide),
    h.number (k := 3) (by decide) rfl, h.number (k := 4) (by decide) rfl, h.number (k := 5) (by decide) rfl,
    h.number (k := 6) (by decide) rfl, h.pair (k := 7) (by decide) (timeWords_low _) (timeWords_high _),
    h.zeroFrom (by rw [rakePage_length]; decide)⟩
  case state =>
    rw [← RakeState.code_place, ← Trigger.code_place, ← jamCause_bit]
    simp only [← Rake.inCycle_iff]
    rfl
  case lines =>
    rw [← ClaimStatus.code_place]
    rfl

/-! Weirs. -/

/-- Words 6 to 15 of a weir's page. -/
theorem weirPage_open (p : Plant) (n : Fin 3) {k : Nat} (hk : k < 10) :
    (weirPage p n).getD (5 + k) 0 = (shortRecord n (p.weir n).openRecord).getD k 0 := by
  unfold weirPage
  dsimp only
  rw [List.append_assoc, getD_after (n := 5) rfl, List.getD_append _ _ _ _ (by rw [shortRecord_length]; exact hk)]

/-- Words 16 to 29 of a weir's page. -/
theorem weirPage_closed (p : Plant) (n : Fin 3) (k : Nat) :
    (weirPage p n).getD (15 + k) 0 = (fullRecord n (p.weir n).lastClosed).getD k 0 := by
  unfold weirPage
  exact getD_after (by rw [List.length_append, shortRecord_length]; rfl) k

/-- Words 5 to 8 of a full record. -/
theorem fullRecord_times (n : Fin 3) (r : OverflowRecord) {k : Nat} (hk : k < 2) :
    (fullRecord n (some r)).getD (5 + k) 0 = (timeWords r.duration).getD k 0 ∧
      (fullRecord n (some r)).getD (7 + k) 0 = (timeWords r.endTime).getD k 0 := by
  have short (t : Option Time) : k < (timeWords t).length := by rw [timeWords_length]; exact hk
  have head (w : Word) (a b : Nat) : ([w] ++ words32 a ++ words32 b).length = 5 := rfl
  unfold fullRecord
  dsimp only
  rw [List.append_assoc, List.append_assoc, List.append_assoc]
  constructor
  · rw [List.append_assoc, getD_after (head _ _ _), List.getD_append _ _ _ _ (short _)]
  · rw [getD_after (n := 7) (by rw [List.length_append, head, timeWords_length]), List.getD_append _ _ _ _ (short _)]

/-- Words 9 to 13 of a full record. -/
theorem fullRecord_peak (n : Fin 3) (r : OverflowRecord) (k : Nat) :
    (fullRecord n (some r)).getD (9 + k) 0 =
      ([BitVec.ofNat 16 r.peak] ++ (words32 r.peakTime.toNat ++ volumeWords r.volume)).getD k 0 := by
  unfold fullRecord
  dsimp only
  rw [List.append_assoc, List.append_assoc,
    getD_after (n := 9) (by simp only [List.length_append, timeWords_length]; rfl)]

theorem volumeCode_eq (v : Option Nat) : volumeCode v = volumeOr v := by cases v <;> rfl

theorem showsWeir_of_carries {s : State} {n : Fin 3} {ws : List Word} (h : Carries ws (weirPage s.plant n)) :
    s.ShowsWeir n ws := by
  have opened {k : Nat} (hk : k < 10) := weirPage_open s.plant n hk
  have closed (k : Nat) := weirPage_closed s.plant n k
  refine ⟨h.field (k := 0) (by decide) ?state, h.number (k := 1) (by decide) rfl, h.number (k := 2) (by decide) rfl,
    fun v level => (h 3 (by decide)).trans ?head, fun level => (h 3 (by decide)).trans ?noHead,
    h.number (k := 4) (by decide) rfl, fun noRecord j from6 to16 => ?noOpen, fun r record => ?opened,
    fun noRecord j from16 to30 => ?noClosed, fun r record => ?closed, h.zeroFrom (by rw [weirPage_length]; decide)⟩
  case state =>
    rw [← WeirState.code_place]
    rfl
  case head =>
    unfold weirPage
    dsimp only
    rw [level]
    rfl
  case noHead =>
    unfold weirPage
    dsimp only
    rw [level]
    rfl
  case noOpen =>
    obtain ⟨k, rfl⟩ : ∃ k, j = 5 + k + 1 := ⟨j - 6, by omega⟩
    refine (h (5 + k) (by omega)).trans ((opened (by omega)).trans ?_)
    rw [noRecord]
    have : k < 10 := by omega
    interval_cases k <;> rfl
  case opened =>
    rw [record] at opened
    have volume := volumeCode_eq r.volume
    exact ⟨h.field (k := 5) (by decide) (opened (k := 0) (by decide)),
      h.pair (k := 6) (by decide) (opened (k := 1) (by decide)) (opened (k := 2) (by decide)),
      h.pair (k := 8) (by decide) (opened (k := 3) (by decide)) (opened (k := 4) (by decide)),
      h.number (k := 10) (by decide) (opened (k := 5) (by decide)),
      h.pair (k := 11) (by decide) (opened (k := 6) (by decide)) (opened (k := 7) (by decide)),
      volume ▸ h.pair (k := 13) (by decide) (opened (k := 8) (by decide)) (opened (k := 9) (by decide))⟩
  case noClosed =>
    obtain ⟨k, rfl⟩ : ∃ k, j = 15 + k + 1 := ⟨j - 16, by omega⟩
    refine (h (15 + k) (by omega)).trans ((closed k).trans ?_)
    rw [noRecord]
    have : k < 14 := by omega
    interval_cases k <;> rfl
  case closed =>
    rw [record] at closed
    have volume := volumeCode_eq r.volume
    have peak (k : Nat) := fullRecord_peak n r k
    obtain ⟨durationLow, endLow⟩ := fullRecord_times n r (k := 0) (by decide)
    obtain ⟨durationHigh, endHigh⟩ := fullRecord_times n r (k := 1) (by decide)
    exact ⟨h.field (k := 15) (by decide) (closed 0),
      h.pair (k := 16) (by decide) (closed 1) (closed 2),
      h.pair (k := 18) (by decide) (closed 3) (closed 4),
      h.pair (k := 20) (by decide) ((closed 5).trans (durationLow.trans (timeWords_low _)))
        ((closed 6).trans (durationHigh.trans (timeWords_high _))),
      h.pair (k := 22) (by decide) ((closed 7).trans (endLow.trans (timeWords_low _)))
        ((closed 8).trans (endHigh.trans (timeWords_high _))),
      h.number (k := 24) (by decide) ((closed 9).trans (peak 0)),
      h.pair (k := 25) (by decide) ((closed 10).trans (peak 1))
        ((closed 11).trans (peak 2)),
      volume ▸ h.pair (k := 27) (by decide) ((closed 12).trans (peak 3))
        ((closed 13).trans (peak 4))⟩

/-! Pages 13 to 15. -/

/-- The fields of one alarm point in a word of page 13. -/
def pointFields (x : AlarmPoint) (j : Nat) : List (Nat × Nat × Nat) :=
  [([PointState.normal, .activeUnack, .activeAcked, .returnedUnack].idxOf x.state, 4 * j, 2),
    (bit x.condition, 4 * j + 2, 1)]

theorem pointFields_sum (x : AlarmPoint) (j : Nat) :
    ((pointFields x j).map (fun f => f.1 % 2 ^ f.2.2 * 2 ^ f.2.1)).sum = pointNibble x % 2 ^ 4 * 2 ^ (4 * j) := by
  have hs : x.state.code < 4 := by cases x.state <;> decide
  have hc := bit_lt_two x.condition
  have nibble : pointNibble x % 2 ^ 4 = x.state.code + 4 * bit x.condition := by unfold pointNibble; omega
  rw [nibble, pointFields, ← PointState.code_place]
  simp only [List.map_cons, List.map_nil, List.sum_cons, List.sum_nil]
  rw [Nat.mod_eq_of_lt (show x.state.code < 2 ^ 2 from hs), Nat.mod_eq_of_lt (show bit x.condition < 2 ^ 1 from hc), pow_add]
  ring

theorem pointWord_fields (p : Plant) (j : Fin 10) : pointWord p j.val = packWord (([0, 1, 2, 3] : List (Fin 4)).flatMap
    (fun i => pointFields (p.alarms.points.get ⟨4 * j.val + i.val, by omega⟩) i.val)) := by
  unfold pointWord
  dsimp only
  rw [dif_pos (by omega), dif_pos (by omega), dif_pos (by omega), dif_pos (by omega)]
  refine packWord_congr ?_
  simp only [List.flatMap_cons, List.flatMap_nil, List.map_append, List.sum_append, pointFields_sum, List.map_cons,
    List.map_nil, List.sum_cons, List.sum_nil, Fin.val_zero, Fin.val_one, Fin.val_two]
  rfl

theorem pointCode_eq (k : Option (Fin 40)) : pointCode k = (k.map Fin.val).getD 0xFF := by cases k <;> rfl

theorem PointState.unacked_eq (x : PointState) : x.unacked = (x == .activeUnack || x == .returnedUnack) := by
  cases x <;> rfl

theorem showsAlarms_of_carries {s : State} {ws : List Word} (h : Carries ws (page13 s)) : s.ShowsAlarms ws := by
  refine ⟨fun j => ?points, h.field (k := 10) (by decide) ?codes, h.field (k := 11) (by decide) ?lines,
    h.field (k := 12) (by decide) ?low, h.field (k := 13) (by decide) ?high, h.zeroFrom (by rw [page13_length]; decide)⟩
  case points =>
    rw [Nat.add_comm 1]
    refine h.field (by omega) (Eq.trans ?_ (pointWord_fields s.plant j))
    fin_cases j <;> rfl
  case codes =>
    rw [← pointCode_eq, ← pointCode_eq]
    rfl
  case lines =>
    rw [← BeaconDemand.code_place]
    rfl
  case low =>
    simp only [← PointState.unacked_eq]
    rfl
  case high =>
    simp only [← PointState.unacked_eq]
    rfl

/-- The marks of the alerted entries, one bit for each place of the list. -/
theorem alertedMarks_bits (n : Nat) : ∀ (l : List (Nat × Bool)) (m : Nat), l.length ≤ n →
    ((List.range n).map (fun k => bit (l.getD k (0, false)).2 % 2 ^ 1 * 2 ^ (m + k))).sum = alertedMarks l * 2 ^ m ∧
      alertedMarks l < 2 ^ n := by
  induction n with
  | zero =>
    intro l m len
    rw [List.length_eq_zero_iff.mp (Nat.le_zero.mp len)]
    exact ⟨(Nat.zero_mul _).symm, by decide⟩
  | succ n ih =>
    intro l m len
    have split (x : Bool) (rest : List (Nat × Bool)) (fits : rest.length ≤ n) :
        bit x % 2 ^ 1 * 2 ^ (m + 0) + ((List.range n).map (fun k => bit (rest.getD k (0, false)).2 % 2 ^ 1 *
          2 ^ (m + (k + 1)))).sum = (bit x + 2 * alertedMarks rest) * 2 ^ m := by
      have step := (ih rest (m + 1) fits).1
      have shift (k : Nat) : 2 ^ (m + (k + 1)) = 2 ^ (m + 1 + k) := by rw [Nat.add_assoc, Nat.add_comm 1 k]
      simp only [shift]
      rw [step, Nat.mod_eq_of_lt (show bit x < 2 ^ 1 from bit_lt_two x), Nat.add_zero, Nat.pow_succ]
      ring
    simp only [List.range_succ_eq_map, List.map_cons, List.map_map, List.sum_cons, Function.comp_def]
    cases l with
    | nil => exact ⟨split false [] (Nat.zero_le n), Nat.two_pow_pos _⟩
    | cons x rest =>
      have fits : rest.length ≤ n := Nat.le_of_succ_le_succ len
      have small := (ih rest 0 fits).2
      have := bit_lt_two x.2
      refine ⟨split x.2 rest fits, ?_⟩
      show bit x.2 + 2 * alertedMarks rest < 2 ^ (n + 1)
      rw [Nat.pow_succ]
      omega

/-- Word 30 of page 14. -/
theorem packWord_urgent {l : List (Nat × Bool)} (fits : l.length ≤ 8) :
    packWord [(l.length, 0, 4), (alertedMarks l, 8, 8)] =
      packWord ((l.length, 0, 4) :: (List.range 8).map (fun k => (bit ((l.getD k (0, false)).2), 8 + k, 1))) := by
  obtain ⟨bits, small⟩ := alertedMarks_bits 8 l 8 fits
  refine packWord_congr ?_
  simp only [List.map_cons, List.map_nil, List.sum_cons, List.sum_nil, List.map_map, Function.comp_def, bits, Nat.add_zero]
  rw [Nat.mod_eq_of_lt small]

/-- Words 23 to 25 of page 14. -/
theorem page14_gap (s : State) {k : Nat} (hk : k < 3) : (page14 s).getD (22 + k) 0 =
    (BitVec.ofNat 16 ((s.reporter.gapRecord.map Prod.fst).getD 0) ::
      words32 ((s.reporter.gapRecord.map Prod.snd).getD 0)).getD k 0 := by
  unfold page14
  dsimp only
  rw [List.append_assoc, List.append_assoc, List.append_assoc, getD_after (n := 22) rfl]
  cases s.reporter.gapRecord <;> interval_cases k <;> rfl

/-- Words 26 to 30 of page 14. -/
theorem page14_urgent (s : State) (k : Nat) : (page14 s).getD (25 + k) 0 =
    (words32 ((s.reporter.urgent.head?.map Prod.fst).getD 0) ++
      (words32 ((s.reporter.urgent.getLast?.map Prod.fst).getD 0) ++
        [packWord [(s.reporter.urgent.length, 0, 4), (alertedMarks s.reporter.urgent, 8, 8)]])).getD k 0 := by
  unfold page14
  dsimp only
  rw [List.append_assoc, List.append_assoc]
  exact getD_after (by cases s.reporter.gapRecord <;> rfl) k

theorem cycleLeft_eq (c : Option AlertCycle) : cycleLeft c = (c.map (fun c => c.timer.left)).getD 0 := by cases c <;> rfl

theorem showsLink_of_carries {s : State} {ws : List Word} (h : Carries ws (page14 s)) : s.ShowsLink ws := by
  refine ⟨h.field (k := 0) (by decide) ?state, h.field (k := 1) (by decide) ?rate, h.number (k := 2) (by decide) rfl,
    fun k hk => ?counts, h.number (k := 22) (by decide) (page14_gap s (k := 0) (by decide)),
    h.pair (k := 23) (by decide) (page14_gap s (k := 1) (by decide)) (page14_gap s (k := 2) (by decide)),
    h.pair (k := 25) (by decide) (page14_urgent s 0) (page14_urgent s 1),
    h.pair (k := 27) (by decide) (page14_urgent s 2) (page14_urgent s 3),
    fun fits => h.field (k := 29) (by decide) ((page14_urgent s 4).trans (packWord_urgent fits))⟩
  case state =>
    rw [← RxState.code_place]
    unfold page14
    dsimp only
    cases s.link.tx <;> cases s.reporter.slot <;> cases s.reporter.cycle <;> rfl
  case rate =>
    refine packWord_congr ?_
    simp [Link.stationAddress]
    rfl
  case counts =>
    rw [show 4 + k = (3 + k) + 1 by omega, ← cycleLeft_eq]
    refine h.number (by omega) ?_
    unfold page14
    dsimp only
    rw [List.append_assoc, List.append_assoc, List.append_assoc, List.append_assoc, getD_after (n := 3) rfl,
      List.getD_append _ _ _ _ hk]
    exact List.getD_map _ 0 (BitVec.ofNat 16)

theorem stagingPlace_eq (x : Option (List Word)) : stagingPlace x = (x.map List.length).getD 0 := by cases x <;> rfl

theorem showsLog_of_carries {s : State} {ws : List Word} (h : Carries ws (page15 s)) : s.ShowsLog ws := by
  refine ⟨h.pair (k := 0) (by decide) rfl rfl, h.pair (k := 2) (by decide) rfl rfl, h.pair (k := 4) (by decide) rfl rfl,
    h.pair (k := 6) (by decide) rfl rfl, h.pair (k := 8) (by decide) rfl rfl, h.pair (k := 10) (by decide) rfl rfl,
    h.number (k := 12) (by decide) rfl, h.number (k := 13) (by decide) rfl, h.number (k := 14) (by decide) rfl,
    h.field (k := 15) (by decide) ?queue, h.number (k := 16) (by decide) rfl, h.field (k := 17) (by decide) ?commit,
    h.pair (k := 18) (by decide) ?low ?high, h.zeroFrom (by rw [page15_length]; decide)⟩
  case queue =>
    rw [← stagingPlace_eq]
    rfl
  case commit =>
    refine Eq.trans (b := commitWord s.log.lastCommit) rfl ?_
    cases s.log.lastCommit with
    | none => exact (by decide : (0 : Word) = packWord [(0, 0, 8), (0, 8, 8)])
    | assigned seq => exact (by decide : (1 : Word) = packWord [(1, 0, 8), (0, 8, 8)])
    | dropped => exact (by decide : (2 : Word) = packWord [(2, 0, 8), (0, 8, 8)])
    | refused cause => rfl
  all_goals unfold page15; dsimp only
  case low => cases s.log.lastCommit <;> rfl
  case high => cases s.log.lastCommit <;> rfl

/-! The deposit agent (R136). -/

theorem pageWords_pump (s : State) (count : Nat) (n : Fin 6) :
    pageWords s count ⟨2 + n.val, by omega⟩ = pageBody (pumpPage s.plant n) := by
  fin_cases n <;> rfl

theorem pageWords_rake (s : State) (count : Nat) (n : Fin 2) :
    pageWords s count ⟨8 + n.val, by omega⟩ = pageBody (rakePage s.plant n) := by
  fin_cases n <;> rfl

theorem pageWords_weir (s : State) (count : Nat) (n : Fin 3) :
    pageWords s count ⟨10 + n.val, by omega⟩ = pageBody (weirPage s.plant n) := by
  fin_cases n <;> rfl

/-- 12.3: a block under a generation count whose words are those of page `i` shows page `i`. -/
theorem pageShows_block (s : State) (i : Fin 16) (gen check : Word) :
    s.PageShows i ((gen :: pageWords s s.plant.corr.length i) ++ [check]) := by
  refine ⟨?station, ?levels, fun n hn => ?pump, fun n hn => ?rake, fun n hn => ?weir, ?alarms, ?link, ?log⟩
  case station =>
    rintro rfl
    exact showsStation_of_carries (carries_block _ _ _ ((page0_length _ _).trans_le (by decide)))
  case levels =>
    rintro rfl
    exact showsLevels_of_carries (carries_block _ _ _ ((page1_length _).trans_le (by decide)))
  case pump =>
    rw [show i = ⟨2 + n.val, by omega⟩ from Fin.ext hn, pageWords_pump]
    exact showsPump_of_carries (carries_block _ _ _ (pumpPage_length _ _))
  case rake =>
    rw [show i = ⟨8 + n.val, by omega⟩ from Fin.ext hn, pageWords_rake]
    exact showsRake_of_carries (carries_block _ _ _ ((rakePage_length _ _).trans_le (by decide)))
  case weir =>
    rw [show i = ⟨10 + n.val, by omega⟩ from Fin.ext hn, pageWords_weir]
    exact showsWeir_of_carries (carries_block _ _ _ ((weirPage_length _ _).trans_le (by decide)))
  case alarms =>
    rintro rfl
    exact showsAlarms_of_carries (carries_block _ _ _ ((page13_length _).trans_le (by decide)))
  case link =>
    rintro rfl
    exact showsLink_of_carries (carries_block _ _ _ (page14_length _).le)
  case log =>
    rintro rfl
    exact showsLog_of_carries (carries_block _ _ _ ((page15_length _).trans_le (by decide)))

/-- The page at place `k` of the scan from `start`. -/
theorem scanOrder_get {start k : Nat} (hk : k < (scanOrder start).length) :
    ((scanOrder start)[k]).val = (start + k) % 16 := by
  simp only [scanOrder, List.getElem_map, List.getElem_range]

/-- R136: of the dirty pages the first from the scan position on is taken. -/
theorem nextDirty_eq {d : DepositAgent} {i : Fin 16} (dirty : d.dirty.get i = true)
    (first : ∀ j : Fin 16, (j.val + 16 - d.scanPos % 16) % 16 < (i.val + 16 - d.scanPos % 16) % 16 →
      d.dirty.get j = false) :
    d.nextDirty = some i := by
  have len : (scanOrder d.scanPos).length = 16 := by simp only [scanOrder, List.length_map, List.length_range]
  unfold DepositAgent.nextDirty
  rw [List.find?_eq_some_iff_getElem]
  have at_place : (scanOrder d.scanPos)[(i.val + 16 - d.scanPos % 16) % 16]'(by omega) = i :=
    Fin.ext ((scanOrder_get _).trans (by omega))
  refine ⟨dirty, (i.val + 16 - d.scanPos % 16) % 16, by omega, at_place, fun j hj => ?_⟩
  rw [Bool.not_eq_true', first _ ?_]
  rw [scanOrder_get]
  omega

/-- Settles O48: the grant takes the page of `nextDirty_eq` as `pageImage`, which `pageShows_block` reads; the completion
writes it. -/
theorem depositAgentWritesDirtyPages : Obligations.DepositAgentWritesDirtyPages := by
  intro s i
  refine ⟨fun granted dirty first => ?grant, fun image holds wf => ?complete⟩
  case grant =>
    have page := nextDirty_eq dirty first
    have run : exec .depositGrant s = .next (({ s with deposits := s.deposits.take i }).grantMember .deposit
        (.deposit i (pageImage s i (s.deposits.gen.get i + 1)))) := by
      refine congrArg Host.Outcome.next ?_
      unfold State.grantDeposit
      rw [page]
      exact if_pos granted
    refine ⟨((s.deposits.gen.get i + 1) :: pageWords s s.plant.corr.length i) ++
      [checkWord ((s.deposits.gen.get i + 1) :: pageWords s s.plant.corr.length i)], ?_, rfl, ?_, pageShows_block _ _ _ _,
      blockSum_sealed _, run⟩
    · rw [List.length_append, List.length_cons, pageWords_length]
      rfl
    · rw [List.cons_append, List.drop_succ_cons, List.drop_zero, List.take_left' (pageWords_length _ _ _)]
  case complete =>
    have run : s.completeDeposit = { s with mem := s.mem.writeBytes (s.pageAddress i) image, holder := .free } := by
      unfold State.completeDeposit
      rw [holds]
      rfl
    refine ⟨_, congrArg Host.Outcome.next run, fun k hk => ?_, fun x outside => ?_, rfl⟩
    · exact (Memory.read_writeBytes_inside wf _ _ k hk).trans (List.getD_eq_getElem _ _ hk).symm
    · exact Memory.read_writeBytes_outside wf _ _ x outside

end Sys2Proof.Machine
end

section
/-! The path classifier (R126, R138), and O45. -/

namespace Sys2Proof.Machine

/-! Regions. -/

/-- The region of an offset in a window, by the kind of the window. -/
def windowRegion (kind : WindowKind) (off : Nat) : Region :=
  match kind with
  | .none => .plain
  | .command => commandRegion off
  | .status => .status
  | .logRing => .logRing
  | .logPort => portRegion off
  | .shield => .shield

theorem regionOf_trial (table : List Window) {x : Nat} (low : 0x0FE000 ≤ x) (high : x < 0x0FF000) :
    regionOf table x = .settings .trial (x - 0x0FE000) := if_pos ⟨low, high⟩

theorem regionOf_stored (table : List Window) {x : Nat} (low : 0x0FF000 ≤ x) (high : x < 0x100000) :
    regionOf table x = .settings .stored (x - 0x0FF000) :=
  (if_neg (by omega)).trans (if_pos ⟨low, high⟩)

theorem Window.covers_iff (w : Window) (x : Nat) :
    w.covers x = true ↔ w.kind ≠ .none ∧ w.base ≤ x ∧ x < w.base + 2 ^ w.exp := by
  unfold Window.covers
  rw [Bool.and_eq_true, Bool.and_eq_true, bne_iff_ne, decide_eq_true_iff, decide_eq_true_iff, and_assoc]
  rfl

theorem regionOf_plain {table : List Window} {x : Nat} (outside : x < 0x0FE000 ∨ 0x100000 ≤ x)
    (free : ∀ w ∈ table, ¬ w.covers x = true) : regionOf table x = .plain := by
  unfold regionOf
  rw [if_neg (by omega), if_neg (by omega), List.find?_eq_none.mpr free]

/-- R126: a window that alone covers an address decides its region. -/
theorem regionOf_window {table : List Window} {x : Nat} (outside : x < 0x0FE000 ∨ 0x100000 ≤ x) {w : Window}
    (mem : w ∈ table) (covers : w.covers x = true) (only : ∀ w' ∈ table, w'.covers x = true → w' = w) :
    regionOf table x = windowRegion w.kind (x - w.base) := by
  have found : table.find? (fun w => w.covers x) = some w := by
    obtain ⟨w', find⟩ := Option.isSome_iff_exists.mp
      (List.find?_isSome (p := fun w : Window => w.covers x).mpr ⟨w, mem, covers⟩)
    rw [find, only w' (List.mem_of_find?_eq_some find) (List.find?_some (p := fun w : Window => w.covers x) find)]
  cases kind : w.kind
  all_goals
    unfold regionOf
    rw [if_neg (by omega), if_neg (by omega), found]
    dsimp only
    rw [kind]
    rfl

theorem commandRegion_word {off : Nat} {i : Fin 32} (place : off / 2 = i.val) : commandRegion off = .commandWord i := by
  unfold commandRegion
  rw [dif_pos (by omega)]
  exact congrArg Region.commandWord (Fin.ext place)

theorem commandRegion_beyond {off : Nat} (beyond : 64 ≤ off) : commandRegion off = .commandBeyond :=
  dif_neg (by omega)

/-! The grant of an access without an owner command of its own. -/

/-- An access of which the judgment has moved nothing. -/
theorem access_only {s : State} {a : Access} (taken : s.Takes a) (out : s.plant.out = [])
    {judge : State → State × Verdict} {v : Verdict} (judged : judge (s.present a) = (s.present a, v))
    (write : v.refusal ≠ none → a.write = true) : s.AccessOnly (s.accessStep a judge) a v := by
  obtain ⟨step, plant, log, settings, link⟩ :=
    access_samePlant taken out judged (Judging.start taken) write taken.present_plant
  rw [taken.present_settings] at settings
  rw [taken.present_link] at link
  rw [taken.present_log] at log
  exact ⟨step, plant, settings, link, log⟩

/-- A waiting access that is granted has arrived already. -/
theorem State.Takes.present_waiting {s : State} {a : Access} (taken : s.Takes a)
    (waits : s.port = .waiting (normalAccess a)) : s.present a = s := by
  have withheld : s.prdy = false := by
    rcases taken.port with ⟨idle, -⟩ | ⟨-, withheld⟩
    · rw [waits] at idle
      exact nomatch idle
    · exact withheld
  rw [taken.present, ← waits, ← withheld]

/-- R126: the grant of a waiting access that no owner judges is its step under the classifier. -/
theorem upstreamGrant_eq {s : State} {a : Access} (taken : s.Takes a) (waits : s.port = .waiting (normalAccess a))
    (ownerless : ownerCommand s (normalAccess a) = none) :
    exec .upstreamGrant s = .next (s.accessStep a (fun t => t.classify (normalAccess a))) := by
  have here := taken.present_waiting waits
  have granting := taken.granting
  rw [here] at granting
  have granted : s.grantsUpstream = true := (Bool.and_eq_true_iff.mp granting).2
  refine congrArg Host.Outcome.next ?_
  rw [accessStep_takes taken, here]
  unfold State.classifyWaiting
  rw [waits]
  dsimp only
  rw [granted, ownerless]
  rfl

theorem upstreamGrant_only {s : State} {a : Access} {v : Verdict} (taken : s.Takes a) (out : s.plant.out = [])
    (waits : s.port = .waiting (normalAccess a)) (ownerless : ownerCommand s (normalAccess a) = none)
    (judged : s.classify (normalAccess a) = (s, v)) (write : v.refusal ≠ none → a.write = true) :
    ∃ t, exec .upstreamGrant s = .next t ∧ s.AccessOnly t a v := by
  refine ⟨_, upstreamGrant_eq taken waits ownerless, access_only taken out ?_ write⟩
  rw [taken.present_waiting waits, judged]

theorem ownerCommand_read {s : State} {a : Access} (read : a.write = false)
    (elsewhere : ∀ k, regionOf s.windows (accessAddress a) ≠ .entry k) : ownerCommand s a = none := by
  unfold ownerCommand
  rw [read]
  split
  case h_1 k entry => exact absurd entry (elsewhere k)
  all_goals rfl

theorem classify_read {s : State} {a : Access} (read : a.write = false) : s.classify a = (s, .forward) := by
  unfold State.classify
  rw [read]
  rfl

theorem settingsCommand_byte {range : SettingsRange} {off : Nat} {a : Access}
    (noSection : ∀ h : off / 2 < 2048, sectionAt ⟨off / 2, h⟩ = none) (byte : accessIsWord a = false) :
    settingsCommand range off a = none := by
  unfold settingsCommand
  split
  case isTrue h =>
    rw [noSection h, byte]
    rfl
  case isFalse => rfl

theorem settingsCommand_trial {off : Nat} {a : Access}
    (noSection : ∀ h : off / 2 < 2048, sectionAt ⟨off / 2, h⟩ = none) (other : off ≠ 0x20) :
    settingsCommand .trial off a = none := by
  unfold settingsCommand
  split
  case isTrue h =>
    simp [noSection h]
  case isFalse => rfl

theorem settingsCommand_other {range : SettingsRange} {off : Nat} {a : Access}
    (noSection : ∀ h : off / 2 < 2048, sectionAt ⟨off / 2, h⟩ = none) (enable : off ≠ 0x20) (lock : off ≠ 0x22)
    (freeze : off ≠ 0x24) : settingsCommand range off a = none := by
  unfold settingsCommand
  split
  case isTrue h =>
    simp [noSection h, lock, freeze]
  case isFalse => rfl

/-- No section covers the enable, lock and freeze words. -/
theorem sectionAt_words {off : Nat} (word : off = 0x20 ∨ off = 0x22 ∨ off = 0x24) (h : off / 2 < 2048) :
    sectionAt ⟨off / 2, h⟩ = none := by
  rcases word with rfl | rfl | rfl <;> rfl

theorem accessIsWord_normal (a : Access) : accessIsWord (normalAccess a) = (a.lanes == .word) := rfl

theorem commandWordCommand_spare (p : Plant) {i : Fin 32} (v : Word) (spare : spareWord i = true) :
    commandWordCommand p i v = none := by
  have places : (5 ≤ i.val ∧ i.val ≤ 7) ∨ (14 ≤ i.val ∧ i.val ≤ 15) ∨ 18 ≤ i.val := by
    simpa only [spareWord, Bool.or_eq_true, Bool.and_eq_true, decide_eq_true_iff, or_assoc] using spare
  have other (k : Fin 32) (hk : k.val < 5) : i ≠ k := fun same => by subst same; omega
  unfold commandWordCommand
  rw [if_neg (other 0 (by decide)), if_neg (other 1 (by decide)), if_neg (other 2 (by decide)),
    if_neg (other 3 (by decide)), if_neg (other 4 (by decide)), dif_neg (by omega), dif_neg (by omega)]

/-- Settles O45: the regions by their windows; the grant of a waiting access that has no owner command is its step under
`State.classify` (`upstreamGrant_eq`), which each region decides. -/
theorem classifierJudgesByRegion : Obligations.ClassifierJudgesByRegion := by
  refine ⟨fun table x => ?regions, fun s out => ⟨fun place lanes taken => ?entry, fun a taken waits => ?grant⟩⟩
  case regions =>
    intro covers
    refine ⟨regionOf_trial table, regionOf_stored table, fun outside => ⟨fun free => ?_, fun w mem here only => ?_⟩⟩
    · exact regionOf_plain outside fun w mem => (Window.covers_iff w x).not.mpr (free w mem)
    · intro off
      have region := regionOf_window outside mem ((Window.covers_iff w x).mpr here)
        fun w' mem' h => only w' mem' ((Window.covers_iff w' x).mp h)
      refine ⟨fun kind => ?_, fun kind => ?_, fun kind => ?_, fun kind => ?_, fun kind => ?_⟩
      all_goals rw [region, kind]
      · exact ⟨fun i => commandRegion_word, commandRegion_beyond⟩
      all_goals rfl
  case entry =>
    refine ⟨_, rfl, access_only taken out ?_ (fun h => absurd rfl h)⟩
    rw [taken.present]
    rfl
  case grant =>
    have kind : (normalAccess a).write = a.write := rfl
    intro only region
    have here : regionOf s.windows (accessAddress (normalAccess a)) = region := rfl
    clear_value region
    have reads (read : a.write = false) (elsewhere : ∀ k, region ≠ .entry k) : only .forward :=
      upstreamGrant_only taken out waits
        (ownerCommand_read (a := normalAccess a) read (fun k entry => elsewhere k (here.symm.trans entry)))
        (classify_read (a := normalAccess a) read) (fun h => absurd rfl h)
    refine ⟨reads, fun write => ?_⟩
    have writes {v : Verdict} (ownerless : ownerCommand s (normalAccess a) = none)
        (judged : s.classify (normalAccess a) = (s, v)) : only v :=
      upstreamGrant_only taken out waits ownerless judged (fun _ => write)
    refine ⟨?plain, ?readOnly, ?shield, ?byteWrite, fun i lies spare word => ?spare, fun range off lies => ?settings⟩
    case plain =>
      rintro (lies | lies)
      all_goals refine writes ?_ (by unfold State.classify; rw [kind, write, here, lies]; rfl)
      all_goals unfold ownerCommand; rw [here, lies]
    case readOnly =>
      rintro (lies | lies | lies | ⟨k, lies⟩)
      all_goals refine writes ?_ (by unfold State.classify; rw [kind, write, here, lies]; rfl)
      all_goals unfold ownerCommand; rw [here, lies]
      exact if_pos (kind.trans write)
    case shield =>
      intro lies
      refine writes ?_ (by unfold State.classify; rw [kind, write, here, lies]; rfl)
      unfold ownerCommand; rw [here, lies]
    case byteWrite =>
      intro lies byte
      have notWord : accessIsWord (normalAccess a) = false := beq_false_of_ne byte
      rcases lies with lies | ⟨i, lies⟩
      all_goals refine writes ?_ ?_
      · unfold ownerCommand; rw [here, lies, kind, write, notWord]; rfl
      · unfold State.classify; rw [kind, write, here, lies]; rfl
      · unfold ownerCommand; rw [here, lies, kind, write, notWord]; rfl
      · unfold State.classify; rw [kind, write, here, lies]; dsimp only; rw [notWord]; rfl
    case spare =>
      have isWord : accessIsWord (normalAccess a) = true := beq_iff_eq.mpr word
      have data : (normalAccess a).data = a.data := by
        simp only [normalAccess, write, word, if_true, laneData]
      have ownerless : ownerCommand s (normalAccess a) = none := by
        unfold ownerCommand
        rw [here, lies, kind, write, isWord]
        exact commandWordCommand_spare _ _ spare
      have judged : s.classify (normalAccess a) = (s.onPlant (fun p => p.setShadow i a.data), .forward) := by
        unfold State.classify
        rw [kind, write, here, lies, data]
        dsimp only
        rw [isWord]
        rfl
      have arrived := taken.present_waiting waits
      have judging : Judging s s a := by
        have start := Judging.start taken
        rwa [arrived] at start
      obtain ⟨step, plant, log, settings, link⟩ :=
        access_step (judge := fun t => t.classify (normalAccess a)) (v := .forward) taken (by rw [arrived, judged])
          (judging.onPlant (fun p => p.setShadow i a.data)) (fun h => absurd rfl h) rfl
      refine ⟨_, upstreamGrant_eq taken waits ownerless, step, plant.trans ?_, log.trans ?_, settings, link⟩
      · show { (s.plant.setShadow i a.data) with out := [], marks := s.plant.marks } = _
        simp only [Plant.setShadow, ← out]
      · show (s.plant.out ++ []).foldl _ s.log = s.log
        rw [out]
        rfl
    case settings =>
      have settle {v : Verdict} (ownerless : settingsCommand range off (normalAccess a) = none)
          (verdict : s.settingsVerdict range off (normalAccess a) = v) : only v := by
        refine writes ?_ ?_
        · unfold ownerCommand
          rw [here, lies, kind, write]
          exact ownerless
        · unfold State.classify
          rw [kind, write, here, lies]
          exact congrArg (Prod.mk s) verdict
      refine ⟨fun words byte => ?_, fun words trial word => ?_, fun enable lock freeze noSection => ?_⟩
      · have notWord : accessIsWord (normalAccess a) = false := beq_false_of_ne byte
        refine settle (settingsCommand_byte (sectionAt_words words) notWord) ?_
        unfold State.settingsVerdict
        rw [if_pos words, notWord]
        rfl
      · have isWord : accessIsWord (normalAccess a) = true := beq_iff_eq.mpr word
        rw [trial] at settle
        refine settle (settingsCommand_trial (sectionAt_words (Or.inr words)) (by omega)) ?_
        unfold State.settingsVerdict
        rw [if_pos (Or.inr words), isWord]
        rfl
      · refine settle (settingsCommand_other noSection enable lock freeze) ?_
        unfold State.settingsVerdict
        rw [if_neg (by omega)]

end Sys2Proof.Machine
end

section
/-! What the alarm unit moves when a condition is handed to it (R94 to R97), and the log writer (R110, R111, R167): O43. -/

namespace Sys2Proof.Machine

/-! The alarm unit's operations move its points, the beacon, the entries handed and the marks. -/

/-- Nothing has moved beside the alarm unit, the field lines, the entries handed and the marks. -/
def Plant.AlarmsMoved (p q : Plant) : Prop :=
  q = { p with alarms := q.alarms, lines := q.lines, out := q.out, marks := q.marks }

theorem Plant.AlarmsMoved.trans {p q r : Plant} (first : p.AlarmsMoved q) (second : q.AlarmsMoved r) :
    p.AlarmsMoved r := by
  unfold Plant.AlarmsMoved at first second ⊢
  rw [second, first]

theorem Plant.annunciate_moved (p : Plant) : p.AlarmsMoved p.annunciate := rfl

theorem Plant.clearFirstOut_moved (p : Plant) : p.AlarmsMoved p.clearFirstOut := by
  unfold Plant.clearFirstOut
  split <;> rfl

theorem Plant.pointOn_moved (p : Plant) (k : Fin 40) : p.AlarmsMoved (p.pointOn k) := by
  unfold Plant.pointOn
  dsimp only
  split <;> rfl

theorem Plant.pointOff_moved (p : Plant) (k : Fin 40) : p.AlarmsMoved (p.pointOff k) := by
  have taken (q : Plant) (moved : p.AlarmsMoved q) : p.AlarmsMoved q.clearFirstOut.annunciate :=
    (moved.trans q.clearFirstOut_moved).trans (Plant.annunciate_moved _)
  exact taken _ rfl

theorem Plant.hand_moved (p : Plant) (k : Fin 40) (b : Bool) : p.AlarmsMoved (p.hand k b) := by
  unfold Plant.hand
  split
  · rfl
  · split
    · exact p.pointOn_moved k
    · exact p.pointOff_moved k

theorem Plant.annunciate_points (p : Plant) : p.annunciate.alarms.points = p.alarms.points := rfl

theorem Plant.clearFirstOut_points (p : Plant) : p.clearFirstOut.alarms.points = p.alarms.points := by
  unfold Plant.clearFirstOut
  split <;> rfl

/-- The points after a condition goes ACTIVE. -/
theorem Plant.pointOn_points (p : Plant) (k : Fin 40) :
    (p.pointOn k).alarms.points = vset p.alarms.points k { condition := true, state := .activeUnack } := by
  unfold Plant.pointOn
  dsimp only
  rw [Plant.annunciate_points]
  split <;> rfl

/-- The points after a condition goes INACTIVE. -/
theorem Plant.pointOff_points (p : Plant) (k : Fin 40) :
    (p.pointOff k).alarms.points = vset p.alarms.points k { condition := false, state := p.returnState k } :=
  (Plant.annunciate_points _).trans (Plant.clearFirstOut_points _)

/-- R94: outside LOAD a point keeps the condition last handed to it. -/
theorem Plant.hand_condition {p : Plant} (running : p.loading = false) (k : Fin 40) (b : Bool) :
    ((p.hand k b).alarms.points.get k).condition = b := by
  unfold Plant.hand
  rw [running, Bool.false_or]
  split
  case isTrue same => exact beq_iff_eq.mp same
  case isFalse =>
    cases b with
    | true => rw [if_pos rfl, Plant.pointOn_points, vset_get_same]
    | false => rw [if_neg Bool.false_ne_true, Plant.pointOff_points, vset_get_same]

/-! The log writer. -/

theorem insertUrgent_mem (n : Nat) (l : List (Nat × Bool)) (x : Nat × Bool) :
    x ∈ insertUrgent n l → x ∈ l ∨ x = (n, false) := by
  induction l with
  | nil => exact fun mem => Or.inr (List.mem_singleton.mp mem)
  | cons y rest ih =>
    unfold insertUrgent
    split
    · exact fun mem => (List.mem_cons.mp mem).symm
    · split
      · exact Or.inl
      · intro mem
        rcases List.mem_cons.mp mem with rfl | mem
        · exact Or.inl List.mem_cons_self
        · exact (ih mem).imp_left (List.mem_cons_of_mem y)

/-- R167: the numbers of the urgent list stay in ascending order. -/
theorem insertUrgent_sorted (n : Nat) (l : List (Nat × Bool)) :
    (l.map Prod.fst).Pairwise (· < ·) → ((insertUrgent n l).map Prod.fst).Pairwise (· < ·) := by
  induction l with
  | nil => intro _; exact List.pairwise_singleton _ _
  | cons y rest ih =>
    intro sorted
    obtain ⟨below, restSorted⟩ := List.pairwise_cons.mp sorted
    unfold insertUrgent
    split
    case isTrue less =>
      refine List.pairwise_cons.mpr ⟨fun m mem => ?_, sorted⟩
      rcases List.mem_cons.mp mem with rfl | mem
      · exact less
      · exact less.trans (below m mem)
    case isFalse notLess =>
      split
      · exact sorted
      · refine List.pairwise_cons.mpr ⟨fun m mem => ?_, ih restSorted⟩
        obtain ⟨x, inserted, rfl⟩ := List.mem_map.mp mem
        rcases insertUrgent_mem n rest x inserted with old | rfl
        · exact below _ (List.mem_map_of_mem old)
        · show y.1 < n
          omega

/-- R167: a number joins the sorted urgent list unless it is there. -/
theorem mem_insertUrgent_iff (n : Nat) (l : List (Nat × Bool)) (x : Nat × Bool) :
    (l.map Prod.fst).Pairwise (· < ·) →
      (x ∈ insertUrgent n l ↔ x ∈ l ∨ x = (n, false) ∧ ∀ y ∈ l, y.1 ≠ n) := by
  induction l with
  | nil => intro _; simp [insertUrgent]
  | cons y rest ih =>
    intro sorted
    obtain ⟨below, restSorted⟩ := List.pairwise_cons.mp sorted
    have above : ∀ z ∈ rest, y.1 < z.1 := fun z mem => below z.1 (List.mem_map_of_mem mem)
    unfold insertUrgent
    split
    case isTrue less =>
      have absent : ∀ z ∈ y :: rest, z.1 ≠ n := by
        intro z mem
        rcases List.mem_cons.mp mem with rfl | mem
        · omega
        · have := above z mem
          omega
      rw [List.mem_cons, or_comm, and_iff_left absent]
    case isFalse notLess =>
      split
      case isTrue same =>
        have present : ¬ ∀ z ∈ y :: rest, z.1 ≠ n := fun absent => absent y List.mem_cons_self same.symm
        rw [or_iff_left (fun h => present h.2)]
      case isFalse other =>
        have alike : (∀ z ∈ y :: rest, z.1 ≠ n) ↔ ∀ z ∈ rest, z.1 ≠ n := by
          rw [List.forall_mem_cons, and_iff_right (fun h => other h.symm)]
        rw [alike, List.mem_cons, List.mem_cons, ih restSorted, or_assoc]

/-- A page shows T: one that has risen shows (12.3). -/
theorem pageChanged_of_tail {s t : State} (risen : t.log.t = s.log.t + 1) : pageChanged s t 15 = true := by
  have shows (u : State) : (pageWords u 0 15).getD 2 0 = BitVec.ofNat 16 u.log.t := pageBody_getD (page15 u) 2
  unfold pageChanged
  rw [bne_iff_ne]
  intro same
  have low := congrArg BitVec.toNat ((shows s).symm.trans ((congrArg (·.getD 2 0) same).trans (shows t)))
  rw [risen, BitVec.toNat_ofNat, BitVec.toNat_ofNat] at low
  omega

theorem append_missed (l : LogUnit) (c : Clock) (d : Draft) : (l.append c d).tmiss = l.tmiss := by
  unfold LogUnit.append
  split <;> rfl

theorem foldl_append_missed (c : Clock) (entries : List Draft) (l : LogUnit) :
    (entries.foldl (fun l d => l.append c d) l).tmiss = l.tmiss := by
  induction entries generalizing l with
  | nil => rfl
  | cons d rest ih => exact (ih _).trans (append_missed l c d)

/-- R111: what retiring the oldest entry makes of each cursor and count. -/
theorem LogUnit.retire_eq (l : LogUnit) : l.retire = { l with
    o := l.o + 1
    p := if l.p = l.o then l.o + 1 else l.p
    pmiss := if l.p = l.o then bump l.pmiss else l.pmiss
    w := if l.w = l.o then l.o + 1 else l.w
    s := if l.w = l.o then max l.s (l.o + 1) else l.s
    tmiss := if l.w = l.o then bump l.tmiss else l.tmiss } := by
  unfold LogUnit.retire
  dsimp only
  split_ifs <;> rfl

theorem State.retireFull_full {s : State} (full : s.log.t - s.log.o = s.capacity) :
    s.retireFull = { s with
      log := s.log.retire, plant := s.plant.hand 39 (decide (0 < s.log.retire.tmiss)) } :=
  if_pos (beq_iff_eq.mpr full)

theorem State.retireFull_room {s : State} (room : s.log.t - s.log.o ≠ s.capacity) : s.retireFull = s :=
  if_neg (fun full => room (beq_iff_eq.mp full))

theorem State.handUrgent_eq (s : State) (e : QueuedEntry) : s.handUrgent e = { s with
    reporter := if e.urgent = true ∧ s.reporter.urgent.length < 8 then
      { s.reporter with urgent := insertUrgent e.seq s.reporter.urgent } else s.reporter } := by
  rw [ite_and]
  unfold State.handUrgent
  split <;> rfl

/-- Settles O43: the grant is `finish` after `State.retireFull`, whose overrun condition is handed by `Plant.hand`; the
completion writes the entry and `insertUrgent` keeps the list of the urgent numbers. -/
theorem logWriterWritesTheHeadOfTheQueue : Obligations.LogWriterWritesTheHeadOfTheQueue := by
  intro s e out
  refine ⟨fun rest queue granted => ?grant, fun holds wf => ?complete⟩
  case grant =>
    have run : exec .logWriteGrant s = .next (finish s (s.retireFull.grantMember .logWriter (.logWriter e))) := by
      refine congrArg Host.Outcome.next ?_
      unfold State.grantLogWriter
      rw [queue]
      exact if_pos granted
    have deposits : s.retireFull.deposits = s.deposits := by
      unfold State.retireFull
      split <;> rfl
    refine ⟨_, run, finish_pages_same _ _ deposits, fun room => ?_, fun full => ?_⟩
    · rw [State.retireFull_room room]
      exact finish_quiet out rfl
    · rw [State.retireFull_full full]
      let handed := s.plant.hand 39 (decide (0 < s.log.retire.tmiss))
      let u := State.grantMember { s with log := s.log.retire, plant := handed } .logWriter (.logWriter e)
      obtain ⟨⟨inputs, -⟩, orders⟩ := s.plant.hand_kept 39 (decide (0 < s.log.retire.tmiss))
      have moved : handed = { s.plant with
          alarms := handed.alarms, lines := handed.lines, out := handed.out, marks := handed.marks } :=
        s.plant.hand_moved 39 _
      have plant : (finish s u).plant = { s.plant with alarms := handed.alarms, lines := handed.lines } := by
        rw [finish_plant]
        show { handed with out := [], marks := s.plant.marks } = _
        rw [moved]
        simp only [← out]
      have log : (finish s u).log = handed.out.foldl (fun l d => l.append s.plant.clock d) s.log.retire := by
        rw [finish_log, ← inputs.clock]
        rfl
      refine ⟨⟨handed.out, ?_⟩, fun running => ?_, ?_, ?_, ?_⟩
      · rw [log, LogUnit.retire_eq]
      · rw [log, foldl_append_missed, plant]
        exact Plant.hand_condition running 39 _
      · rw [plant]
        exact ⟨rfl, rfl, rfl, rfl⟩
      · rw [plant]
        exact ⟨rfl, rfl, rfl, rfl, rfl, inputs.raw, inputs.debounced, inputs.stability⟩
      · refine (finish_rest s u).trans ?_
        rw [plant]
        rfl
  case complete =>
    let written : State := { s with
      holder := .free, mem := s.mem.writeBytes (slotAddress s.windows e.seq) e.bytes
      log := { s.log with t := s.log.t + 1, queue := s.log.queue.tail } }
    have run : exec .logWriteComplete s = .next (finish s (written.handUrgent e)) := by
      refine congrArg Host.Outcome.next ?_
      unfold State.completeLogWrite
      rw [holds]
      rfl
    have handed := State.handUrgent_eq written e
    have quiet : finish s (written.handUrgent e) = { s with
        holder := .free, mem := written.mem, log := written.log, reporter := (written.handUrgent e).reporter
        deposits := (finish s (written.handUrgent e)).deposits } := by
      refine (finish_quiet (by rw [handed]; exact out) (by rw [handed])).trans ?_
      rw [handed]
    have pages := finish_pages_same s (written.handUrgent e) (by rw [handed])
    have reporter : (finish s (written.handUrgent e)).reporter =
        if e.urgent = true ∧ s.reporter.urgent.length < 8 then
          { s.reporter with urgent := insertUrgent e.seq s.reporter.urgent } else s.reporter := by
      rw [finish_reporter, handed]
    refine ⟨_, run, fun i hi => ?_, fun x outside => ?_, ?_, fun plain => ?_, fun urgent room sorted => ?_,
      fun running => ?_, ?_, pages⟩
    · rw [quiet]
      exact (Memory.read_writeBytes_inside wf _ _ i hi).trans (List.getD_eq_getElem _ _ hi).symm
    · rw [quiet]
      exact Memory.read_writeBytes_outside wf _ _ x outside
    · rw [quiet]
    · rw [reporter, if_neg]
      rintro ⟨urgent, room⟩
      rcases plain with plain | full
      · rw [plain] at urgent
        exact Bool.false_ne_true urgent
      · omega
    · rw [reporter, if_pos ⟨urgent, room⟩]
      exact ⟨insertUrgent_sorted _ _ sorted, fun x => mem_insertUrgent_iff _ _ x sorted⟩
    · refine pages.changed (by rw [quiet]; exact running) 15 (pageChanged_of_tail ?_)
      rw [quiet]
    · have urgentOnly : (written.handUrgent e).reporter =
          { s.reporter with urgent := (written.handUrgent e).reporter.urgent } := by
        rw [handed]
        dsimp only
        split <;> rfl
      refine quiet.trans ?_
      rw [show (finish s (written.handUrgent e)).mem = written.mem by rw [quiet],
        show (finish s (written.handUrgent e)).log = written.log by rw [quiet], finish_reporter, ← urgentOnly]

end Sys2Proof.Machine
end

section
/-! The seconds tick (R14, R15, R86 to R88): O12. -/

namespace Sys2Proof.Machine

/-! One volume step. -/

theorem Plant.weir_setWeir (p : Plant) (n : Fin 3) (w : Weir) : (p.setWeir n w).weir n = w := vset_get_same _ _ _

theorem Plant.weir_setWeir_ne (p : Plant) {m n : Fin 3} (other : m ≠ n) (w : Weir) :
    (p.setWeir m w).weir n = p.weir n := vset_get_ne _ _ other

/-- R86: a weir steps in OVERFLOWING and FALLING while its open record has a volume. -/
theorem Weir.steps_iff (w : Weir) : w.steps = true ↔
    (w.state = .overflowing ∨ w.state = .falling) ∧ ∃ r v, w.openRecord = some r ∧ r.volume = some v := by
  unfold Weir.steps
  rw [Bool.and_eq_true, Bool.or_eq_true, beq_iff_eq, beq_iff_eq]
  refine and_congr_right fun _ => ?_
  cases w.openRecord with
  | none => simp
  | some r => simp [Option.isSome_iff_exists]

theorem Plant.volumeStep_still {p : Plant} {n : Fin 3} (still : (p.weir n).steps = false) : p.volumeStep n = p := by
  have idle : ¬ (p.weir n).steps = true := by rw [still]; exact Bool.false_ne_true
  rw [Weir.steps_iff] at idle
  unfold Plant.volumeStep
  dsimp only
  split
  · rfl
  · rfl
  · rfl
  case h_4 r record notNormal notRising =>
    cases volume : r.volume with
    | none => rfl
    | some v =>
      refine absurd ⟨?_, r, v, record, volume⟩ idle
      cases state : (p.weir n).state with
      | normal => exact absurd state notNormal
      | rising => exact absurd state notRising
      | overflowing => exact Or.inl rfl
      | falling => exact Or.inr rfl

/-- R87, R88: the step of a weir whose level is known. -/
theorem Plant.volumeStep_flow {p : Plant} {n : Fin 3} {r : OverflowRecord} {curve : List (Nat × Nat)} {level : Nat}
    (steps : (p.weir n).steps = true) (record : (p.weir n).openRecord = some r) (known : p.curve n = some curve)
    (good : (p.weir n).channelGood = true) (reading : (p.weir n).level = some level) :
    p.volumeStep n =
      let flow := flowAt curve ((level : Int) - (p.crest n : Int))
      let litres := min ((p.weir n).litres + flow.1) 16777214999
      p.setWeir n { p.weir n with
        litres := litres
        openRecord := some { r with
          volume := some (litres / 1000), flags := { r.flags with beyondCurve := r.flags.beyondCurve || flow.2 } } } := by
  obtain ⟨state, r', v, record', volume⟩ := (Weir.steps_iff _).mp steps
  obtain rfl : r = r' := Option.some.inj (record.symm.trans record')
  unfold Plant.volumeStep
  dsimp only
  rcases state with state | state
  all_goals rw [state, record]; dsimp only; rw [volume]; dsimp only; rw [known, good, reading]; rfl

/-- R86: without a curve or with its channel in FAULT a stepping weir loses the volume of its record. -/
theorem Plant.volumeStep_lost {p : Plant} {n : Fin 3} {r : OverflowRecord} (steps : (p.weir n).steps = true)
    (record : (p.weir n).openRecord = some r) (unknown : p.curve n = none ∨ (p.weir n).channelGood = false ∨ (p.weir n).level = none) :
    p.volumeStep n = p.setWeir n { p.weir n with openRecord := some { r with volume := none } } := by
  obtain ⟨state, r', v, record', volume⟩ := (Weir.steps_iff _).mp steps
  obtain rfl : r = r' := Option.some.inj (record.symm.trans record')
  unfold Plant.volumeStep
  dsimp only
  rcases state with state | state <;> rcases unknown with unknown | unknown | unknown
  all_goals rw [state, record]; dsimp only; rw [volume]; dsimp only; rw [unknown]
  case inl.inr.inl | inr.inr.inl => cases p.curve n <;> rfl
  case inl.inr.inr | inr.inr.inr => cases p.curve n <;> cases (p.weir n).channelGood <;> rfl

/-! The volume steps and the tick of the plant. -/

theorem Plant.volumeStep_other (p : Plant) {m n : Fin 3} (other : m ≠ n) : (p.volumeStep m).weir n = p.weir n := by
  rw [p.volumeStep_eq m, Plant.weir_setWeir_ne p other]

/-- The step of a weir looks at that weir and at the settings alone. -/
theorem Plant.volumeStep_local {p q : Plant} {n : Fin 3} {weirs : Vector Weir 3} (rest : q = { p with weirs := weirs })
    (same : q.weir n = p.weir n) : (q.volumeStep n).weir n = (p.volumeStep n).weir n := by
  have curve : q.curve n = p.curve n := by rw [rest]; rfl
  have crest : q.crest n = p.crest n := by rw [rest]; rfl
  cases steps : (p.weir n).steps with
  | false => rw [volumeStep_still steps, volumeStep_still (same.symm ▸ steps), same]
  | true =>
    obtain ⟨-, r, -, record, -⟩ := (Weir.steps_iff _).mp steps
    have lost (unknown : p.curve n = none ∨ (p.weir n).channelGood = false ∨ (p.weir n).level = none) :
        (q.volumeStep n).weir n = (p.volumeStep n).weir n := by
      rw [volumeStep_lost steps record unknown, volumeStep_lost (p := q) (by rw [same, steps]) (by rw [same, record])
        (by rw [same, curve]; exact unknown), weir_setWeir, weir_setWeir, same]
    cases known : p.curve n with
    | none => exact lost (Or.inl known)
    | some c =>
      cases good : (p.weir n).channelGood with
      | false => exact lost (Or.inr (Or.inl good))
      | true =>
        cases reading : (p.weir n).level with
        | none => exact lost (Or.inr (Or.inr reading))
        | some level =>
          rw [volumeStep_flow steps record known good reading, volumeStep_flow (p := q) (by rw [same, steps])
            (by rw [same, record]) (by rw [curve, known]) (by rw [same, good]) (by rw [same, reading])]
          dsimp only
          rw [weir_setWeir, weir_setWeir, same, crest]

/-- R86: a step moves the litres and the record of its weir alone. -/
theorem Plant.volumeStep_rest (p : Plant) (n : Fin 3) : (p.volumeStep n).weir n = { p.weir n with
    litres := ((p.volumeStep n).weir n).litres, openRecord := ((p.volumeStep n).weir n).openRecord } := by
  cases steps : (p.weir n).steps with
  | false => rw [volumeStep_still steps]
  | true =>
    obtain ⟨-, r, -, record, -⟩ := (Weir.steps_iff _).mp steps
    have lost (unknown : p.curve n = none ∨ (p.weir n).channelGood = false ∨ (p.weir n).level = none) :
        (p.volumeStep n).weir n = { p.weir n with
          litres := ((p.volumeStep n).weir n).litres, openRecord := ((p.volumeStep n).weir n).openRecord } := by
      rw [volumeStep_lost steps record unknown, weir_setWeir]
    cases known : p.curve n with
    | none => exact lost (Or.inl known)
    | some c =>
      cases good : (p.weir n).channelGood with
      | false => exact lost (Or.inr (Or.inl good))
      | true =>
        cases reading : (p.weir n).level with
        | none => exact lost (Or.inr (Or.inr reading))
        | some level =>
          rw [volumeStep_flow steps record known good reading]
          dsimp only
          rw [weir_setWeir, good, reading]

/-- R86: each weir steps as if it stepped alone. -/
theorem volumeSteps_weir (p : Plant) (n : Fin 3) :
    (allWeirs.foldl (fun q n => q.volumeStep n) p).weir n = (p.volumeStep n).weir n := by
  have moves (q : Plant) (m : Fin 3) : ∃ weirs, q.volumeStep m = { q with weirs := weirs } := ⟨_, q.volumeStep_eq m⟩
  obtain ⟨_, first⟩ := moves p 0
  obtain ⟨_, second⟩ := moves (p.volumeStep 0) 1
  show (((p.volumeStep 0).volumeStep 1).volumeStep 2).weir n = _
  fin_cases n
  · exact (Plant.volumeStep_other _ (by decide)).trans (Plant.volumeStep_other _ (by decide))
  · exact (Plant.volumeStep_other _ (by decide)).trans
      (Plant.volumeStep_local first (Plant.volumeStep_other _ (by decide)))
  · exact Plant.volumeStep_local (second.trans (by rw [first]))
      ((Plant.volumeStep_other _ (by decide)).trans (Plant.volumeStep_other _ (by decide)))

/-- R14: what a seconds tick makes of the plant. -/
theorem Plant.secondsTick_fields (p : Plant) : p.secondsTick = { p with
    clock := p.clock.tick
    mode := { p.mode with freshTimer := p.mode.freshTimer.tick }
    pumps := p.pumps.map Pump.tick
    stagger := p.stagger.tick
    rakes := p.rakes.map Rake.tick
    weirs := (allWeirs.foldl (fun q n => q.volumeStep n) p).weirs.map Weir.tick } := by
  unfold Plant.secondsTick
  dsimp only
  rw [volumeSteps_rest]

theorem Plant.secondsTick_pump (p : Plant) (n : Fin 6) : p.secondsTick.pump n = (p.pump n).tick := by
  rw [secondsTick_fields]
  exact Vector.get_map _ _ _

theorem Plant.secondsTick_rake (p : Plant) (n : Fin 2) : p.secondsTick.rake n = (p.rake n).tick := by
  rw [secondsTick_fields]
  exact Vector.get_map _ _ _

theorem Plant.secondsTick_weir (p : Plant) (n : Fin 3) : p.secondsTick.weir n = ((p.volumeStep n).weir n).tick := by
  rw [secondsTick_fields, ← volumeSteps_weir]
  exact Vector.get_map _ _ _

/-! The marks of a seconds tick. -/

/-- The mark of one weir that steps at a tick. -/
def State.markStepped (before t : State) (n : Fin 3) : State :=
  if (before.plant.weir n).steps then markPage t (weirPageNumber n) else t

theorem markTick_steps (before s : State) : State.markTick before s =
    before.markStepped (before.markStepped (before.markStepped (markPage s 0) 0) 1) 2 := rfl

/-- Pages marked: no generation count, scan position or mark is taken away, and nothing else moves. -/
def State.MarksOnly (s t : State) : Prop :=
  t = { s with deposits := { s.deposits with dirty := t.deposits.dirty } } ∧
    ∀ i, s.deposits.dirty.get i = true → t.deposits.dirty.get i = true

theorem State.MarksOnly.refl (s : State) : s.MarksOnly s := ⟨rfl, fun _ dirty => dirty⟩

theorem State.MarksOnly.trans {s t u : State} (first : s.MarksOnly t) (second : t.MarksOnly u) : s.MarksOnly u := by
  obtain ⟨same, kept⟩ := first
  obtain ⟨same', kept'⟩ := second
  exact ⟨same'.trans (by rw [same]), fun i dirty => kept' i (kept i dirty)⟩

theorem markPage_marksOnly (s : State) (i : Fin 16) : s.MarksOnly (markPage s i) := by
  refine ⟨?_, (markPage_deposits s i).2.2⟩
  unfold markPage
  split <;> rfl

theorem markStepped_marksOnly (before t : State) (n : Fin 3) : t.MarksOnly (before.markStepped t n) := by
  unfold State.markStepped
  split
  · exact markPage_marksOnly t _
  · exact .refl t

theorem markStepped_dirty {before t : State} {n : Fin 3} (running : t.plant.loading = false)
    (steps : (before.plant.weir n).steps = true) :
    (before.markStepped t n).deposits.dirty.get (weirPageNumber n) = true := by
  unfold State.markStepped
  rw [if_pos steps]
  exact markPage_dirty running _

theorem State.MarksOnly.plant {s t : State} (marked : s.MarksOnly t) : t.plant = s.plant := by rw [marked.1]

/-- R15, R86: a seconds tick marks page 0 and the pages of the weirs that step. -/
theorem markTick_marks (before s : State) : s.MarksOnly (State.markTick before s) ∧
    (s.plant.loading = false → (State.markTick before s).deposits.dirty.get 0 = true ∧
      ∀ n, (before.plant.weir n).steps = true →
        (State.markTick before s).deposits.dirty.get (weirPageNumber n) = true) := by
  rw [markTick_steps]
  have first := markPage_marksOnly s 0
  have step0 := markStepped_marksOnly before (markPage s 0) 0
  have step1 := markStepped_marksOnly before (before.markStepped (markPage s 0) 0) 1
  have step2 := markStepped_marksOnly before (before.markStepped (before.markStepped (markPage s 0) 0) 1) 2
  refine ⟨first.trans (step0.trans (step1.trans step2)), fun running => ⟨?_, fun n steps => ?_⟩⟩
  · exact (step0.trans (step1.trans step2)).2 0 (markPage_dirty running 0)
  · have at0 : (markPage s 0).plant.loading = false := by rw [first.plant]; exact running
    have at1 : (before.markStepped (markPage s 0) 0).plant.loading = false := by rw [step0.plant]; exact at0
    have at2 : (before.markStepped (before.markStepped (markPage s 0) 0) 1).plant.loading = false := by
      rw [step1.plant]; exact at1
    fin_cases n
    · exact (step1.trans step2).2 _ (markStepped_dirty at0 steps)
    · exact step2.2 _ (markStepped_dirty at1 steps)
    · exact markStepped_dirty at2 steps

/-- Settles O12: the tick of the plant by `Plant.secondsTick_fields`, the volume steps by the cases of
`Plant.volumeStep`, the marks by `markTick_marks`. -/
theorem secondsTickCountsTimeAndVolume : Obligations.SecondsTickCountsTimeAndVolume := by
  intro s
  obtain ⟨⟨rest, kept⟩, marked⟩ := markTick_marks s
    { s with plant := s.plant.secondsTick, settings := s.settings.tick, reporter := s.reporter.tick }
  have plant : s.secondsTick.plant = s.plant.secondsTick := by unfold State.secondsTick; rw [rest]
  have settings : s.secondsTick.settings = s.settings.tick := by unfold State.secondsTick; rw [rest]
  have reporter : s.secondsTick.reporter = s.reporter.tick := by unfold State.secondsTick; rw [rest]
  have fields := s.plant.secondsTick_fields
  refine ⟨s.secondsTick, rfl, ?_, ?_, ?_, fun n => ?_, fun n => ?_, fun n => ?_, fun n still => ?_,
    fun n r curve level steps record known good reading => ?_, fun n r steps record unknown => ?_, fun x txn => ?_,
    fun txn => ?_, ?_, ?_, fun c cycle => ?_, fun running => marked ?_, kept, ?_⟩
  · rw [plant, fields]; rfl
  · rw [plant, fields]
  · rw [plant, fields]
  · rw [plant]; exact s.plant.secondsTick_pump n
  · rw [plant]; exact s.plant.secondsTick_rake n
  · rw [plant, s.plant.secondsTick_weir]
    exact congrArg Weir.tick (s.plant.volumeStep_rest n)
  · rw [plant, s.plant.secondsTick_weir, Plant.volumeStep_still still]
    exact ⟨rfl, rfl⟩
  · rw [plant, s.plant.secondsTick_weir, Plant.volumeStep_flow steps record known good reading]
    dsimp only
    rw [Plant.weir_setWeir]
    exact ⟨rfl, rfl⟩
  · rw [plant, s.plant.secondsTick_weir, Plant.volumeStep_lost steps record (unknown.imp_right Or.inl),
      Plant.weir_setWeir]
    exact ⟨rfl, rfl⟩
  · rw [settings, SettingsUnit.tick, txn]; rfl
  · have same : s.settings.txn.map Transaction.tick = s.settings.txn := by rw [txn]; rfl
    rw [settings, SettingsUnit.tick, same]
  · rw [reporter]; rfl
  · rw [reporter]; rfl
  · rw [reporter, Reporter.tick, cycle]; rfl
  · show s.plant.secondsTick.loading = false
    rw [fields]
    exact running
  · have plantRest : s.plant.secondsTick = { s.plant with
        clock := s.plant.secondsTick.clock, mode := s.plant.secondsTick.mode, pumps := s.plant.secondsTick.pumps
        stagger := s.plant.secondsTick.stagger, rakes := s.plant.secondsTick.rakes
        weirs := s.plant.secondsTick.weirs } := by
      rw [fields]
    rw [plant, settings, reporter, ← plantRest]
    exact rest

end Sys2Proof.Machine
end

section
/-! Contact samples (R2), the scan's exchanges (R6) and the clock-set words (R16): O13, O19 and O22. -/

namespace Sys2Proof.Machine

/-- A command whose act hands no entry and marks no page: the act is all that happens to the plant, and nothing is
logged. -/
theorem finish_onPlant_silent {s : State} (out : s.plant.out = []) {act : Plant → Plant}
    (silent : act s.plant = { act s.plant with out := s.plant.out, marks := s.plant.marks }) :
    s.PlantStep (finish s (s.onPlant act)) [] ∧ (finish s (s.onPlant act)).log = s.log ∧
      (finish s (s.onPlant act)).plant = act s.plant := by
  have handed : (act s.plant).out = [] := by rw [silent]; exact out
  refine ⟨finish_onPlant_step s act ⟨[], handed⟩, ?_, ?_⟩
  · rw [finish_onPlant_log, handed, List.foldl_nil]
  · rw [finish_onPlant_plant, silent]
    simp only [← out]

/-! Contact samples. -/

/-- Settles O13: the sample is `Plant.sampleContact`, debouncing except in LOAD stage 1. -/
theorem rawContactSampleStartsStabilityTimer : Obligations.RawContactSampleStartsStabilityTimer := by
  intro s l c out
  refine ⟨fun noInput => ?other, fun input => ?input⟩
  case other => exact congrArg Host.Outcome.next (if_neg (by rw [noInput]; exact Bool.false_ne_true))
  case input =>
    obtain ⟨debouncing, stage1, elsewhere, run⟩ : ∃ debouncing : Bool,
        (∀ panel, s.load = .stage1 panel → debouncing = false) ∧
        ((∀ panel, s.load ≠ .stage1 panel) → debouncing = true) ∧
        exec (.rawContactChange l c) s =
          .next (finish s (s.onPlant (fun p => p.sampleContact l c debouncing))) := by
      cases load : s.load with
      | stage1 panel =>
        refine ⟨false, fun _ _ => rfl, fun other => absurd rfl (other panel), ?_⟩
        exact (congrArg Host.Outcome.next (if_pos input)).trans (by simp only [load])
      | stage2 panel =>
        refine ⟨true, fun _ => nofun, fun _ => rfl, ?_⟩
        exact (congrArg Host.Outcome.next (if_pos input)).trans (by simp only [load])
      | none =>
        refine ⟨true, fun _ => nofun, fun _ => rfl, ?_⟩
        exact (congrArg Host.Outcome.next (if_pos input)).trans (by simp only [load])
    obtain ⟨step, log, plant⟩ :=
      finish_onPlant_silent out (act := fun p => p.sampleContact l c debouncing) rfl
    refine ⟨_, run, ?_, fun m other => ⟨?_, ?_⟩, fun panel load => ?_, fun load => ?_, ?_, log, step⟩
    all_goals rw [plant]
    · exact vset_get_same _ _ _
    · exact vset_get_ne _ _ other.symm
    · cases debouncing with
      | true => exact vset_get_ne _ _ other.symm
      | false => rfl
    · rw [stage1 panel load]
      rfl
    · rw [elsewhere load]
      exact vset_get_same _ _ _
    · rfl

/-! The exchanges of a scan. -/

/-- 12.7: the select word is the channel. -/
theorem Scan.select_word {x : Scan} (few : x.channel < 8) : x.select = BitVec.ofNat 16 x.channel := by
  unfold Scan.select packWord
  simp only [List.map_cons, List.map_nil, List.sum_cons, List.sum_nil]
  rw [Nat.mod_eq_of_lt (show x.channel < 2 ^ 3 from few)]
  simp

theorem Scan.select_channel {x : Scan} (few : x.codes.length < 8) :
    (x.select.extractLsb' 0 3).toNat = x.codes.length ∧ x.select.extractLsb' 3 13 = 0 := by
  have channel : x.select.toNat = x.codes.length := by
    rw [Scan.select_word few, BitVec.toNat_ofNat]
    exact Nat.mod_eq_of_lt (lt_trans few (by decide))
  constructor
  · rw [BitVec.extractLsb'_toNat, channel, Nat.shiftRight_zero]
    exact Nat.mod_eq_of_lt few
  · apply BitVec.eq_of_toNat_eq
    rw [BitVec.extractLsb'_toNat, channel, Nat.shiftRight_eq_div_pow, Nat.div_eq_of_lt few]
    rfl

/-- Settles O19: the period is `Plant.scanPeriod`; a reply is `Plant.takeReply`. -/
theorem scanCollectsRepliesInOrder : Obligations.ScanCollectsRepliesInOrder := by
  intro s out
  refine ⟨fun idle => ?idle, fun x scan few => ?select, fun due => ?start, fun reply => ?reply⟩
  case idle => exact congrArg (Option.map Scan.select) idle
  case select => exact ⟨x.select, congrArg (Option.map Scan.select) scan, Scan.select_channel few⟩
  case start =>
    have periodDue : s.plant.levels.period.due = true := by rw [due]; rfl
    have moved : Plant.scanPeriod s.plant = { s.plant with levels := { s.plant.levels with
        period := .running 10, scan := some (s.plant.levels.scan.getD { codes := [], timer := .running 2 }) } } := by
      unfold Plant.scanPeriod
      cases scan : s.plant.levels.scan with
      | none => rfl
      | some x =>
        refine (if_pos rfl).trans ?_
        simp only [scan, Option.getD_some]
        rfl
    obtain ⟨step, log, plant⟩ := finish_onPlant_silent out (act := Plant.scanPeriod) (by rw [moved])
    refine ⟨_, congrArg Host.Outcome.next (if_pos periodDue), step, log, ?_, fun idle => ?_⟩
    · rw [plant, moved]
      cases s.plant.levels.scan <;> rfl
    · rw [plant, moved, idle]
      rfl
  case reply =>
    refine ⟨_, rfl, fun idle => ?_, fun x scan few valid echo => ?_⟩
    · have same : s.plant.takeReply reply = s.plant := by
        unfold Plant.takeReply
        rw [idle]
      obtain ⟨step, log, plant⟩ := finish_onPlant_silent out (act := fun p => p.takeReply reply) (by rw [same])
      exact ⟨step, log, plant.trans same⟩
    · have taken : s.plant.takeReply reply = { s.plant with levels := { s.plant.levels with
          scan := some { codes := x.codes ++ [(reply.extractLsb' 0 12).toNat], timer := .running 2 } } } := by
        have good : replyGood reply x.channel = true := by
          rw [replyGood, valid, Bool.true_and, beq_iff_eq]
          exact echo
        have unfinished : ¬ (x.codes ++ [replyCode reply]).length = 8 := by
          rw [List.length_append, List.length_singleton]
          omega
        unfold Plant.takeReply
        rw [scan]
        dsimp only
        rw [if_pos good, if_neg unfinished]
        rfl
      obtain ⟨step, log, plant⟩ := finish_onPlant_silent out (act := fun p => p.takeReply reply) (by rw [taken])
      refine ⟨step, log, plant.trans taken, ?_⟩
      rw [plant.trans taken]
      have longer : (x.codes ++ [(reply.extractLsb' 0 12).toNat]).length = x.codes.length + 1 := List.length_append
      refine congrArg some ((Scan.select_word (longer.trans_lt (by omega))).trans ?_)
      exact congrArg (BitVec.ofNat 16) longer

/-! The clock-set words. -/

/-- A judgment that absorbs the access: nothing is recorded, and what it did to the plant stands. -/
theorem access_absorbed {s u : State} {a : Access} {judge : State → State × Verdict} (taken : s.Takes a)
    (judged : judge (s.present a) = (u, .absorb)) (judging : Judging s u a) :
    s.AccessStep (s.accessStep a judge) a .absorb ∧
      (s.accessStep a judge).plant = { u.plant with out := [], marks := s.plant.marks } ∧
      (s.accessStep a judge).log = u.plant.out.foldl (fun l d => l.append u.plant.clock d) u.log ∧
      (s.accessStep a judge).settings = u.settings ∧ (s.accessStep a judge).link = u.link := by
  obtain ⟨rest, gen, scan, kept⟩ := judging
  have free : u.holder = .free := by rw [rest]; exact taken.free
  rw [accessStep_takes taken, judged]
  dsimp only
  have ending := finish_rest s (u.judged (normalAccess a) .absorb)
  refine ⟨⟨?_, ?_, ?_, finish_pages _ _ gen scan kept, finish_out _ _⟩, ?_, ?_, ?_, ?_⟩
  · rw [ending]
    exact ⟨rfl, rfl, rfl, free, rfl⟩
  · rw [ending]
    show u.refusals = s.refusals
    rw [rest]
  · rw [ending]
    unfold State.judged
    dsimp only
    rw [rest]
  · rw [finish_plant]; rfl
  · rw [finish_log]; rfl
  · rw [finish_settings]; rfl
  · rw [finish_link]; rfl

/-- A change of every weir in turn changes each weir by itself. -/
theorem foldl_setWeir_weir (g : Weir → Weir) (p : Plant) (n : Fin 3) :
    (allWeirs.foldl (fun q m => q.setWeir m (g (q.weir m))) p).weir n = g (p.weir n) := by
  show (((p.setWeir 0 _).setWeir 1 _).setWeir 2 _).weir n = _
  match n with
  | 0 =>
    rw [Plant.weir_setWeir_ne _ (by decide), Plant.weir_setWeir_ne _ (by decide), Plant.weir_setWeir]
  | 1 =>
    rw [Plant.weir_setWeir_ne _ (by decide), Plant.weir_setWeir, Plant.weir_setWeir_ne _ (by decide)]
  | 2 =>
    rw [Plant.weir_setWeir, Plant.weir_setWeir_ne _ (by decide), Plant.weir_setWeir_ne _ (by decide)]

/-- R89, R90: a flag set on the open records moves the weirs alone. -/
theorem Plant.flagRecords_rest (p : Plant) (f : RecordFlags → RecordFlags) :
    p.flagRecords f = { p with weirs := (p.flagRecords f).weirs } := rfl

theorem Plant.flagRecords_weir (p : Plant) (f : RecordFlags → RecordFlags) (n : Fin 3) :
    (p.flagRecords f).weir n = { p.weir n with
      openRecord := (p.weir n).openRecord.map (fun r => { r with flags := f r.flags }) } :=
  foldl_setWeir_weir
    (fun w => { w with openRecord := w.openRecord.map (fun r => { r with flags := f r.flags }) }) p n

/-- R15, R90: a set of station time, the staged value dropped. -/
theorem Plant.setStationTime_rest (p : Plant) (time : Time) (town : Bool) :
    (p.setStationTime time town).dropStaged = { p with
      clock := { p.clock with station := time, clockSet := true, stagedLow := none, staging := .stopped }
      weirs := (p.setStationTime time town).weirs
      out := p.out ++ [{ source := srcSystem, kind := 0x04, urgent := false
                         detail := detail4 p.clock.station.toNat ++ detail4 time.toNat ++ detail1 (bit town) }] } := rfl

theorem Plant.setStationTime_weir (p : Plant) (time : Time) (town : Bool) (n : Fin 3) :
    (p.setStationTime time town).weir n = { p.weir n with
      openRecord := (p.weir n).openRecord.map (fun r => { r with flags := { r.flags with clockChanged := true } }) } := by
  unfold Plant.setStationTime
  dsimp only
  rw [Plant.flagRecords_weir]
  rfl

/-- R90: the high word with a low word staged. -/
theorem State.clockSetHigh_staged {s : State} {low : Word} (staged : s.plant.clock.stagedLow = some low) (v : Word) :
    s.clockSetHigh v =
      (markPage (s.onPlant (fun p => (p.setStationTime (v ++ low) false).dropStaged)) 0, .absorb) := by
  unfold State.clockSetHigh
  rw [staged]

/-- Settles O22: the low word is absorbed after `Plant.stageLow`, the high word after `Plant.setStationTime`; with nothing
staged it is refused. -/
theorem clockSetPairSetsStationTime : Obligations.ClockSetPairSetsStationTime := by
  intro s v out
  refine ⟨fun taken => ?low, fun low taken staged => ?high, fun taken empty => ?refused, fun due => ?expiry⟩
  case low =>
    obtain ⟨step, plant, log, settings, link⟩ :=
      access_absorbed (judge := fun t => (t.onPlant (fun p => p.stageLow v), .absorb)) taken rfl
        ((Judging.start taken).onPlant (fun p => p.stageLow v))
    rw [State.onPlant_plant, taken.present_plant] at plant log
    refine ⟨_, rfl, step, plant.trans ?_, log.trans ?_, settings.trans taken.present_settings,
      link.trans taken.present_link⟩
    · simp only [← out]
      rfl
    · show s.plant.out.foldl _ (s.present _).log = s.log
      rw [out, taken.present_log]
      rfl
  case high =>
    let set : Plant := (s.plant.setStationTime (v ++ low) false).dropStaged
    have judged : (s.present (s.commandWrite 3 v)).clockSetHigh v =
        (markPage ((s.present (s.commandWrite 3 v)).onPlant
          (fun p => (p.setStationTime (v ++ low) false).dropStaged)) 0, .absorb) :=
      State.clockSetHigh_staged (by rw [taken.present_plant]; exact staged) v
    obtain ⟨step, plant, log, settings, link⟩ := access_absorbed (judge := fun t => t.clockSetHigh v) taken judged
      (((Judging.start taken).onPlant _).markPage 0)
    have marked : (markPage ((s.present (s.commandWrite 3 v)).onPlant
        (fun p => (p.setStationTime (v ++ low) false).dropStaged)) 0).plant = set := by
      rw [markPage_rest, State.onPlant_plant, taken.present_plant]
    have unmoved : (markPage ((s.present (s.commandWrite 3 v)).onPlant
        (fun p => (p.setStationTime (v ++ low) false).dropStaged)) 0).log = s.log := by
      rw [markPage_rest, State.onPlant_log, taken.present_log]
    rw [marked] at plant log
    rw [unmoved] at log
    have fields := s.plant.setStationTime_rest (v ++ low) false
    have rest : (s.accessStep (s.commandWrite 3 v) (fun t => t.clockSetHigh v)).plant = { s.plant with
        clock := { s.plant.clock with station := v ++ low, clockSet := true, stagedLow := none, staging := .stopped }
        weirs := (s.plant.setStationTime (v ++ low) false).weirs } := by
      rw [plant, show set = _ from fields]
      simp only [← out]
    refine ⟨_, rfl, step, ?_, fun n => ?_, ?_, ?_, fun running => accessStep_dirty taken judged (markPage_dirty ?_ 0),
      settings.trans ?_, link.trans ?_⟩
    · rw [rest]
    · rw [rest]
      exact s.plant.setStationTime_weir (v ++ low) false n
    · rw [rest]
    · rw [log, rest, show set = _ from fields, out]
      rfl
    · rw [State.onPlant_plant, taken.present_plant]
      exact running
    · rw [markPage_rest]
      exact taken.present_settings
    · rw [markPage_rest]
      exact taken.present_link
  case refused =>
    refine ⟨_, rfl, access_refused taken rfl out ?_⟩
    unfold State.clockSetHigh
    rw [taken.present_plant, empty]
  case expiry =>
    have expired : s.plant.clock.staging.due = true := by rw [due]; rfl
    exact congrArg Host.Outcome.next (if_pos expired)

end Sys2Proof.Machine
end

section
/-! The link line: characters and frames received and sent (R151 to R157, R159): O53, O54 and O55. -/

namespace Sys2Proof.Machine

/-! A frame sent is the frame received. -/

/-- A byte as a transmitter sends it: its stop bit at mark, and with its parity bit the number of ones even. -/
def sentChar (b : Byte) : LineChar where
  data := b
  stopBit := true
  underRts := false
  parityBit := (List.range 8).countP (fun i => b.getLsbD i) % 2 == 1

theorem judgeChar_sent (evenParity : Bool) (b : Byte) : judgeChar evenParity (sentChar b) = .good := by
  have parity : (oddOnes (sentChar b).data != (sentChar b).parityBit) = false := bne_self_eq_false _
  unfold judgeChar
  rw [if_neg (fun space => nomatch space.2.1), if_neg (by exact Bool.false_ne_true), parity, Bool.and_false,
    if_neg Bool.false_ne_true]

theorem receive_sent {l : Link} (mark : l.rx.inBreak = false) (b : Byte) : l.receive (sentChar b) = l.goodChar b := by
  unfold Link.receive
  rw [if_neg (by rw [mark]; exact Bool.false_ne_true), if_neg (by exact Bool.false_ne_true), judgeChar_sent]
  rfl

theorem afterLength_inBreak (l : Link) (b : Byte) : (l.afterLength b).rx.inBreak = l.rx.inBreak := by
  unfold Link.afterLength
  split <;> rfl

theorem goodFrame_rx (l : Link) (r : Receiver) : (l.goodFrame r).rx = l.rx := by
  unfold Link.goodFrame
  dsimp only
  split
  · rfl
  · split <;> rfl

/-- A good character finds no break. -/
theorem goodChar_inBreak (l : Link) (b : Byte) : (l.goodChar b).rx.inBreak = l.rx.inBreak := by
  unfold Link.goodChar
  split
  · unfold Link.huntChar
    split <;> rfl
  · unfold Link.headerChar
    dsimp only
    split
    · exact afterLength_inBreak _ b
    · rfl
  · rfl
  · unfold Link.checkChar
    split
    · rfl
    · split
      · rw [goodFrame_rx]; rfl
      · rfl

theorem foldl_receive_sent (bytes : List Byte) {l : Link} (mark : l.rx.inBreak = false) :
    (bytes.map sentChar).foldl Link.receive l = bytes.foldl Link.goodChar l := by
  induction bytes generalizing l with
  | nil => rfl
  | cons b rest ih =>
    rw [List.map_cons, List.foldl_cons, List.foldl_cons, receive_sent mark]
    exact ih ((goodChar_inBreak l b).trans mark)

theorem goodChar_payload {l : Link} (state : l.rx.state = .payload) (b : Byte) : l.goodChar b = l.payloadChar b := by
  unfold Link.goodChar
  rw [state]

theorem goodChar_check {l : Link} (state : l.rx.state = .check) (b : Byte) : l.goodChar b = l.checkChar b := by
  unfold Link.goodChar
  rw [state]

/-- The receiver after the start character and the header of a frame. -/
def Link.headerDone (l : Link) (address kind tag : Byte) (n : Nat) : Link :=
  let header := [address, kind, tag, BitVec.ofNat 8 n]
  { l with rx := { l.rx with
      state := if n = 0 then .check else .payload, crc := header.foldl crcByte 0xFFFF, header := header, payload := []
      crcHigh := none, gap := some l.gapLimit } }

theorem foldl_header {l : Link} (hunt : l.rx.state = .hunt) (address kind tag : Byte) {n : Nat} (fits : n ≤ 96) :
    [0xC3, address, kind, tag, BitVec.ofNat 8 n].foldl Link.goodChar l = l.headerDone address kind tag n := by
  have start : l.goodChar 0xC3 = { l with rx := { l.rx with
      state := .header, crc := 0xFFFF, header := [], payload := [], crcHigh := none, gap := some l.gapLimit } } := by
    unfold Link.goodChar
    rw [hunt]
    exact if_pos rfl
  have value : (BitVec.ofNat 8 n).toNat = n := by
    rw [BitVec.toNat_ofNat]
    exact Nat.mod_eq_of_lt (by omega)
  have empty : BitVec.ofNat 8 n = 0 ↔ n = 0 := by
    rw [← BitVec.toNat_inj, value]
    rfl
  rw [List.foldl_cons, start]
  let header : List Byte := [address, kind, tag, BitVec.ofNat 8 n]
  show Link.afterLength { l with rx := { l.rx with
    state := .header, crc := header.foldl crcByte 0xFFFF, header := header, payload := [], crcHigh := none
    gap := some l.gapLimit } } (BitVec.ofNat 8 n) = _
  unfold Link.afterLength Link.headerDone
  rw [value, if_neg (by omega)]
  by_cases zero : n = 0
  · rw [if_pos (empty.mpr zero), if_pos zero]
  · rw [if_neg (fun h => zero (empty.mp h)), if_neg zero]

/-- The receiver over the payload of the frame in hand. -/
theorem foldl_payload (bytes : List Byte) : ∀ {l : Link}, bytes ≠ [] → l.rx.state = .payload →
    l.rx.payload.length + bytes.length = l.rx.length →
    bytes.foldl Link.goodChar l = { l with rx := { l.rx with
      state := .check, payload := l.rx.payload ++ bytes, crc := bytes.foldl crcByte l.rx.crc
      gap := some l.gapLimit } } := by
  induction bytes with
  | nil => intro l some; exact absurd rfl some
  | cons b rest ih =>
    intro l _ state whole
    rw [List.length_cons] at whole
    have longer : (l.rx.payload ++ [b]).length = l.rx.payload.length + 1 := List.length_append
    rw [List.foldl_cons, goodChar_payload state, List.foldl_cons]
    unfold Link.payloadChar
    dsimp only
    cases rest with
    | nil =>
      rw [List.length_nil] at whole
      rw [if_pos (by omega)]
      rfl
    | cons c more =>
      rw [List.length_cons] at whole
      rw [if_neg (by omega)]
      refine (ih (List.cons_ne_nil c more) rfl ?_).trans ?_
      · show (l.rx.payload ++ [b]).length + (c :: more).length = l.rx.length
        rw [longer, List.length_cons]
        omega
      · simp only [List.append_assoc, List.singleton_append]
        rfl

/-- The receiver over the payload that the header announces, none perhaps. -/
theorem foldl_covered (l : Link) (address kind tag : Byte) {bytes : List Byte} (fits : bytes.length ≤ 96) :
    bytes.foldl Link.goodChar (l.headerDone address kind tag bytes.length) = { l with rx := { l.rx with
      state := .check, crc := ([address, kind, tag, BitVec.ofNat 8 bytes.length] ++ bytes).foldl crcByte 0xFFFF
      header := [address, kind, tag, BitVec.ofNat 8 bytes.length], payload := bytes, crcHigh := none
      gap := some l.gapLimit } } := by
  cases bytes with
  | nil => rfl
  | cons b rest =>
    rw [foldl_payload (b :: rest) (List.cons_ne_nil b rest) rfl ?_]
    · rfl
    · show 0 + (b :: rest).length = (BitVec.ofNat 8 (b :: rest).length).toNat
      rw [BitVec.toNat_ofNat, Nat.mod_eq_of_lt (by omega), Nat.zero_add]

/-- The two bytes of the CRC end the frame. -/
theorem foldl_check {l : Link} (state : l.rx.state = .check) (noHigh : l.rx.crcHigh = none) :
    [l.rx.crc.extractLsb' 8 8, l.rx.crc.extractLsb' 0 8].foldl Link.goodChar l =
      Link.goodFrame { l with rx := { l.rx with
        state := .hunt, header := [], payload := [], crcHigh := none, gap := none } }
        { l.rx with crcHigh := some (l.rx.crc.extractLsb' 8 8), gap := some l.gapLimit } := by
  have high : l.goodChar (l.rx.crc.extractLsb' 8 8) = { l with rx := { l.rx with
      crcHigh := some (l.rx.crc.extractLsb' 8 8), gap := some l.gapLimit } } := by
    rw [goodChar_check state]
    unfold Link.checkChar
    rw [noHigh]
  rw [List.foldl_cons, high, List.foldl_cons, List.foldl_nil, goodChar_check (by exact state)]
  exact if_pos (wordBytes_join l.rx.crc)

/-- R153: the characters of a frame take a receiver in HUNT to the judgment of that frame. -/
theorem foldl_characters {l : Link} (hunt : l.rx.state = .hunt) {f : TxFrame} (fits : f.payload.length ≤ 96) :
    ∃ rx r : Receiver, rx.state = .hunt ∧ r.header = [f.address, f.kind, f.tag, BitVec.ofNat 8 f.payload.length] ∧
      r.payload = f.payload ∧ f.characters.foldl Link.goodChar l = Link.goodFrame { l with rx := rx } r := by
  let header : List Byte := [f.address, f.kind, f.tag, BitVec.ofNat 8 f.payload.length]
  let crc := (header ++ f.payload).foldl crcByte 0xFFFF
  have covered := foldl_covered l f.address f.kind f.tag fits
  have parts : f.characters = [0xC3, f.address, f.kind, f.tag, BitVec.ofNat 8 f.payload.length] ++
      (f.payload ++ [crc.extractLsb' 8 8, crc.extractLsb' 0 8]) := by
    unfold TxFrame.characters
    dsimp only
    rw [List.append_assoc, List.append_assoc]
    rfl
  rw [parts, List.foldl_append, foldl_header hunt _ _ _ fits, List.foldl_append, covered]
  exact ⟨_, _, rfl, rfl, rfl, foldl_check rfl rfl⟩

theorem goodFrame_own {l : Link} {r : Receiver} (own : r.header.getD 0 0 = l.stationAddress) :
    l.goodFrame r = { l with
      inbox := l.inbox ++ [{ broadcast := false, kind := r.header.getD 1 0, tag := r.header.getD 2 0, payload := r.payload }]
      counts := { l.counts with good := bump l.counts.good } } := if_pos own

theorem goodFrame_broadcast {l : Link} {r : Receiver} (other : r.header.getD 0 0 ≠ l.stationAddress)
    (all : r.header.getD 0 0 = 0) :
    l.goodFrame r = { l with
      inbox := l.inbox ++ [{ broadcast := true, kind := r.header.getD 1 0, tag := r.header.getD 2 0, payload := r.payload }]
      counts := { l.counts with good := bump l.counts.good } } := (if_neg other).trans (if_pos all)

theorem goodFrame_foreign {l : Link} {r : Receiver} (other : r.header.getD 0 0 ≠ l.stationAddress)
    (one : r.header.getD 0 0 ≠ 0) :
    l.goodFrame r = { l with counts := { l.counts with foreign := bump l.counts.foreign } } :=
  (if_neg other).trans (if_neg one)

theorem characterBits_eq (evenParity : Bool) (b : Byte) : characterBits evenParity b =
    let data := (List.range 8).map (fun i => b.getLsbD i)
    [false] ++ data ++ (if evenParity then [data.count true % 2 == 1] else []) ++ [true] := by
  have ones : ((List.range 8).map (fun i => b.getLsbD i)).count true = (List.range 8).countP (fun i => b.getLsbD i) := by
    rw [List.count, List.countP_map]
    exact List.countP_congr fun i _ => by simp
  dsimp only
  rw [ones]
  rfl

/-- Settles O54: the bits of LTXD are those of the characters; the characters received are `foldl_characters`, the frame
judged by its address. -/
theorem frameSentIsTheFrameReceived : Obligations.FrameSentIsTheFrameReceived := by
  refine ⟨fun l other => ?silent, fun l f sending => ?bits, fun l f hunt mark fits => ?received⟩
  case silent =>
    unfold Link.ltxd
    split
    case h_1 f sending => exact absurd sending (other f)
    all_goals rfl
  case bits =>
    have sends : l.ltxd = f.lineBits l.evenParity := by
      unfold Link.ltxd
      rw [sending]
    rw [sends, TxFrame.lineBits, funext (characterBits_eq l.evenParity)]
    rfl
  case received =>
    intro received frame
    obtain ⟨rx, r, rxHunt, header, payload, run⟩ := foldl_characters hunt fits
    have arrives : received = Link.goodFrame { l with rx := rx } r := by
      refine Eq.trans ?_ run
      exact foldl_receive_sent f.characters mark
    have address : r.header.getD 0 0 = f.address := by rw [header]; rfl
    have kind : r.header.getD 1 0 = f.kind := by rw [header]; rfl
    have tag : r.header.getD 2 0 = f.tag := by rw [header]; rfl
    rw [arrives]
    refine ⟨?_, fun own => ?_, fun other all => ?_, fun other one => ?_⟩
    · rw [goodFrame_rx]
      exact rxHunt
    · rw [goodFrame_own (l := { l with rx := rx }) (address.trans own), kind, tag, payload]
      exact ⟨rfl, rfl⟩
    · rw [goodFrame_broadcast (l := { l with rx := rx }) (fun own => other (address.symm.trans own)) (address.trans all), kind, tag, payload]
      exact ⟨rfl, rfl⟩
    · rw [goodFrame_foreign (l := { l with rx := rx }) (fun own => other (address.symm.trans own)) (fun all => one (address.symm.trans all))]
      exact ⟨rfl, rfl⟩

/-! The transmitter. -/

/-- An event that has put a link line with its transmitter in hand: nothing is settled, and pages are marked. -/
theorem linkEvent_inHand {s : State} (running : s.load = .none) (out : s.plant.out = []) {l : Link}
    (busy : l.tx.isIdle = false) {act : State → State} (acts : act s = s.setLink l) :
    s.Pages (s.linkEvent true act) ∧
      s.linkEvent true act = { s with deposits := (s.linkEvent true act).deposits, link := l } := by
  rw [linkEvent_runs running, acts, settle_busy (s := s.setLink l) busy]
  exact ⟨finish_pages_same _ _ rfl, finish_samePlant rfl out⟩

/-- Settles O55: over a line in hand nothing is settled (`linkEvent_inHand`). -/
theorem transmitterKeysUpOverAQuietReceiver : Obligations.TransmitterKeysUpOverAQuietReceiver := by
  intro s out
  refine ⟨fun running => ⟨fun f pending => ?keyUp, fun f keying => ?expiry⟩,
    fun active => ⟨fun running => ?sample, fun loading => ?inLoad⟩⟩
  case keyUp =>
    have busy : s.link.keyUp.tx.isIdle = false := keyUp_busy (by rw [pending]; exact nofun)
    obtain ⟨pages, moved⟩ := linkEvent_inHand running out busy (act := fun t => t.setLink t.link.keyUp) rfl
    refine ⟨_, rfl, pages, moved.trans ?_⟩
    rw [keyUp_rest, keyUp_pending pending]
  case expiry =>
    have due : s.link.tx.keyDue = true := by rw [keying]; rfl
    have sends : s.link.tx.startSending = .sending f := by rw [keying]; rfl
    obtain ⟨pages, moved⟩ := linkEvent_inHand running out (l := { s.link with tx := .sending f }) rfl
      (act := fun t => t.setLink { t.link with tx := t.link.tx.startSending }) (by rw [sends])
    refine ⟨_, ?_, pages, moved⟩
    show Host.Outcome.next (s.linkEvent s.link.tx.keyDue _) = _
    rw [due]
  case sample =>
    obtain ⟨step, rx, counts, inbox, ldcd⟩ := linkEvent_link (s := { s with ldcdPin := active }) running out
      { s.link with ldcd := active } (fun t => t.setLink { t.link with ldcd := active }) rfl
    exact ⟨({ s with ldcdPin := active } : State).linkEvent true (fun t => t.setLink { t.link with ldcd := active }), rfl,
      step, ldcd, rx, counts, inbox⟩
  case inLoad => exact congrArg Host.Outcome.next (linkEvent_none (s := { s with ldcdPin := active }) loading _ _)

/-! The receiver. -/

theorem receive_inBreak {l : Link} (inBreak : l.rx.inBreak = true) (c : LineChar) : l.receive c = l := if_pos inBreak

theorem receive_underRts {l : Link} (mark : l.rx.inBreak = false) {c : LineChar} (under : c.underRts = true) :
    l.receive c = { l with counts := { l.counts with discarded := bump l.counts.discarded } } := by
  unfold Link.receive
  rw [if_neg (by rw [mark]; exact Bool.false_ne_true), if_pos under]
  rfl

/-- R152: a character that counts is judged. -/
theorem receive_bad {l : Link} (mark : l.rx.inBreak = false) {c : LineChar} (clear : c.underRts = false) {j : Judgment}
    (judged : judgeChar l.evenParity c = j) (bad : j ≠ .good) : l.receive c = l.badChar j := by
  unfold Link.receive
  rw [if_neg (by rw [mark]; exact Bool.false_ne_true), if_neg (by rw [clear]; exact Bool.false_ne_true), judged]
  cases j with
  | good => exact absurd rfl bad
  | breakLine => rfl
  | framing => rfl
  | parity => rfl

theorem receive_good {l : Link} (mark : l.rx.inBreak = false) {c : LineChar} (clear : c.underRts = false)
    (judged : judgeChar l.evenParity c = .good) : l.receive c = l.goodChar c.data := by
  unfold Link.receive
  rw [if_neg (by rw [mark]; exact Bool.false_ne_true), if_neg (by rw [clear]; exact Bool.false_ne_true), judged]

/-- R152: with parity EVEN a character is wrong when its ones, the parity bit among them, are odd. -/
theorem parity_wrong_iff (evenParity : Bool) (c : LineChar) :
    (evenParity && (oddOnes c.data != c.parityBit)) = true ↔
      evenParity = true ∧ ((List.range 8).countP (fun i => c.data.getLsbD i) + (if c.parityBit then 1 else 0)) % 2 = 1 := by
  rw [Bool.and_eq_true, bne_iff_ne, oddOnes]
  refine and_congr_right fun _ => ?_
  generalize (List.range 8).countP (fun i => c.data.getLsbD i) = n
  rcases Nat.mod_two_eq_zero_or_one n with even | odd <;> cases c.parityBit <;> simp <;> omega

theorem judgeChar_eq (evenParity : Bool) (c : LineChar) : judgeChar evenParity c =
    if c.data = 0 ∧ c.stopBit = false ∧ (evenParity = true → c.parityBit = false) then .breakLine
    else if c.stopBit = false then .framing
    else if evenParity = true ∧
        ((List.range 8).countP (fun i => c.data.getLsbD i) + (if c.parityBit then 1 else 0)) % 2 = 1 then .parity
    else .good := by
  unfold judgeChar
  simp only [parity_wrong_iff, Bool.not_eq_true']

theorem badChar_hunt {l : Link} (hunt : l.rx.state = .hunt) (j : Judgment) : l.badChar j = { l with
    rx := { l.rx with inBreak := j == .breakLine }, counts := { l.counts with noise := bump l.counts.noise } } := by
  unfold Link.badChar
  rw [if_pos hunt]
  rfl

theorem badChar_frame {l : Link} (inFrame : l.rx.state ≠ .hunt) (j : Judgment) : l.badChar j = { l with
    rx := { l.rx.toHunt with inBreak := j == .breakLine }, counts := l.counts.lineError j } := by
  unfold Link.badChar
  rw [if_neg inFrame]
  rfl

theorem goodChar_hunt {l : Link} (hunt : l.rx.state = .hunt) (b : Byte) : l.goodChar b = l.huntChar b := by
  unfold Link.goodChar
  rw [hunt]

theorem goodChar_header {l : Link} (state : l.rx.state = .header) (b : Byte) : l.goodChar b = l.headerChar b := by
  unfold Link.goodChar
  rw [state]

/-- An event that puts another link line: what the receiver, the counts and the inbox come to. -/
theorem linkEvent_receives {s : State} (running : s.load = .none) (out : s.plant.out = []) {c : Instr} {m : Link}
    {act : State → State} (acts : act s = s.setLink m) (run : exec c s = .next (s.linkEvent true act))
    {rx : Receiver → Prop} {counts : LinkCounts} {inbox : List TownFrame} (receiver : rx m.rx)
    (counted : m.counts = counts) (received : m.inbox = s.link.inbox ++ inbox) :
    ∃ t, exec c s = .next t ∧ s.LinkStep t ∧ rx t.link.rx ∧ t.link.counts = counts ∧
      t.link.inbox = s.link.inbox ++ inbox := by
  obtain ⟨step, rx_eq, counts_eq, inbox_eq, -⟩ := linkEvent_link running out m act acts
  exact ⟨_, run, step, by rw [rx_eq]; exact receiver, counts_eq.trans counted, inbox_eq.trans received⟩

/-- Settles O53: each character by `judgeChar_eq` and the state of the receiver, each event by `linkEvent_receives`. -/
theorem receiverTakesCharactersByState : Obligations.ReceiverTakesCharactersByState := by
  intro s out l limit hunting after
  refine ⟨fun loading c => congrArg Host.Outcome.next (linkEvent_none loading _ _), fun running => ?_⟩
  have receives {c : LineChar} {m : Link} (receive : l.receive c = m) (rx : Receiver → Prop) {counts : LinkCounts}
      {inbox : List TownFrame} (receiver : rx m.rx) (counted : m.counts = counts)
      (received : m.inbox = l.inbox ++ inbox) : after (.characterReceived c) rx counts inbox :=
    linkEvent_receives running out (act := fun t => t.setLink (t.link.receive c)) (congrArg s.setLink receive) rfl
      receiver counted received
  have toHunt (r : Receiver) : hunting r.toHunt := ⟨rfl, rfl, rfl, rfl, rfl⟩
  refine ⟨?mark, fun gap => ?gap, ?chars⟩
  case mark =>
    exact linkEvent_receives running out (c := .lineReturnsToMark) (m := { l with rx := { l.rx with inBreak := false } })
      (act := fun t => t.setLink { t.link with rx := { t.link.rx with inBreak := false } })
      (rx := (· = { l.rx with inBreak := false })) rfl rfl rfl rfl (List.append_nil _).symm
  case gap =>
    have run : exec .gapTimerExpiry s = .next (s.linkEvent true (fun t => t.setLink t.link.gapExpired)) := by
      show Host.Outcome.next (s.linkEvent s.link.rx.gap.isSome _) = _
      rw [Option.isSome_iff_ne_none.mpr gap]
    exact linkEvent_receives running out (m := l.gapExpired) (rx := fun r => hunting r ∧ r.inBreak = l.rx.inBreak) rfl run
      ⟨toHunt _, rfl⟩ rfl (List.append_nil _).symm
  intro c ones space wrong
  have judged : judgeChar l.evenParity c =
      if space then .breakLine else if c.stopBit = false then .framing else if wrong then .parity else .good :=
    judgeChar_eq l.evenParity c
  refine ⟨fun inBreak => ?inBreak, fun mark under => ?under, fun mark clear bad => ?bad,
    fun mark clear stop right => ?good⟩
  case inBreak => exact receives (receive_inBreak inBreak c) (· = l.rx) rfl rfl (List.append_nil _).symm
  case under => exact receives (receive_underRts mark under) (· = l.rx) rfl rfl (List.append_nil _).symm
  case bad =>
    let abandoned (r : Receiver) : Prop := r.inBreak = decide space ∧
      (l.rx.state = .hunt → r = { l.rx with inBreak := r.inBreak }) ∧ (l.rx.state ≠ .hunt → hunting r)
    have error {j : Judgment} (judge : judgeChar l.evenParity c = j) (isBad : j ≠ .good)
        (isBreak : (j == .breakLine) = decide space) (counted : l.counts.lineError j =
          if space then { l.counts with breaks := bump l.counts.breaks }
          else if c.stopBit = false then { l.counts with framing := bump l.counts.framing }
          else { l.counts with parity := bump l.counts.parity }) :
        after (.characterReceived c) abandoned
          (if l.rx.state = .hunt then { l.counts with noise := bump l.counts.noise }
           else if space then { l.counts with breaks := bump l.counts.breaks }
           else if c.stopBit = false then { l.counts with framing := bump l.counts.framing }
           else { l.counts with parity := bump l.counts.parity }) [] := by
      by_cases hunt : l.rx.state = .hunt
      · refine receives ((receive_bad mark clear judge isBad).trans (badChar_hunt hunt j)) abandoned ⟨isBreak, fun _ => rfl,
          fun other => absurd hunt other⟩ ?_ (List.append_nil _).symm
        rw [if_pos hunt]
      · refine receives ((receive_bad mark clear judge isBad).trans (badChar_frame hunt j)) abandoned ⟨isBreak,
          fun other => absurd other hunt, fun _ => ⟨rfl, rfl, rfl, rfl, rfl⟩⟩ ?_ (List.append_nil _).symm
        rw [if_neg hunt]
        exact counted
    by_cases isSpace : space
    · exact error (judged.trans (if_pos isSpace)) nofun (decide_eq_true isSpace).symm (if_pos isSpace).symm
    · have noBreak := (decide_eq_false isSpace).symm
      by_cases stop : c.stopBit = false
      · exact error (judged.trans ((if_neg isSpace).trans (if_pos stop))) nofun noBreak
          ((if_neg isSpace).trans (if_pos stop)).symm
      · have isWrong : wrong := (bad.resolve_left isSpace).resolve_left stop
        exact error (judged.trans ((if_neg isSpace).trans ((if_neg stop).trans (if_pos isWrong)))) nofun noBreak
          ((if_neg isSpace).trans (if_neg stop)).symm
  case good =>
    have stopped : ¬ c.stopBit = false := by rw [stop]; exact Bool.true_eq_false.mp
    have isGood : judgeChar l.evenParity c = .good :=
      judged.trans ((if_neg (fun space => stopped space.2.1)).trans ((if_neg stopped).trans (if_neg right)))
    have receive := receive_good mark clear isGood
    refine ⟨fun hunt => ?hunt, fun header few => ?header, fun header three fits => ?length,
      fun header three long => ?tooLong, fun payload => ?payload, fun check first => ?crcHigh,
      fun high check second => ?frame⟩
    case hunt =>
      have state := goodChar_hunt hunt c.data
      by_cases start : c.data = 0xC3
      · have taken : l.receive c = { l with rx := { l.rx with
            state := .header, crc := 0xFFFF, header := [], payload := [], crcHigh := none, gap := some limit } } :=
          receive.trans (state.trans (if_pos start))
        refine receives taken (· = if c.data = 0xC3 then _ else _) ?_ rfl (List.append_nil _).symm
        rw [if_pos start]
      · have taken : l.receive c = l := receive.trans (state.trans (if_neg start))
        refine receives taken (· = if c.data = 0xC3 then _ else _) ?_ rfl (List.append_nil _).symm
        rw [if_neg start]
    case header =>
      have taken : l.receive c = { l with rx := { l.rx with
          header := l.rx.header ++ [c.data], crc := crcByte l.rx.crc c.data, gap := some limit } } := by
        rw [receive, goodChar_header header]
        exact if_neg (by omega)
      exact receives taken (· = _) rfl rfl (List.append_nil _).symm
    case length =>
      have taken : l.receive c = { l with rx := { l.rx with
          header := l.rx.header ++ [c.data], crc := crcByte l.rx.crc c.data, gap := some limit
          state := if c.data = 0 then .check else .payload } } := by
        rw [receive, goodChar_header header]
        exact (if_pos three).trans (if_neg (by omega))
      exact receives taken (· = _) rfl rfl (List.append_nil _).symm
    case tooLong =>
      have taken : l.receive c = { l with
          rx := { l.rx with
            header := l.rx.header ++ [c.data], crc := crcByte l.rx.crc c.data, gap := some limit : Receiver }.toHunt
          counts := { l.counts with length := bump l.counts.length } } := by
        rw [receive, goodChar_header header]
        exact (if_pos three).trans (if_pos long)
      exact receives taken (fun r => hunting r ∧ r.inBreak = false) ⟨toHunt _, mark⟩ rfl (List.append_nil _).symm
    case payload =>
      have taken : l.receive c = { l with rx := { l.rx with
          payload := l.rx.payload ++ [c.data], crc := crcByte l.rx.crc c.data, gap := some limit
          state := if l.rx.payload.length + 1 = (l.rx.header.getD 3 0).toNat then .check else .payload } } := by
        rw [receive, goodChar_payload payload, Link.payloadChar, List.length_append]
        rfl
      exact receives taken (· = _) rfl rfl (List.append_nil _).symm
    case crcHigh =>
      have taken : l.receive c = { l with rx := { l.rx with crcHigh := some c.data, gap := some limit } } := by
        rw [receive, goodChar_check check, Link.checkChar, first]
        rfl
      exact receives taken (· = _) rfl rfl (List.append_nil _).symm
    case frame =>
      intro address frame known
      have ends : l.receive c = if high ++ c.data = l.rx.crc then l.hunt.goodFrame l.rx
          else l.hunt.count (fun c => { c with crc := bump c.crc }) := by
        rw [receive, goodChar_check check, Link.checkChar, second]
      refine ⟨fun differs => ?_, fun agrees => ?_⟩
      · exact receives (ends.trans (if_neg differs)) (fun r => hunting r ∧ r.inBreak = false) ⟨toHunt _, mark⟩ rfl
          (List.append_nil _).symm
      · have judged := ends.trans (if_pos agrees)
        by_cases own : address = l.stationAddress
        · have isKnown : known := Or.inl own
          refine receives (judged.trans (goodFrame_own (l := l.hunt) own)) (fun r => hunting r ∧ r.inBreak = false)
            ⟨toHunt _, mark⟩ (if_pos isKnown).symm ?_
          rw [if_pos isKnown, decide_eq_false (not_not.mpr own)]
          rfl
        · by_cases all : address = 0
          · have isKnown : known := Or.inr all
            refine receives (judged.trans (goodFrame_broadcast (l := l.hunt) own all))
              (fun r => hunting r ∧ r.inBreak = false) ⟨toHunt _, mark⟩ (if_pos isKnown).symm ?_
            rw [if_pos isKnown, decide_eq_true own]
            rfl
          · have unknown : ¬ known := fun h => h.elim own all
            refine receives (judged.trans (goodFrame_foreign (l := l.hunt) own all))
              (fun r => hunting r ∧ r.inBreak = false) ⟨toHunt _, mark⟩ (if_neg unknown).symm ?_
            rw [if_neg unknown]
            exact (List.append_nil _).symm

end Sys2Proof.Machine
end

section
/-! The alarm acknowledge word (R98, R99): O38. -/

namespace Sys2Proof.Machine

/-- What an acknowledge of a point hands, by the plant before it. -/
def Plant.ackDraft (p : Plant) (town : Bool) (k : Fin 40) : Draft :=
  { source := srcAlarm, kind := 0x52, urgent := false
    detail := detail1 k.val ++ detail1 (pointClass k) ++ detail1 (pointPlace k) ++ detail1 (p.pointLevel k) ++
      detail1 (p.alarms.points.get k).state.acked.code ++ detail1 (bit town) }

theorem PointState.acked_of_not_unacked {x : PointState} (rest : x.unacked = false) : x.acked = x := by
  cases x with
  | normal => rfl
  | activeAcked => rfl
  | activeUnack => cases rest
  | returnedUnack => cases rest

theorem Plant.ackStep_unacked {p : Plant} {k : Fin 40} (unacked : p.pointUnacked k = true) (town : Bool) :
    p.ackStep town k = { p with
      alarms := { p.alarms with
        points := vset p.alarms.points k
          { p.alarms.points.get k with state := (p.alarms.points.get k).state.acked } }
      out := p.out ++ [p.ackDraft town k] } := if_pos unacked

theorem Plant.ackStep_rest {p : Plant} {k : Fin 40} (rest : p.pointUnacked k = false) (town : Bool) :
    p.ackStep town k = p := if_neg (by rw [show (p.alarms.points.get k).state.unacked = false from rest]; exact Bool.false_ne_true)

/-- R98: acknowledging the points of a list moves these points and hands their entries. -/
theorem Plant.ackSteps_eq (town : Bool) (ks : List (Fin 40)) : ∀ p : Plant, ks.Nodup →
    let q := ks.foldl (fun q k => q.ackStep town k) p
    q = { p with
      alarms := { p.alarms with points := q.alarms.points }
      out := p.out ++ (ks.filter p.pointUnacked).map (p.ackDraft town) } ∧
    ∀ j, q.alarms.points.get j = if j ∈ ks then
      { p.alarms.points.get j with state := (p.alarms.points.get j).state.acked } else p.alarms.points.get j := by
  induction ks with
  | nil => intro p _; exact ⟨by simp, fun j => by simp⟩
  | cons k ks ih =>
    intro p distinct
    obtain ⟨absent, distinct⟩ := List.nodup_cons.mp distinct
    cases unacked : p.pointUnacked k with
    | false =>
      obtain ⟨rest, points⟩ := ih p distinct
      have settled := PointState.acked_of_not_unacked unacked
      simp only [List.foldl_cons, Plant.ackStep_rest unacked, List.filter_cons, unacked, Bool.false_eq_true, if_false]
      refine ⟨rest, fun j => (points j).trans ?_⟩
      by_cases same : j = k
      · subst same
        rw [if_neg absent, if_pos List.mem_cons_self, settled]
      · simp only [List.mem_cons, same, false_or]
    | true =>
      obtain ⟨rest, points⟩ := ih (p.ackStep town k) distinct
      have other (j : Fin 40) (mem : j ≠ k) :
          (p.ackStep town k).alarms.points.get j = p.alarms.points.get j := by
        rw [Plant.ackStep_unacked unacked]
        exact vset_get_ne _ _ mem.symm
      have differ : ∀ j ∈ ks, j ≠ k := fun j mem same => absent (same ▸ mem)
      have filtered : ks.filter (p.ackStep town k).pointUnacked = ks.filter p.pointUnacked :=
        List.filter_congr fun j mem => by unfold Plant.pointUnacked; rw [other j (differ j mem)]
      have level (j : Fin 40) : (p.ackStep town k).pointLevel j = p.pointLevel j := by
        rw [Plant.ackStep_unacked unacked]; rfl
      have drafts : (ks.filter p.pointUnacked).map ((p.ackStep town k).ackDraft town) =
          (ks.filter p.pointUnacked).map (p.ackDraft town) :=
        List.map_congr_left fun j mem => by
          unfold Plant.ackDraft
          rw [other j (differ j (List.mem_filter.mp mem).1), level]
      rw [filtered, drafts] at rest
      refine ⟨?_, fun j => (points j).trans ?_⟩
      · refine rest.trans ?_
        rw [List.filter_cons, if_pos unacked, List.map_cons, List.foldl_cons,
          show (p.ackStep town k).out = p.out ++ [p.ackDraft town k] by rw [Plant.ackStep_unacked unacked],
          List.append_assoc, List.singleton_append, Plant.ackStep_unacked unacked]
      · by_cases same : j = k
        · subst same
          rw [if_neg absent, if_pos List.mem_cons_self, Plant.ackStep_unacked unacked]
          exact vset_get_same _ _ _
        · rw [other j same]
          simp only [List.mem_cons, same, false_or]

theorem allPoints_filter_single : ∀ k : Fin 40, allPoints.filter (fun j => j == k) = [k] := by decide

theorem allPoints_nodup : allPoints.Nodup := by decide

/-- R99: the points that a value names. -/
theorem Plant.ackPoints_names (p : Plant) {c : Instr} {v : Word} {names : Fin 40 → Bool}
    (spelt : (∃ k, c = .ackPoint k ∧ v = BitVec.ofNat 16 k.val ∧ names = fun j => j == k) ∨
      (∃ l : Fin 4, c = .ackLevel l ∧ v = BitVec.ofNat 16 (0x80 + l.val) ∧
        names = fun j => p.pointLevel j == l.val) ∨
      c = .ackAll ∧ v = 0x00FF ∧ names = (fun _ => true)) :
    ∃ ks, p.ackPoints v = some ks ∧ ks.Nodup ∧
      ks.filter p.pointUnacked = allPoints.filter (fun j => names j && p.pointUnacked j) := by
  rcases spelt with ⟨k, -, rfl, rfl⟩ | ⟨l, -, rfl, rfl⟩ | ⟨-, rfl, rfl⟩
  · have value : (BitVec.ofNat 16 k.val).toNat = k.val := Nat.mod_eq_of_lt (by omega)
    refine ⟨[k], ?_, List.nodup_singleton k, ?_⟩
    · unfold Plant.ackPoints
      rw [dif_pos (by omega)]
      simp only [value]
    · rw [← allPoints_filter_single k, List.filter_filter]
      exact List.filter_congr fun j _ => Bool.and_comm _ _
  · have value : (BitVec.ofNat 16 (0x80 + l.val)).toNat = 0x80 + l.val := Nat.mod_eq_of_lt (by omega)
    refine ⟨allPoints.filter (fun k => p.pointUnacked k && p.pointLevel k == l.val), ?_, allPoints_nodup.filter _, ?_⟩
    · unfold Plant.ackPoints
      rw [dif_neg (by omega), if_pos (by omega), value, Nat.add_sub_cancel_left]
    · rw [List.filter_filter]
      exact List.filter_congr fun j _ => by rw [← Bool.and_assoc, Bool.and_self, Bool.and_comm]
  · refine ⟨allPoints.filter p.pointUnacked, ?_, allPoints_nodup.filter _, ?_⟩
    · unfold Plant.ackPoints
      rw [dif_neg (by decide), if_neg (by decide), if_pos rfl]
    · rw [List.filter_filter]
      exact List.filter_congr fun j _ => by rw [Bool.and_self, Bool.true_and]

theorem Plant.ackPoints_bad (p : Plant) {v : Word} (high : 0x27 < v.toNat) (gap : v.toNat < 0x80 ∨ 0x83 < v.toNat)
    (notAll : v ≠ 0x00FF) : p.ackPoints v = none := by
  unfold Plant.ackPoints
  rw [dif_neg (by omega), if_neg (by omega), if_neg notAll]

theorem Plant.clearFirstOut_eq (p : Plant) : p.clearFirstOut = { p with
    alarms := { p.alarms with
      firstOut := if ∃ j, p.pointUnacked j = true then p.alarms.firstOut else none } } := by
  have any : allPoints.any p.pointUnacked = true ↔ ∃ j, p.pointUnacked j = true := by
    rw [List.any_eq_true]
    exact ⟨fun ⟨j, _, unacked⟩ => ⟨j, unacked⟩, fun ⟨j, unacked⟩ => ⟨j, mem_allPoints j, unacked⟩⟩
  unfold Plant.clearFirstOut
  by_cases some_unacked : ∃ j, p.pointUnacked j = true
  · rw [if_pos (any.mpr some_unacked), if_pos some_unacked]
  · rw [if_neg (fun h => some_unacked (any.mp h)), if_neg some_unacked]

/-- Settles O38: `Plant.ackSteps_eq` over the points that `Plant.ackPoints` names. -/
theorem acknowledgeWordActsOnItsPoints : Obligations.AcknowledgeWordActsOnItsPoints := by
  intro s out
  refine ⟨fun c v names spelt taken => ?named, fun v high gap notAll taken => ?bad⟩
  case bad =>
    refine ⟨_, rfl, access_refused (judge := fun t => t.judgeAck v) taken rfl out ?_⟩
    show (s.present _).judgeAck v = _
    unfold State.judgeAck
    rw [taken.present_plant, Plant.ackPoints_bad _ high gap notAll]
  case named =>
    obtain ⟨ks, named, distinct, filtered⟩ := s.plant.ackPoints_names spelt
    have run : exec c s = .next (s.ackWrite v) := by
      rcases spelt with ⟨k, rfl, rfl, -⟩ | ⟨l, rfl, rfl, -⟩ | ⟨rfl, rfl, -⟩ <;> rfl
    refine ⟨_, run, ?_⟩
    have judged : (s.present (s.commandWrite 4 v)).judgeAck v =
        ((s.present (s.commandWrite 4 v)).onPlant (fun p => p.acknowledge false ks), .absorb) := by
      unfold State.judgeAck
      rw [taken.present_plant, named]
    obtain ⟨eq, points⟩ := s.plant.ackSteps_eq false ks distinct
    generalize steps : ks.foldl (fun q k => q.ackStep false k) s.plant = q at eq points
    have acknowledged : ((s.present (s.commandWrite 4 v)).onPlant (fun p => p.acknowledge false ks)).plant =
        q.clearFirstOut.annunciate := by
      rw [State.onPlant_plant, taken.present_plant, ← steps]
      rfl
    obtain ⟨step, plant, log, settings, link⟩ := access_absorbed (judge := fun t => t.judgeAck v) taken judged
      ((Judging.start taken).onPlant _)
    rw [acknowledged, Plant.clearFirstOut_eq] at plant log
    have unackedNow (j : Fin 40) : (s.ackWrite v).plant.pointUnacked j = q.pointUnacked j := by
      show (s.accessStep _ _).plant.pointUnacked j = _
      rw [plant]
      rfl
    have now (j : Fin 40) : (s.ackWrite v).plant.alarms.points.get j = q.alarms.points.get j := by
      show (s.accessStep _ _).plant.alarms.points.get j = _
      rw [plant]
      rfl
    refine ⟨step, fun j => ?_, ?_, ?_, ?_⟩
    · rw [now j, points j]
      have mem : j ∈ ks ∧ s.plant.pointUnacked j = true ↔ names j = true ∧ s.plant.pointUnacked j = true := by
        have := congrArg (j ∈ ·) filtered
        simpa [mem_allPoints] using this
      cases unacked : s.plant.pointUnacked j with
      | true =>
        rw [unacked] at mem
        by_cases named : names j = true
        · rw [if_pos (mem.mpr ⟨named, rfl⟩).1, if_pos named]
          exact ⟨rfl, rfl⟩
        · rw [if_neg (fun inside => named (mem.mp ⟨inside, rfl⟩).1), if_neg named]
          exact ⟨rfl, rfl⟩
      | false =>
        have settled := PointState.acked_of_not_unacked unacked
        rw [settled, ite_self, ite_self]
        exact ⟨rfl, rfl⟩
    · refine log.trans ?_
      have entries : q.out = (allPoints.filter (fun j => names j && s.plant.pointUnacked j)).map
          (s.plant.ackDraft false) := by
        rw [eq, out, filtered]
        rfl
      show q.out.foldl (fun l d => l.append q.clock d) (s.present (s.commandWrite 4 v)).log = _
      rw [entries, taken.present_log, show q.clock = s.plant.clock by rw [eq]]
      rfl
    · show (s.accessStep _ _).plant.alarms.firstOut = _
      rw [plant]
      simp only [unackedNow]
      rw [show s.plant.alarms.firstOut = q.alarms.firstOut by rw [eq]]
      rfl
    · have fields : (s.ackWrite v).plant = _ := plant
      rw [fields, eq]
      exact ⟨rfl, rfl, rfl, by simp only [← out]; rfl, settings.trans taken.present_settings,
        link.trans taken.present_link⟩

end Sys2Proof.Machine
end

section
/-! A condition handed to a point (R94, R96, R97, R100 to R103): O39. -/

namespace Sys2Proof.Machine

theorem findSome?_range_iff {α : Type} (f : Nat → Option α) (b : α) (n : Nat) :
    (List.range n).findSome? f = some b ↔ ∃ a, a < n ∧ f a = some b ∧ ∀ x, x < a → f x = none := by
  induction n with
  | zero => simp
  | succ n ih =>
    rw [List.range_succ, List.findSome?_append, Option.or_eq_some_iff, ih, List.findSome?_eq_none_iff]
    simp only [List.mem_range, List.findSome?_singleton]
    constructor
    · rintro (⟨a, less, found, before⟩ | ⟨before, found⟩)
      · exact ⟨a, by omega, found, before⟩
      · exact ⟨n, by omega, found, before⟩
    · rintro ⟨a, less, found, before⟩
      by_cases same : a = n
      · subst same
        exact Or.inr ⟨before, found⟩
      · exact Or.inl ⟨a, by omega, found, before⟩

theorem allPoints_find_iff (q : Fin 40 → Bool) (j : Fin 40) :
    allPoints.find? q = some j ↔ q j = true ∧ ∀ i, i < j → q i = false := by
  show (List.finRange 40).find? q = _ ↔ _
  rw [← Fin.find?_eq_find?_finRange, Fin.find?_eq_some_iff]

theorem allPoints_any_iff (q : Fin 40 → Bool) : allPoints.any q = true ↔ ∃ j, q j = true := by
  rw [List.any_eq_true]
  exact ⟨fun ⟨j, _, holds⟩ => ⟨j, holds⟩, fun ⟨j, holds⟩ => ⟨j, mem_allPoints j, holds⟩⟩

theorem allPoints_any_false_iff (q : Fin 40 → Bool) : allPoints.any q = false ↔ ∀ j, q j = false := by
  rw [List.any_eq_false]
  simp only [Bool.not_eq_true]
  exact ⟨fun all j => all j (mem_allPoints j), fun all j _ => all j⟩

theorem Plant.pointLevel_lt (p : Plant) (k : Fin 40) : p.pointLevel k < 4 := Nat.mod_lt _ (by decide)

/-- R101: the identity is the lowest unacknowledged point of the lowest level. -/
theorem Plant.identityNow_iff (p : Plant) (j : Fin 40) :
    p.identityNow = some j ↔ p.pointUnacked j = true ∧
      ∀ i, p.pointUnacked i = true → p.pointLevel j ≤ p.pointLevel i ∧ (p.pointLevel i = p.pointLevel j → j ≤ i) := by
  unfold Plant.identityNow
  rw [findSome?_range_iff]
  simp only [allPoints_find_iff, Bool.and_eq_true, beq_iff_eq, Bool.and_eq_false_iff, beq_eq_false_iff_ne,
    List.find?_eq_none]
  constructor
  · rintro ⟨level, -, ⟨⟨unacked, rfl⟩, first⟩, before⟩
    refine ⟨unacked, fun i other => ⟨?_, fun alike => ?_⟩⟩
    · by_contra lower
      exact before _ (not_le.mp lower) i (mem_allPoints i) ⟨other, rfl⟩
    · by_contra lower
      rcases first i (not_le.mp lower) with rest | apart
      · rw [other] at rest; cases rest
      · exact apart alike
  · rintro ⟨unacked, least⟩
    refine ⟨p.pointLevel j, p.pointLevel_lt j, ⟨⟨unacked, rfl⟩, fun i lower => ?_⟩, fun level lower i _ found => ?_⟩
    · cases other : p.pointUnacked i with
      | false => exact Or.inl rfl
      | true => exact Or.inr fun alike => absurd ((least i other).2 alike) (not_le.mpr lower)
    · obtain ⟨other, rfl⟩ := found
      exact absurd (least i other).1 (not_le.mpr lower)

theorem Plant.alineNow_iff (p : Plant) :
    p.alineNow = true ↔ ∃ j, p.pointUnacked j = true ∧ p.lineEnabled (p.pointLevel j) = true := by
  simp only [Plant.alineNow, allPoints_any_iff, Bool.and_eq_true]

theorem Plant.demandNow_flash_iff (p : Plant) :
    p.demandNow = .flash ↔ ∃ j, p.pointUnacked j = true ∧ p.beaconEnabled (p.pointLevel j) = true := by
  have any := allPoints_any_iff (fun k => p.pointUnacked k && p.beaconEnabled (p.pointLevel k))
  simp only [Bool.and_eq_true] at any
  rw [← any]
  unfold Plant.demandNow
  split_ifs with flash steady
  · exact iff_of_true rfl flash
  · exact iff_of_false (by decide) flash
  · exact iff_of_false (by decide) flash

theorem Plant.demandNow_steady_iff (p : Plant) :
    p.demandNow = .steady ↔ (∀ j, p.pointUnacked j = true → p.beaconEnabled (p.pointLevel j) = false) ∧
      ∃ j, (p.alarms.points.get j).state = .activeAcked ∧ p.beaconEnabled (p.pointLevel j) = true := by
  have quiet := allPoints_any_false_iff (fun k => p.pointUnacked k && p.beaconEnabled (p.pointLevel k))
  have any := allPoints_any_iff
    (fun k => (p.alarms.points.get k).state == .activeAcked && p.beaconEnabled (p.pointLevel k))
  simp only [Bool.and_eq_true, beq_iff_eq, Bool.and_eq_false_imp] at any quiet
  rw [← any, ← quiet]
  unfold Plant.demandNow
  split_ifs with flash steady
  · exact iff_of_false (by decide) fun both => absurd (flash.symm.trans both.1) (by decide)
  · exact iff_of_true rfl ⟨Bool.not_eq_true _ ▸ flash, steady⟩
  · exact iff_of_false (by decide) fun both => steady both.2

theorem Plant.opensEpisode_iff (p : Plant) (k : Fin 40) :
    p.opensEpisode k = true ↔ ∀ j, j ≠ k → p.pointUnacked j = false := by
  unfold Plant.opensEpisode
  rw [List.all_eq_true]
  simp only [Bool.or_eq_true, decide_eq_true_eq, Bool.not_eq_true']
  exact ⟨fun all j other => (all j (mem_allPoints j)).resolve_left other,
    fun all j _ => or_iff_not_imp_left.mpr (all j)⟩

theorem PointState.unacked_iff (x : PointState) : x.unacked = true ↔ x = .activeUnack ∨ x = .returnedUnack := by
  cases x <;> decide

/-- R94: a condition that changes is taken, and the annunciation is computed from what it leaves. -/
theorem Plant.hand_annunciates {p : Plant} (running : p.loading = false) {k : Fin 40} {active : Bool}
    (changes : (p.alarms.points.get k).condition ≠ active) :
    ∃ x : Plant, p.hand k active = x.annunciate ∧ x = { p with alarms := x.alarms, out := x.out } ∧
      x.alarms.demand = p.alarms.demand := by
  have taken : p.hand k active = if active then p.pointOn k else p.pointOff k := by
    unfold Plant.hand
    rw [running, Bool.false_or, if_neg (fun same => changes (beq_iff_eq.mp same))]
  cases active with
  | true =>
    refine ⟨_, taken.trans rfl, ?_⟩
    split <;> exact ⟨rfl, rfl⟩
  | false =>
    refine ⟨_, taken.trans rfl, ?_⟩
    rw [Plant.clearFirstOut_eq]
    exact ⟨rfl, rfl⟩

/-- Settles O39: the entries and first-out are those of `Plant.pointOn` and `Plant.pointOff`, the annunciation that of
`Plant.hand_annunciates`. -/
theorem handedConditionMovesItsPoint : Obligations.HandedConditionMovesItsPoint := by
  intro p k active running was now
  have on (active_eq : active = true) (rest : was.condition = false) : p.hand k active = p.pointOn k := by
    subst active_eq
    unfold Plant.hand
    rw [running, show (p.alarms.points.get k).condition = false from rest]
    rfl
  have off (active_eq : active = false) (rest : was.condition = true) : p.hand k active = p.pointOff k := by
    subst active_eq
    unfold Plant.hand
    rw [running, show (p.alarms.points.get k).condition = true from rest]
    rfl
  refine ⟨fun same => ?same, fun j other => ?others, fun rest active_eq => ?on, fun rest active_eq => ?off,
    fun changes => ?annunciation⟩
  case same =>
    unfold Plant.hand
    rw [show (p.alarms.points.get k).condition = active from same, beq_self_eq_true, Bool.or_true, if_pos rfl]
  case others =>
    show (p.hand k active).alarms.points.get j = _
    unfold Plant.hand
    split_ifs
    · rfl
    · rw [Plant.pointOn_points, vset_get_ne _ _ other.symm]
    · rw [Plant.pointOff_points, vset_get_ne _ _ other.symm]
  case on =>
    have handed := on active_eq rest
    show (p.hand k active).alarms.points.get k = _ ∧ (p.hand k active).alarms.firstOut = _ ∧ _
    rw [handed]
    refine ⟨by rw [Plant.pointOn_points, vset_get_same], ?_, p.opensEpisode k, ?_, p.opensEpisode_iff k⟩
    · have taken : (p.pointOn k).alarms.firstOut = if p.opensEpisode k then some k else p.alarms.firstOut := by
        unfold Plant.pointOn
        dsimp only [Plant.annunciate]
        split <;> rfl
      rw [taken]
      by_cases opens : p.opensEpisode k = true
      · rw [if_pos opens, if_neg fun ⟨j, other, unacked⟩ =>
          Bool.false_ne_true (((p.opensEpisode_iff k).mp opens j other).symm.trans unacked)]
      · rw [if_neg opens, if_pos]
        by_contra alone
        refine opens ((p.opensEpisode_iff k).mpr fun j other => ?_)
        rw [← Bool.not_eq_true]
        exact fun unacked => alone ⟨j, other, unacked⟩
    · unfold Plant.pointOn
      dsimp only [Plant.annunciate]
      split <;> rfl
  case off =>
    have handed := off active_eq rest
    have point : (p.pointOff k).alarms.points.get k = { condition := false, state := p.returnState k } := by
      rw [Plant.pointOff_points, vset_get_same]
    have next : p.returnState k = if was.state = .activeUnack ∧ p.pointLatches k = true then .returnedUnack else .normal := by
      unfold Plant.returnState
      simp only [Bool.and_eq_true, decide_eq_true_eq]
      rfl
    rw [show now = (p.pointOff k).alarms from congrArg Plant.alarms handed, handed, point]
    refine ⟨rfl, next, ?_, ?_⟩
    · unfold Plant.pointOff
      dsimp only [Plant.annunciate]
      rw [Plant.clearFirstOut_eq]
      rfl
    · have unackedNow (j : Fin 40) : (p.pointOff k).pointUnacked j =
          (p.setPoint k { condition := false, state := p.returnState k }).pointUnacked j := by
        unfold Plant.pointUnacked
        rw [Plant.pointOff_points]
        rfl
      simp only [unackedNow]
      unfold Plant.pointOff
      dsimp only [Plant.annunciate]
      rw [Plant.clearFirstOut_eq]
      rfl
  case annunciation =>
    obtain ⟨x, handed, moved, demand⟩ := Plant.hand_annunciates running (k := k) (active := active) changes
    intro unacked acked level line beacon
    have now_eq : now = x.annunciate.alarms := congrArg Plant.alarms handed
    have levels (j : Fin 40) : x.pointLevel j = p.pointLevel j := by rw [moved]; rfl
    have level_val (j : Fin 40) : (level j).val = p.pointLevel j := Nat.mod_eq_of_lt (p.pointLevel_lt j)
    have unacked_iff (j : Fin 40) : unacked j ↔ x.pointUnacked j = true := by
      dsimp only [unacked]
      rw [now_eq, Plant.annunciate_points, Plant.pointUnacked, PointState.unacked_iff]
    have acked_iff (j : Fin 40) : acked j ↔ (x.alarms.points.get j).state = .activeAcked := by
      dsimp only [acked]
      rw [now_eq, Plant.annunciate_points]
    have line_eq (j : Fin 40) : line j = x.lineEnabled (x.pointLevel j) := by
      dsimp only [line]
      rw [level_val, levels, moved]
      rfl
    have beacon_eq (j : Fin 40) : beacon j = x.beaconEnabled (x.pointLevel j) := by
      dsimp only [beacon]
      rw [level_val, levels, moved]
      rfl
    clear_value unacked acked level line beacon
    refine ⟨fun j => ?_, ?_, ?_, ?_, ?_⟩
    · rw [show now.identity = x.identityNow by rw [now_eq]; rfl, x.identityNow_iff]
      simp only [unacked_iff, levels, Fin.ext_iff, Fin.le_def, level_val]
    · rw [show now.aline = x.alineNow by rw [now_eq]; rfl, x.alineNow_iff]
      simp only [unacked_iff, line_eq]
    · rw [show now.demand = x.demandNow by rw [now_eq]; rfl, x.demandNow_flash_iff]
      simp only [unacked_iff, beacon_eq]
    · rw [show now.demand = x.demandNow by rw [now_eq]; rfl, x.demandNow_steady_iff]
      simp only [unacked_iff, acked_iff, beacon_eq]
    · intro lines
      have lines_eq : lines = x.annunciate.lines := by
        have taken : x.annunciate.lines =
            if x.demandNow = p.alarms.demand then p.lines else p.lines.takeDemand x.demandNow := by
          rw [← demand, show p.lines = x.lines by rw [moved]]
          rfl
        rw [taken]
        dsimp only [lines]
        rw [show now.demand = x.demandNow by rw [now_eq]; rfl]
        cases x.demandNow <;> rfl
      rw [lines_eq, handed, now_eq]
      have whole : x.annunciate = { x with
          alarms := x.annunciate.alarms, lines := x.annunciate.lines
          marks := x.marks ++ if x.annunciate.lines.beaconOn = x.lines.beaconOn then [] else [1] } := rfl
      refine whole.trans ?_
      rw [show x.marks = p.marks by rw [moved], show x.lines = p.lines by rw [moved],
        show x.annunciate.out = x.out from rfl]
      rw [moved]

end Sys2Proof.Machine
end

section
/-! Power-up and panel reset (R110, R132, R148): O8. -/

namespace Sys2Proof.Machine

/-- Every byte of a cut burst is the old or the new one. -/
theorem Memory.read_writeLanded_inside (landed : Nat → Bool) {m : Memory} (wf : m.wf) (a i : Nat) (bytes : List Byte)
    (k : Nat) (inside : k < bytes.length) :
    (Memory.writeLanded landed m a i bytes).read (a + k) = m.read (a + k) ∨
      (Memory.writeLanded landed m a i bytes).read (a + k) = bytes.getD k 0 := by
  induction bytes generalizing m a i k with
  | nil => cases inside
  | cons b rest ih =>
    unfold Memory.writeLanded
    have kept : (if landed i then m.write a b else m).wf := by
      split
      · exact Memory.wf_write wf a b
      · exact wf
    cases k with
    | zero =>
      rw [Memory.read_writeLanded_outside _ kept _ _ _ _ (Or.inl (by omega))]
      split
      · exact Or.inr (Memory.read_write_same wf a b)
      · exact Or.inl rfl
    | succ k =>
      have later := ih kept (a + 1) (i + 1) k (Nat.lt_of_succ_lt_succ inside)
      rw [show a + 1 + k = a + (k + 1) by omega] at later
      refine later.imp_left fun same => same.trans ?_
      split
      · exact Memory.read_write_ne wf (by omega) _
      · rfl

/-- R110, R132: a byte of a block cut off, outside its check word, is the old or the new one. -/
theorem read_cutBlock_inside (n : Nat) {m : Memory} (wf : m.wf) (a : Nat) (bytes : List Byte) (k : Nat)
    (inside : k < bytes.length) (body : k / 2 + 1 ≠ bytes.length / 2) :
    (cutBlock n m a bytes).read (a + k) = m.read (a + k) ∨ (cutBlock n m a bytes).read (a + k) = bytes.getD k 0 := by
  have landed := Memory.read_writeLanded_inside (Config.cutLanded n) wf a 0 bytes k inside
  unfold cutBlock
  dsimp only
  split
  · exact landed
  case isFalse whole =>
    have words : bytes.length / 2 ≠ 0 := fun empty => whole (by simp [empty])
    rw [Memory.read_writeBytes_outside (Memory.wf_writeLanded _ wf a 0 bytes)]
    · exact landed
    · show a + k < _ ∨ _ + 2 ≤ a + k
      omega

theorem Holder.writesBlock_iff (h : Holder) :
    h.writesBlock = true ↔ (∃ e, h = .logWriter e) ∨ ∃ i image, h = .deposit i image := by
  cases h <;> simp [Holder.writesBlock]

/-- What a reset leaves of the burst in hand. -/
theorem cutMemory_cut {s : State} (wf : s.mem.wf) :
    s.cutMemory.wf ∧ (s.writing = none → s.cutMemory = s.mem) ∧
      ∀ a bytes, s.writing = some (a, bytes) →
        let words := bytes.length / 2
        let block := (∃ e, s.holder = .logWriter e) ∨ ∃ i image, s.holder = .deposit i image
        (∀ x, x < a ∨ a + bytes.length ≤ x → s.cutMemory.read x = s.mem.read x) ∧
        (∀ i, i < bytes.length → ¬ (block ∧ i / 2 + 1 = words) →
          s.cutMemory.read (a + i) = s.mem.read (a + i) ∨ s.cutMemory.read (a + i) = bytes.getD i 0) ∧
        (block → 0 < words → blockSum (s.cutMemory.readWords a words) ≠ 0xFFFF) := by
  refine ⟨s.cutMemory_wf wf, fun idle => ?_, fun a bytes writing => ?_⟩
  · unfold State.cutMemory
    rw [idle]
  · have cut : s.cutMemory = if s.holder.writesBlock then cutBlock s.freeCount s.mem a bytes
        else Memory.writeLanded (Config.cutLanded s.freeCount) s.mem a 0 bytes := by
      unfold State.cutMemory
      rw [writing]
    rw [← Holder.writesBlock_iff]
    intro words block
    by_cases blocks : s.holder.writesBlock = true
    · rw [cut, if_pos blocks]
      refine ⟨read_cutBlock_outside _ wf a bytes, fun i inside body => ?_, fun _ some_words valid => ?_⟩
      · exact read_cutBlock_inside _ wf a bytes i inside fun last => body ⟨blocks, last⟩
      · have fails := cutBlock_fails s.freeCount wf a bytes (by omega)
        rw [(blockValid_iff _).mpr valid] at fails
        cases fails
    · rw [cut, if_neg blocks]
      exact ⟨Memory.read_writeLanded_outside _ wf a 0 bytes,
        fun i inside _ => Memory.read_writeLanded_inside _ wf a 0 bytes i inside, fun block => absurd block blocks⟩

/-- Settles O8: memory is `cutMemory_cut`; the rest is what `State.powerUp` and `State.panelReset` write. -/
theorem powerUpAndPanelResetRestartThePart : Obligations.PowerUpAndPanelResetRestartThePart := by
  intro s wf cut
  exact ⟨⟨s.powerUp, rfl, cutMemory_cut wf, rfl⟩, s.panelReset, rfl, cutMemory_cut wf, rfl,
    fun n => Vector.getElem_map Pump.panelReset n.isLt⟩

end Sys2Proof.Machine
end

section
/-! Mode changes (R18, R58) and the upstream reset (R22): O9. -/

namespace Sys2Proof.Machine

/-- R58: the correction set after an adoption holds what it held. -/
theorem mem_correctRuns {before after : Plant} {i : Fin 32} (mem : i ∈ before.corr) :
    i ∈ (before.correctRuns after).corr := by
  unfold Plant.correctRuns
  dsimp only
  generalize before.corr = corr at mem
  generalize allPumps = pumps
  induction pumps generalizing corr with
  | nil => exact mem
  | cons n rest ih =>
    refine ih _ ?_
    dsimp only
    split
    · exact mem
    · exact mem_joinCorr.mpr (Or.inl mem)

/-- R58: the correction set rebuilt from the changes of RUN. -/
theorem Plant.correctRuns_acts {before after : Plant} (acts : before.Acts after) :
    before.Acts (before.correctRuns after) := by
  obtain ⟨⟨inputs, words, bits, -⟩, more, out⟩ := acts
  exact ⟨⟨⟨inputs.clock, inputs.levels, inputs.mode, inputs.weirs, inputs.sections, inputs.raw, inputs.debounced,
    inputs.stability⟩, words, bits, fun _ => mem_correctRuns⟩, more, out⟩

/-- R58: the pumps in motion take a demand, the others lose theirs. -/
def Plant.adoptRunning (p : Plant) : Plant :=
  allPumps.foldl (fun q n =>
    if (q.pump n).state.inMotion then (q.setRun n true).setPump n { q.pump n with deferred := false }
    else q.setRun n false) p

theorem Plant.adopt_eq_adoptRunning (p : Plant) :
    p.adopt = p.correctRuns ((p.adoptRunning.flushQueue.lowerDemands 6).raiseDemands 6) := rfl

theorem Plant.adoptRunning_acts (p : Plant) : p.Acts p.adoptRunning := by
  refine foldl_acts _ (fun q n => ?_) _ _
  split
  · exact (q.setRun_acts n true).trans (Plant.setPump_acts _ _ _)
  · exact q.setRun_acts n false

/-- R58: adopting does what the pump unit's acts do. -/
theorem Plant.adopt_acts (p : Plant) : p.Acts p.adopt := by
  rw [Plant.adopt_eq_adoptRunning]
  refine Plant.correctRuns_acts ?_
  exact ((p.adoptRunning_acts.trans (Plant.flushQueue_kept _).acts).trans (Plant.lowerDemands_acts _ 6)).trans
    (Plant.raiseDemands_acts _ 6)

/-- What a mode change hands first (R18). -/
def Plant.modeDraft (p : Plant) (m : Mode) (c : ModeCause) : Draft :=
  { source := srcMode, kind := 0x10, urgent := modeChangeUrgent m c
    detail := detail1 p.mode.mode.code ++ detail1 p.mode.cause.code ++ detail1 m.code ++ detail1 c.code }

/-- The plant when the mode, its word and its entry have changed, before the units hear of it (R18). -/
def Plant.modeWritten (p : Plant) (m : Mode) (c : ModeCause) (requested : Nat) : Plant :=
  ((({ p with mode := { p.mode with mode := m, cause := c } }).setShadow 0 (modeWord requested m c)).queueCorrection
    0).append srcMode 0x10
      (detail1 p.mode.mode.code ++ detail1 p.mode.cause.code ++ detail1 m.code ++ detail1 c.code) (modeChangeUrgent m c)

theorem Plant.changeMode_eq (p : Plant) (m : Mode) (c : ModeCause) (byPart : Bool) :
    p.changeMode m c byPart =
      let written := p.modeWritten m c (if byPart then 0 else p.requestedCode)
      let told := if m = .localControl ∧ p.mode.mode ≠ .localControl then written.adopt else written
      told.hand 35 told.localModeCondition := rfl

/-- R18: beyond the mode and its word a mode change does what the pump unit's acts do. -/
theorem Plant.changeMode_acts (p : Plant) (m : Mode) (c : ModeCause) (byPart : Bool) :
    (p.modeWritten m c (if byPart then 0 else p.requestedCode)).Acts (p.changeMode m c byPart) := by
  rw [Plant.changeMode_eq]
  generalize (if byPart then 0 else p.requestedCode) = requested
  refine Plant.Acts.trans ?_ (Plant.hand_kept _ _ _).acts
  split
  · exact Plant.adopt_acts _
  · exact Plant.Acts.refl _

theorem pumpWord_ne_zero (n : Fin 6) : pumpWord n ≠ 0 := by revert n; decide

/-- R18: what a mode change and the end of its event leave. -/
theorem Plant.changeMode_facts {p q : Plant} {m : Mode} {c : ModeCause} {requested : Nat}
    (acts : (p.modeWritten m c requested).Acts q) :
    q.mode = { p.mode with mode := m, cause := c } ∧ q.shadow.get 0 = modeWord requested m c ∧ (0 : Fin 32) ∈ q.corr ∧
      (∃ more, q.out = p.out ++ p.modeDraft m c :: more) ∧
      (({ p with mode := q.mode } : Plant).setShadow 0 (modeWord requested m c)).RunsOnly q := by
  obtain ⟨runs, more, out⟩ := acts
  refine ⟨runs.inputs.mode, (runs.words 0 pumpWord_ne_zero).trans (vset_get_same _ _ _),
    runs.corr 0 (mem_joinCorr.mpr (Or.inr rfl)), ⟨more, ?_⟩, ?_⟩
  · rw [out, show p.modeDraft m c :: more = [p.modeDraft m c] ++ more from rfl, ← List.append_assoc]
    rfl
  · exact ⟨⟨runs.inputs.clock, runs.inputs.levels, rfl, runs.inputs.weirs, runs.inputs.sections, runs.inputs.raw,
      runs.inputs.debounced, runs.inputs.stability⟩, runs.words, runs.bits,
      fun i mem => runs.corr i (mem_joinCorr.mpr (Or.inl mem))⟩

/-! The upstream reset. -/

/-- R142: what an abandoned transaction leaves flagged. -/
def Plant.abandonFlagged (p : Plant) (x : Transaction) : Plant :=
  if x.range = .stored ∧ 0 < x.forwarded then
    p.setSection x.sec { p.sections.get x.sec with storedDiffers := true } else p

theorem Plant.abandonSection_eq (p : Plant) (x : Transaction) (why : SettingsResult) :
    p.abandonSection x why = ((p.abandonFlagged x).append srcSettings 0x61
      (detail1 x.sec.val ++ detail1 (rangeCode x.range) ++ detail1 why.code ++ detail2 x.received ++
        detail2 x.forwarded)).handSettings := rfl

theorem Plant.abandonFlagged_sections (p : Plant) (x : Transaction) :
    p.abandonFlagged x = { p with sections := (p.abandonFlagged x).sections } := by
  unfold Plant.abandonFlagged
  split <;> rfl

/-- R142: abandoning a transaction flags at most its section, and hands entries. -/
theorem Plant.abandonSection_facts (p : Plant) (x : Transaction) (why : SettingsResult) :
    (p.abandonSection x why).clock = p.clock ∧ (p.abandonSection x why).mode = p.mode ∧
      ∃ more, (p.abandonSection x why).out = p.out ++ more := by
  rw [Plant.abandonSection_eq]
  obtain ⟨⟨inputs, more, handed⟩, -⟩ :=
    (Plant.append_kept (p.abandonFlagged x) srcSettings 0x61 _ false).trans (Plant.handSettings_kept _)
  refine ⟨inputs.clock.trans ?_, inputs.mode.trans ?_, more, handed.trans ?_⟩
  all_goals rw [Plant.abandonFlagged_sections]

theorem foldl_append_staging (c : Clock) (entries : List Draft) (l : LogUnit) :
    (entries.foldl (fun l d => l.append c d) l).staging = l.staging := by
  induction entries generalizing l with
  | nil => rfl
  | cons d rest ih =>
    refine (ih _).trans ?_
    show (l.append c d).staging = _
    unfold LogUnit.append
    split <;> rfl

/-- What UPRST's assertion hands first (R22). -/
def Plant.upstreamDraft (p : Plant) : Draft :=
  { source := srcSystem, kind := 0x03, urgent := false
    detail := detail1 p.mode.mode.code ++ detail1 p.mode.cause.code ++ detail4 p.clock.uptime.toNat }

theorem Plant.upstreamMode_facts (p : Plant) :
    p.upstreamMode.conclude.clock = p.clock ∧
      p.upstreamMode.conclude.mode = { p.mode with mode := .localControl, cause := .upstream } ∧
      (∃ more, p.upstreamMode.conclude.out = p.out ++ more) ∧
      (¬ (p.mode.mode = .localControl ∧ p.mode.cause = .upstream) →
        p.upstreamMode.conclude.shadow.get 0 = modeWord 0 .localControl .upstream ∧
          (0 : Fin 32) ∈ p.upstreamMode.conclude.corr) := by
  unfold Plant.upstreamMode
  split
  case isTrue already =>
    obtain ⟨⟨inputs, more, out⟩, -⟩ := p.conclude_kept
    refine ⟨inputs.clock, inputs.mode.trans ?_, ⟨more, out⟩, fun other => absurd already other⟩
    rw [← already.1, ← already.2]
  case isFalse other =>
    have acts := (p.changeMode_acts .localControl .upstream true).trans (Plant.conclude_kept _).acts
    obtain ⟨mode, word, pending, ⟨more, out⟩, -⟩ := Plant.changeMode_facts acts
    exact ⟨acts.inputs.clock, mode, ⟨_, out⟩, fun _ => ⟨word, pending⟩⟩

/-- R142: abandoning the transaction, if one is open. -/
theorem State.abandonTxn_facts (s : State) (why : SettingsResult) :
    (s.abandonTxn why).plant.clock = s.plant.clock ∧ (s.abandonTxn why).plant.mode = s.plant.mode ∧
      (∃ more, (s.abandonTxn why).plant.out = s.plant.out ++ more) ∧
      (s.abandonTxn why).settings.txn = none ∧
      (s.settings.txn = none → (s.abandonTxn why).settings = s.settings) ∧
      (∀ x, s.settings.txn = some x →
        (s.abandonTxn why).settings.last = some { sec := x.sec, range := x.range, result := why }) ∧
      (s.abandonTxn why).settings.lock = s.settings.lock ∧ (s.abandonTxn why).settings.freeze = s.settings.freeze ∧
      s.abandonTxn why = { s with plant := (s.abandonTxn why).plant, settings := (s.abandonTxn why).settings } := by
  unfold State.abandonTxn
  split
  case h_1 closed =>
    refine ⟨rfl, rfl, ⟨[], (List.append_nil _).symm⟩, closed, fun _ => rfl, fun x opened => ?_, rfl, rfl, rfl⟩
    rw [closed] at opened
    cases opened
  case h_2 x opened =>
    obtain ⟨clock, mode, out⟩ := s.plant.abandonSection_facts x why
    refine ⟨clock, mode, out, rfl, fun closed => ?_, fun y other => ?_, rfl, rfl, rfl⟩
    · rw [opened] at closed; cases closed
    · rw [opened] at other; cases other; rfl

/-- Settles O9: the assertion's three acts in their order, the transaction's abandonment and the mode change by the facts
above. -/
theorem upstreamResetTakesLocal : Obligations.UpstreamResetTakesLocal := by
  intro s out
  have port : s.upstreamDrops.port = if s.port.isWaiting then .idle else s.port := by
    cases kind : s.port
    all_goals
      unfold State.upstreamDrops
      dsimp only [State.onPlant, State.setStaging]
      rw [kind]
      rfl
  have drops : s.upstreamDrops = { s with
      uprst := true, port := if s.port.isWaiting then .idle else s.port
      plant := s.plant.endFreshness, log := { s.log with staging := none } } := by
    rw [← port]
    rfl
  refine ⟨fun released running => ?running, fun released loading => ?loading, fun asserted => ?asserted, rfl⟩
  case asserted => exact congrArg Host.Outcome.next (if_pos asserted)
  case loading =>
    refine congrArg Host.Outcome.next ?_
    unfold State.upstreamReset
    rw [released, if_neg Bool.false_ne_true, if_neg]
    · exact drops
    · intro running
      exact loading (beq_iff_eq.mp running)
  case running =>
    let logged := s.upstreamDrops.onPlant Plant.logUpstreamReset
    let abandoned := logged.abandonTxn .upstream
    let final := abandoned.onPlant (fun p => p.upstreamMode.conclude)
    have run : exec .upstreamReset s = .next (finish s final) := by
      refine congrArg Host.Outcome.next ?_
      unfold State.upstreamReset
      rw [released, if_neg Bool.false_ne_true, if_pos]
      exact beq_iff_eq.mpr running
    have logged_eq : logged = { s with
        uprst := true, port := if s.port.isWaiting then .idle else s.port
        plant := s.plant.endFreshness.logUpstreamReset, log := { s.log with staging := none } } := by
      show s.upstreamDrops.onPlant _ = _
      rw [drops]
      rfl
    obtain ⟨clock, mode, ⟨more, entries⟩, txn, closed, opened, lock, freeze, rest⟩ :=
      logged.abandonTxn_facts .upstream
    obtain ⟨clock', mode', ⟨more', entries'⟩, words⟩ := abandoned.plant.upstreamMode_facts
    have whole : final = { s with
        uprst := true, port := if s.port.isWaiting then .idle else s.port, plant := final.plant
        log := { s.log with staging := none }, settings := abandoned.settings } := by
      have held : abandoned = { s with
          uprst := true, port := if s.port.isWaiting then .idle else s.port, plant := abandoned.plant
          log := { s.log with staging := none }, settings := abandoned.settings } := by
        refine Eq.trans rest ?_
        generalize (logged.abandonTxn .upstream).plant = plant
        generalize (logged.abandonTxn .upstream).settings = settings
        rw [logged_eq]
      show { abandoned with plant := final.plant } = _
      generalize final.plant = plant
      generalize abandoned.settings = settings at held
      generalize abandoned.plant = plant' at held
      rw [held]
    have log : final.log = { s.log with staging := none } := by rw [whole]
    have settings : (finish s final).settings = abandoned.settings := by rw [finish_settings]; rfl
    have ended : finish s final = { s with
        uprst := true, port := if s.port.isWaiting then .idle else s.port, plant := (finish s final).plant
        log := (finish s final).log, settings := (finish s final).settings
        deposits := (finish s final).deposits } := by
      refine (finish_rest s final).trans ?_
      rw [settings, whole]
    have logged_plant : logged.plant = s.plant.endFreshness.logUpstreamReset := by rw [logged_eq]
    have logged_settings : logged.settings = s.settings := by rw [logged_eq]
    rw [logged_plant] at clock mode entries
    rw [logged_settings] at closed opened lock freeze
    have mode_end : (finish s final).plant.mode = { s.plant.mode with
        freshTimer := .stopped, fresh := false, mode := .localControl, cause := .upstream } := by
      rw [finish_plant]
      refine mode'.trans ?_
      rw [show abandoned.plant.mode = _ from mode]
      rfl
    have clock_end : (finish s final).plant.clock = { s.plant.clock with stagedLow := none, staging := .stopped } := by
      rw [finish_plant]
      exact clock'.trans clock
    refine ⟨finish s final, run, ?_, ?_, by rw [mode_end], by rw [mode_end], by rw [mode_end], by rw [mode_end],
      by rw [mode_end], clock_end, ?_, by rw [settings]; exact txn, fun idle => by rw [settings]; exact closed idle,
      fun x one => by rw [settings]; exact opened x one, by rw [settings]; exact lock, by rw [settings]; exact freeze,
      ?_, fun other => ?_, ?_, ?_, ?_⟩
    · rw [ended]
    · rw [ended]; exact running
    · rw [finish_log, log]
      exact foldl_append_staging _ _ _
    · rw [ended]
    · rw [finish_plant]
      refine words fun same => other ?_
      rw [show abandoned.plant.mode = _ from mode] at same
      exact same
    · refine ⟨more ++ more', ?_⟩
      have all : final.plant.out = s.plant.upstreamDraft :: (more ++ more') := by
        show abandoned.plant.upstreamMode.conclude.out = _
        rw [entries', show abandoned.plant.out = _ from entries, List.append_assoc]
        show (s.plant.out ++ [s.plant.upstreamDraft]) ++ _ = _
        rw [out]
        rfl
      rw [finish_log, log, all, show final.plant.clock = (finish s final).plant.clock by rw [finish_plant]]
      rfl
    · rw [show (finish s final).port = if s.port.isWaiting then .idle else s.port by rw [ended]]
      exact ended
    · exact finish_pages_same _ _ (by rw [whole])

end Sys2Proof.Machine
end

section
/-! What the end of an event leaves of the alarm unit (R94), and the requests on the mode word (R19): O23. -/

namespace Sys2Proof.Machine

/-! The load budget's round moves no point; its units hand theirs at its end. -/

theorem Plant.reverseRake_alarms (p : Plant) (n : Fin 2) : (p.reverseRake n).alarms = p.alarms := rfl

theorem Plant.checkOverload_alarms (p : Plant) (n : Fin 2) : (p.checkOverload n).alarms = p.alarms := by
  unfold Plant.checkOverload
  split <;> rfl

theorem Plant.backInRaking_alarms (p : Plant) (n : Fin 2) : (p.backInRaking n).alarms = p.alarms := by
  unfold Plant.backInRaking
  split
  · rfl
  · exact p.checkOverload_alarms n

theorem Plant.resumeRake_alarms (p : Plant) (n : Fin 2) : (p.resumeRake n).alarms = p.alarms := by
  unfold Plant.resumeRake
  dsimp only
  split
  · rfl
  · exact Plant.backInRaking_alarms _ n

theorem Plant.grantRake_alarms (p : Plant) (n : Fin 2) : (p.grantRake n).alarms = p.alarms := by
  unfold Plant.grantRake
  dsimp only
  split
  · exact Plant.checkOverload_alarms _ n
  · exact Plant.resumeRake_alarms _ n
  all_goals rfl

theorem foldl_alarms {α : Type} (f : Plant → α → Plant) (step : ∀ (p : Plant) a, (f p a).alarms = p.alarms)
    (l : List α) (p : Plant) : (l.foldl f p).alarms = p.alarms :=
  foldl_rel (fun p q => q.alarms = p.alarms) (fun _ => rfl) (fun _ _ _ first second => second.trans first) f step l p

theorem Plant.suspendRakes_alarms (p : Plant) : p.suspendRakes.alarms = p.alarms :=
  foldl_alarms (fun q n => q.suspendRake n) (fun _ _ => rfl) _ _

theorem Plant.startPump_alarms (p : Plant) (n : Fin 6) : (p.startPump n).alarms = p.alarms := by
  unfold Plant.startPump
  dsimp only
  split <;> simp [Plant.enterRunning]

theorem Plant.serveOnce_alarms {p q : Plant} (round : p.serveOnce = some q) : q.alarms = p.alarms := by
  rcases Plant.serveOnce_cases round with ⟨n, _, _, rfl⟩ | ⟨n, _, rfl⟩ | ⟨n, _, _, rfl⟩ | ⟨n, _, _, rfl⟩ | ⟨n, _, rfl⟩
  · exact p.startPump_alarms n
  · exact p.suspendRakes_alarms
  · rfl
  · exact p.grantRake_alarms n
  · rfl

theorem Plant.serve_alarms (p : Plant) (k : Nat) : (p.serve k).alarms = p.alarms :=
  Plant.serve_induct (fun q => q.alarms = p.alarms) (fun _ _ same round => (Plant.serveOnce_alarms round).trans same) k p rfl

/-- R94: handing a condition moves no other point. -/
theorem Plant.hand_point_ne (p : Plant) {k j : Fin 40} (other : j ≠ k) (b : Bool) :
    (p.hand k b).alarms.points.get j = p.alarms.points.get j := by
  unfold Plant.hand
  split_ifs
  · rfl
  · rw [Plant.pointOn_points, vset_get_ne _ _ other.symm]
  · rw [Plant.pointOff_points, vset_get_ne _ _ other.symm]

theorem foldl_point {α : Type} (j : Fin 40) (f : Plant → α → Plant)
    (step : ∀ (p : Plant) a, (f p a).alarms.points.get j = p.alarms.points.get j) (l : List α) (p : Plant) :
    (l.foldl f p).alarms.points.get j = p.alarms.points.get j :=
  foldl_rel (fun p q => q.alarms.points.get j = p.alarms.points.get j) (fun _ => rfl)
    (fun _ _ _ first second => second.trans first) f step l p

theorem Plant.handEach_point_ne (p : Plant) (views : List Plant) {k j : Fin 40} (other : j ≠ k) (c : Plant → Bool) :
    (p.handEach views k c).alarms.points.get j = p.alarms.points.get j :=
  foldl_point j _ (fun q _ => q.hand_point_ne other _) _ _

/-- The points of the pump unit and the screen unit, which the end of an event hands (R94). -/
def servedPoint (j : Fin 40) : Bool := j.val < 18 || j == 31 || j == 32

/-- R94: the end of an event moves the points of the pump unit and the screen unit alone. -/
theorem Plant.concludeAfter_point (p : Plant) (views : List Plant) {j : Fin 40} (other : servedPoint j = false) :
    (p.concludeAfter views).alarms.points.get j = p.alarms.points.get j := by
  simp only [servedPoint, Bool.or_eq_false_iff, decide_eq_false_iff_not, beq_eq_false_iff_ne] at other
  obtain ⟨⟨high, notHigh⟩, notLow⟩ := other
  have apart {k : Fin 40} (low : k.val < 18) : j ≠ k := fun same => high (same ▸ low)
  unfold Plant.concludeAfter
  split
  · rfl
  · dsimp only [Plant.handRakes, Plant.handPumps]
    rw [foldl_point j _ (fun q n => q.handEach_point_ne _ (apart (by show 16 + n.val < 18; omega)) _),
      foldl_point j _ (fun q n => q.handEach_point_ne _ (apart (by show 14 + n.val < 18; omega)) _),
      foldl_point j _ (fun q n => q.handEach_point_ne _ (apart (by show 12 + n.val < 18; omega)) _),
      Plant.handEach_point_ne _ _ notLow, Plant.handEach_point_ne _ _ notHigh,
      foldl_point j _ (fun q n => q.handEach_point_ne _ (apart (by show 6 + n.val < 18; omega)) _),
      foldl_point j _ (fun q n => q.handEach_point_ne _ (apart (by show n.val < 18; omega)) _), Plant.serve_alarms]

theorem Plant.conclude_point (p : Plant) {j : Fin 40} (other : servedPoint j = false) :
    p.conclude.alarms.points.get j = p.alarms.points.get j := p.concludeAfter_point [] other

/-! The requests on the mode word. -/

/-- The requested field of a mode word (R17). -/
def modeField (v : Word) : Nat := (v.extractLsb' 0 2).toNat

theorem modeField_append (rest : BitVec 14) (c : BitVec 2) : modeField (rest ++ c : Word) = c.toNat :=
  congrArg BitVec.toNat BitVec.extractLsb'_append_eq_right

theorem State.judgeMode_none {s : State} {v : Word} (field : modeField v = 0) :
    s.judgeMode v = (s.withPlant (s.plant.setModeWord 0), .rewrite ((s.plant.setModeWord 0).shadow.get 0)) := by
  unfold State.judgeMode
  rw [show (v.extractLsb' 0 2).toNat = 0 from field]
  rfl

theorem State.judgeMode_auto {s : State} {v : Word} (field : modeField v = 1) :
    s.judgeMode v =
      if s.plant.mode.mode = .auto then
        (s.withPlant (s.plant.setModeWord 1), .rewrite ((s.plant.setModeWord 1).shadow.get 0))
      else if s.autoAllowed then
        (s.withPlant ((s.plant.changeMode .auto .none false).conclude.setModeWord 1),
          .rewrite (((s.plant.changeMode .auto .none false).conclude.setModeWord 1).shadow.get 0))
      else (s.withPlant (s.plant.setModeWord 0), .trim ((s.plant.setModeWord 0).shadow.get 0) .modeRefused) := by
  unfold State.judgeMode
  rw [show (v.extractLsb' 0 2).toNat = 1 from field]
  rfl

theorem State.judgeMode_local {s : State} {v : Word} (field : modeField v = 2) :
    s.judgeMode v = (s.withPlant (s.plant.requestLocal.setModeWord 2),
      .rewrite ((s.plant.requestLocal.setModeWord 2).shadow.get 0)) := by
  unfold State.judgeMode
  rw [show (v.extractLsb' 0 2).toNat = 2 from field]
  rfl

theorem State.judgeMode_bad {s : State} {v : Word} (field : modeField v = 3) :
    s.judgeMode v = (s.withPlant (s.plant.setModeWord 0), .trim ((s.plant.setModeWord 0).shadow.get 0) .badCode) := by
  unfold State.judgeMode
  rw [show (v.extractLsb' 0 2).toNat = 3 from field]
  rfl

theorem Plant.setModeWord_word (p : Plant) (requested : Nat) :
    (p.setModeWord requested).shadow.get 0 = modeWord requested p.mode.mode p.mode.cause := vset_get_same _ _ _

/-- R23: the point of LOCAL_MODE after a mode change. -/
theorem Plant.changeMode_localMode (p : Plant) {m : Mode} (c : ModeCause) (byPart : Bool) (running : m ≠ .load) :
    ((p.changeMode m c byPart).alarms.points.get 35).condition =
      (m == .localControl && (c == .lapse || c == .upstream)) := by
  have handed (q : Plant) (mode : q.mode = { p.mode with mode := m, cause := c }) :
      ((q.hand 35 q.localModeCondition).alarms.points.get 35).condition =
        (m == .localControl && (c == .lapse || c == .upstream)) := by
    have taken : q.loading = false := by
      unfold Plant.loading
      rw [mode]
      exact beq_eq_false_iff_ne.mpr running
    rw [Plant.hand_condition taken]
    unfold Plant.localModeCondition
    rw [mode]
  rw [Plant.changeMode_eq]
  dsimp only
  generalize (if byPart then 0 else p.requestedCode) = requested
  refine handed _ ?_
  split
  · exact (Plant.adopt_acts _).inputs.mode
  · rfl

theorem modeChangeUrgent_quiet {m : Mode} {c : ModeCause} (quiet : m ≠ .localControl ∨ (c ≠ .lapse ∧ c ≠ .upstream)) :
    modeChangeUrgent m c = false := by
  unfold modeChangeUrgent
  rw [Bool.and_eq_false_iff, beq_eq_false_iff_ne]
  refine quiet.imp_right fun ⟨notLapse, notUpstream⟩ => ?_
  rw [Bool.or_eq_false_iff, beq_eq_false_iff_ne, beq_eq_false_iff_ne]
  exact ⟨notLapse, notUpstream⟩

/-- R19: a mode change that a request makes, and the word that goes out after it. -/
theorem Plant.requestedChange_facts (p : Plant) {m : Mode} (c : ModeCause) (requested : Nat) (running : m ≠ .load)
    (quiet : m ≠ .localControl ∨ (c ≠ .lapse ∧ c ≠ .upstream)) :
    let q := (p.changeMode m c false).conclude.setModeWord requested
    q.mode = { p.mode with mode := m, cause := c } ∧ q.shadow.get 0 = modeWord requested m c ∧ (0 : Fin 32) ∈ q.corr ∧
      (∃ more, q.out = p.out ++ p.modeDraft m c :: more) ∧ (q.alarms.points.get 35).condition = false ∧
      (({ p with mode := q.mode } : Plant).setShadow 0 (modeWord requested m c)).RunsOnly q := by
  intro q
  have acts := (p.changeMode_acts m c false).trans (Plant.conclude_kept _).acts
  obtain ⟨mode, -, pending, out, runs⟩ := Plant.changeMode_facts acts
  have word : q.shadow.get 0 = modeWord requested m c := by
    show ((p.changeMode m c false).conclude.setModeWord requested).shadow.get 0 = _
    rw [Plant.setModeWord_word, mode]
  refine ⟨mode, word, pending, out, ?_, ?_⟩
  · show ((p.changeMode m c false).conclude.alarms.points.get 35).condition = false
    rw [Plant.conclude_point _ rfl, Plant.changeMode_localMode p c false running]
    exact modeChangeUrgent_quiet quiet
  · have others (i : Fin 32) (other : i ≠ 0) :
        q.shadow.get i = (p.changeMode m c false).conclude.shadow.get i := vset_get_ne _ _ other.symm
    have before (i : Fin 32) (other : i ≠ 0) (r r' : Nat) :
        ((({ p with mode := q.mode } : Plant).setShadow 0 (modeWord r m c)).shadow.get i) =
          (({ p with mode := q.mode } : Plant).setShadow 0 (modeWord r' m c)).shadow.get i :=
      (vset_get_ne _ _ other.symm).trans (vset_get_ne _ _ other.symm).symm
    refine ⟨⟨runs.inputs.clock, runs.inputs.levels, rfl, runs.inputs.weirs, runs.inputs.sections, runs.inputs.raw,
      runs.inputs.debounced, runs.inputs.stability⟩, fun i other => ?_, fun n k high => ?_, runs.corr⟩
    · by_cases zero : i = 0
      · subst zero
        exact word.trans (vset_get_same _ _ _).symm
      · rw [others i zero, before i zero requested p.requestedCode]
        exact runs.words i other
    · rw [others _ (pumpWord_ne_zero n), before _ (pumpWord_ne_zero n) requested p.requestedCode]
      exact runs.bits n k high

/-- Settles O23: `State.judgeMode` by the requested field, and `Plant.requestedChange_facts` where it changes the mode. -/
theorem modeRequestsAreJudged : Obligations.ModeRequestsAreJudged := by
  intro s rest out kept sent moved
  have sends {v : Word} (requested : Nat) {verdict : Verdict} (taken : s.Takes (s.commandWrite 0 v))
      (judged : (s.present (s.commandWrite 0 v)).judgeMode v =
        ((s.present (s.commandWrite 0 v)).withPlant (s.plant.setModeWord requested), verdict)) :
      sent (s.modeWrite v) (s.commandWrite 0 v) verdict (kept requested) := by
    obtain ⟨step, plant, log, settings, link⟩ := access_step (judge := fun t => t.judgeMode v) taken judged
      ((Judging.start taken).withPlant _) (fun _ => rfl) rfl
    refine ⟨step, plant.trans ?_, log.trans ?_, settings.trans taken.present_settings, link.trans taken.present_link⟩
    · simp only [← out]
      rfl
    · rw [show ((s.present (s.commandWrite 0 v)).withPlant (s.plant.setModeWord requested)).log = s.log from taken.present_log]
      show (s.plant.out ++ _).foldl _ _ = _
      rw [out]
      rfl
  have moves {v : Word} (requested : Nat) {m : Mode} (c : ModeCause) (taken : s.Takes (s.commandWrite 0 v))
      (running : m ≠ .load) (quiet : m ≠ .localControl ∨ (c ≠ .lapse ∧ c ≠ .upstream))
      (judged : (s.present (s.commandWrite 0 v)).judgeMode v =
        ((s.present (s.commandWrite 0 v)).withPlant ((s.plant.changeMode m c false).conclude.setModeWord requested),
          .rewrite (((s.plant.changeMode m c false).conclude.setModeWord requested).shadow.get 0))) :
      moved (s.modeWrite v) (s.commandWrite 0 v) requested m c := by
    obtain ⟨mode, word, pending, ⟨more, entries⟩, point, runs⟩ :=
      s.plant.requestedChange_facts c requested running quiet
    rw [word] at judged
    obtain ⟨step, plant, log, settings, link⟩ := access_step (judge := fun t => t.judgeMode v) taken judged
      ((Judging.start taken).withPlant _) (fun _ => rfl) runs.inputs.clock
    have plant' : (s.modeWrite v).plant = _ := plant
    generalize (s.plant.changeMode m c false).conclude.setModeWord requested = q at *
    have log' : (s.modeWrite v).log = (q.out ++ s.outcomeEntries (s.commandWrite 0 v)
        (.rewrite (modeWord requested m c))).foldl (fun l d => l.append q.clock d) (s.present (s.commandWrite 0 v)).log := log
    rw [taken.present_log, entries, out, show s.outcomeEntries (s.commandWrite 0 v) (.rewrite (modeWord requested m c)) = []
      from rfl, List.append_nil] at log'
    refine ⟨step, ⟨more, ?_⟩, ?_, ?_, ?_, ?_, ?_, settings.trans taken.present_settings, link.trans taken.present_link⟩
    · rw [log', plant', ← modeChangeUrgent_quiet quiet]
      rfl
    all_goals rw [plant']
    · exact mode
    · exact word
    · exact pending
    · exact point
    · exact ⟨⟨runs.inputs.clock, runs.inputs.levels, rfl, runs.inputs.weirs, runs.inputs.sections, runs.inputs.raw,
        runs.inputs.debounced, runs.inputs.stability⟩, runs.words, runs.bits, runs.corr⟩
  have allowed (v : Word) (taken : s.Takes (s.commandWrite 0 v)) :
      (s.present (s.commandWrite 0 v)).autoAllowed = s.autoAllowed := by rw [taken.present]; rfl
  have word (requested : Nat) : (s.plant.setModeWord requested).shadow.get 0 = kept requested :=
    Plant.setModeWord_word _ _
  refine ⟨fun taken => ⟨_, rfl, ?_⟩, fun taken => ⟨_, rfl, ?_⟩, fun taken => ⟨_, rfl, fun inLocal => ?_, fun inAuto => ?_⟩,
    fun taken => ⟨_, rfl, fun inAuto => ?_, fun inLocal fresh released => ?_, fun inLocal barred => ?_⟩⟩
  · exact sends 0 taken (by rw [State.judgeMode_none (modeField_append _ _), taken.present_plant, word])
  · exact sends 0 taken (by rw [State.judgeMode_bad (modeField_append _ _), taken.present_plant, word])
  · refine sends 2 taken ?_
    rw [State.judgeMode_local (modeField_append _ _), taken.present_plant, show s.plant.requestLocal = s.plant from
      if_neg (by rw [inLocal]; decide), word]
  · refine moves 2 .commanded taken (by decide) (Or.inr ⟨by decide, by decide⟩) ?_
    rw [State.judgeMode_local (modeField_append _ _), taken.present_plant,
      show s.plant.requestLocal = (s.plant.changeMode .localControl .commanded false).conclude from if_pos inAuto]
  · exact sends 1 taken (by rw [State.judgeMode_auto (modeField_append _ _), taken.present_plant, if_pos inAuto, word])
  · have granted : s.autoAllowed = true := by
      unfold State.autoAllowed
      rw [inLocal, fresh, released]
      rfl
    refine moves 1 .none taken (by decide) (Or.inl (by decide)) ?_
    rw [State.judgeMode_auto (modeField_append _ _), allowed _ taken, taken.present_plant,
      if_neg (by rw [inLocal]; decide), if_pos granted]
  · have refused : ¬ s.autoAllowed = true := by
      unfold State.autoAllowed
      rcases barred with stale | asserted
      · simp [stale]
      · simp [asserted]
    refine sends 0 taken ?_
    rw [State.judgeMode_auto (modeField_append _ _), allowed _ taken, taken.present_plant,
      if_neg (by rw [inLocal]; decide), if_neg refused, word]

end Sys2Proof.Machine
end

section
/-! What the end of an event leaves: the conditions that its units hand (R94), and the rakes that nothing serves. -/

namespace Sys2Proof.Machine

/-! The conditions handed at the end of an event. -/

theorem foldl_loading {α : Type} (f : Plant → α → Plant) (step : ∀ (p : Plant) a, (f p a).loading = p.loading)
    (l : List α) (p : Plant) : (l.foldl f p).loading = p.loading :=
  foldl_rel (fun p q => q.loading = p.loading) (fun _ => rfl) (fun _ _ _ first second => second.trans first) f step l p

theorem Plant.Kept.loading {p q : Plant} (kept : p.Kept q) : q.loading = p.loading := by
  unfold Plant.loading
  rw [kept.1.1.mode]

/-- R94: of the values handed in turn the last stays. -/
theorem Plant.handEach_condition {p : Plant} (running : p.loading = false) (views : List Plant) (last : Plant)
    (k : Fin 40) (c : Plant → Bool) :
    ((p.handEach (views ++ [last]) k c).alarms.points.get k).condition = c last := by
  unfold Plant.handEach
  rw [List.foldl_append]
  exact Plant.hand_condition (((foldl_kept _ (fun q v => q.hand_kept k (c v)) views p).loading).trans running) k _

/-- A unit hands the conditions of its members, each at its own point. -/
theorem foldl_handEach_condition {α : Type} (members : List α) (point : α → Fin 40) (views : List Plant) (last : Plant)
    (c : α → Plant → Bool) (apart : ∀ a b, point a = point b → a = b) :
    ∀ p : Plant, p.loading = false → ∀ a ∈ members,
      ((members.foldl (fun q n => q.handEach (views ++ [last]) (point n) (c n)) p).alarms.points.get (point a)).condition =
        c a last := by
  classical
  induction members with
  | nil => intro p _ a mem; cases mem
  | cons b rest ih =>
    intro p running a mem
    have running' : (p.handEach (views ++ [last]) (point b) (c b)).loading = false :=
      ((p.handEach_kept _ _ _).loading).trans running
    by_cases later : a ∈ rest
    · exact ih _ running' a later
    · obtain rfl : a = b := (List.mem_cons.mp mem).resolve_right later
      show ((rest.foldl _ (p.handEach _ _ _)).alarms.points.get (point a)).condition = _
      have untouched : ∀ (l : List α) (q : Plant), a ∉ l →
          (l.foldl (fun q n => q.handEach (views ++ [last]) (point n) (c n)) q).alarms.points.get (point a) =
            q.alarms.points.get (point a) := by
        intro l
        induction l with
        | nil => exact fun _ _ => rfl
        | cons d l ih' =>
          intro q absent
          obtain ⟨other, absent⟩ := not_or.mp (fun h => absent (List.mem_cons.mpr h))
          exact (ih' _ absent).trans (q.handEach_point_ne _ (fun same => other (apart _ _ same)) _)
      rw [untouched rest _ later, Plant.handEach_condition running]

theorem tripPoint_inj (n m : Fin 6) (same : tripPoint n = tripPoint m) : n = m :=
  Fin.ext (Fin.mk.inj same)

theorem limitPoint_inj (n m : Fin 6) (same : limitPoint n = limitPoint m) : n = m :=
  Fin.ext (Nat.add_left_cancel (Fin.mk.inj same))

theorem jamPoint_inj (n m : Fin 2) (same : jamPoint n = jamPoint m) : n = m :=
  Fin.ext (Nat.add_left_cancel (Fin.mk.inj same))

theorem blindedPoint_inj (n m : Fin 2) (same : blindedPoint n = blindedPoint m) : n = m :=
  Fin.ext (Nat.add_left_cancel (Fin.mk.inj same))

theorem heldPoint_inj (n m : Fin 2) (same : heldPoint n = heldPoint m) : n = m :=
  Fin.ext (Nat.add_left_cancel (Fin.mk.inj same))

/-- The end of an event in its parts: the load budget's round, then what the two units hand. -/
theorem Plant.concludeAfter_running {p : Plant} (running : p.loading = false) (views : List Plant) :
    p.concludeAfter views = ((p.serve serveBound).handPumps (views ++ [p, p.serve serveBound])).handRakes
      (views ++ [p, p.serve serveBound]) :=
  if_neg (by rw [running]; exact Bool.false_ne_true)

/-- The conditions of the pump unit stay through what the screen unit hands. -/
theorem Plant.handRakes_point (p : Plant) (views : List Plant) {j : Fin 40} (other : j.val < 12 ∨ 18 ≤ j.val) :
    (p.handRakes views).alarms.points.get j = p.alarms.points.get j := by
  have apart {k : Fin 40} (low : 12 ≤ k.val) (high : k.val < 18) : j ≠ k := fun same => by omega
  dsimp only [Plant.handRakes]
  rw [foldl_point j _ (fun q n => q.handEach_point_ne _ (apart (by show 12 ≤ 16 + n.val; omega) (by show 16 + n.val < 18; omega)) _),
    foldl_point j _ (fun q n => q.handEach_point_ne _ (apart (by show 12 ≤ 14 + n.val; omega) (by show 14 + n.val < 18; omega)) _),
    foldl_point j _ (fun q n => q.handEach_point_ne _ (apart (by show 12 ≤ 12 + n.val; omega) (by show 12 + n.val < 18; omega)) _)]

/-- What the pump unit hands leaves its conditions announced (R94). -/
theorem Plant.handPumps_announced {p : Plant} (running : p.loading = false) (views : List Plant) (last : Plant) :
    let q := p.handPumps (views ++ [last])
    (∀ n, (q.alarms.points.get (tripPoint n)).condition = last.tripCondition n) ∧
      (∀ n, (q.alarms.points.get (limitPoint n)).condition = last.limitCondition n) ∧
      (q.alarms.points.get 31).condition = last.floatHighActive ∧
      (q.alarms.points.get 32).condition = last.lowLowActive := by
  dsimp only [Plant.handPumps]
  have trips := (foldl_kept _ (fun q n => q.handEach_kept (views ++ [last]) (tripPoint n) (fun v => v.tripCondition n))
    allPumps p).loading.trans running
  have limits := (foldl_kept _ (fun q n => q.handEach_kept (views ++ [last]) (limitPoint n) (fun v => v.limitCondition n))
    allPumps _).loading.trans trips
  refine ⟨fun n => ?_, fun n => ?_, ?_, ?_⟩
  · have low : (tripPoint n).val < 6 := n.isLt
    rw [Plant.handEach_point_ne _ _ (fun same => absurd (same ▸ low) (by decide)),
      Plant.handEach_point_ne _ _ (fun same => absurd (same ▸ low) (by decide)),
      foldl_point _ _ (fun q m => q.handEach_point_ne _
        (fun same => absurd (congrArg Fin.val same) (by show n.val ≠ 6 + m.val; omega)) _),
      foldl_handEach_condition allPumps tripPoint views last (fun n v => v.tripCondition n) tripPoint_inj p running n
        (mem_allPumps n)]
  · have low : (limitPoint n).val < 12 := by show 6 + n.val < 12; omega
    rw [Plant.handEach_point_ne _ _ (fun same => absurd (same ▸ low) (by decide)),
      Plant.handEach_point_ne _ _ (fun same => absurd (same ▸ low) (by decide)),
      foldl_handEach_condition allPumps limitPoint views last (fun n v => v.limitCondition n) limitPoint_inj _ trips n
        (mem_allPumps n)]
  · rw [Plant.handEach_point_ne _ _ (by decide), Plant.handEach_condition limits]
  · rw [Plant.handEach_condition ((Plant.handEach_kept _ _ _ _).loading.trans limits)]

/-- What the screen unit hands leaves its conditions announced (R94). -/
theorem Plant.handRakes_announced {p : Plant} (running : p.loading = false) (views : List Plant) (last : Plant) :
    let q := p.handRakes (views ++ [last])
    (∀ n, (q.alarms.points.get (jamPoint n)).condition = ((last.rake n).state == .jammed)) ∧
      (∀ n, (q.alarms.points.get (blindedPoint n)).condition = (last.rake n).blinded) ∧
      ∀ n, (q.alarms.points.get (heldPoint n)).condition = (last.rake n).held := by
  dsimp only [Plant.handRakes]
  have jams := (foldl_kept _ (fun q n => q.handEach_kept (views ++ [last]) (jamPoint n)
    (fun v => (v.rakes.get n).state == .jammed)) allRakes p).loading.trans running
  have blinds := (foldl_kept _ (fun q n => q.handEach_kept (views ++ [last]) (blindedPoint n)
    (fun v => (v.rakes.get n).blinded)) allRakes _).loading.trans jams
  refine ⟨fun n => ?_, fun n => ?_, fun n => ?_⟩
  · rw [foldl_point _ _ (fun q m => q.handEach_point_ne _
        (fun same => absurd (congrArg Fin.val same) (by show 12 + n.val ≠ 16 + m.val; omega)) _),
      foldl_point _ _ (fun q m => q.handEach_point_ne _
        (fun same => absurd (congrArg Fin.val same) (by show 12 + n.val ≠ 14 + m.val; omega)) _),
      foldl_handEach_condition allRakes jamPoint views last (fun n v => (v.rakes.get n).state == .jammed) jamPoint_inj p
        running n (mem_allRakes n)]
    rfl
  · rw [foldl_point _ _ (fun q m => q.handEach_point_ne _
        (fun same => absurd (congrArg Fin.val same) (by show 14 + n.val ≠ 16 + m.val; omega)) _),
      foldl_handEach_condition allRakes blindedPoint views last (fun n v => (v.rakes.get n).blinded) blindedPoint_inj _
        jams n (mem_allRakes n)]
    rfl
  · rw [foldl_handEach_condition allRakes heldPoint views last (fun n v => (v.rakes.get n).held) heldPoint_inj _
        blinds n (mem_allRakes n)]
    rfl

/-- A reading of the settings in force stays with the sections. -/
theorem Plant.SameInputs.reads {α : Type} {p q : Plant} (inputs : p.SameInputs q) (f : Plant → α)
    (reads : ∀ p : Plant, f p = f { Plant.reset with sections := p.sections }) : f q = f p := by
  rw [reads q, reads p, inputs.sections]

theorem Plant.SameInputs.currentLimit {p q : Plant} (inputs : p.SameInputs q) (n : Fin 6) :
    q.currentLimit n = p.currentLimit n := by
  unfold Plant.currentLimit
  rw [inputs.reads (fun p => p.startsPerHour n) (fun _ => rfl), inputs.reads Plant.stormAllowance (fun _ => rfl), inputs.mode]

theorem Plant.SameInputs.active {p q : Plant} (inputs : p.SameInputs q) (l : Fin 30) : q.active l = p.active l := by
  unfold Plant.active
  rw [inputs.debounced, inputs.reads (fun p => p.openActive l) (fun _ => rfl)]

/-- The conditions of the two units look at the units and the inputs alone. -/
theorem Plant.Kept.conditions {p q : Plant} (kept : p.Kept q) (units : p.SameUnits q) :
    (∀ n, q.tripCondition n = p.tripCondition n) ∧ (∀ n, q.limitCondition n = p.limitCondition n) ∧
      q.floatHighActive = p.floatHighActive ∧ q.lowLowActive = p.lowLowActive := by
  obtain ⟨⟨inputs, -⟩, -⟩ := kept
  obtain ⟨pumps, -⟩ := units
  refine ⟨fun n => ?_, fun n => ?_, ?_, ?_⟩
  · simp only [Plant.tripCondition, pumps]
  · unfold Plant.limitCondition Plant.atLimit
    rw [pumps, inputs.currentLimit]
  · exact inputs.active 26
  · exact inputs.active 27

/-- R94: outside LOAD the end of an event leaves the conditions of the pump unit and the screen unit announced. -/
theorem Plant.concludeAfter_announced {p : Plant} (running : p.loading = false) (views : List Plant) :
    (p.concludeAfter views).Announced := by
  rw [Plant.concludeAfter_running running, show views ++ [p, p.serve serveBound] = (views ++ [p]) ++ [p.serve serveBound] by
    rw [List.append_assoc]; rfl]
  have served := (p.serve_kept serveBound).loading.trans running
  generalize p.serve serveBound = q at served
  generalize views ++ [p] = before
  have handed := (q.handPumps_kept (before ++ [q])).loading.trans served
  have kept := (q.handPumps_kept (before ++ [q])).trans (Plant.handRakes_kept _ (before ++ [q]))
  have units := (q.handPumps_units (before ++ [q])).trans (Plant.handRakes_units _ (before ++ [q]))
  obtain ⟨trip, limit, high, lowLow⟩ := Plant.handPumps_announced served before q
  obtain ⟨jam, blinded, held⟩ := Plant.handRakes_announced handed before q
  obtain ⟨trip', limit', high', lowLow'⟩ := kept.conditions units
  refine ⟨fun n => ?_, fun n => ?_, fun n => ?_, fun n => ?_, fun n => ?_, ?_, ?_⟩
  · rw [Plant.handRakes_point _ _ (Or.inl (by show n.val < 12; omega)), trip, trip']
  · rw [Plant.handRakes_point _ _ (Or.inl (by show 6 + n.val < 12; omega)), limit, limit']
  · rw [jam, units.rake n]
  · rw [blinded, units.rake n]
  · rw [held, units.rake n]
  · rw [Plant.handRakes_point _ _ (Or.inr (by decide)), high, high']
  · rw [Plant.handRakes_point _ _ (Or.inr (by decide)), lowLow, lowLow']

theorem Plant.conclude_announced {p : Plant} (running : p.loading = false) : p.conclude.Announced :=
  Plant.concludeAfter_announced running []

/-! What the acts of one rake leave of the others. -/

/-- Of the rakes and the claims, only rake `n` and its claim have moved. -/
def Plant.OnlyRake (n : Fin 2) (p q : Plant) : Prop :=
  (∀ m, m ≠ n → q.rake m = p.rake m) ∧ ∀ h, h ≠ rakeHolder n → q.claim h = p.claim h

theorem Plant.OnlyRake.refl (n : Fin 2) (p : Plant) : Plant.OnlyRake n p p := ⟨fun _ _ => rfl, fun _ _ => rfl⟩

theorem Plant.OnlyRake.trans {n : Fin 2} {p q r : Plant} (first : Plant.OnlyRake n p q) (second : Plant.OnlyRake n q r) :
    Plant.OnlyRake n p r :=
  ⟨fun m other => (second.1 m other).trans (first.1 m other), fun h other => (second.2 h other).trans (first.2 h other)⟩

@[simp] theorem Plant.rake_setRake (p : Plant) (n : Fin 2) (r : Rake) : (p.setRake n r).rake n = r := vset_get_same _ _ _

theorem Plant.rake_setRake_ne (p : Plant) {n m : Fin 2} (other : m ≠ n) (r : Rake) : (p.setRake n r).rake m = p.rake m :=
  vset_get_ne _ _ other.symm

@[simp] theorem Plant.rake_setClaim (p : Plant) (h : Fin 8) (c : Claim) (n : Fin 2) : (p.setClaim h c).rake n = p.rake n := rfl

@[simp] theorem Plant.claim_setRake (p : Plant) (h : Fin 8) (n : Fin 2) (r : Rake) : (p.setRake n r).claim h = p.claim h := rfl

@[simp] theorem Plant.rake_append (p : Plant) (a b : Byte) (d : List Byte) (u : Bool) (n : Fin 2) :
    (p.append a b d u).rake n = p.rake n := rfl

@[simp] theorem Plant.claim_append (p : Plant) (a b : Byte) (d : List Byte) (u : Bool) (h : Fin 8) :
    (p.append a b d u).claim h = p.claim h := rfl

theorem Plant.setRake_only (p : Plant) (n : Fin 2) (r : Rake) : Plant.OnlyRake n p (p.setRake n r) :=
  ⟨fun _ other => p.rake_setRake_ne other r, fun _ _ => rfl⟩

theorem Plant.setRakeClaim_only (p : Plant) (n : Fin 2) (c : Claim) : Plant.OnlyRake n p (p.setClaim (rakeHolder n) c) :=
  ⟨fun _ _ => rfl, fun _ other => p.claim_setClaim_ne other.symm c⟩

theorem Plant.append_only (n : Fin 2) (p : Plant) (a b : Byte) (d : List Byte) (u : Bool) :
    Plant.OnlyRake n p (p.append a b d u) := ⟨fun _ _ => rfl, fun _ _ => rfl⟩

theorem Plant.reverseRake_only (p : Plant) (n : Fin 2) : Plant.OnlyRake n p (p.reverseRake n) :=
  (p.setRake_only n _).trans (Plant.append_only n _ _ _ _ _)

theorem Plant.checkOverload_only (p : Plant) (n : Fin 2) : Plant.OnlyRake n p (p.checkOverload n) := by
  unfold Plant.checkOverload
  split
  · exact p.reverseRake_only n
  · exact .refl n p

theorem Plant.startRake_only (p : Plant) (n : Fin 2) : Plant.OnlyRake n p (p.startRake n) :=
  ((p.setRake_only n _).trans (Plant.append_only n _ _ _ _ _)).trans (Plant.checkOverload_only _ n)

theorem Plant.endCycle_only (p : Plant) (n : Fin 2) : Plant.OnlyRake n p (p.endCycle n) :=
  ((Plant.append_only n p _ _ _ _).trans (Plant.setRakeClaim_only _ n _)).trans (Plant.setRake_only _ n _)

theorem Plant.backInRaking_only (p : Plant) (n : Fin 2) : Plant.OnlyRake n p (p.backInRaking n) := by
  unfold Plant.backInRaking
  split
  · exact p.endCycle_only n
  · exact p.checkOverload_only n

theorem Plant.resumeRake_only (p : Plant) (n : Fin 2) : Plant.OnlyRake n p (p.resumeRake n) := by
  unfold Plant.resumeRake
  dsimp only
  split
  · exact (p.setRake_only n _).trans (Plant.append_only n _ _ _ _ _)
  · exact ((p.setRake_only n _).trans (Plant.append_only n _ _ _ _ _)).trans (Plant.backInRaking_only _ n)

theorem Plant.grantRake_only (p : Plant) (n : Fin 2) : Plant.OnlyRake n p (p.grantRake n) := by
  have claimed := p.setRakeClaim_only n { p.claim (rakeHolder n) with status := .held }
  unfold Plant.grantRake
  dsimp only
  split
  · exact claimed.trans (Plant.startRake_only _ n)
  · exact claimed.trans (Plant.resumeRake_only _ n)
  all_goals exact .refl n p

theorem Plant.triggerRake_only (p : Plant) (n : Fin 2) (t : Trigger) : Plant.OnlyRake n p (p.triggerRake n t) :=
  (p.setRake_only n _).trans (Plant.setRakeClaim_only _ n _)

theorem Plant.suspendRake_only (p : Plant) (n : Fin 2) : Plant.OnlyRake n p (p.suspendRake n) :=
  ((p.setRake_only n _).trans (Plant.setRakeClaim_only _ n _)).trans (Plant.append_only n _ _ _ _ _)

/-- The orders to suspend reach the rakes in motion alone. -/
theorem Plant.suspendRakes_rake (p : Plant) {n : Fin 2} (idle : (p.claim (rakeHolder n)).status ≠ .held) :
    p.suspendRakes.rake n = p.rake n ∧ p.suspendRakes.claim (rakeHolder n) = p.claim (rakeHolder n) := by
  have absent : n ∉ p.rakesInMotion := by
    intro mem
    exact idle (beq_iff_eq.mp (List.mem_filter.mp mem).2)
  unfold Plant.suspendRakes
  generalize p.rakesInMotion = rakes at absent
  have still : ∀ q : Plant, (rakes.foldl (fun q m => q.suspendRake m) q).rake n = q.rake n ∧
      (rakes.foldl (fun q m => q.suspendRake m) q).claim (rakeHolder n) = q.claim (rakeHolder n) := by
    induction rakes with
    | nil => exact fun _ => ⟨rfl, rfl⟩
    | cons m rest ih =>
      intro q
      obtain ⟨other, absent⟩ := not_or.mp (fun h => absent (List.mem_cons.mpr h))
      obtain ⟨rake, claim⟩ := ih absent (q.suspendRake m)
      obtain ⟨rakes, claims⟩ := q.suspendRake_only m
      exact ⟨rake.trans (rakes n other), claim.trans (claims _ fun same => other (rakeHolder_inj same))⟩
  exact still p

theorem Plant.rakeToGrant_waiting {p : Plant} {n : Fin 2} (found : p.rakeToGrant = some n) :
    (p.claim (rakeHolder n)).status = .waiting := by
  have := List.find?_some found
  rw [Bool.and_eq_true] at this
  exact beq_iff_eq.mp this.1

theorem Plant.stormTrigger_idle {p : Plant} {n : Fin 2} (found : p.stormTrigger = some n) :
    p.mode.storm = true ∧ (p.rake n).state = .idle := by
  unfold Plant.stormTrigger at found
  split at found
  case isTrue storm =>
    have idle := List.find?_some found
    exact ⟨storm, beq_iff_eq.mp idle⟩
  case isFalse => cases found

/-- The end of an event leaves a rake without a claim as it is, unless storm posture triggers it in IDLE (R65). -/
theorem Plant.conclude_rake_kept (p : Plant) (n : Fin 2) (free : (p.claim (rakeHolder n)).status = .none)
    (calm : (p.rake n).state ≠ .idle ∨ p.mode.storm = false) :
    p.conclude.rake n = p.rake n ∧ p.conclude.claim (rakeHolder n) = p.claim (rakeHolder n) := by
  have law : p.conclude.rake n = p.rake n ∧ p.conclude.claim (rakeHolder n) = p.claim (rakeHolder n) ∧
      p.conclude.mode = p.mode := by
    refine Plant.conclude_induct
      (fun q => q.rake n = p.rake n ∧ q.claim (rakeHolder n) = p.claim (rakeHolder n) ∧ q.mode = p.mode) ?_ ?_ p
      ⟨rfl, rfl, rfl⟩
    · intro q r kept units ⟨rake, claim, mode⟩
      exact ⟨(units.rake n).trans rake, (units.claim _).trans claim, kept.1.1.mode.trans mode⟩
    · intro q r ⟨rake, claim, mode⟩ round
      have mode' := (Plant.serveOnce_kept round).1.1.mode.trans mode
      rcases Plant.serveOnce_cases round with ⟨m, _, _, rfl⟩ | ⟨m, _, rfl⟩ | ⟨m, _, _, rfl⟩ | ⟨m, _, found, rfl⟩ |
        ⟨m, found, rfl⟩
      · refine ⟨?_, ?_, mode'⟩
        · show (q.startPump m).rakes.get n = _
          rw [Plant.startPump_rakes]
          exact rake
        · rw [Plant.claim_startPump, if_neg (pumpHolder_ne_rakeHolder m n)]
          exact claim
      · obtain ⟨rake', claim'⟩ := q.suspendRakes_rake (n := n) (by rw [claim, free]; decide)
        exact ⟨rake'.trans rake, claim'.trans claim, mode'⟩
      · exact ⟨rake, (q.claim_setClaim_ne (pumpHolder_ne_rakeHolder m n) _).trans claim, mode'⟩
      · have other : n ≠ m := by
          rintro rfl
          have waiting := Plant.rakeToGrant_waiting found
          rw [claim, free] at waiting
          cases waiting
        obtain ⟨rakes, claims⟩ := q.grantRake_only m
        exact ⟨(rakes n other).trans rake, (claims _ fun same => other (rakeHolder_inj same)).trans claim, mode'⟩
      · have other : n ≠ m := by
          rintro rfl
          obtain ⟨storm, idle⟩ := Plant.stormTrigger_idle found
          rcases calm with notIdle | still
          · exact notIdle (rake ▸ idle)
          · rw [mode, still] at storm
            cases storm
        obtain ⟨rakes, claims⟩ := q.triggerRake_only m .storm
        exact ⟨(rakes n other).trans rake, (claims _ fun same => other (rakeHolder_inj same)).trans claim, mode'⟩
  exact ⟨law.1, law.2.1⟩

end Sys2Proof.Machine
end

section
/-! The screen command words (R74, R75): O31 and O32. -/

namespace Sys2Proof.Machine

/-- Beside the inputs and the orders, of which only shadow word `i` may have changed, nothing is said of what the units
have done. -/
def Plant.KeptBut (i : Fin 32) (p q : Plant) : Prop :=
  p.SameInputs q ∧ (∀ j, j ≠ i → q.shadow.get j = p.shadow.get j) ∧ q.corr = p.corr ∧ q.desired = p.desired ∧
    q.rotation = p.rotation

theorem Plant.KeptBut.trans {i : Fin 32} {p q r : Plant} (first : Plant.KeptBut i p q) (second : Plant.KeptBut i q r) :
    Plant.KeptBut i p r := by
  obtain ⟨inputs, shadow, corr, desired, rotation⟩ := first
  obtain ⟨inputs', shadow', corr', desired', rotation'⟩ := second
  exact ⟨inputs.trans inputs', fun j other => (shadow' j other).trans (shadow j other), corr'.trans corr,
    desired'.trans desired, rotation'.trans rotation⟩

theorem Plant.Kept.but {p q : Plant} (kept : p.Kept q) (i : Fin 32) : Plant.KeptBut i p q := by
  obtain ⟨⟨inputs, -⟩, shadow, corr, desired, rotation⟩ := kept
  exact ⟨inputs, fun j _ => by rw [shadow], corr, desired, rotation⟩

theorem Plant.setShadow_but (p : Plant) (i : Fin 32) (w : Word) : Plant.KeptBut i p (p.setShadow i w) :=
  ⟨⟨rfl, rfl, rfl, rfl, rfl, rfl, rfl, rfl⟩, fun _ other => vset_get_ne _ _ other.symm, rfl, rfl, rfl⟩

theorem Plant.judgeRakeOos_but (p : Plant) (n : Fin 2) (w : Word) :
    Plant.KeptBut (screenWord n) p (p.judgeRakeOos n w) := by
  unfold Plant.judgeRakeOos
  dsimp only
  split_ifs
  · exact (Plant.Kept.refl p).but _
  · exact (p.setShadow_but _ _).trans ((Plant.rakeOosSet_kept _ n).but _)
  · exact (p.setShadow_but _ _).trans (((Plant.rakeOosCleared_kept _ n).trans (Plant.standingTrigger_kept _ n)).but _)

theorem Plant.judgeRakeReset_kept (p : Plant) (n : Fin 2) (w : Word) : p.Kept (p.judgeRakeReset n w) := by
  unfold Plant.judgeRakeReset
  split_ifs
  · exact (p.rakeReset_kept n).trans (Plant.standingTrigger_kept _ n)
  · exact .refl p

theorem Plant.judgeRake_kept (p : Plant) (n : Fin 2) (w : Word) : p.Kept (p.judgeRake n w) := by
  unfold Plant.judgeRake
  split_ifs
  · exact p.triggerRake_kept n _
  · exact .refl p

/-- The plant when the write has been judged, before its shadow is set. -/
def Plant.screenJudged (p : Plant) (n : Fin 2) (w : Word) : Plant :=
  ((p.judgeRakeOos n w).judgeRakeReset n w).judgeRake n w

/-- The plant after a write to a screen command word. -/
def Plant.screenWritten (p : Plant) (n : Fin 2) (w : Word) : Plant :=
  ((p.screenJudged n w).setShadow (screenWord n) (screenShadow w)).conclude

theorem Plant.screenWritten_but (p : Plant) (n : Fin 2) (w : Word) :
    Plant.KeptBut (screenWord n) p (p.screenWritten n w) :=
  ((((p.judgeRakeOos_but n w).trans ((Plant.judgeRakeReset_kept _ n w).but _)).trans
    ((Plant.judgeRake_kept _ n w).but _)).trans (Plant.setShadow_but _ _ _)).trans ((Plant.conclude_kept _).but _)

theorem Plant.screenWritten_word (p : Plant) (n : Fin 2) (w : Word) :
    (p.screenWritten n w).shadow.get (screenWord n) = screenShadow w := by
  unfold Plant.screenWritten
  rw [(Plant.conclude_kept _).2.shadow]
  exact vset_get_same _ _ _

theorem screenShadow_bit (w : Word) (k : Nat) :
    (screenShadow w).getLsbD k = (k != 0 && k != 2 && w.getLsbD k) := by
  unfold screenShadow
  rw [getLsbD_setBit _ _ _ _ (by decide), getLsbD_setBit _ _ _ _ (by decide)]
  by_cases two : k = 2
  · simp [two]
  · by_cases zero : k = 0
    · simp [zero]
    · simp [two, zero]

/-- What a write to a screen command word leaves. -/
theorem screenWrite_step {s : State} {n : Fin 2} {w : Word} (taken : s.Takes (s.commandWrite (screenWord n) w)) :
    let t := s.screenWrite n w
    s.AccessStep t (s.commandWrite (screenWord n) w)
        (if screenWord n ∈ s.plant.corr then .rewrite (screenShadow w) else .forward) ∧
      t.plant = { s.plant.screenWritten n w with out := [], marks := s.plant.marks } ∧
      t.log = (s.plant.screenWritten n w).out.foldl (fun l d => l.append s.plant.clock d) s.log ∧
      t.settings = s.settings ∧ t.link = s.link := by
  have judged : (s.present (s.commandWrite (screenWord n) w)).judgeScreen n w =
      ((s.present (s.commandWrite (screenWord n) w)).withPlant (s.plant.screenWritten n w),
        if screenWord n ∈ s.plant.corr then .rewrite (screenShadow w) else .forward) := by
    unfold State.judgeScreen
    rw [taken.present_plant]
    rfl
  have clock : (s.plant.screenWritten n w).clock = s.plant.clock := (s.plant.screenWritten_but n w).1.clock
  obtain ⟨step, plant, log, settings, link⟩ := access_step (judge := fun t => t.judgeScreen n w) taken judged
    ((Judging.start taken).withPlant _) (fun _ => rfl) clock
  refine ⟨step, plant, log.trans ?_, settings.trans taken.present_settings, link.trans taken.present_link⟩
  have quiet : s.outcomeEntries (s.commandWrite (screenWord n) w)
      (if screenWord n ∈ s.plant.corr then .rewrite (screenShadow w) else .forward) = [] := by
    split <;> rfl
  rw [quiet, List.append_nil]
  show (s.plant.screenWritten n w).out.foldl (fun l d => l.append (s.plant.screenWritten n w).clock d)
    (s.present (s.commandWrite (screenWord n) w)).log = _
  rw [clock, taken.present_log]

/-- Settles O31: the write's plant is `Plant.screenWritten`, which keeps all orders but its own word. -/
theorem screenWordSetsItsShadow : Obligations.ScreenWordSetsItsShadow := by
  intro s n w c out asked taken
  have run : exec c s = .next (s.screenWrite n w) := by
    rcases asked with rfl | rfl | rfl <;> rfl
  obtain ⟨step, plant, log, settings, link⟩ := screenWrite_step taken
  obtain ⟨inputs, others, corr, desired, rotation⟩ := s.plant.screenWritten_but n w
  have word : (s.screenWrite n w).plant.shadow.get (screenWord n) = screenShadow w := by
    rw [plant]
    exact s.plant.screenWritten_word n w
  refine ⟨s.screenWrite n w, run, ?_, fun k _ => ?_, fun i other => ?_, ?_, ?_, ?_, ?_, ⟨(s.plant.screenWritten n w).out, ?_⟩,
    settings, link⟩
  · rw [word]
    exact step
  · rw [word]
    exact screenShadow_bit w k
  · rw [plant]
    exact others i other
  · rw [plant]; exact corr
  · rw [plant]; exact desired
  · rw [plant]; exact rotation
  · rw [plant]
    exact ⟨inputs.clock, inputs.levels, inputs.mode, inputs.weirs, inputs.sections, inputs.raw, inputs.debounced,
      inputs.stability⟩
  · rw [plant]
    show _ = (s.plant.screenWritten n w).out.foldl (fun l d => l.append (s.plant.screenWritten n w).clock d) s.log
    rw [inputs.clock]
    exact log

/-! OOS and RESET (R74, R75). -/

theorem Plant.dropClaim_claim (p : Plant) (h : Fin 8) : (p.dropClaim h).claim h = { status := .none, units := 0 } :=
  p.claim_setClaim_same h _

theorem Plant.standDown_rake (p : Plant) (n : Fin 2) (st : RakeState) (reason : Nat) :
    (p.standDown n st reason).rake n = { p.rake n with
      state := st, cycle := .stopped, reverse := .stopped, interval := .stopped, hold := .stopped, held := false } :=
  vset_get_same _ _ _

theorem Plant.standDown_claim (p : Plant) (n : Fin 2) (st : RakeState) (reason : Nat) :
    (p.standDown n st reason).claim (rakeHolder n) = { status := .none, units := 0 } := Plant.dropClaim_claim _ _

theorem Plant.standDown_out (p : Plant) (n : Fin 2) (st : RakeState) (reason : Nat)
    (cycling : (p.rake n).state.inMotion = true ∨ (p.rake n).state = .suspended) :
    (p.standDown n st reason).out = p.out ++
      [{ source := srcScreen n, kind := 0x31, urgent := false
         detail := detail1 reason ++ detail2 (p.rake n).attempts ++ detail4 (p.cycleDuration n) }] := by
  unfold Plant.standDown
  dsimp only
  rw [if_pos (by rw [Bool.or_eq_true, beq_iff_eq]; exact cycling)]
  rfl

theorem Plant.rakeOosSet_eq {p : Plant} {n : Fin 2} (present : (p.rake n).state ≠ .absent)
    (serves : (p.rake n).state ≠ .outOfService) : p.rakeOosSet n = p.standDown n .outOfService 1 := by
  cases state : (p.rake n).state
  case absent => exact absurd state present
  case outOfService => exact absurd state serves
  all_goals
    unfold Plant.rakeOosSet
    rw [state]

theorem Plant.enterIdle_rake (p : Plant) (n : Fin 2) : (p.enterIdle n).rake n = { p.rake n with
    state := .idle, cycle := .stopped, reverse := .stopped, hold := .stopped, held := false
    interval := if p.intervalTime n = 0 then .stopped else .running (p.intervalTime n) } := vset_get_same _ _ _

theorem Plant.enterIdle_claim (p : Plant) (n : Fin 2) (h : Fin 8) : (p.enterIdle n).claim h = p.claim h := rfl

theorem Plant.standingTrigger_calm {p : Plant} {n : Fin 2} (calm : p.mode.storm = false ∨ (p.rake n).state ≠ .idle) :
    p.standingTrigger n = p := by
  refine if_neg fun both => ?_
  obtain ⟨storm, idle⟩ := Bool.and_eq_true_iff.mp both
  rcases calm with still | moving
  · rw [still] at storm
    cases storm
  · exact moving (beq_iff_eq.mp idle)

theorem Plant.judgeRakeReset_rest {p : Plant} {n : Fin 2} (w : Word) (moving : (p.rake n).state ≠ .jammed) :
    p.judgeRakeReset n w = p :=
  if_neg fun both => moving (beq_iff_eq.mp (Bool.and_eq_true_iff.mp both).2)

theorem Plant.judgeRakeReset_set {p : Plant} {n : Fin 2} {w : Word} (set : w.getLsbD 2 = true)
    (jammed : (p.rake n).state = .jammed) : p.judgeRakeReset n w = (p.rakeReset n).standingTrigger n :=
  if_pos (Bool.and_eq_true_iff.mpr ⟨set, beq_iff_eq.mpr jammed⟩)

theorem Plant.judgeRake_rest {p : Plant} {n : Fin 2} {w : Word}
    (rest : w.getLsbD 0 = false ∨ (p.rake n).state ≠ .idle) : p.judgeRake n w = p := by
  refine if_neg fun both => ?_
  obtain ⟨asked, idle⟩ := Bool.and_eq_true_iff.mp both
  rcases rest with clear | moving
  · rw [show rakeField w = false from clear] at asked
    cases asked
  · exact moving (beq_iff_eq.mp idle)

theorem Plant.judgeRakeOos_same {p : Plant} {n : Fin 2} {w : Word} (same : w.getLsbD 1 = p.screenOosSet n) :
    p.judgeRakeOos n w = p := if_pos same

/-- The plant with the OOS field of a screen's word as written (R74). -/
def Plant.screenOosWritten (p : Plant) (n : Fin 2) (w : Word) : Plant :=
  p.setShadow (screenWord n) (setBit (p.shadow.get (screenWord n)) 1 (w.getLsbD 1))

theorem Plant.judgeRakeOos_set {p : Plant} {n : Fin 2} {w : Word} (set : w.getLsbD 1 = true)
    (clear : p.screenOosSet n = false) : p.judgeRakeOos n w = (p.screenOosWritten n w).rakeOosSet n := by
  unfold Plant.judgeRakeOos
  rw [if_neg (by rw [clear, show oosField w = true from set]; decide)]
  exact if_pos set

theorem Plant.judgeRakeOos_clear {p : Plant} {n : Fin 2} {w : Word} (clear : w.getLsbD 1 = false)
    (set : p.screenOosSet n = true) :
    p.judgeRakeOos n w = ((p.screenOosWritten n w).rakeOosCleared n).standingTrigger n := by
  unfold Plant.judgeRakeOos
  rw [if_neg (by rw [set, show oosField w = false from clear]; decide)]
  exact if_neg (by rw [show oosField w = false from clear]; exact Bool.false_ne_true)

/-- What a write to a screen command word leaves of a rake that the judgment has brought to rest. -/
theorem Plant.screenWritten_rests {p q : Plant} {n : Fin 2} {w : Word} (running : p.loading = false)
    (judged : p.screenJudged n w = q) (free : (q.claim (rakeHolder n)).status = .none)
    (calm : (q.rake n).state ≠ .idle ∨ p.mode.storm = false) :
    (p.screenWritten n w).rake n = q.rake n ∧ (p.screenWritten n w).claim (rakeHolder n) = q.claim (rakeHolder n) ∧
      ((p.screenWritten n w).alarms.points.get (jamPoint n)).condition = ((q.rake n).state == .jammed) ∧
      ((p.screenWritten n w).alarms.points.get (heldPoint n)).condition = (q.rake n).held ∧
      ∃ more, (p.screenWritten n w).out = q.out ++ more := by
  have inputs := (p.screenWritten_but n w).1
  unfold Plant.screenWritten at inputs ⊢
  rw [judged] at inputs ⊢
  have concluded := (q.setShadow (screenWord n) (screenShadow w)).conclude_kept
  have mode : q.mode = p.mode := concluded.1.1.mode.symm.trans inputs.mode
  have outside : (q.setShadow (screenWord n) (screenShadow w)).loading = false := by
    unfold Plant.loading at running ⊢
    show (q.mode.mode == .load) = false
    rw [mode]
    exact running
  obtain ⟨rake, claim⟩ := Plant.conclude_rake_kept (q.setShadow (screenWord n) (screenShadow w)) n free
    (calm.imp_right fun still => (congrArg ModeUnit.storm mode).trans still)
  have announced := Plant.conclude_announced outside
  refine ⟨rake, claim, (announced.jam n).trans ?_, (announced.held n).trans ?_, concluded.1.2⟩
  · rw [rake]; rfl
  · rw [rake]; rfl

/-- Settles O32: the rake that the judgment brings to rest, which the end of the event leaves (`Plant.screenWritten_rests`). -/
theorem screenOosAndResetMoveTheRake : Obligations.ScreenOosAndResetMoveTheRake := by
  intro s n w out running taken
  obtain ⟨-, plant, log, -⟩ := screenWrite_step taken
  have rake : (s.screenWrite n w).plant.rake n = (s.plant.screenWritten n w).rake n := by rw [plant]; rfl
  have claim (h : Fin 8) : (s.screenWrite n w).plant.claim h = (s.plant.screenWritten n w).claim h := by rw [plant]; rfl
  have clock : (s.screenWrite n w).plant.clock = s.plant.clock := by
    rw [plant]
    exact (s.plant.screenWritten_but n w).1.clock
  have point (k : Fin 40) : (s.screenWrite n w).plant.alarms.points.get k = (s.plant.screenWritten n w).alarms.points.get k := by
    rw [plant]
  refine ⟨fun set clear present serves => ⟨_, rfl, ?set⟩, fun clear set state asked calm free => ⟨_, rfl, ?clear⟩,
    fun same set jammed free => ⟨_, rfl, ?reset⟩⟩
  case set =>
    have stood := (s.plant.screenOosWritten n w).standDown_rake n .outOfService 1
    have judged : s.plant.screenJudged n w = (s.plant.screenOosWritten n w).standDown n .outOfService 1 := by
      unfold Plant.screenJudged
      rw [Plant.judgeRakeOos_set set clear, Plant.rakeOosSet_eq (p := s.plant.screenOosWritten n w) present serves,
        Plant.judgeRakeReset_rest _ (by rw [stood]; exact RakeState.noConfusion), Plant.judgeRake_rest (Or.inr (by rw [stood]; exact RakeState.noConfusion))]
    obtain ⟨rake', claim', jam, held, more, entries⟩ := Plant.screenWritten_rests running judged
      (by rw [Plant.standDown_claim]) (Or.inl (by rw [stood]; exact RakeState.noConfusion))
    refine ⟨(rake.trans rake').trans stood, (claim _).trans (claim'.trans (Plant.standDown_claim _ _ _ _)), ?_, ?_,
      fun cycling => ⟨more, ?_⟩⟩
    · rw [point, jam, stood]; rfl
    · rw [point, held, stood]
    · rw [log, entries, Plant.standDown_out]
      · show ((s.plant.out ++ _) ++ _).foldl _ _ = _
        rw [out, clock]
        rfl
      · show (s.plant.rake n).state.inMotion = true ∨ (s.plant.rake n).state = .suspended
        rcases cycling with state | state | state
        · exact Or.inl (by rw [state]; rfl)
        · exact Or.inl (by rw [state]; rfl)
        · exact Or.inr state
  case clear =>
    have idle := (s.plant.screenOosWritten n w).enterIdle_rake n
    have judged : s.plant.screenJudged n w = (s.plant.screenOosWritten n w).enterIdle n := by
      unfold Plant.screenJudged
      rw [Plant.judgeRakeOos_clear clear set,
        show (s.plant.screenOosWritten n w).rakeOosCleared n = (s.plant.screenOosWritten n w).enterIdle n from if_pos state,
        Plant.standingTrigger_calm (p := (s.plant.screenOosWritten n w).enterIdle n) (Or.inl calm), Plant.judgeRakeReset_rest _ (by rw [idle]; exact RakeState.noConfusion),
        Plant.judgeRake_rest (Or.inl asked)]
    obtain ⟨rake', -⟩ := Plant.screenWritten_rests running judged free (Or.inr calm)
    exact (rake.trans rake').trans idle
  case reset =>
    have judged : s.plant.screenJudged n w = ((s.plant.rakeReset n).standingTrigger n).judgeRake n w := by
      unfold Plant.screenJudged
      rw [Plant.judgeRakeOos_same same, Plant.judgeRakeReset_set set jammed]
    refine ⟨fun overloaded => ?_, fun clear calm asked => ?_⟩
    · have refused : s.plant.rakeReset n = s.plant :=
        if_neg (by rw [overloaded, Bool.not_true, Bool.and_false]; exact Bool.false_ne_true)
      rw [refused, Plant.standingTrigger_calm (Or.inr (by rw [jammed]; decide)),
        Plant.judgeRake_rest (Or.inr (by rw [jammed]; decide))] at judged
      obtain ⟨rake', -⟩ := Plant.screenWritten_rests running judged free (Or.inl (by rw [jammed]; decide))
      exact rake.trans rake'
    · have idle := s.plant.enterIdle_rake n
      have taken : s.plant.rakeReset n = s.plant.enterIdle n := if_pos (by rw [jammed, clear]; rfl)
      rw [taken, Plant.standingTrigger_calm (p := s.plant.enterIdle n) (Or.inl calm), Plant.judgeRake_rest (Or.inl asked)] at judged
      obtain ⟨rake', -, jam, -⟩ := Plant.screenWritten_rests running judged free (Or.inr calm)
      refine ⟨?_, (rake.trans rake').trans idle⟩
      rw [point, jam, idle]
      rfl

end Sys2Proof.Machine
end

section
/-! Triggers, grants and the timers of a rake (R65 to R73): O33 and O34. -/

namespace Sys2Proof.Machine

/-! The rounds of the load budget with no pump to serve. -/

/-- No pump waits for units and none stands in the start queue. -/
def Plant.PumpsServed (p : Plant) : Prop := p.queue = [] ∧ ∀ m, (p.claim (pumpHolder m)).status ≠ .waiting

theorem Plant.PumpsServed.of_samePumps {p q : Plant} (served : p.PumpsServed) (same : p.SamePumps q) : q.PumpsServed :=
  ⟨same.2.1.trans served.1, fun m => by rw [same.2.2.2 m]; exact served.2 m⟩

theorem Plant.PumpsServed.waitingPump {p : Plant} (served : p.PumpsServed) : p.waitingPump = none := by
  refine List.find?_eq_none.mpr fun n _ => ?_
  rw [beq_iff_eq]
  exact served.2 n

theorem Plant.PumpsServed.claimToEnter {p : Plant} (served : p.PumpsServed) : p.claimToEnter = none := by
  unfold Plant.claimToEnter
  rw [served.1, List.head?_nil, ite_self]

/-- R29, R68: with no pump to serve a round grants a rake's claim or triggers an idle rake. -/
theorem Plant.serveOnce_rakes {p q : Plant} (served : p.PumpsServed) (round : p.serveOnce = some q) :
    (∃ m, p.rakeToGrant = some m ∧ q = p.grantRake m) ∨ ∃ m, p.stormTrigger = some m ∧ q = p.triggerRake m .storm := by
  rcases Plant.serveOnce_cases round with ⟨m, found, _, rfl⟩ | ⟨m, found, rfl⟩ | ⟨m, _, found, rfl⟩ | ⟨m, _, found, rfl⟩ |
    ⟨m, found, rfl⟩
  · rw [served.waitingPump] at found; cases found
  · rw [served.waitingPump] at found; cases found
  · rw [served.claimToEnter] at found; cases found
  · exact Or.inl ⟨m, found, rfl⟩
  · exact Or.inr ⟨m, found, rfl⟩

theorem Plant.serveOnce_served {p : Plant} (served : p.PumpsServed) : p.serveOnce =
    (p.rakeToGrant.map p.grantRake).or (p.stormTrigger.map fun n => p.triggerRake n .storm) := by
  unfold Plant.serveOnce
  dsimp only
  rw [served.waitingPump, served.claimToEnter]
  cases p.rakeToGrant <;> rfl

theorem Plant.stormTrigger_calm {p : Plant} (calm : p.mode.storm = false) : p.stormTrigger = none :=
  if_neg (by rw [calm]; exact Bool.false_ne_true)

theorem Plant.serve_none {p : Plant} (nothing : p.serveOnce = none) (k : Nat) : p.serve k = p := by
  cases k with
  | zero => rfl
  | succ k =>
    unfold Plant.serve
    rw [nothing]

theorem Plant.serve_some {p q : Plant} (round : p.serveOnce = some q) (k : Nat) : p.serve (k + 1) = q.serve k := by
  rw [Plant.serve, round]

theorem Plant.serve_pumpsServed {p : Plant} (served : p.PumpsServed) (k : Nat) : (p.serve k).PumpsServed := by
  refine Plant.serve_induct Plant.PumpsServed (fun q r served round => ?_) k p served
  rcases Plant.serveOnce_rakes served round with ⟨m, _, rfl⟩ | ⟨m, _, rfl⟩
  · exact served.of_samePumps (q.grantRake_samePumps m)
  · exact served.of_samePumps (q.triggerRake_samePumps m .storm)

/-- With no pump to serve, a rake that neither waits nor stands idle under storm posture is left as it is. -/
theorem Plant.serve_rake_still {p : Plant} (served : p.PumpsServed) {n : Fin 2}
    (granted : (p.claim (rakeHolder n)).status ≠ .waiting) (calm : (p.rake n).state ≠ .idle ∨ p.mode.storm = false)
    (k : Nat) :
    (p.serve k).rake n = p.rake n ∧ (p.serve k).claim (rakeHolder n) = p.claim (rakeHolder n) := by
  have law : (p.serve k).PumpsServed ∧ (p.serve k).rake n = p.rake n ∧
      (p.serve k).claim (rakeHolder n) = p.claim (rakeHolder n) ∧ (p.serve k).mode = p.mode := by
    refine Plant.serve_induct (fun q => q.PumpsServed ∧ q.rake n = p.rake n ∧
      q.claim (rakeHolder n) = p.claim (rakeHolder n) ∧ q.mode = p.mode) ?_ k p ⟨served, rfl, rfl, rfl⟩
    intro q r ⟨served, rake, claim, mode⟩ round
    have mode' := (Plant.serveOnce_kept round).1.1.mode.trans mode
    rcases Plant.serveOnce_rakes served round with ⟨m, found, rfl⟩ | ⟨m, found, rfl⟩
    · have other : n ≠ m := by
        rintro rfl
        exact granted (claim ▸ Plant.rakeToGrant_waiting found)
      obtain ⟨rakes, claims⟩ := q.grantRake_only m
      exact ⟨served.of_samePumps (q.grantRake_samePumps m), (rakes n other).trans rake,
        (claims _ fun same => other (rakeHolder_inj same)).trans claim, mode'⟩
    · have other : n ≠ m := by
        rintro rfl
        obtain ⟨storm, idle⟩ := Plant.stormTrigger_idle found
        rcases calm with notIdle | still
        · exact notIdle (rake ▸ idle)
        · rw [mode, still] at storm
          cases storm
      obtain ⟨rakes, claims⟩ := q.triggerRake_only m .storm
      exact ⟨served.of_samePumps (q.triggerRake_samePumps m .storm), (rakes n other).trans rake,
        (claims _ fun same => other (rakeHolder_inj same)).trans claim, mode'⟩
  exact ⟨law.2.1, law.2.2.1⟩

/-- The end of an event outside LOAD leaves the units as the load budget's rounds have left them. -/
theorem Plant.conclude_served {p : Plant} (running : p.loading = false) :
    (p.serve serveBound).SameUnits p.conclude ∧ (p.serve serveBound).Kept p.conclude := by
  have parts := Plant.concludeAfter_running running []
  rw [show p.conclude = p.concludeAfter [] from rfl, parts]
  exact ⟨(Plant.handPumps_units _ _).trans (Plant.handRakes_units _ _),
    (Plant.handPumps_kept _ _).trans (Plant.handRakes_kept _ _)⟩

theorem Plant.conclude_rake_still {p : Plant} (running : p.loading = false) (served : p.PumpsServed) {n : Fin 2}
    (granted : (p.claim (rakeHolder n)).status ≠ .waiting) (calm : (p.rake n).state ≠ .idle ∨ p.mode.storm = false) :
    p.conclude.rake n = p.rake n ∧ p.conclude.claim (rakeHolder n) = p.claim (rakeHolder n) := by
  obtain ⟨units, -⟩ := Plant.conclude_served running
  obtain ⟨rake, claim⟩ := Plant.serve_rake_still served granted calm serveBound
  exact ⟨(units.rake n).trans rake, (units.claim _).trans claim⟩

/-- R29: the one rake claim that waits and fits is granted in the first round. -/
theorem Plant.rakeToGrant_only {p : Plant} {n : Fin 2} (waits : (p.claim (rakeHolder n)).status = .waiting)
    (others : ∀ m, m ≠ n → (p.claim (rakeHolder m)).status ≠ .waiting) (fits : p.fits (rakeHolder n) = true) :
    p.rakeToGrant = some n := by
  unfold Plant.rakeToGrant
  cases found : allRakes.find? (fun n => (p.claim (rakeHolder n)).status == .waiting && p.fits (rakeHolder n)) with
  | none =>
    have barred := List.find?_eq_none.mp found n (mem_allRakes n)
    rw [waits, fits] at barred
    exact absurd rfl barred
  | some m =>
    have waiting := List.find?_some found
    rw [Bool.and_eq_true, beq_iff_eq] at waiting
    by_contra differ
    exact others m (fun same => differ (congrArg some same)) waiting.1

theorem Plant.rakeToGrant_none {p : Plant}
    (short : ∀ m, (p.claim (rakeHolder m)).status = .waiting → p.budget < p.heldUnits + (p.claim (rakeHolder m)).units) :
    p.rakeToGrant = none := by
  refine List.find?_eq_none.mpr fun m _ found => ?_
  rw [Bool.and_eq_true, beq_iff_eq] at found
  have fits : p.heldUnits + (p.claim (rakeHolder m)).units ≤ p.budget := of_decide_eq_true found.2
  exact absurd fits (not_le.mpr (short m found.1))

/-- R29: with no pump to serve, the one claim that waits and fits is granted, and the rake goes on as granted. -/
theorem Plant.conclude_grants {p : Plant} {n : Fin 2} (running : p.loading = false) (served : p.PumpsServed)
    (waits : (p.claim (rakeHolder n)).status = .waiting)
    (others : ∀ m, m ≠ n → (p.claim (rakeHolder m)).status ≠ .waiting) (fits : p.fits (rakeHolder n) = true)
    (granted : ((p.grantRake n).claim (rakeHolder n)).status ≠ .waiting)
    (moving : ((p.grantRake n).rake n).state ≠ .idle) :
    p.conclude.rake n = (p.grantRake n).rake n ∧
      p.conclude.claim (rakeHolder n) = (p.grantRake n).claim (rakeHolder n) ∧
      ∃ more, p.conclude.out = (p.grantRake n).out ++ more := by
  obtain ⟨units, kept⟩ := Plant.conclude_served running
  have round : p.serveOnce = some (p.grantRake n) := by
    rw [Plant.serveOnce_served served, Plant.rakeToGrant_only waits others fits]
    rfl
  have rounds : p.serve serveBound = (p.grantRake n).serve 31 := Plant.serve_some round 31
  rw [rounds] at units kept
  obtain ⟨rake, claim⟩ := Plant.serve_rake_still (served.of_samePumps (p.grantRake_samePumps n)) granted (Or.inl moving) 31
  exact ⟨(units.rake n).trans rake, (units.claim _).trans claim, ((Plant.serve_kept _ 31).trans kept).1.2⟩

/-- With nothing to grant and no storm standing, the end of an event leaves the units as they are. -/
theorem Plant.conclude_still {p : Plant} (running : p.loading = false) (served : p.PumpsServed)
    (short : ∀ m, (p.claim (rakeHolder m)).status = .waiting → p.budget < p.heldUnits + (p.claim (rakeHolder m)).units)
    (calm : p.mode.storm = false) : p.SameUnits p.conclude := by
  obtain ⟨units, -⟩ := Plant.conclude_served running
  rwa [Plant.serve_none] at units
  rw [Plant.serveOnce_served served, Plant.rakeToGrant_none short, Plant.stormTrigger_calm calm]
  rfl

/-! Triggers and grants. -/

theorem Plant.reverseRake_rake (p : Plant) (n : Fin 2) : (p.reverseRake n).rake n = { p.rake n with
    state := .reversing, cycle := .stopped, attempts := (p.rake n).attempts + 1
    reverse := .running (p.reverseTime n) } := vset_get_same _ _ _

theorem Plant.reverseRake_out (p : Plant) (n : Fin 2) : (p.reverseRake n).out = p.out ++
    [{ source := srcScreen n, kind := 0x32, urgent := false, detail := detail2 ((p.rake n).attempts + 1) }] := rfl

theorem Plant.checkOverload_active {p : Plant} {n : Fin 2} (overloaded : p.overloadActive n = true) :
    p.checkOverload n = p.reverseRake n := if_pos overloaded

theorem Plant.checkOverload_rest {p : Plant} {n : Fin 2} (free : p.overloadActive n = false) : p.checkOverload n = p :=
  if_neg (by rw [free]; exact Bool.false_ne_true)

/-- The rake that starts, before its overload input is looked at (R67). -/
def Plant.rakeStarted (p : Plant) (n : Fin 2) : Plant :=
  (p.setRake n { p.rake n with
    state := .raking, hold := .stopped, held := false, attempts := 0, homeLeave := !p.homeActive n
    cycleStart := some p.clock.uptime, cycle := .running (p.cycleTime n) }).append (srcScreen n) 0x30
      (detail1 (p.rake n).trigger.code ++ detail1 (bit (p.homeActive n)))

theorem Plant.startRake_eq (p : Plant) (n : Fin 2) : p.startRake n = (p.rakeStarted n).checkOverload n := rfl

theorem Plant.rakeStarted_rake (p : Plant) (n : Fin 2) : (p.rakeStarted n).rake n = { p.rake n with
    state := .raking, hold := .stopped, held := false, attempts := 0, homeLeave := !p.homeActive n
    cycleStart := some p.clock.uptime, cycle := .running (p.cycleTime n) } := vset_get_same _ _ _

/-- R67, R69: what the start of a rake makes of it, and the entries handed. -/
theorem Plant.startRake_facts (p : Plant) (n : Fin 2) :
    (p.startRake n).rake n = { p.rake n with
      hold := .stopped, held := false, homeLeave := !p.homeActive n, cycleStart := some p.clock.uptime
      state := if p.overloadActive n then .reversing else .raking
      attempts := if p.overloadActive n then 1 else 0
      cycle := if p.overloadActive n then .stopped else .running (p.cycleTime n)
      reverse := if p.overloadActive n then .running (p.reverseTime n) else (p.rake n).reverse } ∧
    (p.startRake n).claim (rakeHolder n) = p.claim (rakeHolder n) ∧
    (p.startRake n).out = p.out ++
      ({ source := srcScreen n, kind := 0x30, urgent := false
         detail := detail1 (p.rake n).trigger.code ++ detail1 (if p.homeActive n then 1 else 0) } ::
        if p.overloadActive n then
          [{ source := srcScreen n, kind := 0x32, urgent := false, detail := detail2 1 }] else []) := by
  rw [Plant.startRake_eq]
  have entry : bit (p.homeActive n) = if p.homeActive n then 1 else 0 := rfl
  have started : (p.rakeStarted n).out = p.out ++ [{ source := srcScreen n, kind := 0x30, urgent := false
                                                     detail := detail1 (p.rake n).trigger.code ++
                                                       detail1 (if p.homeActive n then 1 else 0) }] := by
    rw [← entry]
    rfl
  cases overloaded : p.overloadActive n with
  | true =>
    rw [Plant.checkOverload_active (p := p.rakeStarted n) overloaded, Plant.reverseRake_rake, Plant.rakeStarted_rake,
      Plant.reverseRake_out, started, Plant.rakeStarted_rake]
    exact ⟨rfl, rfl, by rw [List.append_assoc]; rfl⟩
  | false =>
    rw [Plant.checkOverload_rest (p := p.rakeStarted n) overloaded, Plant.rakeStarted_rake, started]
    exact ⟨rfl, rfl, rfl⟩

/-- R67: the grant of a WAITING rake's claim starts it. -/
theorem Plant.grantRake_waiting {p : Plant} {n : Fin 2} (waiting : (p.rake n).state = .waiting) :
    p.grantRake n = (p.setClaim (rakeHolder n) { p.claim (rakeHolder n) with status := .held }).startRake n := by
  unfold Plant.grantRake
  rw [waiting]

/-- The held units look at the HELD entries alone. -/
theorem Plant.heldUnits_congr {p q : Plant}
    (same : ∀ h, q.claim h = p.claim h ∨ (p.claim h).status ≠ .held ∧ (q.claim h).status ≠ .held) :
    q.heldUnits = p.heldUnits := by
  unfold Plant.heldUnits
  refine congrArg List.sum (List.map_congr_left fun h _ => ?_)
  rcases same h with eq | ⟨before, after⟩
  · rw [eq]
  · rw [if_neg before, if_neg after]

/-- The units of a plant are those of the trigger of rake `n`, and the inputs those before it. -/
structure Plant.Triggered (p q : Plant) (n : Fin 2) (cause : Trigger) : Prop where
  units  : (p.triggerRake n cause).SameUnits q
  inputs : p.SameInputs q
  out    : q.out = p.out

theorem Plant.Triggered.facts {p q : Plant} {n : Fin 2} {cause : Trigger} (triggered : p.Triggered q n cause) :
    q.rake n = { p.rake n with
      state := .waiting, trigger := cause, interval := .stopped, hold := .running (p.maximumHold n) } ∧
    q.claim (rakeHolder n) = { status := .waiting, units := p.rakeUnits n } ∧
    ∀ h, h ≠ rakeHolder n → q.claim h = p.claim h :=
  ⟨(triggered.units.rake n).trans (vset_get_same _ _ _), (triggered.units.claim _).trans (vset_get_same _ _ _),
    fun _ other => (triggered.units.claim _).trans (vset_get_ne _ _ other.symm)⟩

theorem Plant.SameInputs.budget {p q : Plant} (inputs : p.SameInputs q) : q.budget = p.budget := by
  unfold Plant.budget
  rw [inputs.mode, inputs.reads Plant.mainsBudget (fun _ => rfl), inputs.reads Plant.generatorBudget (fun _ => rfl)]

/-- R65, R67, R69, R29: a triggered rake starts at once where its units fit, and else waits. -/
theorem Plant.Triggered.concludes {p q : Plant} {n : Fin 2} {cause : Trigger} (triggered : p.Triggered q n cause)
    (running : p.loading = false) (free : (p.claim (rakeHolder n)).status = .none) (served : p.PumpsServed)
    (others : ∀ m, m ≠ n → (p.claim (rakeHolder m)).status ≠ .waiting) :
    (p.heldUnits + p.rakeUnits n ≤ p.budget →
      (∃ more, q.conclude.out = p.out ++
        ({ source := srcScreen n, kind := 0x30, urgent := false
           detail := detail1 cause.code ++ detail1 (if p.homeActive n then 1 else 0) } ::
          if p.overloadActive n then
            [{ source := srcScreen n, kind := 0x32, urgent := false, detail := detail2 1 }] else []) ++ more) ∧
      q.conclude.claim (rakeHolder n) = { status := .held, units := p.rakeUnits n } ∧
      q.conclude.rake n = { p.rake n with
        trigger := cause, interval := .stopped, hold := .stopped, held := false
        homeLeave := !p.homeActive n, cycleStart := some p.clock.uptime
        state := if p.overloadActive n then .reversing else .raking
        attempts := if p.overloadActive n then 1 else 0
        cycle := if p.overloadActive n then .stopped else .running (p.cycleTime n)
        reverse := if p.overloadActive n then .running (p.reverseTime n) else (p.rake n).reverse }) ∧
    (p.budget < p.heldUnits + p.rakeUnits n → p.mode.storm = false →
      q.conclude.claim (rakeHolder n) = { status := .waiting, units := p.rakeUnits n } ∧
      q.conclude.rake n = { p.rake n with
        state := .waiting, trigger := cause, interval := .stopped, hold := .running (p.maximumHold n) }) := by
  obtain ⟨rake, claim, claims⟩ := triggered.facts
  have inputs := triggered.inputs
  have outside : q.loading = false := by
    unfold Plant.loading at running ⊢
    rw [inputs.mode]
    exact running
  have served' : q.PumpsServed :=
    ⟨triggered.units.2.2.2.1.trans served.1, fun m => by rw [claims _ (pumpHolder_ne_rakeHolder m n)]; exact served.2 m⟩
  have others' (m : Fin 2) (other : m ≠ n) : (q.claim (rakeHolder m)).status ≠ .waiting := by
    rw [claims _ fun same => other (rakeHolder_inj same)]
    exact others m other
  have held : q.heldUnits = p.heldUnits := by
    refine Plant.heldUnits_congr fun h => ?_
    by_cases own : h = rakeHolder n
    · subst own
      exact Or.inr ⟨by rw [free]; decide, by rw [claim]; exact ClaimStatus.noConfusion⟩
    · exact Or.inl (claims h own)
  have budget := inputs.budget
  have home : q.homeActive n = p.homeActive n := inputs.active _
  have overload : q.overloadActive n = p.overloadActive n := inputs.active _
  have cycle : q.cycleTime n = p.cycleTime n := inputs.reads (fun p => p.cycleTime n) (fun _ => rfl)
  have reverse : q.reverseTime n = p.reverseTime n := inputs.reads (fun p => p.reverseTime n) (fun _ => rfl)
  refine ⟨fun fits => ?fits, fun short calm => ?short⟩
  case fits =>
    have grant := Plant.grantRake_waiting (p := q) (n := n) (by rw [rake])
    generalize claimed_eq : q.setClaim (rakeHolder n) { q.claim (rakeHolder n) with status := .held } = claimed at grant
    have home' : claimed.homeActive n = p.homeActive n := by rw [← claimed_eq]; exact home
    have overload' : claimed.overloadActive n = p.overloadActive n := by rw [← claimed_eq]; exact overload
    have cycle' : claimed.cycleTime n = p.cycleTime n := by rw [← claimed_eq]; exact cycle
    have reverse' : claimed.reverseTime n = p.reverseTime n := by rw [← claimed_eq]; exact reverse
    have clock' : claimed.clock = p.clock := by rw [← claimed_eq]; exact inputs.clock
    have held' : claimed.claim (rakeHolder n) = { status := .held, units := p.rakeUnits n } := by
      rw [← claimed_eq, Plant.claim_setClaim_same, claim]
    have rakes' : claimed.rake n = { p.rake n with
        state := .waiting, trigger := cause, interval := .stopped, hold := .running (p.maximumHold n) } := by
      rw [← claimed_eq]
      exact rake
    have handed : claimed.out = p.out := by rw [← claimed_eq]; exact triggered.out
    obtain ⟨started, kept, entries⟩ := claimed.startRake_facts n
    rw [← grant, rakes', home', overload', cycle', reverse', clock'] at started
    rw [← grant, held'] at kept
    rw [← grant, rakes', handed, home', overload'] at entries
    obtain ⟨rake'', claim'', more, out''⟩ := Plant.conclude_grants outside served' (by rw [claim]) others'
      (decide_eq_true (by rw [held, claim, budget]; exact fits)) (by rw [kept]; exact ClaimStatus.noConfusion)
      (by rw [started]; dsimp only; split <;> exact RakeState.noConfusion)
    exact ⟨⟨more, out''.trans (by rw [entries])⟩, claim''.trans kept, rake''.trans started⟩
  case short =>
    have units := Plant.conclude_still outside served' (fun m waiting => ?_) (by rw [inputs.mode]; exact calm)
    · exact ⟨(units.claim _).trans claim, (units.rake n).trans rake⟩
    · by_cases own : m = n
      · rw [own, claim, held, budget]
        exact short
      · exact absurd waiting (others' m own)

/-- What the end of a step leaves of the inputs and the orders. -/
theorem Plant.Kept.emptied {p q : Plant} {marks : List (Fin 16)} (kept : p.Kept q) :
    p.SameInputs { q with out := [], marks := marks } ∧ p.SameOrders { q with out := [], marks := marks } := by
  obtain ⟨⟨⟨clock, levels, mode, weirs, sections, raw, debounced, stability⟩, -⟩, ⟨shadow, corr, desired, rotation⟩⟩ := kept
  exact ⟨⟨clock, levels, mode, weirs, sections, raw, debounced, stability⟩, ⟨shadow, corr, desired, rotation⟩⟩

theorem Plant.triggerRake_triggered (p : Plant) (n : Fin 2) (cause : Trigger) :
    p.Triggered (p.triggerRake n cause) n cause :=
  ⟨.refl _, (p.triggerRake_kept n cause).1.1, rfl⟩

/-- Settles O33: both commands trigger the rake, and `Plant.Triggered.concludes` says what the end of the event makes of it. -/
theorem triggeredRakeStartsOrWaits : Obligations.TriggeredRakeStartsOrWaits := by
  intro s n c cause out running asked idle free
  rcases asked with ⟨rfl, due, rfl⟩ | ⟨w, rfl, taken, set, same, rfl⟩
  case inl =>
    let q := s.plant.triggerRake n .interval
    have run : exec (.intervalExpiry n) s = .next (s.plantEvent true fun p => p.triggerRake n .interval) := by
      refine congrArg Host.Outcome.next ?_
      have dueNow : s.plant.intervalDue n = true := by
        unfold Plant.intervalDue
        rw [idle, due]
        rfl
      rw [dueNow]
    have plant := plantEvent_plant s fun p => p.triggerRake n .interval
    have kept := (s.plant.triggerRake_kept n .interval).trans (Plant.conclude_kept _)
    refine ⟨_, run, fun _ => ⟨plantEvent_step s _ [] ⟨_, rfl⟩, ?_, ?_⟩, fun queue pumps others => ?_⟩
    · rw [plant]
      exact kept.emptied.1
    · rw [plant]
      exact kept.emptied.2
    · obtain ⟨fits, short⟩ := (s.plant.triggerRake_triggered n .interval).concludes running free ⟨queue, pumps⟩ others
      refine ⟨fun room => ?_, fun beyond calm => ?_⟩
      · obtain ⟨⟨more, entries⟩, claim, rake⟩ := fits room
        rw [out] at entries
        refine ⟨(plantEvent_step s _ _ ⟨more, entries⟩).log, ?_, ?_⟩
        · rw [plant]; exact claim
        · rw [plant]; exact rake
      · rw [plant]
        exact short beyond calm
  case inr =>
    obtain ⟨-, plant, log, -⟩ := screenWrite_step taken
    have clock : (s.screenWrite n w).plant.clock = s.plant.clock := by
      rw [plant]
      exact (s.plant.screenWritten_but n w).1.clock
    have judged : s.plant.screenJudged n w = s.plant.triggerRake n .command := by
      unfold Plant.screenJudged
      rw [Plant.judgeRakeOos_same same, Plant.judgeRakeReset_rest _ (by rw [idle]; exact RakeState.noConfusion)]
      exact if_pos (by rw [show rakeField w = true from set, idle]; rfl)
    have triggered : s.plant.Triggered
        ((s.plant.triggerRake n .command).setShadow (screenWord n) (screenShadow w)) n .command :=
      ⟨⟨rfl, rfl, rfl, rfl, rfl⟩,
        (s.plant.triggerRake_kept n .command).1.1.trans (Plant.setShadow_but _ _ _).1, rfl⟩
    have written : s.plant.screenWritten n w =
        ((s.plant.triggerRake n .command).setShadow (screenWord n) (screenShadow w)).conclude := by
      unfold Plant.screenWritten
      rw [judged]
    rw [written] at plant log
    refine ⟨_, rfl, fun other => Instr.noConfusion other, fun queue pumps others => ?_⟩
    obtain ⟨fits, short⟩ := triggered.concludes running free ⟨queue, pumps⟩ others
    refine ⟨fun room => ?_, fun beyond calm => ?_⟩
    · obtain ⟨⟨more, entries⟩, claim, rake⟩ := fits room
      rw [out] at entries
      refine ⟨⟨more, ?_⟩, ?_, ?_⟩
      · rw [clock, log, entries]
        rfl
      · rw [plant]; exact claim
      · rw [plant]; exact rake
    · rw [plant]
      exact short beyond calm

end Sys2Proof.Machine
end

section
/-! The timers of a rake (R68 to R70, R73): O34. -/

namespace Sys2Proof.Machine

/-- What a jam hands (R70). -/
def Plant.jamDraft (p : Plant) (n : Fin 2) (cause : JamCause) : Draft :=
  { source := srcScreen n, kind := 0x35, urgent := false
    detail := detail1 cause.code ++ detail2 (p.rake n).attempts ++ detail4 (p.cycleDuration n) }

theorem Plant.jamRake_rake (p : Plant) (n : Fin 2) (cause : JamCause) : (p.jamRake n cause).rake n = { p.rake n with
    state := .jammed, jamCause := cause, cycle := .stopped, reverse := .stopped, interval := .stopped
    hold := .stopped } := vset_get_same _ _ _

theorem Plant.jamRake_claim (p : Plant) (n : Fin 2) (cause : JamCause) :
    (p.jamRake n cause).claim (rakeHolder n) = { status := .none, units := 0 } := vset_get_same _ _ _

theorem Plant.jamRake_out (p : Plant) (n : Fin 2) (cause : JamCause) :
    (p.jamRake n cause).out = p.out ++ [p.jamDraft n cause] := rfl

/-- R70: a jam outside LOAD, with the end of its event. -/
theorem jamRake_event {s : State} (out : s.plant.out = []) (running : s.plant.loading = false) (n : Fin 2)
    (cause : JamCause) :
    let t := s.plantEvent true fun p => p.jamRake n cause
    s.PlantStep t [s.plant.jamDraft n cause] ∧
      t.plant.rake n = { s.plant.rake n with
        state := .jammed, jamCause := cause, cycle := .stopped, reverse := .stopped, interval := .stopped
        hold := .stopped } ∧
      t.plant.claim (rakeHolder n) = { status := .none, units := 0 } ∧
      (t.plant.alarms.points.get (jamPoint n)).condition = true ∧
      s.plant.SameInputs t.plant ∧ s.plant.SameOrders t.plant := by
  intro t
  have plant : t.plant = { (s.plant.jamRake n cause).conclude with out := [], marks := s.plant.marks } :=
    plantEvent_plant s fun p => p.jamRake n cause
  have kept := s.plant.jamRake_kept n cause
  have outside : (s.plant.jamRake n cause).loading = false := kept.loading.trans running
  obtain ⟨rake, claim⟩ := Plant.conclude_rake_kept (s.plant.jamRake n cause) n (by rw [Plant.jamRake_claim])
    (Or.inl (by rw [Plant.jamRake_rake]; exact RakeState.noConfusion))
  have jam := (Plant.conclude_announced outside).jam n
  rw [rake, Plant.jamRake_rake] at jam
  obtain ⟨more, entries⟩ := (s.plant.jamRake n cause).conclude_kept.1.2
  refine ⟨plantEvent_step s _ _ ⟨more, ?_⟩, ?_, ?_, ?_, ?_, ?_⟩
  · rw [entries, Plant.jamRake_out, out]
    rfl
  all_goals rw [plant]
  · exact rake.trans (s.plant.jamRake_rake n cause)
  · exact claim.trans (s.plant.jamRake_claim n cause)
  · exact jam
  · exact (kept.trans (Plant.conclude_kept _)).emptied.1
  · exact (kept.trans (Plant.conclude_kept _)).emptied.2

/-- The rake driven forward again after a reverse, before home and the overload input are looked at (R69). -/
def Plant.forwardAgain (p : Plant) (n : Fin 2) : Plant :=
  p.setRake n { p.rake n with state := .raking, reverse := .stopped, cycle := .running (p.cycleTime n) }

theorem Plant.reverseDone_retries {p : Plant} {n : Fin 2} (few : (p.rake n).attempts ≤ p.retryLimit n) :
    p.reverseDone n = (p.forwardAgain n).backInRaking n := if_pos few

theorem Plant.reverseDone_jams {p : Plant} {n : Fin 2} (many : p.retryLimit n < (p.rake n).attempts) :
    p.reverseDone n = p.jamRake n .overload := if_neg (not_le.mpr many)

theorem Plant.forwardAgain_rake (p : Plant) (n : Fin 2) : (p.forwardAgain n).rake n = { p.rake n with
    state := .raking, reverse := .stopped, cycle := .running (p.cycleTime n) } := vset_get_same _ _ _

theorem Plant.backInRaking_home {p : Plant} {n : Fin 2} (left : (p.rake n).homeLeave = true)
    (home : p.homeActive n = true) : p.backInRaking n = p.endCycle n := if_pos (by rw [left, home]; rfl)

theorem Plant.backInRaking_away {p : Plant} {n : Fin 2} (away : (p.rake n).homeLeave = false ∨ p.homeActive n = false) :
    p.backInRaking n = p.checkOverload n := by
  refine if_neg fun both => ?_
  obtain ⟨left, home⟩ := Bool.and_eq_true_iff.mp both
  rcases away with clear | clear
  · rw [clear] at left; cases left
  · rw [clear] at home; cases home

/-- What the end of a cycle hands (R68). -/
def Plant.cycleDraft (p : Plant) (n : Fin 2) : Draft :=
  { source := srcScreen n, kind := 0x31, urgent := false
    detail := detail1 0 ++ detail1 (p.rake n).trigger.code ++ detail2 (p.rake n).attempts ++
      detail4 (p.cycleDuration n) }

theorem Plant.endCycle_facts (p : Plant) (n : Fin 2) :
    (p.endCycle n).rake n = { p.rake n with
      state := .idle, cycle := .stopped, reverse := .stopped, hold := .stopped, held := false
      interval := if p.intervalTime n = 0 then .stopped else .running (p.intervalTime n) } ∧
    (p.endCycle n).claim (rakeHolder n) = { status := .none, units := 0 } ∧
    (p.endCycle n).out = p.out ++ [p.cycleDraft n] :=
  ⟨vset_get_same _ _ _, vset_get_same _ _ _, rfl⟩

/-- Settles O34: the jams by `jamRake_event`, the retry by the cases of `Plant.backInRaking`, the hold by
`Plant.conclude_still`. -/
theorem rakeTimersJamRetryOrHold : Obligations.RakeTimersJamRetryOrHold := by
  intro s n out running jammed
  refine ⟨fun raking due => ⟨_, ?runCycle, jamRake_event out running n .timeout⟩,
    fun reversing due => ⟨s.plantEvent true fun p => p.reverseDone n, ?runReverse, fun many => ?jams, fun few left home => ?home, fun few away queue pumps held => ?retry⟩,
    fun waiting due => ⟨s.plantEvent true fun p => p.holdOver n, ?runHold, ?hold⟩⟩
  case runCycle =>
    refine congrArg Host.Outcome.next ?_
    rw [show s.plant.cycleDue n = true by unfold Plant.cycleDue; rw [raking, due]; rfl]
  case runReverse =>
    refine congrArg Host.Outcome.next (congrArg (fun due => s.plantEvent due fun p => p.reverseDone n)
      (show s.plant.reverseDue n = true by unfold Plant.reverseDue; rw [reversing, due]; rfl))
  case runHold =>
    refine congrArg Host.Outcome.next (congrArg (fun due => s.plantEvent due fun p => p.holdOver n)
      (show s.plant.holdDue n = true from ?_))
    unfold Plant.holdDue
    rw [due]
    rcases waiting with state | state <;> rw [state] <;> rfl
  case jams =>
    have same : (s.plantEvent true fun p => p.reverseDone n) = s.plantEvent true fun p => p.jamRake n .overload := by
      refine congrArg (fun p : Plant => finish s { s with plant := p.conclude }) ?_
      exact Plant.reverseDone_jams many
    show jammed (s.plantEvent true fun p => p.reverseDone n) .overload
    rw [same]
    exact jamRake_event out running n .overload
  case home =>
    have ends : s.plant.reverseDone n = (s.plant.forwardAgain n).endCycle n := by
      rw [Plant.reverseDone_retries few]
      exact Plant.backInRaking_home (p := s.plant.forwardAgain n) (by rw [Plant.forwardAgain_rake]; exact left) home
    have plant := plantEvent_plant s fun p => p.reverseDone n
    have kept := (s.plant.reverseDone_kept n).trans (Plant.conclude_kept _)
    obtain ⟨rake, claim, entries⟩ := (s.plant.forwardAgain n).endCycle_facts n
    rw [Plant.forwardAgain_rake] at rake
    rw [← ends] at rake claim entries
    obtain ⟨more, concluded⟩ := (s.plant.reverseDone n).conclude_kept.1.2
    refine ⟨plantEvent_step s _ _ ⟨more, ?_⟩, ?_, ?_, fun calm => ?_⟩
    · rw [concluded, entries]
      show (s.plant.out ++ _) ++ _ = _
      rw [out]
      unfold Plant.cycleDraft Plant.cycleDuration
      rw [Plant.forwardAgain_rake]
      rfl
    all_goals rw [plant]
    · exact kept.emptied.1
    · exact kept.emptied.2
    · obtain ⟨rake', claim'⟩ := Plant.conclude_rake_kept (s.plant.reverseDone n) n (by rw [claim])
        (Or.inr (by rw [(s.plant.reverseDone_kept n).1.1.mode]; exact calm))
      exact ⟨claim'.trans claim, rake'.trans rake⟩
  case retry =>
    have again : s.plant.reverseDone n = (s.plant.forwardAgain n).checkOverload n := by
      rw [Plant.reverseDone_retries few]
      exact Plant.backInRaking_away (p := s.plant.forwardAgain n) (by rw [Plant.forwardAgain_rake]; exact away)
    have plant := plantEvent_plant s fun p => p.reverseDone n
    have kept := s.plant.reverseDone_kept n
    have outside : (s.plant.reverseDone n).loading = false := kept.loading.trans running
    have served : (s.plant.reverseDone n).PumpsServed := by
      rw [again]
      exact Plant.PumpsServed.of_samePumps ⟨queue, pumps⟩
        ((s.plant.setRake_samePumps n _).trans (Plant.checkOverload_samePumps _ n))
    have claim : (s.plant.reverseDone n).claim (rakeHolder n) = s.plant.claim (rakeHolder n) := by
      rw [again]
      unfold Plant.checkOverload
      split <;> rfl
    have free (clear : s.plant.overloadActive n = false) : s.plant.reverseDone n = s.plant.forwardAgain n :=
      again.trans (Plant.checkOverload_rest (p := s.plant.forwardAgain n) clear)
    have again' (overloaded : s.plant.overloadActive n = true) :
        s.plant.reverseDone n = (s.plant.forwardAgain n).reverseRake n :=
      again.trans (Plant.checkOverload_active (p := s.plant.forwardAgain n) overloaded)
    have moving : ((s.plant.reverseDone n).rake n).state ≠ .idle := by
      cases overload : s.plant.overloadActive n with
      | true => rw [again' overload, Plant.reverseRake_rake]; exact RakeState.noConfusion
      | false => rw [free overload, Plant.forwardAgain_rake]; exact RakeState.noConfusion
    obtain ⟨rake', claim'⟩ := Plant.conclude_rake_still outside served (n := n) (by rw [claim, held]; decide) (Or.inl moving)
    refine ⟨plantEvent_step s _ [] ⟨_, rfl⟩, ?_, ?_, ?_, fun clear => ?_, fun overloaded => ⟨?_, ?_⟩⟩
    · rw [plant]; exact (kept.trans (Plant.conclude_kept _)).emptied.1
    · rw [plant]; exact (kept.trans (Plant.conclude_kept _)).emptied.2
    · rw [plant]; exact claim'.trans claim
    · rw [plant]
      refine rake'.trans ?_
      rw [free clear, Plant.forwardAgain_rake]
    · obtain ⟨more, concluded⟩ := (s.plant.reverseDone n).conclude_kept.1.2
      refine (plantEvent_step s _ _ ⟨more, ?_⟩).log
      rw [concluded, again' overloaded, Plant.reverseRake_out, Plant.forwardAgain_rake]
      show (s.plant.out ++ _) ++ _ = _
      rw [out]
      rfl
    · rw [plant]
      refine rake'.trans ?_
      rw [again' overloaded, Plant.reverseRake_rake, Plant.forwardAgain_rake]
      rfl
  case hold =>
    have plant := plantEvent_plant s fun p => p.holdOver n
    have kept : s.plant.Kept (s.plant.holdOver n) := s.plant.setRake_kept n _
    have outside : (s.plant.holdOver n).loading = false := kept.loading.trans running
    refine ⟨plantEvent_step s _ [] ⟨_, rfl⟩, ?_, ?_, fun queue pumps short calm => ?_⟩
    · rw [plant]; exact (kept.trans (Plant.conclude_kept _)).emptied.1
    · rw [plant]; exact (kept.trans (Plant.conclude_kept _)).emptied.2
    · have units := Plant.conclude_still (p := s.plant.holdOver n) outside ⟨queue, pumps⟩ short calm
      have held := (Plant.conclude_announced outside).held n
      rw [units.rake n, show (s.plant.holdOver n).rake n = { s.plant.rake n with held := true, hold := .stopped } from
        vset_get_same _ _ _] at held
      rw [plant]
      exact ⟨units.2.1, units.2.2.1, units.1, held⟩

end Sys2Proof.Machine
end

section
/-! The records of the weirs (R80 to R85, R32, R33): O35. -/

namespace Sys2Proof.Machine

/-! The pump unit's acts move no point of the alarm unit: its conditions are handed at the end of the event. -/

theorem Plant.setRun_alarms (p : Plant) (n : Fin 6) (b : Bool) : (p.setRun n b).alarms = p.alarms :=
  Plant.correctShadow_alarms p _ _

theorem Plant.leaveQueue_alarms (p : Plant) (n : Fin 6) : (p.leaveQueue n).alarms = p.alarms := by
  unfold Plant.leaveQueue
  dsimp only
  split <;> rfl

theorem Plant.joinQueue_alarms (p : Plant) (n : Fin 6) : (p.joinQueue n).alarms = p.alarms := by
  unfold Plant.joinQueue
  split <;> rfl

theorem Plant.trip_alarms (p : Plant) (n : Fin 6) (c : TripCause) : (p.trip n c).alarms = p.alarms := by
  unfold Plant.trip
  dsimp only
  rw [Plant.append_alarms, Plant.setRun_alarms, Plant.dropClaim_alarms, Plant.leaveQueue_alarms, Plant.setPump_alarms]

theorem Plant.enterResting_alarms (p : Plant) (n : Fin 6) (off : Nat) : (p.enterResting n off).alarms = p.alarms := by
  unfold Plant.enterResting
  dsimp only
  split
  · rw [Plant.trip_alarms, Plant.dropClaim_alarms, Plant.leaveQueue_alarms, Plant.setPump_alarms]
  · rw [Plant.dropClaim_alarms, Plant.leaveQueue_alarms, Plant.setPump_alarms]

theorem Plant.stopPump_alarms (p : Plant) (n : Fin 6) (r : StopReason) : (p.stopPump n r).alarms = p.alarms :=
  Plant.enterResting_alarms _ n _

theorem Plant.demandCleared_alarms (p : Plant) (n : Fin 6) : (p.demandCleared n).alarms = p.alarms := by
  unfold Plant.demandCleared
  split
  · exact p.leaveQueue_alarms n
  · exact p.stopPump_alarms n _
  · split
    · exact p.setPump_alarms n _
    · exact p.stopPump_alarms n _
  all_goals rfl

theorem Plant.demandSet_alarms (p : Plant) (n : Fin 6) : (p.demandSet n).alarms = p.alarms := by
  unfold Plant.demandSet
  split
  · exact p.joinQueue_alarms n
  · exact p.setPump_alarms n _
  all_goals rfl

theorem Plant.withdrawDemand_alarms (p : Plant) (n : Fin 6) : (p.withdrawDemand n).alarms = p.alarms := by
  unfold Plant.withdrawDemand
  split
  · exact (Plant.demandCleared_alarms _ n).trans (p.setRun_alarms n _)
  · rfl

theorem Plant.raiseDemands_alarms (k : Nat) (p : Plant) : (p.raiseDemands k).alarms = p.alarms := by
  induction k generalizing p with
  | zero => rfl
  | succ k ih =>
    unfold Plant.raiseDemands
    split
    · split
      · exact (ih _).trans ((Plant.demandSet_alarms _ _).trans (p.setRun_alarms _ _))
      · rfl
    · rfl

theorem Plant.lowerDemands_alarms (k : Nat) (p : Plant) : (p.lowerDemands k).alarms = p.alarms := by
  induction k generalizing p with
  | zero => rfl
  | succ k ih =>
    unfold Plant.lowerDemands
    split
    · split
      · exact (ih _).trans (p.withdrawDemand_alarms _)
      · rfl
    · rfl

theorem Plant.reexamine_alarms (p : Plant) : p.reexamine.alarms = p.alarms := by
  unfold Plant.reexamine
  split
  · exact Plant.raiseDemands_alarms 6 p
  · rfl

theorem Plant.limitsChanged_alarms (p : Plant) : p.limitsChanged.alarms = p.alarms := by
  have withdrawn (l : List (Fin 6)) : (l.foldl (fun q n => q.withdrawDemand n) p).alarms = p.alarms :=
    foldl_alarms _ (fun q n => q.withdrawDemand_alarms n) l p
  unfold Plant.limitsChanged
  dsimp only
  split
  · exact withdrawn _
  · exact (Plant.reexamine_alarms _).trans (withdrawn _)

theorem Plant.standingTrigger_alarms (p : Plant) (n : Fin 2) : (p.standingTrigger n).alarms = p.alarms := by
  unfold Plant.standingTrigger
  split <;> rfl

/-! Storm posture. -/

/-- The plant in which storm posture has changed, before the units hear of it (R33). -/
def Plant.stormTold (p : Plant) (now : Bool) : Plant :=
  ({ p with mode := { p.mode with storm := now }, marks := p.marks ++ p.limitPages } : Plant).append srcMode
    (if now then 0x11 else 0x12) (detail1 p.stormBits)

theorem Plant.stormRecompute_changed {p : Plant}
    (changed : (p.mode.wetWell || p.mode.overflow || p.mode.floatHigh) ≠ p.mode.storm) :
    p.stormRecompute = allRakes.foldl (fun q n => q.standingTrigger n)
      (p.stormTold (p.mode.wetWell || p.mode.overflow || p.mode.floatHigh)).limitsChanged := if_neg changed

/-- Storm posture moves no other input, hands entries at most, and no condition. -/
theorem Plant.stormRecompute_facts (p : Plant) :
    p.stormRecompute.clock = p.clock ∧ p.stormRecompute.levels = p.levels ∧ p.stormRecompute.sections = p.sections ∧
      p.stormRecompute.weirs = p.weirs ∧ p.stormRecompute.alarms = p.alarms ∧
      ∃ more, p.stormRecompute.out = p.out ++ more := by
  by_cases changed : (p.mode.wetWell || p.mode.overflow || p.mode.floatHigh) = p.mode.storm
  · rw [Plant.stormRecompute_of_posture changed.symm]
    exact ⟨rfl, rfl, rfl, rfl, rfl, [], (List.append_nil _).symm⟩
  · rw [Plant.stormRecompute_changed changed]
    have acts := (Plant.limitsChanged_acts (p.stormTold (p.mode.wetWell || p.mode.overflow || p.mode.floatHigh))).trans
      (foldl_kept (fun q n => q.standingTrigger n) (fun q n => q.standingTrigger_kept n) allRakes _).acts
    obtain ⟨⟨inputs, -⟩, more, out⟩ := acts
    refine ⟨inputs.clock, inputs.levels, inputs.sections, inputs.weirs, ?_, _, out.trans (List.append_assoc _ _ _)⟩
    exact (foldl_alarms _ (fun q n => q.standingTrigger_alarms n) _ _).trans (Plant.limitsChanged_alarms _)

/-- The plant in which the overflow condition has been taken, before storm posture (R32). -/
def Plant.overflowTaken (p : Plant) : Plant :=
  { p with
    mode := { p.mode with overflow := p.anyRecordOpen }
    marks := p.marks ++ if p.anyRecordOpen = p.mode.overflow then [] else [0] }

theorem Plant.evaluateOverflow_facts (p : Plant) :
    p.evaluateOverflow.clock = p.clock ∧ p.evaluateOverflow.levels = p.levels ∧
      p.evaluateOverflow.sections = p.sections ∧ p.evaluateOverflow.weirs = p.weirs ∧
      p.evaluateOverflow.alarms = p.alarms ∧
      p.evaluateOverflow.mode = { p.mode with
        overflow := p.anyRecordOpen, storm := p.mode.wetWell || p.anyRecordOpen || p.mode.floatHigh } ∧
      ∃ more, p.evaluateOverflow.out = p.out ++ more := by
  obtain ⟨clock, levels, sections, weirs, alarms, out⟩ := p.overflowTaken.stormRecompute_facts
  exact ⟨clock, levels, sections, weirs, alarms, p.overflowTaken.stormRecompute_mode, out⟩

theorem Plant.anyRecordOpen_iff (p : Plant) : p.anyRecordOpen = true ↔ ∃ m, (p.weir m).openRecord ≠ none := by
  unfold Plant.anyRecordOpen
  rw [List.any_eq_true]
  constructor
  · rintro ⟨m, -, opened⟩
    exact ⟨m, Option.isSome_iff_ne_none.mp opened⟩
  · rintro ⟨m, opened⟩
    exact ⟨m, mem_allWeirs m, Option.isSome_iff_ne_none.mpr opened⟩

/-- What a weir's record change hands on: the OVERFLOW condition, then the overflow condition of the station (R83, R85). -/
theorem Plant.recordChange_facts (p : Plant) (n : Fin 3) (opened : Bool) :
    let q := (p.hand (overflowPoint n) opened).evaluateOverflow
    q.clock = p.clock ∧ q.levels = p.levels ∧ q.sections = p.sections ∧ (∀ m, q.weir m = p.weir m) ∧
      q.mode = { p.mode with
        overflow := p.anyRecordOpen, storm := p.mode.wetWell || p.anyRecordOpen || p.mode.floatHigh } ∧
      (∃ more, q.out = p.out ++ more) ∧
      (p.loading = false → (q.alarms.points.get (overflowPoint n)).condition = opened) := by
  obtain ⟨⟨inputs, more, handed⟩, -⟩ := p.hand_kept (overflowPoint n) opened
  obtain ⟨clock, levels, sections, weirs, alarms, mode, more', out⟩ :=
    (p.hand (overflowPoint n) opened).evaluateOverflow_facts
  have any : (p.hand (overflowPoint n) opened).anyRecordOpen = p.anyRecordOpen := by
    unfold Plant.anyRecordOpen
    rw [inputs.weirs]
  rw [any, inputs.mode] at mode
  refine ⟨clock.trans inputs.clock, levels.trans inputs.levels, sections.trans inputs.sections, fun m => ?_, mode,
    ⟨more ++ more', ?_⟩, fun running => ?_⟩
  · exact congrArg (·.get m) (weirs.trans inputs.weirs)
  · rw [out, handed, List.append_assoc]
  · rw [alarms]
    exact Plant.hand_condition running _ _

/-- The record that a weir opens (R83). -/
def Plant.newRecord (p : Plant) (n : Fin 3) : OverflowRecord :=
  { startTime := p.clock.station, startUptime := p.clock.uptime, duration := none, endTime := none
    peak := (p.weir n).level.getD 0, peakTime := p.clock.station, volume := some 0
    flags := { curveChanged := false, channelFault := false, beyondCurve := false, resumed := (p.weir n).resume
               clockChanged := false } }

/-- A weir that overflows from now on (R83). -/
def Plant.overflowingWeir (p : Plant) (n : Fin 3) : Weir :=
  { p.weir n with
    state := .overflowing, startConfirm := .stopped, openRecord := some (p.newRecord n), litres := 0, resume := false }

/-- The OVERFLOW_START entry (R83). -/
def Plant.startDraft (p : Plant) (n : Fin 3) : Draft :=
  { source := srcWeir n, kind := 0x40, urgent := true
    detail := detail1 (if (p.weir n).resume then 8 else 0) ++ detail4 p.clock.uptime.toNat ++
      detail2 ((p.weir n).level.getD 0) ++ detail2 (p.crest n) }

theorem resumedFlags_code (resumed : Bool) :
    ({ RecordFlags.none with resumed := resumed } : RecordFlags).code = if resumed then 8 else 0 := by
  cases resumed <;> rfl

theorem Plant.openRecord_eq (p : Plant) (n : Fin 3) : p.openRecord n =
    ((({ p.setWeir n (p.overflowingWeir n) with out := p.out ++ [p.startDraft n] } : Plant).hand (overflowPoint n)
      true)).evaluateOverflow := by
  unfold Plant.startDraft
  rw [← resumedFlags_code]
  rfl

/-- R83: what opening a record leaves. -/
theorem Plant.openRecord_facts (p : Plant) (n : Fin 3) :
    let q := p.openRecord n
    q.clock = p.clock ∧ q.levels = p.levels ∧ q.sections = p.sections ∧ q.weir n = p.overflowingWeir n ∧
      (∀ m, m ≠ n → q.weir m = p.weir m) ∧ q.mode = { p.mode with overflow := true, storm := true } ∧
      (∃ more, q.out = p.out ++ p.startDraft n :: more) ∧
      (p.loading = false → (q.alarms.points.get (overflowPoint n)).condition = true) := by
  intro q
  obtain ⟨clock, levels, sections, weirs, mode, ⟨more, out⟩, point⟩ := Plant.recordChange_facts
    { p.setWeir n (p.overflowingWeir n) with out := p.out ++ [p.startDraft n] } n true
  have any : ({ p.setWeir n (p.overflowingWeir n) with out := p.out ++ [p.startDraft n] } : Plant).anyRecordOpen = true := by
    refine (Plant.anyRecordOpen_iff _).mpr ⟨n, ?_⟩
    show ((p.setWeir n (p.overflowingWeir n)).weir n).openRecord ≠ none
    rw [Plant.weir_setWeir]
    exact Option.some_ne_none _
  rw [any, Bool.or_true, Bool.true_or] at mode
  rw [← Plant.openRecord_eq] at clock levels sections weirs mode out point
  refine ⟨clock, levels, sections, (weirs n).trans (p.weir_setWeir n _), fun m other => (weirs m).trans ?_, mode,
    ⟨more, out.trans ?_⟩, point⟩
  · exact Plant.weir_setWeir_ne p other.symm _
  · show (p.out ++ [p.startDraft n]) ++ more = _
    rw [List.append_assoc]
    rfl

/-- The record as its weir closes it (R85). -/
def Plant.closedRecord (p : Plant) (r : OverflowRecord) : OverflowRecord :=
  { r with duration := some (p.clock.uptime - r.startUptime), endTime := some p.clock.station }

/-- A weir back in NORMAL, its record closed (R85). -/
def Plant.endedWeir (p : Plant) (n : Fin 3) (r : OverflowRecord) : Weir :=
  { p.weir n with
    state := .normal, endConfirm := .stopped, faultHold := false, openRecord := none, litres := 0
    lastClosed := some (p.closedRecord r) }

/-- The OVERFLOW_END entry (R85). -/
def Plant.endDraft (p : Plant) (n : Fin 3) (r : OverflowRecord) : Draft :=
  { source := srcWeir n, kind := 0x41, urgent := false
    detail := detail1 r.flags.code ++ detail4 r.startTime.toNat ++ detail4 (p.clock.uptime - r.startUptime).toNat ++
      detail2 r.peak ++ detail4 r.peakTime.toNat ++ detail3 (volumeCode r.volume) }

theorem Plant.closeRecord_eq {p : Plant} {n : Fin 3} {r : OverflowRecord} (opened : (p.weir n).openRecord = some r) :
    p.closeRecord n =
      ((({ p.setWeir n (p.endedWeir n r) with out := p.out ++ [p.endDraft n r] } : Plant).hand (overflowPoint n)
        false)).evaluateOverflow := by
  unfold Plant.closeRecord
  dsimp only
  rw [opened]
  rfl

/-- R85: what closing a record leaves. -/
theorem Plant.closeRecord_facts {p : Plant} {n : Fin 3} {r : OverflowRecord}
    (opened : (p.weir n).openRecord = some r) :
    let q := p.closeRecord n
    q.clock = p.clock ∧ q.levels = p.levels ∧ q.sections = p.sections ∧ q.weir n = p.endedWeir n r ∧
      (∀ m, m ≠ n → q.weir m = p.weir m) ∧
      (let others := decide (∃ m, m ≠ n ∧ (p.weir m).openRecord ≠ none)
       q.mode = { p.mode with overflow := others, storm := p.mode.wetWell || others || p.mode.floatHigh }) ∧
      (∃ more, q.out = p.out ++ p.endDraft n r :: more) ∧
      (p.loading = false → (q.alarms.points.get (overflowPoint n)).condition = false) := by
  intro q
  obtain ⟨clock, levels, sections, weirs, mode, ⟨more, out⟩, point⟩ := Plant.recordChange_facts
    { p.setWeir n (p.endedWeir n r) with out := p.out ++ [p.endDraft n r] } n false
  have any : ({ p.setWeir n (p.endedWeir n r) with out := p.out ++ [p.endDraft n r] } : Plant).anyRecordOpen =
      decide (∃ m, m ≠ n ∧ (p.weir m).openRecord ≠ none) := by
    rw [Bool.eq_iff_iff, Plant.anyRecordOpen_iff, decide_eq_true_iff]
    refine exists_congr fun m => ?_
    show ((p.setWeir n (p.endedWeir n r)).weir m).openRecord ≠ none ↔ _
    by_cases own : m = n
    · subst own
      rw [Plant.weir_setWeir]
      exact iff_of_false (fun h => h rfl) (fun h => h.1 rfl)
    · rw [Plant.weir_setWeir_ne p (Ne.symm own)]
      exact (and_iff_right own).symm
  rw [any] at mode
  rw [← Plant.closeRecord_eq opened] at clock levels sections weirs mode out point
  refine ⟨clock, levels, sections, (weirs n).trans (p.weir_setWeir n _), fun m other => (weirs m).trans ?_, mode,
    ⟨more, out.trans ?_⟩, point⟩
  · exact Plant.weir_setWeir_ne p other.symm _
  · show (p.out ++ [p.endDraft n r]) ++ more = _
    rw [List.append_assoc]
    rfl

theorem overflowPoint_notServed (n : Fin 3) : servedPoint (overflowPoint n) = false := by
  revert n
  decide

/-- Settles O35: `Plant.openRecord_facts` and `Plant.closeRecord_facts`, which the end of the event leaves. -/
theorem confirmTimersOpenAndCloseRecords : Obligations.ConfirmTimersOpenAndCloseRecords := by
  intro s n out running w only
  refine ⟨fun rising due => ?_, fun r falling due opened => ?_⟩
  · have run : exec (.startConfirmExpiry n) s = .next (s.plantEvent true fun p => p.openRecord n) :=
      congrArg Host.Outcome.next (congrArg (fun due => s.plantEvent due fun p => p.openRecord n)
        (show s.plant.startDue n = true by
          unfold Plant.startDue
          rw [show (s.plant.weir n).state = _ from rising, show (s.plant.weir n).startConfirm = _ from due]
          rfl))
    obtain ⟨clock, levels, sections, weir, weirs, mode, ⟨more, entries⟩, point⟩ := s.plant.openRecord_facts n
    have plant := plantEvent_plant s fun p => p.openRecord n
    obtain ⟨⟨inputs, more', concluded⟩, -⟩ := (s.plant.openRecord n).conclude_kept
    have weirEnd (m : Fin 3) : (s.plant.openRecord n).conclude.weir m = (s.plant.openRecord n).weir m :=
      congrArg (·.get m) inputs.weirs
    refine ⟨_, run, ⟨?_, ?_, ?_, fun m other => ?_⟩, plantEvent_step s _ _ ⟨more ++ more', ?_⟩, ?_, ?_, ?_⟩
    · rw [plant]; exact inputs.clock.trans clock
    · rw [plant]; exact inputs.levels.trans levels
    · rw [plant]; exact inputs.sections.trans sections
    · rw [plant]; exact (weirEnd m).trans (weirs m other)
    · rw [concluded, entries, out]; rfl
    · rw [plant]; exact (weirEnd n).trans weir
    · rw [plant]; exact inputs.mode.trans mode
    · rw [plant]
      show ((s.plant.openRecord n).conclude.alarms.points.get (overflowPoint n)).condition = true
      rw [Plant.conclude_point _ (overflowPoint_notServed n)]
      exact point running
  · have run : exec (.endConfirmExpiry n) s = .next (s.plantEvent true fun p => p.closeRecord n) :=
      congrArg Host.Outcome.next (congrArg (fun due => s.plantEvent due fun p => p.closeRecord n)
        (show s.plant.endDue n = true by
          unfold Plant.endDue
          rw [show (s.plant.weir n).state = _ from falling, show (s.plant.weir n).endConfirm = _ from due]
          rfl))
    obtain ⟨clock, levels, sections, weir, weirs, mode, ⟨more, entries⟩, point⟩ := Plant.closeRecord_facts opened
    have plant := plantEvent_plant s fun p => p.closeRecord n
    obtain ⟨⟨inputs, more', concluded⟩, -⟩ := (s.plant.closeRecord n).conclude_kept
    have weirEnd (m : Fin 3) : (s.plant.closeRecord n).conclude.weir m = (s.plant.closeRecord n).weir m :=
      congrArg (·.get m) inputs.weirs
    have modeEnd : (s.plantEvent true fun p => p.closeRecord n).plant.mode = (s.plant.closeRecord n).mode := by
      rw [plant]; exact inputs.mode
    refine ⟨_, run, ⟨?_, ?_, ?_, fun m other => ?_⟩, plantEvent_step s _ _ ⟨more ++ more', ?_⟩, ?_, ?_, ?_, ?_⟩
    · rw [plant]; exact inputs.clock.trans clock
    · rw [plant]; exact inputs.levels.trans levels
    · rw [plant]; exact inputs.sections.trans sections
    · rw [plant]; exact (weirEnd m).trans (weirs m other)
    · rw [concluded, entries, out]; rfl
    · rw [plant]; exact (weirEnd n).trans weir
    · rw [modeEnd, mode]
    · rw [modeEnd, mode]
    · rw [plant]
      show ((s.plant.closeRecord n).conclude.alarms.points.get (overflowPoint n)).condition = false
      rw [Plant.conclude_point _ (overflowPoint_notServed n)]
      exact point running

end Sys2Proof.Machine
end

section
/-! A weir and the level delivered to it (R80 to R82, R84, R91): O36. -/

namespace Sys2Proof.Machine

/-- A weir with its channel as delivered (R78). -/
def Plant.deliveredWeir (p : Plant) (n : Fin 3) : Weir :=
  { p.weir n with
    channelGood := (p.levels.channels.get (weirChannel n)).state == .good
    level := (p.levels.channels.get (weirChannel n)).value }

theorem Plant.deliverWeir_eq (p : Plant) (n : Fin 3) : p.deliverWeir n = p.setWeir n (p.deliveredWeir n) := rfl

theorem Plant.weirLevel_good {p : Plant} {n : Fin 3} {v : Nat} (present : p.weirPresent n = true)
    (good : (p.levels.channels.get (weirChannel n)).state = .good)
    (value : (p.levels.channels.get (weirChannel n)).value = some v) :
    p.weirLevel n = (p.setWeir n (p.deliveredWeir n)).weirGood n v := by
  unfold Plant.weirLevel
  rw [if_pos present]
  dsimp only
  rw [Plant.deliverWeir_eq, Plant.weir_setWeir]
  unfold Plant.deliveredWeir
  dsimp only
  rw [good, value]
  rfl

theorem Plant.weirLevel_fault {p : Plant} {n : Fin 3} (present : p.weirPresent n = true)
    (fault : (p.levels.channels.get (weirChannel n)).state ≠ .good) :
    p.weirLevel n = (p.setWeir n (p.deliveredWeir n)).weirFault n := by
  unfold Plant.weirLevel
  rw [if_pos present]
  dsimp only
  rw [Plant.deliverWeir_eq, Plant.weir_setWeir]
  unfold Plant.deliveredWeir
  dsimp only
  rw [beq_eq_false_iff_ne.mpr fault]

theorem Weir.updatePeak_none {w : Weir} (closed : w.openRecord = none) (now : Time) (v : Nat) :
    w.updatePeak now v = w := by
  unfold Weir.updatePeak
  rw [closed]

theorem Weir.updatePeak_some {w : Weir} {r : OverflowRecord} (opened : w.openRecord = some r) (now : Time) (v : Nat) :
    w.updatePeak now v =
      { w with openRecord := some (if r.peak < v then { r with peak := v, peakTime := now } else r) } := by
  unfold Weir.updatePeak
  rw [opened]
  dsimp only
  split
  · rfl
  · rw [← opened]

theorem Weir.markFault_some {w : Weir} {r : OverflowRecord} (opened : w.openRecord = some r) :
    w.markFault = { w with
      faultHold := true, endConfirm := w.endConfirm.pause
      openRecord := some { r with volume := none, flags := { r.flags with channelFault := true } } } := by
  unfold Weir.markFault
  rw [opened]
  rfl

/-! What a weir makes of a GOOD level, by its state. -/

/-- The weir as it looks at a GOOD level: out of its fault hold, its peak taken (R84). -/
def Plant.heededWeir (p : Plant) (n : Fin 3) (v : Nat) : Weir :=
  ({ p.weir n with faultHold := false } : Weir).updatePeak p.clock.station v

theorem Plant.heededWeir_state (p : Plant) (n : Fin 3) (v : Nat) : (p.heededWeir n v).state = (p.weir n).state := by
  unfold Plant.heededWeir Weir.updatePeak
  split
  · split <;> rfl
  · rfl

theorem Plant.weirGood_normal {p : Plant} {n : Fin 3} (state : (p.weir n).state = .normal) (v : Nat) :
    p.weirGood n v =
      let p1 := p.setWeir n { p.heededWeir n v with
        resume := (p.heededWeir n v).resume && decide (p.crest n ≤ v) }
      if p.crest n + p.startMargin n ≤ v then p1.enterRising n else p1 := by
  have heeded := (p.heededWeir_state n v).trans state
  unfold Plant.weirGood
  unfold Plant.heededWeir at heeded ⊢
  dsimp only at heeded ⊢
  rw [heeded]

theorem Plant.weirGood_rising {p : Plant} {n : Fin 3} (state : (p.weir n).state = .rising) (v : Nat) :
    p.weirGood n v =
      if p.crest n + p.startMargin n ≤ v then p.setWeir n (p.heededWeir n v)
      else p.setWeir n { p.heededWeir n v with state := .normal, startConfirm := .stopped } := by
  have heeded := (p.heededWeir_state n v).trans state
  unfold Plant.weirGood
  unfold Plant.heededWeir at heeded ⊢
  dsimp only at heeded ⊢
  rw [heeded]

theorem Plant.weirGood_overflowing {p : Plant} {n : Fin 3} (state : (p.weir n).state = .overflowing) (v : Nat) :
    p.weirGood n v =
      if v < p.crest n then (p.setWeir n (p.heededWeir n v)).enterFalling n else p.setWeir n (p.heededWeir n v) := by
  have heeded := (p.heededWeir_state n v).trans state
  unfold Plant.weirGood
  unfold Plant.heededWeir at heeded ⊢
  dsimp only at heeded ⊢
  rw [heeded]

theorem Plant.weirGood_falling {p : Plant} {n : Fin 3} (state : (p.weir n).state = .falling) (v : Nat) :
    p.weirGood n v =
      if p.crest n ≤ v then
        p.setWeir n { p.heededWeir n v with state := .overflowing, endConfirm := .stopped }
      else p.setWeir n { p.heededWeir n v with endConfirm := (p.heededWeir n v).endConfirm.resume } := by
  have heeded := (p.heededWeir_state n v).trans state
  unfold Plant.weirGood
  unfold Plant.heededWeir at heeded ⊢
  dsimp only at heeded ⊢
  rw [heeded]

/-- The weir that starts to fall (R81). -/
def Plant.fallingWeir (p : Plant) (n : Fin 3) (w : Weir) : Weir :=
  { w with state := .falling, endConfirm := .running (p.endConfirmTime n) }

/-- The weir that starts to rise (R80). -/
def Plant.risingWeir (p : Plant) (n : Fin 3) (w : Weir) : Weir :=
  { w with state := .rising, startConfirm := .running (p.startConfirmTime n) }

theorem Plant.setWeir_setWeir (p : Plant) (n : Fin 3) (w w' : Weir) : (p.setWeir n w).setWeir n w' = p.setWeir n w' := by
  unfold Plant.setWeir
  dsimp only
  rw [show vset (vset p.weirs n w) n w' = vset p.weirs n w' by
    unfold vset
    exact Vector.set_set _ _]

theorem Plant.enterRising_eq (p : Plant) (n : Fin 3) (w : Weir) : (p.setWeir n w).enterRising n =
    if p.startConfirmTime n = 0 then (p.setWeir n (p.risingWeir n w)).openRecord n
    else p.setWeir n (p.risingWeir n w) := by
  have risen : (p.setWeir n w).setWeir n { (p.setWeir n w).weir n with
      state := .rising, startConfirm := .running (p.startConfirmTime n) } = p.setWeir n (p.risingWeir n w) := by
    rw [Plant.setWeir_setWeir, Plant.weir_setWeir]
    rfl
  rw [← risen]
  rfl

theorem Plant.enterFalling_eq (p : Plant) (n : Fin 3) (w : Weir) : (p.setWeir n w).enterFalling n =
    if p.endConfirmTime n = 0 then (p.setWeir n (p.fallingWeir n w)).closeRecord n
    else p.setWeir n (p.fallingWeir n w) := by
  have fallen : (p.setWeir n w).setWeir n { (p.setWeir n w).weir n with
      state := .falling, endConfirm := .running (p.endConfirmTime n) } = p.setWeir n (p.fallingWeir n w) := by
    rw [Plant.setWeir_setWeir, Plant.weir_setWeir]
    rfl
  rw [← fallen]
  rfl

/-- Settles O36: `Plant.weirGood` and `Plant.weirFault` by the weir's state, a record opened or closed at once by its facts. -/
theorem weirActsOnItsLevel : Obligations.WeirActsOnItsLevel := by
  intro p n present w now
  have delivered : (p.setWeir n w).weir n = w := p.weir_setWeir n w
  refine ⟨fun v good value => ?good, fun fault => ?fault⟩
  case good =>
    have taken : p.weirLevel n = (p.setWeir n w).weirGood n v := Plant.weirLevel_good present good value
    have heeded (closed : w.openRecord = none) : (p.setWeir n w).heededWeir n v = { w with faultHold := false } := by
      unfold Plant.heededWeir
      rw [delivered]
      exact Weir.updatePeak_none (w := { w with faultHold := false }) closed _ _
    have heeded' {r : OverflowRecord} (opened : w.openRecord = some r) : (p.setWeir n w).heededWeir n v = { w with
        faultHold := false
        openRecord := some (if r.peak < v then { r with peak := v, peakTime := p.clock.station } else r) } := by
      unfold Plant.heededWeir
      rw [delivered]
      exact Weir.updatePeak_some (w := { w with faultHold := false }) opened _ _
    have set (u : Weir) : (p.setWeir n w).setWeir n u = p.setWeir n u := p.setWeir_setWeir n w u
    have level : w.level = some v := value
    have crest : (p.setWeir n w).crest n = p.crest n := rfl
    have margin : (p.setWeir n w).startMargin n = p.startMargin n := rfl
    have normal (state : w.state = .normal) (closed : w.openRecord = none) := Plant.weirGood_normal
      (p := p.setWeir n w) (n := n) (by rw [delivered]; exact state) v
    have rising (state : w.state = .rising) := Plant.weirGood_rising
      (p := p.setWeir n w) (n := n) (by rw [delivered]; exact state) v
    have overflowing (state : w.state = .overflowing) := Plant.weirGood_overflowing
      (p := p.setWeir n w) (n := n) (by rw [delivered]; exact state) v
    have falling (state : w.state = .falling) := Plant.weirGood_falling
      (p := p.setWeir n w) (n := n) (by rw [delivered]; exact state) v
    refine ⟨fun state closed below => ?_, fun state closed above later => ?_, fun state closed above atOnce => ?_,
      fun state closed below => ?_, fun state closed above => ?_, fun r opened => ?_⟩
    · show (p.weirLevel n).weir n = _
      rw [taken, normal state closed]
      dsimp only
      rw [crest, margin, if_neg (not_le.mpr below), set, Plant.weir_setWeir, heeded closed]
    · show (p.weirLevel n).weir n = _
      rw [taken, normal state closed]
      dsimp only
      rw [crest, margin, if_pos above, set, Plant.enterRising_eq, if_neg later,
        Plant.weir_setWeir, heeded closed]
      rfl
    · let risen := p.setWeir n (p.risingWeir n { w with
        faultHold := false, resume := w.resume && decide (p.crest n ≤ v) })
      have opens : p.weirLevel n = risen.openRecord n := by
        rw [taken, normal state closed]
        dsimp only
        rw [crest, margin, if_pos above, set, Plant.enterRising_eq, if_pos atOnce, heeded closed]
      have resume : (w.resume && decide (p.crest n ≤ v)) = w.resume := by
        rw [decide_eq_true (by omega : p.crest n ≤ v), Bool.and_true]
      have weirNow : risen.weir n = p.risingWeir n { w with faultHold := false, resume := w.resume } := by
        show (p.setWeir n _).weir n = _
        rw [Plant.weir_setWeir, resume]
      obtain ⟨-, -, -, weir, -, mode, ⟨more, entries⟩, point⟩ := risen.openRecord_facts n
      refine ⟨?_, ?_, ⟨more, ?_⟩, fun running => ?_⟩
      · show (p.weirLevel n).weir n = _
        rw [opens, weir]
        unfold Plant.overflowingWeir Plant.newRecord
        rw [weirNow]
        unfold Plant.risingWeir
        dsimp only
        rw [level]
        rfl
      · rw [opens]
        exact mode
      · rw [opens, entries]
        unfold Plant.startDraft
        rw [weirNow]
        unfold Plant.risingWeir
        dsimp only
        rw [level]
        rfl
      · rw [opens]
        exact point running
    · show (p.weirLevel n).weir n = _
      rw [taken, rising state, crest, margin, if_neg (not_le.mpr below), set,
        Plant.weir_setWeir, heeded closed]
    · show (p.weirLevel n).weir n = _
      rw [taken, rising state, crest, margin, if_pos above, set, Plant.weir_setWeir,
        heeded closed]
    · intro kept
      refine ⟨fun state above => ?_, fun state below later => ?_, fun state below atOnce => ?_, fun state above => ?_,
        fun state below => ?_⟩
      · show (p.weirLevel n).weir n = _
        rw [taken, overflowing state, crest, if_neg (not_lt.mpr above), set, Plant.weir_setWeir,
          heeded' opened]
      · show (p.weirLevel n).weir n = _
        rw [taken, overflowing state, crest, if_pos below, set, Plant.enterFalling_eq, if_neg later,
          Plant.weir_setWeir, heeded' opened]
        rfl
      · let fallen := p.setWeir n (p.fallingWeir n { w with faultHold := false, openRecord := kept })
        have closes : p.weirLevel n = fallen.closeRecord n := by
          rw [taken, overflowing state, crest, if_pos below, set, Plant.enterFalling_eq, if_pos atOnce,
            heeded' opened]
        have weirNow : fallen.weir n = p.fallingWeir n { w with faultHold := false, openRecord := kept } :=
          p.weir_setWeir n _
        obtain ⟨-, -, -, weir, -, mode, ⟨more, entries⟩, point⟩ := Plant.closeRecord_facts (p := fallen) (n := n)
          (r := if r.peak < v then { r with peak := v, peakTime := p.clock.station } else r) (by rw [weirNow]; rfl)
        have others : (∃ m, m ≠ n ∧ (fallen.weir m).openRecord ≠ none) ↔ ∃ m, m ≠ n ∧ (p.weir m).openRecord ≠ none := by
          refine exists_congr fun m => and_congr_right fun other => ?_
          show ((p.setWeir n _).weir m).openRecord ≠ none ↔ _
          rw [Plant.weir_setWeir_ne p (Ne.symm other)]
        have decided : decide (∃ m, m ≠ n ∧ (fallen.weir m).openRecord ≠ none) =
            decide (∃ m, m ≠ n ∧ (p.weir m).openRecord ≠ none) := decide_eq_decide.mpr others
        have started : (if r.peak < v then { r with peak := v, peakTime := p.clock.station } else r).startUptime =
            r.startUptime := by split <;> rfl
        have startTime : (if r.peak < v then { r with peak := v, peakTime := p.clock.station } else r).startTime =
            r.startTime := by split <;> rfl
        have flags : (if r.peak < v then { r with peak := v, peakTime := p.clock.station } else r).flags = r.flags := by
          split <;> rfl
        have volume : (if r.peak < v then { r with peak := v, peakTime := p.clock.station } else r).volume = r.volume := by
          split <;> rfl
        refine ⟨?_, ?_, ⟨more, ?_⟩, fun running => ?_⟩
        · show (p.weirLevel n).weir n = _
          rw [closes, weir]
          unfold Plant.endedWeir Plant.closedRecord
          rw [weirNow, started]
          rfl
        · rw [closes, mode, decided]
          rfl
        · rw [closes, entries]
          unfold Plant.endDraft
          rw [started, startTime, flags, volume]
          rfl
        · rw [closes]
          exact point running
      · show (p.weirLevel n).weir n = _
        rw [taken, falling state, crest, if_pos above, set, Plant.weir_setWeir, heeded' opened]
      · show (p.weirLevel n).weir n = _
        rw [taken, falling state, crest, if_neg (not_le.mpr below), set, Plant.weir_setWeir,
          heeded' opened]
  case fault =>
    have taken : p.weirLevel n = (p.setWeir n w).weirFault n := Plant.weirLevel_fault present fault
    have marked {r : OverflowRecord} (opened : w.openRecord = some r) := Weir.markFault_some opened
    refine ⟨fun state => ?_, fun state => ?_, fun r opened states => ?_⟩
    · show (p.weirLevel n).weir n = _
      rw [taken]
      unfold Plant.weirFault
      dsimp only
      rw [delivered, state]
      exact delivered
    · show (p.weirLevel n).weir n = _
      rw [taken]
      unfold Plant.weirFault
      dsimp only
      rw [delivered, state]
      exact Plant.weir_setWeir _ n _
    · show (p.weirLevel n).weir n = _
      rw [taken, ← marked opened]
      unfold Plant.weirFault
      dsimp only
      rw [delivered]
      rcases states with state | state
      · rw [state]
        exact Plant.weir_setWeir _ n _
      · rw [state]
        exact Plant.weir_setWeir _ n _

end Sys2Proof.Machine
end

section
/-! The report reader and the builds (R132, R164, R169): O60. -/

namespace Sys2Proof.Machine

/-! What is settled where no cycle runs. -/

theorem settleS7_reporter (s : State) : s.settleS7.reporter = s.reporter := by
  unfold State.settleS7
  split
  · split
    · unfold State.applyS7 markPage
      split <;> rfl
    · rfl
  · rfl

theorem settleReply_rest {s : State} (rest : ∀ r, s.reporter.slot ≠ .ready r) : s.settleReply = s := by
  unfold State.settleReply
  split
  case h_1 r ready => exact absurd ready (rest r)
  all_goals rfl

theorem settleAlert_rest {s : State} (rest : s.reporter.cycle = none) : s.settleAlert = s := by
  unfold State.settleAlert
  rw [rest]

/-- With no reply in READY and no cycle, a pending S7 alone is settled. -/
theorem settle_eq_settleS7 {s : State} (slot : ∀ r, s.reporter.slot ≠ .ready r) (cycle : s.reporter.cycle = none) :
    s.settle = s.settleS7 := by
  unfold State.settle
  rw [settleReply_rest (by rw [settleS7_reporter]; exact slot), settleAlert_rest (by rw [settleS7_reporter]; exact cycle)]

/-! Sends. -/

theorem sendFrame_idle {s : State} (idle : s.link.tx.isIdle = true) (owner : TxOwner) (kind tag : Byte)
    (payload : List Byte) : s.sendFrame owner kind tag payload =
      some (s.setLink { s.link with tx := .pending (s.link.frame owner kind tag payload) }) := if_pos idle

theorem sendFrame_busy {s : State} (busy : s.link.tx.isIdle = false) (owner : TxOwner) (kind tag : Byte)
    (payload : List Byte) : s.sendFrame owner kind tag payload = none :=
  if_neg (by rw [busy]; exact Bool.false_ne_true)

/-- R161: a reply goes to an idle transmitter, and else waits in READY. -/
theorem handReply_idle {s : State} (idle : s.link.tx.isIdle = true) (r : Reply) : s.handReply r = { s with
    link := { s.link with tx := .pending (s.link.frame .reply r.kind r.tag r.payload) }
    reporter := { s.reporter with slot := .held r } } := by
  unfold State.handReply
  rw [sendFrame_idle idle]
  rfl

theorem handReply_busy {s : State} (busy : s.link.tx.isIdle = false) (r : Reply) : s.handReply r = { s with
    reporter := { s.reporter with slot := .ready r } } := by
  unfold State.handReply
  rw [sendFrame_busy busy]
  rfl

/-- With its transmitter in hand, or an ask for a reply just taken, nothing else is settled. -/
theorem handReply_settle (s : State) (r : Reply) : (s.handReply r).settle = s.handReply r := by
  refine settle_busy ?_
  cases idle : s.link.tx.isIdle with
  | true => rw [handReply_idle idle]; rfl
  | false => rw [handReply_busy idle]; exact idle

theorem handAlert_idle {s : State} (idle : s.link.tx.isIdle = true) (payload : List Byte) : s.handAlert payload = { s with
    link := { s.link with tx := .pending (s.link.frame .alert kindAlert
      (BitVec.ofNat 8 (cycleSends s.reporter.cycle + 1)) payload) }
    reporter := { s.reporter with cycle := s.reporter.cycle.map fun c => { c with phase := .sending } } } := by
  unfold State.handAlert
  rw [sendFrame_idle idle]
  rfl

theorem handAlert_busy {s : State} (busy : s.link.tx.isIdle = false) (payload : List Byte) : s.handAlert payload = { s with
    reporter := { s.reporter with cycle := s.reporter.cycle.map fun c => { c with phase := .ready payload } } } := by
  unfold State.handAlert
  rw [sendFrame_busy busy]
  rfl

theorem handAlert_settle (s : State) (payload : List Byte) : (s.handAlert payload).settle = s.handAlert payload := by
  refine settle_busy ?_
  cases idle : s.link.tx.isIdle with
  | true => rw [handAlert_idle idle]; rfl
  | false => rw [handAlert_busy idle]; exact idle

/-! Builds (R164). -/

theorem buildDone_iff (s : State) (b : Build) :
    s.buildDone b = true ↔ 3 ≤ b.items.length ∨ s.log.t ≤ b.next ∨ 32 ≤ b.examined := by
  unfold State.buildDone
  rw [Bool.or_eq_true, Bool.or_eq_true, decide_eq_true_eq, decide_eq_true_eq, decide_eq_true_eq, or_assoc]
  rfl

theorem goOnBuild_done {s : State} {b : Build} (done : 3 ≤ b.items.length ∨ s.log.t ≤ b.next ∨ 32 ≤ b.examined) :
    s.goOnBuild b = s.handReply (s.buildReply b) := if_pos ((buildDone_iff s b).mpr done)

theorem goOnBuild_more {s : State} {b : Build} (more : ¬ (3 ≤ b.items.length ∨ s.log.t ≤ b.next ∨ 32 ≤ b.examined)) :
    s.goOnBuild b = { s with
      reporter := { s.reporter with slot := .preparing b, readReq := some (b.next, .build) } } :=
  if_neg fun done => more ((buildDone_iff s b).mp done)

theorem buildReply_eq (s : State) (b : Build) : s.buildReply b =
    { kind := if b.items = [] then 0x82 else 0x81, tag := b.tag
      payload := if b.items = [] then s.idlePayload b.next else natBytes 4 b.next ++ b.items.flatten
      next := b.next, ofPoll := true, gap := b.gap } := by
  unfold State.buildReply
  by_cases empty : b.items = []
  · rw [if_pos (List.isEmpty_iff.mpr empty), if_pos empty, if_pos empty]
    rfl
  · rw [if_neg (fun h => empty (List.isEmpty_iff.mp h)), if_neg empty, if_neg empty]
    rfl

theorem goOnBuild_step (s : State) (b : Build) : s.SettleStep (s.goOnBuild b) := by
  unfold State.goOnBuild
  split
  · exact handReply_step s _
  · exact ⟨rfl, Or.inl rfl, rfl, rfl, fun _ dirty => dirty⟩

/-- R164: a build goes on, or its reply is asked for. -/
theorem goOnBuild_settled {s : State} (cycle : s.reporter.cycle = none) (b : Build) :
    let t := (s.goOnBuild b).settle
    if 3 ≤ b.items.length ∨ s.log.t ≤ b.next ∨ 32 ≤ b.examined then
      t.reporter.slot = (if s.link.tx.isIdle then .held (s.buildReply b) else .ready (s.buildReply b)) ∧
        (s.link.tx.isIdle = true → t.link.tx = .pending
          (s.link.frame .reply (s.buildReply b).kind (s.buildReply b).tag (s.buildReply b).payload))
    else t.reporter.slot = .preparing b ∧ t.reporter.readReq = some (b.next, .build) := by
  intro t
  split
  case isTrue done =>
    have settled : t = s.handReply (s.buildReply b) := by
      show (s.goOnBuild b).settle = _
      rw [goOnBuild_done done, handReply_settle]
    rw [settled]
    cases idle : s.link.tx.isIdle with
    | true =>
      rw [handReply_idle idle]
      exact ⟨rfl, fun _ => rfl⟩
    | false =>
      rw [handReply_busy idle]
      exact ⟨rfl, fun h => nomatch h⟩
  case isFalse more =>
    have settled : t.reporter = (s.goOnBuild b).reporter := by
      have still : (s.goOnBuild b).settle = (s.goOnBuild b).settleS7 := by
        rw [goOnBuild_more more]
        exact settle_eq_settleS7 (fun r ready => nomatch ready) cycle
      show (s.goOnBuild b).settle.reporter = _
      rw [still, settleS7_reporter]
    rw [settled, goOnBuild_more more]
    exact ⟨rfl, rfl⟩

/-- The build that starts from W (R164). -/
def State.firstBuild (s : State) (tag : Byte) (mask : Word) : Build :=
  { tag := tag, mask := mask, next := s.log.w, examined := 0
    gap := if s.log.tmiss = 0 then none else some s.log.tmiss
    items := if s.log.tmiss = 0 then [] else [gapItem s.log.tmiss] }

theorem startBuild_eq (s : State) (tag : Byte) (mask : Word) :
    s.startBuild tag mask = s.pruneUrgent.goOnBuild (s.firstBuild tag mask) := by
  unfold State.startBuild
  dsimp only
  refine congrArg s.pruneUrgent.goOnBuild ?_
  unfold State.firstBuild
  rw [show s.pruneUrgent.log = s.log from rfl]
  by_cases full : s.log.tmiss = 0
  · rw [if_pos full, if_pos full]
  · rw [if_neg full, if_neg full]

/-! The entries fetched (R164). -/

/-- The class of a fetched entry is masked out by the build's mask. -/
theorem masks_iff (b : Build) (bytes : List Byte) :
    b.masks bytes = true ↔ ∃ cls, kindClass (bytes.getD 9 0) = some cls ∧ b.mask.getLsbD cls = false := by
  unfold Build.masks
  cases kind : kindClass (bytes.getD 9 0) with
  | none => exact iff_of_false Bool.false_ne_true (fun ⟨_, found, _⟩ => nomatch found)
  | some cls =>
    dsimp only [reported]
    rw [Bool.not_eq_true']
    exact ⟨fun masked => ⟨cls, rfl, masked⟩, fun ⟨_, found, masked⟩ => Option.some.inj found ▸ masked⟩

/-- The build when the entry in hand has been passed (R164). -/
def Build.passed (b : Build) (x : Nat) : Build := { b with next := x + 1, examined := b.examined + 1 }

theorem judgeEntry_retired {s : State} {x : Nat} {bytes : List Byte} (b : Build) (other : fetchedSeq bytes ≠ x)
    (retired : x < s.log.o) : s.judgeEntry b x bytes = s.startBuild b.tag b.mask := if_pos ⟨other, retired⟩

theorem judgeEntry_unreadable {s : State} {x : Nat} {bytes : List Byte} (b : Build) (kept : s.log.o ≤ x)
    (bad : fetchedSeq bytes ≠ x ∨ blockValid (bytesWords bytes) = false) : s.judgeEntry b x bytes =
      (s.countReport fun c => { c with unreadable := bump c.unreadable }).goOnBuild (b.passed x) := by
  unfold State.judgeEntry
  dsimp only
  rw [if_neg (fun both => absurd both.2 (not_lt.mpr kept)), if_pos ⟨kept, bad⟩]
  rfl

theorem judgeEntry_good {s : State} {x : Nat} {bytes : List Byte} (b : Build) (same : fetchedSeq bytes = x)
    (valid : blockValid (bytesWords bytes) = true) : s.judgeEntry b x bytes = s.goOnBuild
      { b.passed x with
        items := if ∃ cls, kindClass (bytes.getD 9 0) = some cls ∧ b.mask.getLsbD cls = false then b.items
          else b.items ++ [bytes] } := by
  have readable : ¬ (s.log.o ≤ x ∧ (fetchedSeq bytes ≠ x ∨ blockValid (bytesWords bytes) = false)) := by
    rintro ⟨-, other | bad⟩
    · exact other same
    · rw [valid] at bad; cases bad
  unfold State.judgeEntry
  dsimp only
  rw [if_neg (fun both => both.1 same), if_neg readable]
  by_cases masked : b.masks bytes = true
  · rw [if_pos masked, if_pos ((masks_iff b bytes).mp masked)]
    rfl
  · rw [if_neg masked, if_neg (fun h => masked ((masks_iff b bytes).mpr h))]
    rfl

theorem startBuild_step (s : State) (tag : Byte) (mask : Word) : s.SettleStep (s.startBuild tag mask) := by
  rw [startBuild_eq]
  exact (pruneUrgent_step s).trans (goOnBuild_step _ _)

theorem SettleStep.counts {s t : State} (step : s.SettleStep t) : t.reporter.counts = s.reporter.counts := by
  rw [step.rest]

/-- A step of the reporter that has moved the link line, itself and the page marks. -/
structure State.ReporterStep (s t : State) : Prop where
  rest : t = { s with link := t.link, reporter := t.reporter, deposits := t.deposits }
  rx   : t.link.rx = s.link.rx ∧ t.link.counts = s.link.counts ∧ t.link.inbox = s.link.inbox
  gen  : t.deposits.gen = s.deposits.gen
  scan : t.deposits.scanPos = s.deposits.scanPos
  kept : ∀ i, s.deposits.dirty.get i = true → t.deposits.dirty.get i = true

theorem SettleStep.reporterStep {s t : State} (step : s.SettleStep t) (free : s.holder = .free) : s.ReporterStep t := by
  obtain ⟨rest, holder, gen, scan, kept⟩ := step
  have stays : t.holder = s.holder := by
    rcases holder with same | discarded
    · exact same
    · rw [discarded, free]; rfl
  refine ⟨?_, ?_, gen, scan, kept⟩
  · refine rest.trans ?_
    have link := congrArg State.link rest
    have reporter := congrArg State.reporter rest
    dsimp only at link reporter
    rw [stays]
    conv_rhs => rw [link, reporter]
  · rw [rest]
    exact ⟨rfl, rfl, rfl⟩

theorem State.ReporterStep.of_reporter {s t : State} {r : Reporter} (step : State.ReporterStep { s with reporter := r } t) :
    s.ReporterStep t := by
  obtain ⟨rest, rx, gen, scan, kept⟩ := step
  exact ⟨rest, rx, gen, scan, kept⟩

theorem State.ReporterStep.settle {s t : State} (step : s.ReporterStep t) (free : s.holder = .free) :
    s.ReporterStep t.settle := by
  obtain ⟨rest, ⟨rx, counts, inbox⟩, gen, scan, kept⟩ := step
  have holder : t.holder = .free := by rw [rest]; exact free
  obtain ⟨rest', ⟨rx', counts', inbox'⟩, gen', scan', kept'⟩ := SettleStep.reporterStep (settle_step t) holder
  refine ⟨?_, ⟨rx'.trans rx, counts'.trans counts, inbox'.trans inbox⟩, gen'.trans gen, scan'.trans scan,
    fun i dirty => kept' i (kept i dirty)⟩
  rw [rest', rest]

/-- Everything that the judgment of a fetched entry can do. -/
theorem judgeEntry_step {s : State} (free : s.holder = .free) (b : Build) (x : Nat) (bytes : List Byte) :
    s.ReporterStep (s.judgeEntry b x bytes) := by
  unfold State.judgeEntry
  dsimp only
  split_ifs
  · exact SettleStep.reporterStep (startBuild_step s _ _) free
  · exact .of_reporter (SettleStep.reporterStep (goOnBuild_step (s.countReport _) _) free)
  · exact SettleStep.reporterStep (goOnBuild_step s _) free
  · exact SettleStep.reporterStep (goOnBuild_step s _) free

/-- Settles O60: the branches of `State.judgeEntry`, each of which goes on with its build (`goOnBuild_settled`). -/
theorem reportReaderFetchesEntries : Obligations.ReportReaderFetchesEntries := by
  intro s out
  refine ⟨fun seq use asked granted => ?grant, fun x use => ⟨fun unwanted => ?discard, fun reads => ?read⟩⟩
  case grant =>
    refine congrArg Host.Outcome.next ?_
    unfold State.grantReader
    rw [asked]
    exact if_pos granted
  case discard =>
    refine congrArg Host.Outcome.next ?_
    unfold State.completeRead
    rw [unwanted]
    rfl
  case read =>
    intro bytes seq idlePayload goesOn
    let u := s.freePort.takeEntry x use bytes
    have run : exec .entryReadComplete s = .next (finish s u.settle) := by
      refine congrArg Host.Outcome.next ?_
      unfold State.completeRead
      rw [reads]
      rfl
    have ended (v : State) (step : s.freePort.ReporterStep v) :
        finish s v = { v with deposits := (finish s v).deposits } ∧
          finish s v = { s with
            holder := .free, link := (finish s v).link, reporter := (finish s v).reporter
            deposits := (finish s v).deposits } ∧ s.Pages (finish s v) := by
      have plant : v.plant = s.plant := by rw [step.rest]; rfl
      have quiet := finish_quiet (s := s) (u := v) (by rw [plant]; exact out) (by rw [plant])
      refine ⟨quiet, ?_, finish_pages s v step.gen step.scan step.kept⟩
      refine quiet.trans ?_
      rw [finish_link, finish_reporter]
      have whole := step.rest
      generalize v.link = link at whole ⊢
      generalize v.reporter = reporter at whole ⊢
      rw [whole]
      rfl
    refine ⟨_, run, fun b build preparing idle => ?_, fun c alert cycle slot same => ?_⟩
    · subst build
      have fetched : u = s.freePort.pruneUrgent.judgeEntry b x bytes := by
        show s.freePort.takeEntry x .build _ = _
        unfold State.takeEntry
        dsimp only
        rw [show s.freePort.reporter.slot = .preparing b from preparing]
        rfl
      have step : s.freePort.ReporterStep u.settle := by
        rw [fetched]
        exact .settle (.of_reporter (judgeEntry_step rfl b x bytes)) rfl
      obtain ⟨quiet, rest, pages⟩ := ended _ step
      have goes (v : State) (link : v.link = s.link) (log : v.log = s.log) (plant : v.plant = s.plant)
          (cycle : v.reporter.cycle = none) (b' : Build) (same : u = v.goOnBuild b') : goesOn (finish s u.settle) b' := by
        have settled := goOnBuild_settled cycle b'
        rw [← same, link, log] at settled
        dsimp only [goesOn]
        rw [finish_reporter, finish_link]
        by_cases done : 3 ≤ b'.items.length ∨ s.log.t ≤ b'.next ∨ 32 ≤ b'.examined
        · rw [if_pos done] at settled ⊢
          obtain ⟨slot, asked⟩ := settled
          have reply := buildReply_eq v b'
          have payload : v.idlePayload = idlePayload := by
            unfold State.idlePayload
            rw [plant]
          rw [payload] at reply
          refine ⟨v.buildReply b', slot, ?_, ?_, ?_, ?_, ?_, ?_, asked⟩
          all_goals rw [reply]
        · rw [if_neg done] at settled ⊢
          exact settled
      have counts (v : State) (b' : Build) (same : u = v.goOnBuild b') :
          (finish s u.settle).reporter.counts = v.reporter.counts := by
        rw [finish_reporter, same]
        exact SettleStep.counts ((goOnBuild_step v b').trans (settle_step _))
      refine ⟨rest, pages, ?_, ?_, ?_, fun other retired => ?_, fun kept bad => ?_, fun same valid => ?_⟩
      · rw [finish_link]; exact step.rx.1
      · rw [finish_link]; exact step.rx.2.1
      · rw [finish_link]; exact step.rx.2.2
      · have again : u = s.freePort.pruneUrgent.pruneUrgent.goOnBuild (s.freePort.pruneUrgent.firstBuild b.tag b.mask) :=
          fetched.trans ((judgeEntry_retired (s := s.freePort.pruneUrgent) b other retired).trans (startBuild_eq _ _ _))
        exact ⟨counts s.freePort.pruneUrgent.pruneUrgent _ again,
          goes s.freePort.pruneUrgent.pruneUrgent rfl rfl rfl idle _ again⟩
      · have passed := fetched.trans (judgeEntry_unreadable (s := s.freePort.pruneUrgent) b kept bad)
        let counted := s.freePort.pruneUrgent.countReport fun c => { c with unreadable := bump c.unreadable }
        exact ⟨counts counted _ passed, goes counted rfl rfl rfl idle _ passed⟩
      · have gathered := fetched.trans (judgeEntry_good (s := s.freePort.pruneUrgent) b same valid)
        exact ⟨counts s.freePort.pruneUrgent _ gathered, goes s.freePort.pruneUrgent rfl rfl rfl idle _ gathered⟩
    · subst alert
      have fetched : u = s.freePort.handAlert bytes := if_pos same
      have settled : u.settle = s.freePort.handAlert bytes := by
        rw [fetched, handAlert_settle]
      have step : s.freePort.ReporterStep u.settle := by
        rw [settled]
        exact SettleStep.reporterStep (handAlert_step _ _) rfl
      obtain ⟨-, rest, pages⟩ := ended _ step
      have present : s.freePort.reporter.cycle = some c := cycle
      refine ⟨rest, pages, fun free => ⟨?_, ?_⟩, fun busy => ?_⟩
      · rw [finish_link, settled, handAlert_idle (s := s.freePort) free, present]
        rfl
      · rw [finish_reporter, settled, handAlert_idle (s := s.freePort) free, present]
        rfl
      · rw [finish_reporter, settled, handAlert_busy (s := s.freePort) busy, present]
        rfl

end Sys2Proof.Machine
end

section
/-! The reporter's timers and the alert cycle (R166, R168, R169): O59. -/

namespace Sys2Proof.Machine

theorem linkEvent_due {s : State} (running : s.load = .none) {due : Bool} (isDue : due = true) (act : State → State) :
    s.linkEvent due act = finish s (act s).settle := by
  rw [isDue]
  exact linkEvent_runs running act

/-- An event that has moved the reporter alone, then settled. -/
theorem reporterEvent {s : State} (out : s.plant.out = []) (r : Reporter) :
    let v := (s.setReporter r).settle
    finish s v = { v with deposits := (finish s v).deposits } ∧ s.LinkStep (finish s v) := by
  intro v
  obtain ⟨rest, holder, gen, scan, kept⟩ := settle_step (s.setReporter r)
  have plant : v.plant = s.plant := by
    have same := congrArg State.plant rest
    exact same
  have quiet := finish_quiet (s := s) (u := v) (by rw [plant]; exact out) (by rw [plant])
  refine ⟨quiet, ?_, ?_, finish_pages s v gen scan kept⟩
  · refine quiet.trans ?_
    rw [finish_link, finish_reporter, finish_holder]
    have whole : v = { s with link := v.link, reporter := v.reporter, deposits := v.deposits, holder := v.holder } := by
      have link := congrArg State.link rest
      have reporter := congrArg State.reporter rest
      dsimp only at link reporter
      refine rest.trans ?_
      conv_rhs => rw [show v.link = _ from link, show v.reporter = _ from reporter]
      rfl
    generalize v.link = link at whole ⊢
    generalize v.reporter = reporter at whole ⊢
    generalize v.holder = holder at whole ⊢
    rw [whole]
  · rw [finish_holder]
    exact holder

/-- Numbers below W are looked at by nobody that looks for W or above. -/
theorem find_filter_urgent (urgent : List (Nat × Bool)) {o w : Nat} (below : o ≤ w) :
    (urgent.filter (fun y => decide (o ≤ y.1))).find? (fun y => decide (w ≤ y.1)) =
      urgent.find? (fun y => decide (w ≤ y.1)) := by
  rw [List.find?_filter]
  congr 1
  funext y
  by_cases high : w ≤ y.1
  · simp [high, below.trans high]
  · simp [high]

/-- R169: a send with a number to fetch, and one with none. -/
theorem makeSend_some {s : State} {x : Nat × Bool} (below : s.log.o ≤ s.log.w)
    (found : s.reporter.urgent.find? (fun y => decide (s.log.w ≤ y.1)) = some x) :
    s.makeSend = { s with reporter := { s.reporter with
      urgent := s.reporter.urgent.filter (fun y => decide (s.log.o ≤ y.1))
      cycle := s.reporter.cycle.map fun c => { c with phase := .fetching x.1 }
      readReq := some (x.1, .alert) } } := by
  have pruned : s.pruneUrgent.reporter.urgent.find? (fun y => decide (s.pruneUrgent.log.w ≤ y.1)) = some x :=
    (find_filter_urgent s.reporter.urgent below).trans found
  unfold State.makeSend
  dsimp only
  rw [pruned]
  rfl

theorem makeSend_none {s : State} (below : s.log.o ≤ s.log.w)
    (absent : s.reporter.urgent.find? (fun y => decide (s.log.w ≤ y.1)) = none) :
    s.makeSend = s.pruneUrgent.endCycle := by
  have pruned : s.pruneUrgent.reporter.urgent.find? (fun y => decide (s.pruneUrgent.log.w ≤ y.1)) = none :=
    (find_filter_urgent s.reporter.urgent below).trans absent
  unfold State.makeSend
  dsimp only
  rw [pruned]

theorem endCycle_cycle (s : State) : s.endCycle.reporter.cycle = none := by
  unfold State.endCycle
  split
  · rw [settleS7_reporter]
    rfl
  case isFalse idle => exact Option.not_isSome_iff_eq_none.mp idle

theorem settleS7_none {s : State} (nothing : s.link.pendingS7 = none) : s.settleS7 = s := by
  unfold State.settleS7
  rw [nothing]

/-- With no S7 pending and no reply the alert cycle alone is settled. -/
theorem settle_eq_settleAlert {s : State} (nothing : s.link.pendingS7 = none) (slot : ∀ r, s.reporter.slot ≠ .ready r) :
    s.settle = s.settleAlert := by
  unfold State.settle
  rw [settleS7_none nothing, settleReply_rest slot]

theorem settleAlert_fetching {s : State} {c : AlertCycle} {x : Nat} (cycle : s.reporter.cycle = some c)
    (phase : c.phase = .fetching x) : s.settleAlert = s := by
  unfold State.settleAlert
  rw [cycle]
  dsimp only
  rw [phase]

theorem settleAlert_lineWait {s : State} {c : AlertCycle} (cycle : s.reporter.cycle = some c)
    (phase : c.phase = .lineWait) : s.settleAlert = if !s.link.ldcd && s.link.quiet then s.makeSend else s := by
  unfold State.settleAlert
  rw [cycle]
  dsimp only
  rw [phase]

theorem Transmitter.isIdle_iff (t : Transmitter) : t.isIdle = true ↔ t = .idle := by
  cases t with
  | idle => exact iff_of_true rfl rfl
  | pending f => exact iff_of_false Bool.false_ne_true Transmitter.noConfusion
  | keying f left => exact iff_of_false Bool.false_ne_true Transmitter.noConfusion
  | sending f => exact iff_of_false Bool.false_ne_true Transmitter.noConfusion

/-- An urgent number as the start of a cycle marks it (R168). -/
def marked (s : Nat) (y : Nat × Bool) : Nat × Bool := (y.1, y.2 || decide (s ≤ y.1))

/-- Settles O59: each timer's act on the reporter, and what is settled after it. -/
theorem linkTimersDriveTheAlertCycle : Obligations.LinkTimersDriveTheAlertCycle := by
  intro s out running
  refine ⟨fun due outside => ?lost, fun due cycle slot nothing => ?wait,
    fun fresh wanted quietPoll ldcd tx rx nothing cycle slot below above => ?start,
    fun c cycle due slot nothing below => ?alert⟩
  case lost =>
    have run : exec .linkTimerExpiry s = .next (finish s s.linkLost.settle) :=
      congrArg Host.Outcome.next (linkEvent_due running (by rw [due]; rfl) _)
    obtain ⟨rest, -⟩ := settle_step s.linkLost
    have reporter : (finish s s.linkLost.settle).reporter = { s.linkLost.reporter with
        slot := s.linkLost.settle.reporter.slot, readReq := s.linkLost.settle.reporter.readReq
        urgent := s.linkLost.settle.reporter.urgent, cycle := s.linkLost.settle.reporter.cycle } := by
      rw [finish_reporter]
      have same := congrArg State.reporter rest
      exact same
    have handed : s.linkLost.settle.plant = s.plant.hand 38 true := by
      have same := congrArg State.plant rest
      exact same
    have log : s.linkLost.settle.log = s.log := by
      have same := congrArg State.log rest
      exact same
    have plant : (finish s s.linkLost.settle).plant = { s.plant.hand 38 true with out := [], marks := s.plant.marks } := by
      rw [finish_plant, handed]
    have kept := s.plant.hand_kept 38 true
    refine ⟨_, run, ?_, ?_, ?_, ?_, ?_, ?_, ?_, finish_logged _ _ [] log ⟨_, rfl⟩⟩
    · rw [reporter]; rfl
    · rw [reporter]; rfl
    · rw [reporter]; rfl
    · rw [reporter]; rfl
    · rw [plant]; exact Plant.hand_condition outside 38 true
    · have moved : s.plant.hand 38 true = { s.plant with
          alarms := (s.plant.hand 38 true).alarms, lines := (s.plant.hand 38 true).lines
          out := (s.plant.hand 38 true).out, marks := (s.plant.hand 38 true).marks } := s.plant.hand_moved 38 true
      rw [plant]
      generalize (s.plant.hand 38 true).alarms = alarms at moved ⊢
      generalize (s.plant.hand 38 true).lines = lines at moved ⊢
      rw [moved]
      simp only [← out]
    · rw [plant]; exact kept.emptied.1
  case wait =>
    have settled : (s.setReporter { s.reporter with pollTimer := .stopped }).settle =
        s.setReporter { s.reporter with pollTimer := .stopped } := settle_still nothing slot cycle
    have run : exec .pollWaitExpiry s = .next (finish s (s.setReporter { s.reporter with pollTimer := .stopped }).settle) :=
      congrArg Host.Outcome.next (linkEvent_due running (by rw [due]; rfl) _)
    obtain ⟨quiet, step⟩ := reporterEvent out { s.reporter with pollTimer := .stopped }
    refine ⟨_, run, step.pages, ?_⟩
    refine quiet.trans ?_
    rw [settled]
    rfl
  case start =>
    obtain ⟨y, mem, high, unmarked⟩ := fresh
    have allowed : s.alertAllowed = true := by
      have unalerted : s.unalerted = true :=
        List.any_eq_true.mpr ⟨y, mem, by rw [decide_eq_true high, unmarked]; rfl⟩
      have storm : (s.plant.mode.storm || !s.reporter.linkUp) = true := by
        rcases wanted with storm | lost
        · rw [storm]; rfl
        · rw [lost, Bool.or_comm]; rfl
      have quiet : s.link.quiet = true := by
        unfold Link.quiet
        rw [tx, rx]
        rfl
      unfold State.alertAllowed State.running
      rw [running, unalerted, storm, quietPoll, ldcd, quiet, cycle, slot]
      rfl
    obtain ⟨x, found⟩ := Option.isSome_iff_exists.mp
      (List.find?_isSome.mpr ⟨y, mem, decide_eq_true (above.trans high)⟩ :
        (s.reporter.urgent.find? (fun y => decide (s.log.w ≤ y.1))).isSome = true)
    let starting : Reporter := { s.reporter with
      urgent := s.reporter.urgent.map (marked s.log.s)
      cycle := some { sends := 0, phase := .timing, timer := .stopped } }
    have found' : (s.setReporter starting).reporter.urgent.find? (fun y => decide (s.log.w ≤ y.1)) =
        some (marked s.log.s x) := by
      show (s.reporter.urgent.map (marked s.log.s)).find? _ = _
      rw [List.find?_map, show (fun y => decide (s.log.w ≤ y.1)) ∘ marked s.log.s = fun y => decide (s.log.w ≤ y.1) from rfl,
        found]
      rfl
    let fetching : Reporter := { s.reporter with
        urgent := (s.reporter.urgent.filter (fun y => decide (s.log.o ≤ y.1))).map (marked s.log.s)
        readReq := some (x.1, .alert)
        cycle := some { sends := 0, phase := .fetching x.1, timer := .stopped } }
    have started : s.startCycle = s.setReporter fetching := by
      refine (makeSend_some (s := s.setReporter starting) below found').trans ?_
      show s.setReporter { starting with
        urgent := (s.reporter.urgent.map (marked s.log.s)).filter (fun y => decide (s.log.o ≤ y.1))
        cycle := some { sends := 0, phase := .fetching x.1, timer := .stopped }, readReq := some (x.1, .alert) } = _
      rw [List.filter_map]
      rfl
    have settled : s.startCycle.settle = s.startCycle := by
      rw [started, settle_eq_settleAlert (s := s.setReporter fetching) nothing (fun r ready =>
        nomatch (show s.reporter.slot = .ready r from ready).symm.trans slot)]
      exact settleAlert_fetching rfl rfl
    have run : exec .alertCycleStart s = .next (finish s s.startCycle.settle) :=
      congrArg Host.Outcome.next (linkEvent_due running allowed _)
    obtain ⟨quiet, step⟩ := reporterEvent out fetching
    rw [← started] at quiet step
    refine ⟨_, x, run, step.pages, found, ?_⟩
    refine quiet.trans ?_
    rw [settled, started]
    rfl
  case alert =>
    let waiting : Reporter := { s.reporter with cycle := some { c with phase := .lineWait, timer := .stopped } }
    have waits : s.alertOver = s.setReporter waiting := by
      unfold State.alertOver
      rw [cycle]
      rfl
    have run : exec .alertTimerExpiry s = .next (finish s (s.setReporter waiting).settle) := by
      rw [← waits]
      refine congrArg Host.Outcome.next (linkEvent_due running ?_ _)
      unfold State.alertDue
      rw [cycle]
      dsimp only
      rw [due]
      rfl
    obtain ⟨quiet, step⟩ := reporterEvent out waiting
    have rests : ∀ r, (s.setReporter waiting).reporter.slot ≠ .ready r := fun r ready =>
      nomatch (show s.reporter.slot = .ready r from ready).symm.trans slot
    have settled : (s.setReporter waiting).settle =
        if !s.link.ldcd && s.link.quiet then (s.setReporter waiting).makeSend else s.setReporter waiting := by
      rw [settle_eq_settleAlert (s := s.setReporter waiting) nothing rests]
      exact settleAlert_lineWait rfl rfl
    refine ⟨_, run, step, fun barred => ?_, fun ldcd tx rx => ?_⟩
    · rw [finish_reporter, settled, if_neg]
      · rfl
      · intro free
        obtain ⟨clear, still⟩ := Bool.and_eq_true_iff.mp free
        obtain ⟨idle, hunts⟩ := Bool.and_eq_true_iff.mp still
        rcases barred with busy | busy | busy
        · rw [busy] at clear; cases clear
        · exact busy ((Transmitter.isIdle_iff _).mp idle)
        · exact busy (beq_iff_eq.mp hunts)
    · have makes : (s.setReporter waiting).settle = (s.setReporter waiting).makeSend := by
        rw [settled, if_pos]
        unfold Link.quiet
        rw [ldcd, tx, rx]
        rfl
      rw [finish_reporter, makes]
      refine ⟨fun x found => ?_, fun absent => ?_⟩
      · rw [makeSend_some (s := s.setReporter waiting) below found]
        exact ⟨rfl, rfl⟩
      · rw [makeSend_none (s := s.setReporter waiting) below absent]
        exact endCycle_cycle _

end Sys2Proof.Machine
end

section
/-! The sent indications (R156, R158, R161, R169): O56. -/

namespace Sys2Proof.Machine

/-! The line after the last stop bit. -/

/-- Nothing of S7 is left to settle on this line. -/
def Link.SettledS7 (l : Link) : Prop := l.pendingS7 = none ∨ l.quiet = false

theorem settleS7_settled {s : State} (settled : s.link.SettledS7) : s.settleS7 = s := by
  unfold State.settleS7
  split
  case h_1 words pending =>
    rcases settled with none | busy
    · rw [none] at pending; cases pending
    · rw [busy, if_neg Bool.false_ne_true]
  case h_2 => rfl

theorem settleS7_quiet {s : State} {words : List Word} (pending : s.link.pendingS7 = some words)
    (quiet : s.link.quiet = true) : s.settleS7 = s.applyS7 words := by
  unfold State.settleS7
  rw [pending]
  exact if_pos quiet

theorem applyS7_rest (s : State) (words : List Word) : s.applyS7 words = { s with
    link := { s.link with s7 := words, pendingS7 := none }, deposits := (s.applyS7 words).deposits } :=
  markPage_rest _ _

/-- The state in which the last stop bit has left, a pending S7 taken where the receiver hunts (R156, R158). -/
def State.lineFreed (s : State) : State := (s.setLink { s.link with tx := .idle }).settleS7

/-- Of the state, `t` has moved the link line and the page marks, as the last stop bit moves them. -/
structure State.FreesLine (s t : State) : Prop where
  idle    : t.link.tx = .idle
  takes   : ∀ words, s.link.pendingS7 = some words → s.link.rx.state = .hunt →
    t.link = { s.link with tx := .idle, s7 := words, pendingS7 := none }
  keeps   : s.link.pendingS7 = none ∨ s.link.rx.state ≠ .hunt → t.link = { s.link with tx := .idle }
  settled : t.link.SettledS7

theorem State.lineFreed_frees (s : State) : s.FreesLine s.lineFreed := by
  have quiet_iff : ({ s.link with tx := .idle } : Link).quiet = true ↔ s.link.rx.state = .hunt := beq_iff_eq
  by_cases takes : (∃ words, s.link.pendingS7 = some words) ∧ s.link.rx.state = .hunt
  · obtain ⟨⟨words, pending⟩, hunts⟩ := takes
    have freed : s.lineFreed = (s.setLink { s.link with tx := .idle }).applyS7 words :=
      settleS7_quiet pending (quiet_iff.mpr hunts)
    have link : s.lineFreed.link = { s.link with tx := .idle, s7 := words, pendingS7 := none } := by
      rw [freed, applyS7_rest]
      rfl
    refine ⟨by rw [link], fun words' pending' _ => ?_, fun keeps => ?_, Or.inl (by rw [link])⟩
    · obtain rfl := Option.some.inj (pending.symm.trans pending')
      exact link
    · rcases keeps with none | away
      · rw [none] at pending; cases pending
      · exact absurd hunts away
  · have settled : ({ s.link with tx := .idle } : Link).SettledS7 := by
      by_cases hunts : s.link.rx.state = .hunt
      · refine Or.inl ?_
        cases pending : s.link.pendingS7 with
        | none => rfl
        | some words => exact absurd ⟨⟨words, pending⟩, hunts⟩ takes
      · refine Or.inr ?_
        rw [← Bool.not_eq_true]
        exact fun quiet => hunts (quiet_iff.mp quiet)
    have freed : s.lineFreed = s.setLink { s.link with tx := .idle } := settleS7_settled settled
    refine ⟨by rw [freed]; rfl, fun words pending hunts => absurd ⟨⟨words, pending⟩, hunts⟩ takes, fun _ => ?_, ?_⟩
    · rw [freed]; rfl
    · rw [freed]; exact settled

theorem State.lineFreed_rest (s : State) : s.lineFreed = { s with
    link := s.lineFreed.link, deposits := s.lineFreed.deposits } ∧
    s.lineFreed.deposits.gen = s.deposits.gen ∧ s.lineFreed.deposits.scanPos = s.deposits.scanPos ∧
    ∀ i, s.deposits.dirty.get i = true → s.lineFreed.deposits.dirty.get i = true := by
  have step := settleS7_step (s.setLink { s.link with tx := .idle })
  refine ⟨?_, step.gen, step.scan, step.kept⟩
  unfold State.lineFreed State.settleS7
  split
  · split
    · rw [applyS7_rest]
      rfl
    · rfl
  · rfl

/-- What an event has moved on the line freed, with everything settled that it left. -/
theorem transmitted_eq {s : State} {f : TxFrame} (sending : s.link.tx = .sending f) :
    s.transmitted = s.lineFreed.sentIndication f.owner := by
  unfold State.transmitted
  rw [sending]
  rfl

theorem transmitComplete_runs {s : State} {f : TxFrame} (running : s.load = .none) (sending : s.link.tx = .sending f) :
    exec .transmitComplete s = .next (finish s (s.lineFreed.sentIndication f.owner).settle) := by
  rw [← transmitted_eq sending]
  exact congrArg Host.Outcome.next (linkEvent_runs running _)

/-! The sent indication of a reply. -/

/-- The state when a reply's sent indication has been taken, before a waiting frame (R161). -/
def State.replyTaken (s : State) (r : Reply) : State :=
  { s with
    log := if r.ofPoll then { s.log with s := min (max r.next s.log.w) s.log.t } else s.log
    reporter := { s.reporter with
      slot := .none
      gapRecord := (r.gap.map fun g => (g, r.next)).or s.reporter.gapRecord } }

theorem replySent_held {s : State} {r : Reply} (held : s.reporter.slot = .held r) :
    s.replySent = (s.replyTaken r).takeWaiting := by
  unfold State.replySent
  rw [held]
  dsimp only
  refine congrArg State.takeWaiting ?_
  unfold State.replyTaken
  cases ofPoll : r.ofPoll <;> cases gap : r.gap <;> rfl

/-! Acts that look at no page mark: what they make of a state does not depend on the marks in it. -/

/-- Beside the page marks and the generation counts the two are the same. -/
def State.SameButDeposits (s t : State) : Prop := t = { s with deposits := t.deposits }

/-- The act makes the same of two states that differ in the page marks alone. -/
def Markless (f : State → State) : Prop := ∀ (s : State) (d : DepositAgent), (f s).SameButDeposits (f { s with deposits := d })

theorem Markless.apply {f : State → State} (markless : Markless f) {s t : State} (same : s.SameButDeposits t) :
    (f s).SameButDeposits (f t) := by
  have alike := markless s t.deposits
  rwa [← show t = _ from same] at alike

theorem Markless.comp {f g : State → State} (first : Markless f) (second : Markless g) : Markless fun s => g (f s) :=
  fun s d => second.apply (first s d)

theorem Markless.of_eq {f : State → State} (eq : ∀ s d, f { s with deposits := d } = { f s with deposits := d }) :
    Markless f := fun s d => by
  unfold State.SameButDeposits
  rw [eq]

theorem Markless.ite {f g : State → State} {c : State → Prop} [DecidablePred c]
    (blind : ∀ (s : State) d, c { s with deposits := d } ↔ c s) (first : Markless f) (second : Markless g) :
    Markless fun s => if c s then f s else g s := by
  intro s d
  dsimp only
  by_cases holds : c s
  · rw [if_pos holds, if_pos ((blind s d).mpr holds)]
    exact first s d
  · rw [if_neg holds, if_neg (fun h => holds ((blind s d).mp h))]
    exact second s d

theorem markless_id : Markless fun s => s := fun _ _ => rfl

theorem markless_markPage (i : Fin 16) : Markless fun s => markPage s i := by
  intro s d
  unfold State.SameButDeposits
  dsimp only
  conv_lhs => rw [markPage_rest]
  conv_rhs => rw [markPage_rest s i]

theorem markless_settleS7 : Markless State.settleS7 := by
  intro s d
  unfold State.settleS7
  dsimp only
  split
  case h_1 words pending =>
    split
    · exact (Markless.of_eq (f := fun s => s.setLink { s.link with s7 := words, pendingS7 := none })
        (fun _ _ => rfl)).comp (markless_markPage 14) s d
    · rfl
  case h_2 => rfl

theorem markless_handReply (r : State → Reply) (blind : ∀ (s : State) d, r { s with deposits := d } = r s) :
    Markless fun s => s.handReply (r s) := by
  refine Markless.of_eq fun s d => ?_
  rw [blind]
  cases idle : s.link.tx.isIdle with
  | true => rw [handReply_idle idle, handReply_idle (s := { s with deposits := d }) idle]
  | false => rw [handReply_busy idle, handReply_busy (s := { s with deposits := d }) idle]

theorem markless_goOnBuild (b : State → Build) (blind : ∀ (s : State) d, b { s with deposits := d } = b s) :
    Markless fun s => s.goOnBuild (b s) := by
  refine Markless.ite (c := fun s => s.buildDone (b s) = true) (fun s d => ?_)
    (markless_handReply (fun s => s.buildReply (b s)) fun s d => ?_) (.of_eq fun s d => ?_)
  · rw [blind]; rfl
  · rw [blind]; rfl
  · rw [blind]; rfl

theorem markless_startBuild (tag : Byte) : Markless fun s => s.startBuild tag s.link.reportMask := by
  have pruned : (fun s : State => s.startBuild tag s.link.reportMask) =
      fun s => s.pruneUrgent.goOnBuild (s.pruneUrgent.firstBuild tag s.pruneUrgent.link.reportMask) :=
    funext fun s => startBuild_eq s tag _
  rw [pruned]
  exact (Markless.of_eq (f := State.pruneUrgent) fun _ _ => rfl).comp
    (markless_goOnBuild (fun s => s.firstBuild tag s.link.reportMask) fun _ _ => rfl)

theorem markless_endCycle : Markless State.endCycle := by
  refine Markless.ite (c := fun s => s.reporter.cycle.isSome = true) (fun _ _ => Iff.rfl) ?_ markless_id
  exact (Markless.of_eq (f := fun s => ((s.withdrawRead .alert).setLink
      { (s.withdrawRead .alert).link with tx := (s.withdrawRead .alert).link.tx.disown }).setReporter
        { (s.withdrawRead .alert).reporter with cycle := none }) fun _ _ => rfl).comp markless_settleS7

/-- What a POLL's ack moves of the cursors and the gap record (R162, R163). -/
def State.ackTaken (s : State) (ack : Nat) : State :=
  (s.takeAck (s.log.ackInOrder ack) ack).settleGap (s.log.ackInOrder ack) ack

theorem ackTaken_link (s : State) (ack : Nat) : (s.ackTaken ack).link = s.link := by
  have taken : (s.takeAck (s.log.ackInOrder ack) ack).link = s.link := by
    unfold State.takeAck
    split <;> rfl
  unfold State.ackTaken State.settleGap
  split
  · exact taken
  · dsimp only
    split <;> exact taken

theorem takeAck_deposits (s : State) (d : DepositAgent) (b : Bool) (ack : Nat) :
    State.takeAck { s with deposits := d } b ack = { s.takeAck b ack with deposits := d } := by
  cases b <;> rfl

theorem settleGap_deposits (s : State) (d : DepositAgent) (b : Bool) (ack : Nat) :
    State.settleGap { s with deposits := d } b ack = { s.settleGap b ack with deposits := d } := by
  unfold State.settleGap
  dsimp only
  split
  · rfl
  · split <;> rfl

theorem markless_ackTaken (ack : Nat) : Markless fun s => s.ackTaken ack := by
  refine Markless.of_eq fun s d => ?_
  unfold State.ackTaken
  rw [takeAck_deposits, settleGap_deposits]

theorem handlePoll_eq (s : State) (tag : Byte) (ack : Nat) : s.handlePoll tag ack =
    (fun x : State => x.startBuild tag x.link.reportMask) (s.linkUp.endCycle.ackTaken ack) := by
  dsimp only
  rw [ackTaken_link]
  rfl

theorem markless_handlePoll (tag : Byte) (ack : Nat) : Markless fun s => s.handlePoll tag ack := by
  have parts : (fun s : State => s.handlePoll tag ack) = fun s =>
      (fun x : State => x.startBuild tag x.link.reportMask) (s.linkUp.endCycle.ackTaken ack) :=
    funext fun s => handlePoll_eq s tag ack
  rw [parts]
  exact (((Markless.of_eq (f := State.linkUp) fun _ _ => rfl).comp markless_endCycle).comp (markless_ackTaken ack)).comp
    (markless_startBuild tag)

theorem markless_answerIdle (tag : Byte) : Markless fun s => s.answerIdle tag :=
  markless_handReply (fun s => { kind := kindIdle, tag := tag, payload := s.idlePayload s.log.s, next := s.log.s
                                 ofPoll := false, gap := none }) fun _ _ => rfl

theorem markless_handleFrame (f : TownFrame) : Markless fun s => s.handleFrame f := by
  refine Markless.ite (fun _ _ => Iff.rfl) (markless_handlePoll _ _) (Markless.ite (fun _ _ => Iff.rfl) ?_ ?_)
  · exact (Markless.of_eq (f := fun s => s.townAcknowledge f.payload) fun _ _ => rfl).comp (markless_answerIdle f.tag)
  · exact ((Markless.of_eq (f := fun s => s.onPlant fun p => p.setStationTime (BitVec.ofNat 32 (bytesNat f.payload)) true)
      fun _ _ => rfl).comp (markless_markPage 0)).comp (markless_answerIdle f.tag)

theorem markless_settleReply : Markless State.settleReply := by
  refine Markless.of_eq fun s d => ?_
  unfold State.settleReply
  dsimp only
  split
  case h_1 r ready =>
    cases idle : s.link.tx.isIdle with
    | true =>
      rw [if_pos rfl, if_pos rfl, handReply_idle idle, handReply_idle (s := { s with deposits := d }) idle]
    | false => rfl
  all_goals rfl

theorem markless_handAlert (payload : List Byte) : Markless fun s => s.handAlert payload := by
  refine Markless.of_eq fun s d => ?_
  cases idle : s.link.tx.isIdle with
  | true => rw [handAlert_idle idle, handAlert_idle (s := { s with deposits := d }) idle]
  | false => rw [handAlert_busy idle, handAlert_busy (s := { s with deposits := d }) idle]

theorem makeSend_found {s : State} {x : Nat × Bool}
    (found : s.pruneUrgent.reporter.urgent.find? (fun x => s.pruneUrgent.log.w ≤ x.1) = some x) :
    s.makeSend = (s.pruneUrgent.setPhase (.fetching x.1)).askRead x.1 .alert := by
  unfold State.makeSend
  dsimp only
  rw [found]

theorem makeSend_missing {s : State}
    (missing : s.pruneUrgent.reporter.urgent.find? (fun x => s.pruneUrgent.log.w ≤ x.1) = none) :
    s.makeSend = s.pruneUrgent.endCycle := by
  unfold State.makeSend
  dsimp only
  rw [missing]

theorem markless_makeSend : Markless State.makeSend := by
  intro s d
  cases found : s.pruneUrgent.reporter.urgent.find? (fun x => s.pruneUrgent.log.w ≤ x.1) with
  | some x =>
    rw [makeSend_found found, makeSend_found (s := { s with deposits := d }) found]
    rfl
  | none =>
    rw [makeSend_missing found, makeSend_missing (s := { s with deposits := d }) found]
    exact markless_endCycle s.pruneUrgent d

theorem markless_settleAlert : Markless State.settleAlert := by
  intro s d
  unfold State.settleAlert
  dsimp only
  split
  · rfl
  · split
    · split
      · exact markless_handAlert _ s d
      · rfl
    · split
      · exact markless_makeSend s d
      · rfl
    all_goals rfl

theorem markless_settle : Markless State.settle :=
  (markless_settleS7.comp markless_settleReply).comp markless_settleAlert

/-! The page marks that a frame's handling leaves. -/

/-- The generation counts and the scan stand, and no page mark is lost. -/
structure State.MarksGrow (s t : State) : Prop where
  gen  : t.deposits.gen = s.deposits.gen
  scan : t.deposits.scanPos = s.deposits.scanPos
  kept : ∀ i, s.deposits.dirty.get i = true → t.deposits.dirty.get i = true

theorem State.MarksGrow.of_eq {s t : State} (same : t.deposits = s.deposits) : s.MarksGrow t := by
  constructor <;> simp [same]

theorem State.MarksGrow.trans {s t u : State} (first : s.MarksGrow t) (second : t.MarksGrow u) : s.MarksGrow u :=
  ⟨second.gen.trans first.gen, second.scan.trans first.scan, fun i dirty => second.kept i (first.kept i dirty)⟩

theorem SettleStep.marksGrow {s t : State} (step : s.SettleStep t) : s.MarksGrow t := ⟨step.gen, step.scan, step.kept⟩

theorem State.MarksGrow.pages {s t : State} (grow : s.MarksGrow t) : s.Pages (finish s t) :=
  finish_pages s t grow.gen grow.scan grow.kept

theorem markPage_marksGrow (s : State) (i : Fin 16) : s.MarksGrow (markPage s i) :=
  have ⟨gen, scan, kept⟩ := markPage_deposits s i
  ⟨gen, scan, kept⟩

theorem takeAck_noDeposits (s : State) (b : Bool) (ack : Nat) : (s.takeAck b ack).deposits = s.deposits := by
  cases b <;> rfl

theorem settleGap_noDeposits (s : State) (b : Bool) (ack : Nat) : (s.settleGap b ack).deposits = s.deposits := by
  unfold State.settleGap
  split
  · rfl
  · dsimp only
    split <;> rfl

theorem ackTaken_noDeposits (s : State) (ack : Nat) : (s.ackTaken ack).deposits = s.deposits :=
  (settleGap_noDeposits _ _ _).trans (takeAck_noDeposits _ _ _)

theorem handlePoll_marksGrow (s : State) (tag : Byte) (ack : Nat) : s.MarksGrow (s.handlePoll tag ack) := by
  rw [handlePoll_eq]
  have linked : s.MarksGrow s.linkUp := .of_eq rfl
  have ended : s.MarksGrow s.linkUp.endCycle := linked.trans (SettleStep.marksGrow (endCycle_step _))
  have acked := ended.trans (.of_eq (ackTaken_noDeposits s.linkUp.endCycle ack))
  exact acked.trans (SettleStep.marksGrow (startBuild_step _ _ _))

theorem answerIdle_marksGrow (s : State) (tag : Byte) : s.MarksGrow (s.answerIdle tag) :=
  SettleStep.marksGrow (handReply_step _ _)

theorem handleFrame_marksGrow (s : State) (f : TownFrame) : s.MarksGrow (s.handleFrame f) := by
  unfold State.handleFrame
  split_ifs
  · exact handlePoll_marksGrow _ _ _
  · have acknowledged : s.MarksGrow (s.townAcknowledge f.payload) := .of_eq rfl
    exact acknowledged.trans (answerIdle_marksGrow _ _)
  · refine State.MarksGrow.trans (State.MarksGrow.trans ?_ (markPage_marksGrow _ 0)) (answerIdle_marksGrow _ _)
    exact .of_eq rfl

theorem lineFreed_marksGrow (s : State) : s.MarksGrow s.lineFreed :=
  have ⟨_, gen, scan, kept⟩ := s.lineFreed_rest
  ⟨gen, scan, kept⟩

theorem lineFreed_field {α : Type} (f : State → α) (blind : ∀ (s : State) l d, f { s with link := l, deposits := d } = f s)
    (s : State) : f s.lineFreed = f s := by
  rw [s.lineFreed_rest.1]
  exact blind _ _ _

theorem lineFreed_plant (s : State) : s.lineFreed.plant = s.plant := lineFreed_field _ (fun _ _ _ => rfl) s

theorem lineFreed_reporter (s : State) : s.lineFreed.reporter = s.reporter := lineFreed_field _ (fun _ _ _ => rfl) s

theorem lineFreed_log (s : State) : s.lineFreed.log = s.log := lineFreed_field _ (fun _ _ _ => rfl) s

theorem lineFreed_load (s : State) : s.lineFreed.load = s.load := lineFreed_field _ (fun _ _ _ => rfl) s

theorem lineFreed_inbox (s : State) : s.lineFreed.link.inbox = s.link.inbox := by
  have step := settleS7_step (s.setLink { s.link with tx := .idle })
  have same := congrArg (fun t => t.link.inbox) step.rest
  exact same

theorem markPage_setReporter (s : State) (r : Reporter) (i : Fin 16) :
    markPage (s.setReporter r) i = (markPage s i).setReporter r := by
  unfold markPage State.setReporter
  dsimp only
  by_cases loading : s.plant.loading = true
  · simp only [if_pos loading]
  · simp only [if_neg loading]

theorem settleS7_setReporter (s : State) (r : Reporter) : (s.setReporter r).settleS7 = s.settleS7.setReporter r := by
  cases pending : s.link.pendingS7 with
  | none => rw [settleS7_none pending, settleS7_none (s := s.setReporter r) pending]
  | some words =>
    cases quiet : s.link.quiet with
    | false => rw [settleS7_settled (Or.inr quiet), settleS7_settled (s := s.setReporter r) (Or.inr quiet)]
    | true =>
      rw [settleS7_quiet pending quiet, settleS7_quiet (s := s.setReporter r) pending quiet]
      exact markPage_setReporter (s.setLink { s.link with s7 := words, pendingS7 := none }) r 14

/-- The line freed does not depend on the reporter. -/
theorem lineFreed_setReporter (s : State) (r : Reporter) : (s.setReporter r).lineFreed = s.lineFreed.setReporter r :=
  settleS7_setReporter (s.setLink { s.link with tx := .idle }) r

/-- The end of an event on the line freed that hands nothing to the log. -/
theorem finish_lineFreed {s X : State} (out : s.plant.out = []) (plant : X.plant = s.plant)
    (deposits : X.deposits = s.lineFreed.deposits) :
    finish s X = { X with deposits := (finish s X).deposits } ∧ s.Pages (finish s X) :=
  ⟨finish_quiet (by rw [plant]; exact out) (by rw [plant]),
    ((lineFreed_marksGrow s).trans (.of_eq deposits)).pages⟩

/-- The end of an event does not look at the page marks, but for the page marks. -/
theorem finish_sameButDeposits {s s' t t' : State} (same : t.SameButDeposits t') (marks : s'.plant.marks = s.plant.marks) :
    (finish s t).SameButDeposits (finish s' t') := by
  have plant : t'.plant = t.plant := by rw [same]
  have log : t'.log = t.log := by rw [same]
  have plants : (finish s' t').plant = (finish s t).plant := by
    rw [finish_plant, finish_plant, plant, marks]
  have logs : (finish s' t').log = (finish s t).log := by
    rw [finish_log, finish_log, plant, log]
  unfold State.SameButDeposits
  rw [finish_rest s' t', finish_rest s t, plants, logs]
  dsimp only
  rw [same]

/-! The sent indication of an ALERT (R169). -/

/-- The reporter when an ALERT of this cycle has gone out. -/
def State.alertOut (s : State) (c : AlertCycle) : Reporter :=
  { s.reporter with
    counts := { s.reporter.counts with alerts := bump s.reporter.counts.alerts }
    cycle := some { sends := c.sends + 1, phase := .timing, timer := .running s.link.alertInterval } }

theorem alertSent_more {s : State} {c : AlertCycle} (cycle : s.reporter.cycle = some c) (more : c.sends + 1 < 3) :
    s.alertSent = s.setReporter (s.alertOut c) := by
  unfold State.alertSent
  rw [cycle]
  exact if_neg (Nat.not_le.mpr more)

theorem alertSent_last {s : State} {c : AlertCycle} (cycle : s.reporter.cycle = some c) (last : 3 ≤ c.sends + 1) :
    s.alertSent = (s.setReporter (s.alertOut c)).endCycle := by
  unfold State.alertSent
  rw [cycle]
  exact if_pos last

theorem alertOut_settle {s : State} (line : s.link.SettledS7) (noReply : ∀ q, s.reporter.slot ≠ .ready q)
    (c : AlertCycle) : (s.setReporter (s.alertOut c)).settle = s.setReporter (s.alertOut c) := by
  have s7 : (s.setReporter (s.alertOut c)).settleS7 = s.setReporter (s.alertOut c) := settleS7_settled line
  have reply : (s.setReporter (s.alertOut c)).settleReply = s.setReporter (s.alertOut c) := settleReply_rest noReply
  unfold State.settle
  rw [s7, reply]
  rfl

/-- On an idle transmitter with no S7 to settle the end of the cycle moves the cycle and its entry read. -/
theorem endCycle_settled {s : State} (cycle : s.reporter.cycle.isSome = true) (idle : s.link.tx = .idle)
    (settled : s.link.SettledS7) : s.endCycle = { s with
      holder := discardRead s.holder .alert
      reporter := { s.reporter with
        readReq := s.reporter.readReq.filter (fun x => x.2 != .alert), cycle := none } } := by
  have link : { s.link with tx := s.link.tx.disown } = s.link := by
    generalize s.link = l at idle ⊢
    rw [idle]
    show { l with tx := .idle } = l
    rw [← idle]
  unfold State.endCycle
  rw [if_pos cycle]
  dsimp only
  have same : (s.withdrawRead .alert).setLink { (s.withdrawRead .alert).link with
      tx := (s.withdrawRead .alert).link.tx.disown } = s.withdrawRead .alert := by
    show { s.withdrawRead .alert with link := { s.link with tx := s.link.tx.disown } } = _
    rw [link]
    rfl
  rw [same]
  exact settleS7_settled settled

/-- What the sent indication of an ALERT moves, on a line that has nothing to settle. -/
structure State.AlertSent (s : State) (c : AlertCycle) (t : State) : Prop where
  rest   : t = { s with reporter := t.reporter, holder := t.holder }
  counts : t.reporter.counts = { s.reporter.counts with alerts := bump s.reporter.counts.alerts }
  cycle  : t.reporter.cycle = if c.sends + 1 < 3
    then some { sends := c.sends + 1, phase := .timing, timer := .running s.link.alertInterval } else none
  slot   : t.reporter.slot = s.reporter.slot
  holder : t.holder = s.holder ∨ t.holder = discardRead s.holder .alert

theorem alertSent_moves {s : State} {c : AlertCycle} (cycle : s.reporter.cycle = some c) (idle : s.link.tx = .idle)
    (settled : s.link.SettledS7) : s.AlertSent c s.alertSent := by
  by_cases more : c.sends + 1 < 3
  · rw [alertSent_more cycle more]
    exact ⟨rfl, rfl, (if_pos more).symm, rfl, Or.inl rfl⟩
  · have ended : s.alertSent = _ := (alertSent_last cycle (Nat.not_lt.mp more)).trans
      (endCycle_settled rfl idle settled)
    rw [ended]
    exact ⟨rfl, rfl, (if_neg more).symm, rfl, Or.inr rfl⟩

/-! The waiting frame. -/

/-- A good addressed frame handled where no reply is in the slot and the inbox is empty. -/
theorem townFrame_handled {u : State} {f : TownFrame} (running : u.load = .none) (inbox : u.link.inbox = [])
    (slot : u.reporter.slot = .none) (addressed : f.broadcast = false)
    (valid : frameValid f.kind f.payload = true) : u.townFrame f = finish u (u.handleFrame f).settle := by
  have popped : u.popInbox f = u := by
    unfold State.popInbox
    rw [inbox]
    exact if_neg (fun same => nomatch same)
  have taken : frameTaken f.broadcast f.kind f.payload = true := by
    unfold frameTaken
    rw [valid, addressed]
    rfl
  have judged : u.judgeFrame f = u.handleFrame f := by
    unfold State.judgeFrame State.addressed
    rw [taken, addressed, slot]
    rfl
  unfold State.townFrame
  rw [linkEvent_runs running, popped, judged]

theorem frameValid_poll {payload : List Byte} (length : payload.length = 4) : frameValid 0x01 payload = true :=
  beq_iff_eq.mpr length

theorem frameValid_clockSet {payload : List Byte} (length : payload.length = 4) : frameValid 0x03 payload = true :=
  beq_iff_eq.mpr length

theorem frameValid_alarmAck {payload : List Byte} (good : payload = [0xFF] ∨
    1 ≤ payload.length ∧ payload.length ≤ 40 ∧ ∀ b ∈ payload, b.toNat ≤ 39) : frameValid 0x02 payload = true := by
  show alarmAckPayloadGood payload = true
  unfold alarmAckPayloadGood
  rcases good with all | ⟨some, few, points⟩
  · rw [all]; rfl
  · have named : payload.all (fun b => decide (b.toNat ≤ 39)) = true :=
      List.all_eq_true.mpr fun b mem => decide_eq_true (points b mem)
    rw [decide_eq_true some, decide_eq_true few, named]
    exact Bool.or_true _

theorem replyTaken_settle {s : State} (line : s.link.SettledS7) (cycle : s.reporter.cycle = none) (r : Reply) :
    (s.replyTaken r).settle = s.replyTaken r := by
  have noReply : ∀ q, (s.replyTaken r).reporter.slot ≠ .ready q := fun q ready =>
    nomatch (show Slot.none = Slot.ready q from ready)
  exact (settle_eq_settleS7 noReply cycle).trans (settleS7_settled line)

/-- R165: the IDLE that answers an ALARM_ACK or a CLOCK_SET. -/
def State.idleReply (s : State) (tag : Byte) : Reply where
  kind := kindIdle
  tag := tag
  payload := s.idlePayload s.log.s
  next := s.log.s
  ofPoll := false
  gap := none

theorem answerIdle_eq (s : State) (tag : Byte) : s.answerIdle tag = s.handReply (s.idleReply tag) := rfl

/-- An ALARM_ACK or a CLOCK_SET is answered after an act that leaves the link line and the reporter. -/
theorem handleFrame_answers (s : State) {f : TownFrame} (kind : f.kind = 0x02 ∨ f.kind = 0x03) :
    ∃ y : State, s.handleFrame f = y.answerIdle f.tag ∧ y.link = s.link ∧ y.reporter = s.reporter := by
  rcases kind with ack | set
  · refine ⟨s.townAcknowledge f.payload, ?_, rfl, rfl⟩
    unfold State.handleFrame
    rw [ack]
    rfl
  · refine ⟨s.townSetTime f.payload, ?_, ?_, ?_⟩
    · unfold State.handleFrame
      rw [set]
      rfl
    · exact markPage_link _ _
    · exact markPage_reporter _ _

/-- The waiting frame is handled as the town's frame is by the state that the reply sent leaves without it. -/
theorem waiting_handled {s : State} {r : Reply} {w : TownFrame} (out : s.plant.out = []) (running : s.load = .none)
    (sending : ∃ f, s.link.tx = .sending f ∧ f.owner = .reply) (held : s.reporter.slot = .held r)
    (waits : s.reporter.waiting = some w) (inbox : s.link.inbox = []) (cycle : s.reporter.cycle = none)
    (addressed : w.broadcast = false) (valid : frameValid w.kind w.payload = true) {u : State}
    (alone : exec .transmitComplete { s with reporter := { s.reporter with waiting := none } } = .next u) :
    ∃ t, exec .transmitComplete s = .next t ∧ s.Pages t ∧ t = { u.townFrame w with deposits := t.deposits } := by
  obtain ⟨f, sending, owner⟩ := sending
  let s0 : State := s.setReporter { s.reporter with waiting := none }
  let x := s0.lineFreed.replyTaken r
  have freed := s.lineFreed_frees
  have shifted : s0.lineFreed = s.lineFreed.setReporter { s.reporter with waiting := none } := lineFreed_setReporter s _
  have reporter : s0.lineFreed.reporter = { s.reporter with waiting := none } := by rw [shifted]; rfl
  have settled : x.settle = x := by
    refine replyTaken_settle ?_ ?_ r
    · rw [shifted]
      exact freed.settled
    · rw [reporter]
      exact cycle
  have sent : s0.lineFreed.sentIndication .reply = x := by
    have heldStill : s0.lineFreed.reporter.slot = .held r := by rw [reporter]; exact held
    refine (replySent_held heldStill).trans ?_
    have nobody : x.reporter.waiting = none := by
      show s0.lineFreed.reporter.waiting = none
      rw [reporter]
    unfold State.takeWaiting
    rw [nobody]
  have aloneRuns : exec .transmitComplete s0 = .next (finish s0 x) := by
    refine (transmitComplete_runs (s := s0) running sending).trans ?_
    rw [owner, sent, settled]
  have isU : u = finish s0 x := by
    have same := alone.symm.trans aloneRuns
    injection same
  have plant : x.plant = s0.plant := lineFreed_plant s0
  obtain ⟨quiet, -⟩ := finish_lineFreed (s := s0) (X := x) out plant rfl
  have sameU : x.SameButDeposits u := by rw [isU]; exact quiet
  have handled : (s.lineFreed.sentIndication .reply) = x.handleFrame w := by
    have heldStill : s.lineFreed.reporter.slot = .held r := by rw [lineFreed_reporter]; exact held
    refine (replySent_held heldStill).trans ?_
    have somebody : (s.lineFreed.replyTaken r).reporter.waiting = some w := by
      show s.lineFreed.reporter.waiting = some w
      rw [lineFreed_reporter]
      exact waits
    unfold State.takeWaiting
    rw [somebody]
    have same : (s.lineFreed.replyTaken r).setReporter { (s.lineFreed.replyTaken r).reporter with waiting := none } = x := by
      show _ = s0.lineFreed.replyTaken r
      rw [shifted]
      unfold State.replyTaken
      rw [lineFreed_reporter]
      rfl
    exact congrArg (State.handleFrame · w) same
  have runs : exec .transmitComplete s = .next (finish s (x.handleFrame w).settle) := by
    refine (transmitComplete_runs running sending).trans ?_
    rw [owner, handled]
  have town : u.townFrame w = finish u (u.handleFrame w).settle := by
    refine townFrame_handled ?_ ?_ ?_ addressed valid
    · rw [sameU]; exact (lineFreed_load s0).trans running
    · rw [sameU]; exact (lineFreed_inbox s0).trans inbox
    · rw [sameU]; rfl
  have grow : s.MarksGrow (x.handleFrame w).settle := by
    have base : s.MarksGrow x := (State.MarksGrow.of_eq rfl : s.MarksGrow s0).trans
      ((lineFreed_marksGrow s0).trans (.of_eq rfl))
    exact (base.trans (handleFrame_marksGrow x w)).trans (SettleStep.marksGrow (settle_step _))
  refine ⟨_, runs, grow.pages, ?_⟩
  rw [town]
  have settledSame : (u.handleFrame w).settle.SameButDeposits (x.handleFrame w).settle :=
    ((markless_handleFrame w).comp markless_settle).apply (show u.SameButDeposits x by
      unfold State.SameButDeposits; rw [sameU])
  refine finish_sameButDeposits settledSame ?_
  rw [sameU]
  exact (congrArg Plant.marks plant).symm

/-- Settles O56: by whose the frame sent was. -/
theorem sentIndicationMovesItsOwner : Obligations.SentIndicationMovesItsOwner := by
  intro s f out running sending line
  have freed := s.lineFreed_frees
  have rest := s.lineFreed_rest.1
  have reporter := lineFreed_reporter s
  have isLine : ∀ {x : State}, x.link = s.lineFreed.link → s.Pages (finish s x) → line (finish s x) := by
    intro x link pages
    have sameLink : (finish s x).link = s.lineFreed.link := by rw [finish_link, link]
    refine ⟨?_, fun words pending hunts => ?_, fun keeps => ?_, pages⟩
    · rw [sameLink]; exact freed.idle
    · rw [sameLink]; exact freed.takes words pending hunts
    · rw [sameLink]; exact freed.keeps keeps
  have run := transmitComplete_runs running sending
  refine ⟨fun r owner held noWait noCycle => ?reply, fun c owner cycle slot => ?alert,
    fun r w owner held waits inbox => ⟨fun noCycle u alone => ?waiting, fun c payload cycle phase kind => ?answered⟩,
    fun c r owner cycle slot => ?ready, fun owner noCycle slot => ?disowned⟩
  case reply =>
    have heldStill : s.lineFreed.reporter.slot = .held r := by rw [reporter]; exact held
    let x := s.lineFreed.replyTaken r
    have sent : s.lineFreed.sentIndication f.owner = x := by
      rw [owner]
      refine (replySent_held heldStill).trans ?_
      unfold State.takeWaiting
      rw [show (s.lineFreed.replyTaken r).reporter.waiting = none by
        show s.lineFreed.reporter.waiting = none; rw [reporter]; exact noWait]
    have settled : x.settle = x := replyTaken_settle freed.settled (by rw [reporter]; exact noCycle) r
    rw [sent, settled] at run
    obtain ⟨quiet, pages⟩ := finish_lineFreed (X := x) out (lineFreed_plant s) rfl
    refine ⟨_, run, isLine rfl pages, ?_⟩
    refine quiet.trans ?_
    rw [finish_link]
    show { s.lineFreed.replyTaken r with deposits := (finish s x).deposits } = _
    unfold State.replyTaken
    rw [reporter, lineFreed_log, show x.link = s.lineFreed.link from rfl]
    generalize s.lineFreed.link = link at rest ⊢
    generalize (finish s x).deposits = deposits
    rw [rest]
    cases r.gap <;> rfl
  case alert =>
    have running' : s.lineFreed.reporter.cycle = some c := by rw [reporter]; exact cycle
    have noReply : ∀ q, s.reporter.slot ≠ .ready q := fun q ready => nomatch slot.symm.trans ready
    rw [owner] at run
    by_cases more : c.sends + 1 < 3
    · let x := s.lineFreed.setReporter (s.lineFreed.alertOut c)
      have sent : s.lineFreed.sentIndication .alert = x := alertSent_more running' more
      have settled : x.settle = x := alertOut_settle freed.settled (by rw [reporter]; exact noReply) c
      rw [sent, settled] at run
      obtain ⟨quiet, pages⟩ := finish_lineFreed (X := x) out (lineFreed_plant s) rfl
      have isOut : s.lineFreed.alertOut c = { s.reporter with
          counts := { s.reporter.counts with alerts := bump s.reporter.counts.alerts }
          cycle := some { sends := c.sends + 1, phase := .timing, timer := .running s.lineFreed.link.alertInterval } } := by
        unfold State.alertOut
        rw [reporter]
      refine ⟨_, run, isLine rfl pages, ?_, fun _ => ?_, fun last => absurd more (Nat.not_lt.mpr last)⟩
      · rw [finish_reporter]
        show (s.lineFreed.alertOut c).counts = _
        rw [isOut]
      · refine quiet.trans ?_
        rw [finish_link, finish_reporter]
        show { s.lineFreed with reporter := s.lineFreed.alertOut c, deposits := (finish s x).deposits } = _
        rw [show x.link = s.lineFreed.link from rfl, show x.reporter = s.lineFreed.alertOut c from rfl, isOut]
        generalize s.lineFreed.link = link at rest ⊢
        generalize (finish s x).deposits = deposits
        rw [rest]
    · have last : 3 ≤ c.sends + 1 := Nat.not_lt.mp more
      let x : State := { s.lineFreed with
        holder := discardRead s.lineFreed.holder .alert
        reporter := { s.lineFreed.alertOut c with
          readReq := (s.lineFreed.alertOut c).readReq.filter (fun x => x.2 != .alert), cycle := none } }
      have sent : s.lineFreed.sentIndication .alert = x :=
        (alertSent_last running' last).trans (endCycle_settled rfl freed.idle freed.settled)
      have settled : x.settle = x := by
        have calm : ∀ q, x.reporter.slot ≠ .ready q := by
          show ∀ q, s.lineFreed.reporter.slot ≠ .ready q
          rw [reporter]
          exact noReply
        exact (settle_eq_settleS7 calm rfl).trans (settleS7_settled (s := x) freed.settled)
      rw [sent, settled] at run
      obtain ⟨quiet, pages⟩ := finish_lineFreed (X := x) out (lineFreed_plant s) rfl
      have holder : x.holder = discardRead s.holder .alert :=
        congrArg (discardRead · .alert) (lineFreed_field State.holder (fun _ _ _ => rfl) s)
      refine ⟨_, run, isLine rfl pages, ?_, fun fewer => absurd fewer more, fun _ => ⟨⟨?_, ?_, pages⟩, ?_, ?_, ?_⟩⟩
      · rw [finish_reporter]
        show { s.lineFreed.reporter.counts with alerts := bump s.lineFreed.reporter.counts.alerts } = _
        rw [reporter]
      · refine quiet.trans ?_
        rw [finish_link, finish_reporter, finish_holder]
        show { s.lineFreed with reporter := x.reporter, holder := x.holder, deposits := (finish s x).deposits } = _
        rw [show x.link = s.lineFreed.link from rfl]
        generalize s.lineFreed.link = link at rest ⊢
        generalize (finish s x).deposits = deposits
        generalize x.reporter = reporter
        generalize x.holder = holder
        rw [rest]
      · rw [finish_holder]
        exact Or.inr holder
      · rw [finish_reporter]
      · rw [finish_reporter]
        show s.lineFreed.reporter.slot = _
        rw [reporter]
        exact slot
      · rw [finish_reporter]
        show s.lineFreed.reporter.urgent = _
        rw [reporter]
  case waiting =>
    have isTown : ∀ (g : TownFrame) (c : Instr), g.broadcast = false → frameValid g.kind g.payload = true → w = g →
        exec c u = .next (u.townFrame g) → ∀ v, exec c u = .next v →
        ∃ t, exec .transmitComplete s = .next t ∧ s.Pages t ∧ t = { v with deposits := t.deposits } := by
      intro g c addressed valid same does v gives
      obtain rfl : u.townFrame g = v := by
        have both := does.symm.trans gives
        injection both
      subst same
      exact waiting_handled out running ⟨f, sending, owner⟩ held waits inbox noCycle addressed valid alone
    intro handled
    refine ⟨fun ack addressed kind payload => ?_, fun addressed kind good => ?_, fun time addressed kind payload => ?_⟩
    · refine isTown { broadcast := false, kind := 0x01, tag := w.tag, payload := natBytes 4 ack.toNat } _ rfl
        (frameValid_poll (natBytes_length 4 _)) ?_ rfl
      rw [← addressed, ← kind, ← payload]
    · refine isTown { broadcast := false, kind := 0x02, tag := w.tag, payload := w.payload } _ rfl
        (frameValid_alarmAck good) ?_ rfl
      rw [← addressed, ← kind]
    · refine isTown { broadcast := false, kind := 0x03, tag := w.tag, payload := natBytes 4 time.toNat } _ rfl
        (frameValid_clockSet (natBytes_length 4 _)) ?_ rfl
      rw [← addressed, ← kind, ← payload]
  case answered =>
    have heldStill : s.lineFreed.reporter.slot = .held r := by rw [reporter]; exact held
    let x := (s.lineFreed.replyTaken r).setReporter { (s.lineFreed.replyTaken r).reporter with waiting := none }
    have sent : s.lineFreed.sentIndication f.owner = x.handleFrame w := by
      rw [owner]
      refine (replySent_held heldStill).trans ?_
      unfold State.takeWaiting
      rw [show (s.lineFreed.replyTaken r).reporter.waiting = some w by
        show s.lineFreed.reporter.waiting = some w; rw [reporter]; exact waits]
    obtain ⟨y, answers, link, same⟩ := handleFrame_answers x kind
    have cycleKept : x.reporter.cycle = some c := by
      show s.lineFreed.reporter.cycle = some c
      rw [reporter]
      exact cycle
    have idle : y.link.tx.isIdle = true := by
      rw [link]
      show s.lineFreed.link.tx.isIdle = true
      rw [freed.idle]
      rfl
    let a := y.idleReply w.tag
    have runs : exec .transmitComplete s = .next (finish s { y with
        link := { y.link with tx := .pending (y.link.frame .reply a.kind a.tag a.payload) }
        reporter := { y.reporter with slot := .held a } }) := by
      refine run.trans ?_
      rw [sent, answers, answerIdle_eq, handReply_settle, handReply_idle idle]
    refine ⟨_, runs, ?_, ?_, a, ?_, rfl, rfl, rfl, ?_⟩
    · rw [finish_reporter, same]
      rfl
    · rw [finish_reporter, same]
      exact cycleKept
    · rw [finish_reporter]
    · rw [finish_link]
      rfl
  case ready =>
    have running' : s.lineFreed.reporter.cycle = some c := by rw [reporter]; exact cycle
    have asked : ∀ x : State, x.link = s.lineFreed.link → x.reporter.slot = .ready r →
        (x.reporter.cycle = some { sends := c.sends + 1, phase := .timing, timer := .running x.link.alertInterval } ∨
          x.reporter.cycle = none) → x.settle = x.handReply r := by
      intro x link ready calm
      have idle : x.link.tx.isIdle = true := by rw [link, freed.idle]; rfl
      have s7 : x.settleS7 = x := settleS7_settled (by rw [link]; exact freed.settled)
      have replies : x.settleReply = x.handReply r := by
        unfold State.settleReply
        rw [ready]
        exact if_pos idle
      have settles : x.settle = (x.handReply r).settleAlert := by
        unfold State.settle
        rw [s7, replies]
      refine settles.trans ?_
      rw [handReply_idle idle]
      unfold State.settleAlert
      dsimp only
      rcases calm with timing | ended
      · rw [timing]
      · rw [ended]
    have sent := alertSent_moves running' freed.idle freed.settled
    let x := s.lineFreed.alertSent
    obtain ⟨rest', counts, cycle', slot', holder'⟩ := sent
    have link : x.link = s.lineFreed.link := by
      have same := congrArg State.link rest'
      exact same
    have ready : x.reporter.slot = .ready r := by rw [slot', reporter]; exact slot
    have idle : x.link.tx.isIdle = true := by rw [link, freed.idle]; rfl
    have settled : x.settle = x.handReply r := asked x link ready (by
      rw [cycle', link]
      split_ifs
      · exact Or.inl rfl
      · exact Or.inr rfl)
    rw [owner, show s.lineFreed.sentIndication .alert = x from rfl, settled, handReply_idle idle] at run
    let y : State := { x with
      link := { x.link with tx := .pending (x.link.frame .reply r.kind r.tag r.payload) }
      reporter := { x.reporter with slot := .held r } }
    have plant : y.plant = s.plant := by
      have same := congrArg State.plant rest'
      exact same.trans (lineFreed_plant s)
    have deposits : y.deposits = s.lineFreed.deposits := by
      have same := congrArg State.deposits rest'
      exact same
    obtain ⟨quiet, pages⟩ := finish_lineFreed (X := y) out plant deposits
    have holder : x.holder = s.holder ∨ x.holder = discardRead s.holder .alert := by
      rw [lineFreed_field State.holder (fun _ _ _ => rfl) s] at holder'
      exact holder'
    refine ⟨_, run, ?_, ?_, ?_, ?_, ⟨?_, ?_, pages⟩⟩
    · rw [finish_reporter]
    · rw [finish_link]
      rfl
    · rw [finish_reporter]
      show x.reporter.counts = _
      rw [counts, reporter]
    · rw [finish_reporter, finish_link]
      show x.reporter.cycle = _
      rw [cycle', ← link]
      rfl
    · refine quiet.trans ?_
      rw [finish_link, finish_reporter, finish_holder]
      generalize (finish s y).deposits = deposits
      show { x with link := y.link, reporter := y.reporter, deposits := deposits } =
        { s with link := y.link, reporter := y.reporter, deposits := deposits, holder := x.holder }
      generalize y.link = link
      generalize y.reporter = reporter
      have whole : x = { s.lineFreed with reporter := x.reporter, holder := x.holder } := rest'
      generalize x.holder = holder at whole ⊢
      rw [whole, rest]
    · rw [finish_holder]
      exact holder
  case disowned =>
    have sent : s.lineFreed.sentIndication f.owner = s.lineFreed := by rw [owner]; rfl
    have calm : ∀ q, s.lineFreed.reporter.slot ≠ .ready q := by
      rw [reporter]
      exact fun q ready => nomatch slot.symm.trans ready
    have settled : s.lineFreed.settle = s.lineFreed :=
      (settle_eq_settleS7 calm (by rw [reporter]; exact noCycle)).trans (settleS7_settled freed.settled)
    rw [sent, settled] at run
    obtain ⟨quiet, pages⟩ := finish_lineFreed (X := s.lineFreed) out (lineFreed_plant s) rfl
    refine ⟨_, run, isLine rfl pages, ?_⟩
    refine quiet.trans ?_
    rw [finish_link]
    generalize s.lineFreed.link = link at rest ⊢
    generalize (finish s s.lineFreed).deposits = deposits
    rw [rest]

end Sys2Proof.Machine
end

section
/-! The POLL (R161 to R163, R166): O57. -/

namespace Sys2Proof.Machine

/-! The words of the S7 in force. -/

theorem linkTimeout_congr {l m : Link} (s7 : l.s7 = m.s7) : l.linkTimeout = m.linkTimeout := by
  unfold Link.linkTimeout Link.s7N
  rw [s7]

theorem alertWait_congr {l m : Link} (s7 : l.s7 = m.s7) : l.alertWait = m.alertWait := by
  unfold Link.alertWait Link.s7N
  rw [s7]

theorem reportMask_congr {l m : Link} (s7 : l.s7 = m.s7) : l.reportMask = m.reportMask := by
  unfold Link.reportMask
  rw [s7]

/-! Entry reads no longer wanted. -/

/-- The memory port is held as it was, or its entry read is no longer wanted. -/
def Holder.Discards (h k : Holder) : Prop := k = h ∨ ∃ seq use live, h = .reader seq use live ∧ k = .reader seq use false

theorem Holder.Discards.refl (h : Holder) : h.Discards h := Or.inl rfl

theorem Holder.Discards.trans {h k l : Holder} (first : h.Discards k) (second : k.Discards l) : h.Discards l := by
  rcases first with rfl | ⟨seq, use, live, rfl, rfl⟩
  · exact second
  · rcases second with rfl | ⟨seq', use', live', same, rfl⟩
    · exact Or.inr ⟨seq, use, live, rfl, rfl⟩
    · obtain ⟨rfl, rfl, -⟩ := Holder.reader.inj same
      exact Or.inr ⟨seq, use, live, rfl, rfl⟩

theorem discardRead_discards (h : Holder) (use : ReadUse) : h.Discards (discardRead h use) := by
  cases h with
  | reader seq u live =>
    by_cases same : u = use
    · refine Or.inr ⟨seq, u, live, rfl, ?_⟩
      show Holder.reader seq u (live && u != use) = _
      rw [same, bne_self_eq_false, Bool.and_false]
    · refine Or.inl ?_
      show Holder.reader seq u (live && u != use) = _
      rw [bne_iff_ne.mpr same, Bool.and_true]
  | free => exact .refl _
  | upstream => exact .refl _
  | corrector w v => exact .refl _
  | deposit => exact .refl _
  | logWriter e => exact .refl _

theorem SettleStep.discards {s t : State} (step : s.SettleStep t) : s.holder.Discards t.holder := by
  rcases step.holder with same | discarded
  · exact Or.inl same
  · rw [discarded]; exact discardRead_discards _ _

/-! The slot cleared for an addressed frame (R161). -/

/-- The reply slot is NONE: a reply that was in it has been abandoned, and one held withdrawn. -/
structure State.SlotCleared (s x : State) : Prop where
  rest   : x = { s with
    link := x.link, deposits := x.deposits, holder := x.holder
    reporter := { s.reporter with slot := .none, readReq := x.reporter.readReq, counts := x.reporter.counts } }
  counts : x.reporter.counts = { s.reporter.counts with superseded :=
    if s.reporter.slot = .none then s.reporter.counts.superseded else bump s.reporter.counts.superseded }
  still  : (∀ r, s.reporter.slot ≠ .held r) → x.link = s.link
  freed  : ∀ r, s.reporter.slot = .held r → x.link = s.lineFreed.link
  holder : s.holder.Discards x.holder
  marks  : s.MarksGrow x

theorem abandonReply_eq (s : State) : s.abandonReply = { s with
    deposits := s.abandonReply.deposits, holder := discardRead s.holder .build
    reporter := { s.reporter with
      slot := .none, readReq := s.reporter.readReq.filter (fun x => x.2 != .build)
      counts := { s.reporter.counts with superseded := bump s.reporter.counts.superseded } } } := by
  unfold State.abandonReply
  rw [markPage_rest]
  rfl

theorem abandonReply_marksGrow (s : State) : s.MarksGrow s.abandonReply :=
  State.MarksGrow.trans (t := ((s.withdrawRead .build).setSlot .none).countReport supersede) (.of_eq rfl)
    (markPage_marksGrow _ 14)

theorem abandonReply_clears {s : State} (some : s.reporter.slot ≠ .none) (other : ∀ r, s.reporter.slot ≠ .held r) :
    s.SlotCleared s.abandonReply := by
  refine ⟨?_, ?_, fun _ => ?_, fun r held => absurd held (other r), ?_, abandonReply_marksGrow s⟩
  · rw [abandonReply_eq]
  · rw [abandonReply_eq, if_neg some]
  · rw [abandonReply_eq]
  · rw [abandonReply_eq]
    exact discardRead_discards _ _

/-- An addressed frame is handled with the slot cleared, where no reply is held that cannot be withdrawn. -/
theorem addressed_clears {s : State} (f : TownFrame)
    (free : ∀ r, s.reporter.slot = .held r → s.link.tx.withdraws .reply = true) :
    ∃ x : State, s.addressed f = x.handleFrame f ∧ s.SlotCleared x := by
  cases slot : s.reporter.slot with
  | none =>
    refine ⟨s, by unfold State.addressed; rw [slot], ?_, ?_, fun _ => rfl, fun r held => ?_, .refl _, .of_eq rfl⟩
    · rw [← slot]
    · rw [if_pos slot]
    · exact nomatch slot.symm.trans held
  | preparing b =>
    refine ⟨_, by unfold State.addressed; rw [slot], abandonReply_clears ?_ ?_⟩
    · rw [slot]; exact Slot.noConfusion
    · intro r held; exact nomatch slot.symm.trans held
  | ready r =>
    refine ⟨_, by unfold State.addressed; rw [slot], abandonReply_clears ?_ ?_⟩
    · rw [slot]; exact Slot.noConfusion
    · intro r held; exact nomatch slot.symm.trans held
  | held r =>
    have handled : s.addressed f = s.lineFreed.abandonReply.handleFrame f := by
      unfold State.addressed
      rw [slot]
      exact if_pos (free r slot)
    have reporter := lineFreed_reporter s
    have rest := s.lineFreed_rest.1
    refine ⟨_, handled, ?_, ?_, fun other => absurd slot (other r), fun _ _ => ?_, ?_,
      (lineFreed_marksGrow s).trans (abandonReply_marksGrow _)⟩
    · rw [abandonReply_eq, reporter]
      dsimp only
      generalize s.lineFreed.abandonReply.deposits = deposits
      generalize discardRead s.lineFreed.holder .build = holder
      generalize s.lineFreed.link = link at rest ⊢
      rw [rest]
    · rw [abandonReply_eq, reporter, if_neg (by rw [slot]; exact Slot.noConfusion)]
    · rw [abandonReply_eq]
    · rw [abandonReply_eq, ← lineFreed_field State.holder (fun _ _ _ => rfl) s]
      exact discardRead_discards _ _

/-! The cycle ended (R166, R169). -/

theorem settleS7_settles (s : State) : s.settleS7.link.SettledS7 := by
  cases pending : s.link.pendingS7 with
  | none =>
    rw [settleS7_none pending]
    exact Or.inl pending
  | some words =>
    cases quiet : s.link.quiet with
    | false =>
      rw [settleS7_settled (Or.inr quiet)]
      exact Or.inr quiet
    | true =>
      rw [settleS7_quiet pending quiet, applyS7_rest]
      exact Or.inl rfl

theorem settleS7_holder (s : State) : s.settleS7.holder = s.holder := by
  unfold State.settleS7
  split
  · split
    · rw [applyS7_rest]
    · rfl
  · rfl

/-- No cycle runs; the link line, the entry read and the page marks have moved as its end moves them. -/
structure State.CycleEnded (s x : State) : Prop where
  rest    : x = { s with
    link := x.link, deposits := x.deposits, holder := x.holder
    reporter := { s.reporter with readReq := x.reporter.readReq, cycle := none } }
  settled : s.link.SettledS7 → x.link.SettledS7
  holder  : s.holder.Discards x.holder
  marks   : s.MarksGrow x

theorem endCycle_ended (s : State) : s.CycleEnded s.endCycle := by
  have step := endCycle_step s
  have whole := step.rest
  cases cycle : s.reporter.cycle.isSome with
  | false =>
    have still : s.endCycle = s := if_neg (by rw [cycle]; exact Bool.false_ne_true)
    have none : s.reporter.cycle = .none := Option.not_isSome_iff_eq_none.mp (by rw [cycle]; exact Bool.false_ne_true)
    rw [still]
    exact ⟨by rw [← none], id, .refl _, .of_eq rfl⟩
  | true =>
    let y := ((s.withdrawRead .alert).setLink { (s.withdrawRead .alert).link with
      tx := (s.withdrawRead .alert).link.tx.disown }).setReporter { (s.withdrawRead .alert).reporter with cycle := none }
    have ended : s.endCycle = y.settleS7 := if_pos cycle
    have reporter : s.endCycle.reporter = { s.reporter with readReq := s.endCycle.reporter.readReq, cycle := none } := by
      rw [ended, settleS7_reporter]
      rfl
    refine ⟨?_, fun _ => ?_, SettleStep.discards step, SettleStep.marksGrow step⟩
    · refine whole.trans ?_
      have link := congrArg State.link whole
      dsimp only at link
      rw [← link]
      have slot := congrArg Reporter.slot reporter
      have urgent := congrArg Reporter.urgent reporter
      have cycle := congrArg Reporter.cycle reporter
      dsimp only at slot urgent cycle
      rw [slot, urgent, cycle]
    · rw [ended]
      exact settleS7_settles y

/-! The ack (R162, R163). -/

/-- R162: the ack is within the cursors. -/
abbrev LogUnit.InOrder (l : LogUnit) (ack : Nat) : Prop := l.w ≤ ack ∧ ack ≤ l.s

theorem ackInOrder_iff (l : LogUnit) (ack : Nat) : l.ackInOrder ack = true ↔ l.InOrder ack := by
  unfold LogUnit.ackInOrder LogUnit.InOrder
  rw [Bool.and_eq_true, decide_eq_true_eq, decide_eq_true_eq]

theorem takeAck_inOrder {s : State} {ack : Nat} (inOrder : s.log.InOrder ack) (below : s.log.o ≤ s.log.w) :
    s.takeAck true ack = { s with
      log := { s.log with w := ack }
      reporter := { s.reporter with urgent := s.reporter.urgent.filter (fun x => decide (ack ≤ x.1)) } } := by
  have moved : s.log.setW ack = { s.log with w := ack } := by
    obtain ⟨low, high⟩ := inOrder
    unfold LogUnit.setW
    rw [show min (max ack s.log.o) s.log.s = ack by omega]
  show ({ s with log := s.log.setW ack }).setReporter (s.reporter.dropUrgent (s.log.setW ack).w) = _
  rw [moved]
  rfl

theorem takeAck_disorder (s : State) (ack : Nat) : s.takeAck false ack = { s with reporter := { s.reporter with
    counts := { s.reporter.counts with disorders := bump s.reporter.counts.disorders } } } := rfl

theorem settleGap_none {s : State} (gap : s.reporter.gapRecord = none) (b : Bool) (ack : Nat) : s.settleGap b ack = s := by
  unfold State.settleGap
  rw [gap]

theorem settleGap_passed {s : State} {g next ack : Nat} (gap : s.reporter.gapRecord = some (g, next)) (passed : next ≤ ack) :
    s.settleGap true ack = { s with
      log := { s.log with tmiss := s.log.tmiss - g }
      plant := s.plant.hand 39 (decide (0 < s.log.tmiss - g))
      reporter := { s.reporter with gapRecord := none } } := by
  unfold State.settleGap
  rw [gap]
  exact if_pos (by rw [decide_eq_true passed]; rfl)

theorem settleGap_dropped {s : State} {g next ack : Nat} {b : Bool} (gap : s.reporter.gapRecord = some (g, next))
    (dropped : ¬ (b = true ∧ next ≤ ack)) :
    s.settleGap b ack = { s with reporter := { s.reporter with gapRecord := none } } := by
  unfold State.settleGap
  rw [gap]
  refine if_neg fun both => dropped ?_
  rw [Bool.and_eq_true, decide_eq_true_eq] at both
  exact both

/-- The cursors, the gap record and what the alarm unit has been handed, as an ack leaves them. -/
structure State.AckTaken (s : State) (ack : Nat) (x : State) : Prop where
  rest   : x = { s with plant := x.plant, log := x.log, reporter := x.reporter }
  log    : x.log = { s.log with w := if s.log.InOrder ack then ack else s.log.w, tmiss := x.log.tmiss }
  kept   : s.reporter.gapRecord = none → x.log.tmiss = s.log.tmiss
  gap    : ∀ g next, s.reporter.gapRecord = some (g, next) →
    x.log.tmiss = if s.log.InOrder ack ∧ next ≤ ack then s.log.tmiss - g else s.log.tmiss
  plant  : x.plant = s.plant ∨ ∃ b, x.plant = s.plant.hand 39 b
  handed : ∀ g next, s.reporter.gapRecord = some (g, next) → s.log.InOrder ack → next ≤ ack →
    x.plant = s.plant.hand 39 (decide (0 < x.log.tmiss))
  reporter : x.reporter = { s.reporter with
    gapRecord := none
    urgent := x.reporter.urgent
    counts := { s.reporter.counts with
      disorders := if s.log.InOrder ack then s.reporter.counts.disorders else bump s.reporter.counts.disorders } }
  urgent : ∀ y, y ∈ x.reporter.urgent ↔ y ∈ s.reporter.urgent ∧ (s.log.InOrder ack → ack ≤ y.1)

/-- The settling of the gap record after the cursors have moved. -/
theorem settleGap_taken {s m : State} {ack : Nat} {b : Bool} (judged : b = true ↔ s.log.InOrder ack)
    (rest : m = { s with log := m.log, reporter := m.reporter })
    (log : m.log = { s.log with w := if s.log.InOrder ack then ack else s.log.w })
    (reporter : m.reporter = { s.reporter with
      urgent := m.reporter.urgent
      counts := { s.reporter.counts with
        disorders := if s.log.InOrder ack then s.reporter.counts.disorders else bump s.reporter.counts.disorders } })
    (urgent : ∀ y, y ∈ m.reporter.urgent ↔ y ∈ s.reporter.urgent ∧ (s.log.InOrder ack → ack ≤ y.1)) :
    s.AckTaken ack (m.settleGap b ack) := by
  have record : m.reporter.gapRecord = s.reporter.gapRecord := by rw [reporter]
  have plant : m.plant = s.plant := by rw [rest]
  have missed : m.log.tmiss = s.log.tmiss := by rw [log]
  cases gap : s.reporter.gapRecord with
  | none =>
    rw [settleGap_none (record.trans gap)]
    refine ⟨?_, ?_, fun _ => missed, fun g next same => (nomatch gap.symm.trans same), Or.inl plant,
      fun g next same => (nomatch gap.symm.trans same), ?_, urgent⟩
    · rw [plant]; exact rest
    · rw [missed]; exact log
    · rw [← gap]; exact reporter
  | some r =>
    obtain ⟨g, next⟩ := r
    by_cases passed : b = true ∧ next ≤ ack
    · obtain ⟨rfl, passed⟩ := passed
      have inOrder : s.log.InOrder ack := judged.mp rfl
      rw [settleGap_passed (record.trans gap) passed]
      refine ⟨?_, ?_, fun absent => (nomatch gap.symm.trans absent), fun g' next' same => ?_, Or.inr ⟨decide (0 < s.log.tmiss - g), ?_⟩,
        fun g' next' _ _ _ => ?_, ?_, urgent⟩
      · rw [rest]
      · dsimp only
        rw [log]
      · obtain ⟨rfl, rfl⟩ := Prod.mk.inj (Option.some.inj (gap.symm.trans same))
        rw [if_pos ⟨inOrder, passed⟩, missed]
      · rw [plant, missed]
      · rw [plant]
      · dsimp only
        rw [reporter]
    · rw [settleGap_dropped (record.trans gap) passed]
      have outside : ¬ (s.log.InOrder ack ∧ next ≤ ack) := fun both => passed ⟨judged.mpr both.1, both.2⟩
      refine ⟨?_, ?_, fun absent => (nomatch gap.symm.trans absent), fun g' next' same => ?_, Or.inl plant,
        fun g' next' same inOrder before => ?_, ?_, urgent⟩
      · rw [rest]
      · dsimp only
        rw [missed]
        exact log
      · obtain ⟨rfl, rfl⟩ := Prod.mk.inj (Option.some.inj (gap.symm.trans same))
        rw [if_neg outside]
        exact missed
      · obtain ⟨rfl, rfl⟩ := Prod.mk.inj (Option.some.inj (gap.symm.trans same))
        exact absurd ⟨inOrder, before⟩ outside
      · dsimp only
        rw [reporter]

theorem ackTaken_taken {s : State} {ack : Nat} (below : s.log.o ≤ s.log.w) : s.AckTaken ack (s.ackTaken ack) := by
  unfold State.ackTaken
  refine settleGap_taken (ackInOrder_iff _ _) ?_ ?_ ?_ ?_
  all_goals by_cases inOrder : s.log.InOrder ack
  · rw [(ackInOrder_iff _ _).mpr inOrder, takeAck_inOrder inOrder below]
  · rw [Bool.eq_false_iff.mpr (fun h => inOrder ((ackInOrder_iff _ _).mp h)), takeAck_disorder]
  · rw [(ackInOrder_iff _ _).mpr inOrder, takeAck_inOrder inOrder below, if_pos inOrder]
  · rw [Bool.eq_false_iff.mpr (fun h => inOrder ((ackInOrder_iff _ _).mp h)), takeAck_disorder, if_neg inOrder]
  · rw [(ackInOrder_iff _ _).mpr inOrder, takeAck_inOrder inOrder below, if_pos inOrder]
  · rw [Bool.eq_false_iff.mpr (fun h => inOrder ((ackInOrder_iff _ _).mp h)), takeAck_disorder, if_neg inOrder]
  · intro y
    rw [(ackInOrder_iff _ _).mpr inOrder, takeAck_inOrder inOrder below]
    dsimp only
    rw [List.mem_filter, decide_eq_true_eq]
    exact ⟨fun ⟨mem, high⟩ => ⟨mem, fun _ => high⟩, fun ⟨mem, high⟩ => ⟨mem, high inOrder⟩⟩
  · intro y
    rw [Bool.eq_false_iff.mpr (fun h => inOrder ((ackInOrder_iff _ _).mp h)), takeAck_disorder]
    exact ⟨fun mem => ⟨mem, fun h => absurd h inOrder⟩, fun ⟨mem, _⟩ => mem⟩

/-! The build begun (R164). -/

/-- A build has started from W, and what was then to be settled is settled: it asks for its first entry, or its reply has
been asked for. -/
structure State.BuildStarted (x : State) (tag : Byte) (mask : Word) (y : State) : Prop where
  rest    : y = { x with
    link := y.link, deposits := y.deposits
    reporter := { x.reporter with
      slot := y.reporter.slot, readReq := y.reporter.readReq
      urgent := x.reporter.urgent.filter (fun u => decide (x.log.o ≤ u.1)) } }
  marks   : x.MarksGrow y
  builds  : x.log.w < x.log.t → y.reporter.slot = .preparing (x.firstBuild tag mask) ∧
    y.reporter.readReq = some (x.log.w, .build) ∧ (x.link.SettledS7 → y.link = x.link)
  replies : x.log.t ≤ x.log.w → ∃ r, (y.reporter.slot = .held r ∨ y.reporter.slot = .ready r) ∧
    r = x.buildReply (x.firstBuild tag mask)

theorem firstBuild_done_iff (x : State) (tag : Byte) (mask : Word) :
    (3 ≤ (x.firstBuild tag mask).items.length ∨ x.log.t ≤ (x.firstBuild tag mask).next ∨
      32 ≤ (x.firstBuild tag mask).examined) ↔ x.log.t ≤ x.log.w := by
  have few : (x.firstBuild tag mask).items.length ≤ 1 := by
    show (if x.log.tmiss = 0 then [] else [gapItem x.log.tmiss]).length ≤ 1
    split
    · exact Nat.zero_le _
    · exact Nat.le_refl _
  show _ ∨ x.log.t ≤ x.log.w ∨ 32 ≤ 0 ↔ _
  omega

theorem startBuild_started {x : State} (cycle : x.reporter.cycle = none) (tag : Byte) (mask : Word) :
    x.BuildStarted tag mask (x.startBuild tag mask).settle := by
  rw [startBuild_eq]
  let b := x.firstBuild tag mask
  have marks : x.MarksGrow (x.pruneUrgent.goOnBuild b).settle :=
    (SettleStep.marksGrow (pruneUrgent_step x)).trans
      ((SettleStep.marksGrow (goOnBuild_step _ b)).trans (SettleStep.marksGrow (settle_step _)))
  by_cases done : x.log.t ≤ x.log.w
  · have replied : (x.pruneUrgent.goOnBuild b).settle = x.pruneUrgent.handReply (x.buildReply b) := by
      rw [goOnBuild_done (s := x.pruneUrgent) ((firstBuild_done_iff x tag mask).mpr done)]
      exact handReply_settle _ _
    refine ⟨?_, marks, fun more => absurd done (Nat.not_le.mpr more), fun _ => ⟨_, ?_, rfl⟩⟩
    · rw [replied]
      cases idle : x.pruneUrgent.link.tx.isIdle with
      | true => rw [handReply_idle idle]; rfl
      | false => rw [handReply_busy idle]; rfl
    · rw [replied]
      cases idle : x.pruneUrgent.link.tx.isIdle with
      | true => rw [handReply_idle idle]; exact Or.inl rfl
      | false => rw [handReply_busy idle]; exact Or.inr rfl
  · let z : State := { x.pruneUrgent with
      reporter := { x.pruneUrgent.reporter with slot := .preparing b, readReq := some (b.next, .build) } }
    have goesOn : (x.pruneUrgent.goOnBuild b).settle = z.settleS7 := by
      rw [goOnBuild_more (s := x.pruneUrgent) (fun stop => done ((firstBuild_done_iff x tag mask).mp stop))]
      exact settle_eq_settleS7 (s := z) (fun r ready => nomatch (show Slot.preparing b = Slot.ready r from ready)) cycle
    have reporter : z.settleS7.reporter = z.reporter := settleS7_reporter z
    refine ⟨?_, marks, fun _ => ⟨?_, ?_, fun settled => ?_⟩, fun none => absurd none done⟩
    · rw [goesOn]
      have whole := (settleS7_step z).rest
      have holder : z.settleS7.holder = z.holder := settleS7_holder z
      rw [holder] at whole
      have link := congrArg State.link whole
      dsimp only at link
      refine whole.trans ?_
      rw [← link, reporter]
      rfl
    · rw [goesOn, reporter]
    · rw [goesOn, reporter]; rfl
    · rw [goesOn, settleS7_settled (s := z) settled]; rfl

/-! The whole event. -/

/-- Only the plant, the log, the link line, the reporter, the page marks and the entry read under way have moved. -/
def State.LinkAlone (s t : State) : Prop := t = { s with
  plant := t.plant, log := t.log, link := t.link, reporter := t.reporter, deposits := t.deposits, holder := t.holder }

theorem State.LinkAlone.trans {s t u : State} (first : s.LinkAlone t) (second : t.LinkAlone u) : s.LinkAlone u := by
  unfold State.LinkAlone at first second ⊢
  rw [first] at second
  exact second

theorem finish_linkAlone (s t : State) : t.LinkAlone (finish s t) := by
  unfold State.LinkAlone
  rw [finish_link, finish_reporter, finish_holder]
  exact finish_rest s t

theorem State.SlotCleared.alone {s x : State} (cleared : s.SlotCleared x) : s.LinkAlone x := by
  unfold State.LinkAlone
  rw [cleared.rest]

theorem State.CycleEnded.alone {s x : State} (ended : s.CycleEnded x) : s.LinkAlone x := by
  unfold State.LinkAlone
  rw [ended.rest]

theorem State.AckTaken.alone {s x : State} {ack : Nat} (taken : s.AckTaken ack x) : s.LinkAlone x := by
  unfold State.LinkAlone
  rw [taken.rest]

theorem State.BuildStarted.alone {s x : State} {tag : Byte} {mask : Word} (started : s.BuildStarted tag mask x) :
    s.LinkAlone x := by
  unfold State.LinkAlone
  rw [started.rest]

theorem append_w (l : LogUnit) (c : Clock) (d : Draft) : (l.append c d).w = l.w := by
  unfold LogUnit.append
  split <;> rfl

theorem foldl_append_w (c : Clock) (entries : List Draft) (l : LogUnit) :
    (entries.foldl (fun l d => l.append c d) l).w = l.w := by
  induction entries generalizing l with
  | nil => rfl
  | cons d rest ih => exact (ih _).trans (append_w l c d)

theorem popInbox_eq (s : State) (f : TownFrame) : ∃ inbox, s.popInbox f = s.setLink { s.link with inbox := inbox } := by
  unfold State.popInbox
  split
  · exact ⟨_, rfl⟩
  · exact ⟨s.link.inbox, rfl⟩

/-- At the end of an event the plant's alarms and their lines alone have moved, where they alone moved in it. -/
theorem finish_alarmsMoved {s y : State} (out : s.plant.out = []) (moved : s.plant.AlarmsMoved y.plant) :
    (finish s y).plant = { s.plant with
      alarms := (finish s y).plant.alarms, lines := (finish s y).plant.lines } := by
  unfold Plant.AlarmsMoved at moved
  rw [finish_plant]
  generalize y.plant = p at moved ⊢
  generalize p.alarms = alarms at moved ⊢
  generalize p.lines = lines at moved ⊢
  rw [moved]
  simp only [← out]

/-- An addressed good frame reaches the reporter. -/
theorem townFrame_addressed {s : State} {f : TownFrame} (running : s.load = .none) (addressed : f.broadcast = false)
    (valid : frameValid f.kind f.payload = true) :
    s.townFrame f = finish s ((s.popInbox f).addressed f).settle := by
  have taken : frameTaken f.broadcast f.kind f.payload = true := by
    unfold frameTaken
    rw [valid, addressed]
    rfl
  have judged : (s.popInbox f).judgeFrame f = (s.popInbox f).addressed f := by
    unfold State.judgeFrame
    rw [taken, addressed]
    rfl
  unfold State.townFrame
  rw [linkEvent_runs running, judged]

/-- The reporter of a POLL handled, of the slot cleared and of the ack taken. -/
theorem polled_reporter {s x1 x4 y : State} {tag : Byte} {mask : Word} {ack : Nat} (cleared : s.SlotCleared x1)
    (acked : x1.linkUp.endCycle.AckTaken ack x4) (started : x4.BuildStarted tag mask y) :
    y.reporter = { s.reporter with
      linkUp := true, linkTimer := .running x1.link.linkTimeout, pollTimer := .running x1.link.alertWait
      slot := y.reporter.slot, readReq := y.reporter.readReq, gapRecord := none, cycle := none
      urgent := x4.reporter.urgent.filter (fun u => decide (x4.log.o ≤ u.1))
      counts := { s.reporter.counts with
        polls := bump s.reporter.counts.polls
        disorders := if x1.linkUp.endCycle.log.InOrder ack then s.reporter.counts.disorders
          else bump s.reporter.counts.disorders
        superseded := if s.reporter.slot = .none then s.reporter.counts.superseded
          else bump s.reporter.counts.superseded } } := by
  have started' := congrArg State.reporter started.rest
  have ended' := congrArg State.reporter (endCycle_ended x1.linkUp).rest
  have cleared' := congrArg State.reporter cleared.rest
  dsimp only at started' ended' cleared'
  have linked : x1.linkUp.reporter = { x1.reporter with
      linkUp := true, linkTimer := .running x1.link.linkTimeout, pollTimer := .running x1.link.alertWait
      counts := { x1.reporter.counts with polls := bump x1.reporter.counts.polls } } := rfl
  refine started'.trans ?_
  rw [acked.reporter]
  dsimp only
  rw [ended', linked]
  dsimp only
  rw [cleared', cleared.counts]

/-- What a POLL handled leaves of the rest of the state: the log, the plant and who holds the memory port. -/
theorem polled_rest {s x1 x4 y : State} {tag : Byte} {mask : Word} {ack : Nat} (cleared : s.SlotCleared x1)
    (acked : x1.linkUp.endCycle.AckTaken ack x4) (started : x4.BuildStarted tag mask y) :
    x1.linkUp.endCycle.log = s.log ∧ x1.linkUp.endCycle.plant = s.plant.hand 38 false ∧
      x1.linkUp.endCycle.reporter.gapRecord = s.reporter.gapRecord ∧
      x1.linkUp.endCycle.reporter.urgent = s.reporter.urgent ∧
      y.log = x4.log ∧ y.plant = x4.plant ∧ s.holder.Discards y.holder := by
  have ended := endCycle_ended x1.linkUp
  refine ⟨?_, ?_, ?_, ?_, ?_, ?_, ?_⟩
  · rw [ended.rest]
    show x1.log = s.log
    rw [cleared.rest]
  · rw [ended.rest]
    show x1.plant.hand 38 false = _
    rw [cleared.rest]
  · rw [ended.rest]
    show x1.reporter.gapRecord = _
    rw [cleared.rest]
  · rw [ended.rest]
    show x1.reporter.urgent = _
    rw [cleared.rest]
  · rw [started.rest]
  · rw [started.rest]
  · have last : y.holder = x1.linkUp.endCycle.holder := by rw [started.rest, acked.rest]
    rw [last]
    exact cleared.holder.trans ended.holder

/-- Nothing is left of S7 to settle where nothing was. -/
theorem polled_settled {s x1 x4 : State} {ack : Nat} (cleared : s.SlotCleared x1)
    (acked : x1.linkUp.endCycle.AckTaken ack x4) (settled : s.link.SettledS7) : x4.link.SettledS7 := by
  have first : x1.link.SettledS7 := by
    by_cases held : ∃ r, s.reporter.slot = .held r
    · obtain ⟨r, held⟩ := held
      rw [cleared.freed r held]
      exact s.lineFreed_frees.settled
    · rw [cleared.still fun r slot => held ⟨r, slot⟩]
      exact settled
  have link : x4.link = x1.linkUp.endCycle.link := by rw [acked.rest]
  rw [link]
  exact (endCycle_ended x1.linkUp).settled first

theorem polled_alone {s x1 x4 y : State} {tag : Byte} {mask : Word} {ack : Nat} (cleared : s.SlotCleared x1)
    (acked : x1.linkUp.endCycle.AckTaken ack x4) (started : x4.BuildStarted tag mask y) : s.LinkAlone y := by
  have linked : x1.LinkAlone x1.linkUp := rfl
  exact (((cleared.alone.trans linked).trans (endCycle_ended x1.linkUp).alone).trans acked.alone).trans started.alone

/-- The plant of a POLL handled: LINK_LOST has been handed INACTIVE, and LOG_OVERRUN where the gap record was settled. -/
theorem polled_plant {s x1 x4 y : State} {tag : Byte} {mask : Word} {ack : Nat} (cleared : s.SlotCleared x1)
    (acked : x1.linkUp.endCycle.AckTaken ack x4) (started : x4.BuildStarted tag mask y)
    (running : s.plant.loading = false) :
    s.plant.AlarmsMoved y.plant ∧ s.plant.Kept y.plant ∧ (y.plant.alarms.points.get 38).condition = false ∧
      ∀ g next, s.reporter.gapRecord = some (g, next) → s.log.InOrder ack → next ≤ ack →
        (y.plant.alarms.points.get 39).condition = decide (0 < y.log.tmiss) := by
  obtain ⟨log, plant, gap, -, sameLog, samePlant, -⟩ := polled_rest cleared acked started
  have moved := s.plant.hand_moved 38 false
  have kept := s.plant.hand_kept 38 false
  have handedLoading : (s.plant.hand 38 false).loading = false := kept.loading.trans running
  have condition := Plant.hand_condition running 38 false
  have takenPlant := acked.plant
  rw [plant] at takenPlant
  rw [samePlant, sameLog]
  refine ⟨?_, ?_, ?_, fun g next record inOrder passed => ?_⟩
  · rcases takenPlant with same | ⟨b, handed⟩
    · rw [same]; exact moved
    · rw [handed]; exact moved.trans (Plant.hand_moved _ _ _)
  · rcases takenPlant with same | ⟨b, handed⟩
    · rw [same]; exact kept
    · rw [handed]; exact kept.trans (Plant.hand_kept _ _ _)
  · rcases takenPlant with same | ⟨b, handed⟩
    · rw [same]; exact condition
    · rw [handed, Plant.hand_point_ne _ (by decide)]; exact condition
  · have handed := acked.handed g next (gap.trans record) (by rw [log]; exact inOrder) passed
    rw [plant] at handed
    rw [handed]
    exact Plant.hand_condition handedLoading 39 _

/-- The timers of S7 that a POLL restarts are those in force when it is handled. -/
theorem cleared_s7 {s x : State} {f : TownFrame} (cleared : (s.popInbox f).SlotCleared x) :
    ((∀ r, s.reporter.slot ≠ .held r) → x.link.s7 = s.link.s7) ∧
    (∀ r, s.reporter.slot = .held r →
      (∀ words, s.link.pendingS7 = some words → s.link.rx.state = .hunt → x.link.s7 = words) ∧
      (s.link.pendingS7 = none ∨ s.link.rx.state ≠ .hunt → x.link.s7 = s.link.s7)) := by
  obtain ⟨inbox, popped⟩ := popInbox_eq s f
  rw [popped] at cleared
  refine ⟨fun other => ?_, fun r held => ⟨fun words pending hunts => ?_, fun keeps => ?_⟩⟩
  · rw [cleared.still other]
    rfl
  · have frees := State.lineFreed_frees (s.setLink { s.link with inbox := inbox })
    exact congrArg Link.s7 ((cleared.freed r held).trans (frees.takes words pending hunts))
  · have frees := State.lineFreed_frees (s.setLink { s.link with inbox := inbox })
    have link := congrArg Link.s7 ((cleared.freed r held).trans (frees.keeps keeps))
    exact link

/-- A POLL held back: it waits, and what was to be settled is settled. -/
theorem holdFrame_reporter (s : State) (f : TownFrame) : s.holdFrame f = { s with reporter := { s.reporter with
    waiting := some f
    counts := { s.reporter.counts with superseded :=
      if s.reporter.waiting = none then s.reporter.counts.superseded else bump s.reporter.counts.superseded } } } := by
  unfold State.holdFrame
  cases s.reporter.waiting with
  | none => rfl
  | some g => rfl

theorem settleAlert_slot (s : State) : s.settleAlert.reporter.slot = s.reporter.slot := by
  have sends : s.makeSend.reporter.slot = s.reporter.slot := by
    unfold State.makeSend
    dsimp only
    split
    · rfl
    · rw [(endCycle_ended _).rest]
      rfl
  have hands (payload : List Byte) : (s.handAlert payload).reporter.slot = s.reporter.slot := by
    cases idle : s.link.tx.isIdle with
    | true => rw [handAlert_idle idle]
    | false => rw [handAlert_busy idle]
  unfold State.settleAlert
  split
  · rfl
  · split
    · split
      · exact hands _
      · rfl
    · split
      · exact sends
      · rfl
    all_goals rfl

/-- A reply in READY alone leaves the slot when an event is settled. -/
theorem settle_slot {s : State} (rest : ∀ r, s.reporter.slot ≠ .ready r) : s.settle.reporter.slot = s.reporter.slot := by
  have reporter := settleS7_reporter s
  unfold State.settle
  rw [settleAlert_slot, settleReply_rest (by rw [reporter]; exact rest), reporter]

/-- The end of an event that has moved the link line and the reporter and no more, then settled. -/
theorem settled_linkStep {s z : State} (out : s.plant.out = []) (moved : z = { s with link := z.link, reporter := z.reporter }) :
    s.LinkStep (finish s z.settle) := by
  have step := settle_step z
  have plant : z.settle.plant = s.plant := by rw [step.rest, moved]
  have deposits : z.deposits = s.deposits := by rw [moved]
  have holder : z.holder = s.holder := by rw [moved]
  have quiet := finish_quiet (s := s) (u := z.settle) (by rw [plant]; exact out) (by rw [plant])
  refine ⟨?_, ?_, finish_pages _ _ (step.gen.trans ?_) (step.scan.trans ?_) fun i dirty => step.kept i ?_⟩
  · refine quiet.trans ?_
    rw [finish_link, finish_reporter, finish_holder]
    have whole : z.settle = { s with
        link := z.settle.link, reporter := z.settle.reporter, deposits := z.settle.deposits, holder := z.settle.holder } := by
      have link := congrArg State.link step.rest
      have reporter := congrArg State.reporter step.rest
      dsimp only at link reporter
      refine step.rest.trans ?_
      rw [← link, ← reporter]
      generalize z.settle.link = l
      generalize z.settle.reporter = r
      rw [moved]
    generalize z.settle.link = link at whole ⊢
    generalize z.settle.reporter = reporter at whole ⊢
    generalize z.settle.holder = holder at whole ⊢
    rw [whole]
  · rw [finish_holder, ← holder]
    exact step.holder
  · rw [deposits]
  · rw [deposits]
  · rw [deposits]; exact dirty

theorem bytesNat_natBytes (k : Nat) : ∀ n, n < 256 ^ k → bytesNat (natBytes k n) = n := by
  induction k with
  | zero => intro n small; exact (Nat.lt_one_iff.mp small).symm
  | succ k ih =>
    intro n small
    show (BitVec.ofNat 8 n).toNat + 256 * bytesNat (natBytes k (n / 256)) = n
    rw [ih (n / 256) (Nat.div_lt_of_lt_mul (by rw [Nat.mul_comm, ← Nat.pow_succ]; exact small)), BitVec.toNat_ofNat]
    exact Nat.mod_add_div n 256

/-- Settles O57: the stages of a POLL handled, and the POLL that waits. -/
theorem pollMovesCursorsAndBuildsReport : Obligations.PollMovesCursorsAndBuildsReport := by
  intro s tag ack out running outside
  let f : TownFrame := { broadcast := false, kind := 0x01, tag := tag, payload := natBytes 4 ack.toNat }
  have run : exec (.poll tag ack) s = .next (finish s ((s.popInbox f).addressed f).settle) :=
    congrArg Host.Outcome.next (townFrame_addressed running rfl (frameValid_poll (natBytes_length 4 _)))
  obtain ⟨inbox, popped⟩ := popInbox_eq s f
  refine ⟨fun free below => ?handled, fun r held busy => ?waits⟩
  case handled =>
    have free' : ∀ r, (s.popInbox f).reporter.slot = .held r → (s.popInbox f).link.tx.withdraws .reply = true := by
      rw [popped]
      exact free
    obtain ⟨x1, clears, cleared⟩ := addressed_clears f free'
    obtain ⟨newly, heldS7⟩ := cleared_s7 cleared
    rw [popped] at cleared
    let s' := s.setLink { s.link with inbox := inbox }
    have log1 : x1.linkUp.endCycle.log = s.log := by
      rw [(endCycle_ended _).rest]
      show x1.log = s.log
      rw [cleared.rest]
      rfl
    have acked : x1.linkUp.endCycle.AckTaken ack.toNat _ := ackTaken_taken (by rw [log1]; exact below)
    have polls : (s.popInbox f).addressed f =
        (fun x : State => x.startBuild tag x.link.reportMask) (x1.linkUp.endCycle.ackTaken ack.toNat) := by
      rw [clears]
      show x1.handlePoll tag (bytesNat (natBytes 4 ack.toNat)) = _
      rw [bytesNat_natBytes 4 ack.toNat ack.isLt, handlePoll_eq]
    generalize x1.linkUp.endCycle.ackTaken ack.toNat = x4 at acked polls
    have cycle : x4.reporter.cycle = none := by
      have same := congrArg Reporter.cycle acked.reporter
      exact same.trans (endCycle_cycle _)
    have started := startBuild_started cycle tag x4.link.reportMask
    rw [polls] at run
    dsimp only at run
    generalize (x4.startBuild tag x4.link.reportMask).settle = y at run started
    have reporter := polled_reporter cleared acked started
    obtain ⟨-, plant1, gap1, urgent1, sameLog, samePlant, holder⟩ := polled_rest cleared acked started
    obtain ⟨moved, kept, lost, overrun⟩ := polled_plant cleared acked started outside
    have alone : s.LinkAlone y := State.LinkAlone.trans (t := s') rfl (polled_alone cleared acked started)
    have clock : y.plant.clock = s.plant.clock := by rw [moved]; rfl
    have log : (finish s y).log = y.plant.out.foldl (fun l d => l.append s.plant.clock d) x4.log := by
      rw [finish_log, clock, sameLog]
    have missed : (finish s y).log.tmiss = x4.log.tmiss := by rw [log, foldl_append_missed]
    have w : (finish s y).log.w = x4.log.w := by rw [log, foldl_append_w]
    have log4 : x4.log = { s.log with
        w := if s.log.InOrder ack.toNat then ack.toNat else s.log.w, tmiss := x4.log.tmiss } := by
      refine acked.log.trans ?_
      rw [log1]
    have t4 : x4.log.t = s.log.t := by rw [log4]
    refine ⟨_, run, ?_⟩
    intro inOrder gap held inForce
    have held_iff : held = true ↔ ∃ r, s.reporter.slot = .held r := by
      show _ ↔ _
      cases slot : s.reporter.slot <;> simp [held, slot]
    have timers : x1.link.s7 = inForce.s7 := by
      by_cases taken : ∃ r, s.reporter.slot = .held r
      · obtain ⟨r, slot⟩ := taken
        obtain ⟨takes, keeps⟩ := heldS7 r slot
        cases pending : s.link.pendingS7 with
        | none => simp only [inForce, pending]; exact keeps (Or.inl pending)
        | some words =>
          by_cases hunts : s.link.rx.state = .hunt
          · simp only [inForce, pending]
            rw [if_pos ⟨held_iff.mpr ⟨r, slot⟩, hunts⟩]
            exact takes words pending hunts
          · simp only [inForce, pending]
            rw [if_neg fun both => hunts both.2]
            exact keeps (Or.inr hunts)
      · have same := newly fun r slot => taken ⟨r, slot⟩
        cases pending : s.link.pendingS7 with
        | none => simp only [inForce, pending]; exact same
        | some words =>
          simp only [inForce, pending]
          rw [if_neg fun both => taken (held_iff.mp both.1)]
          exact same
    have plant : (finish s y).plant = { s.plant with
        alarms := (finish s y).plant.alarms, lines := (finish s y).plant.lines } := finish_alarmsMoved out moved
    refine ⟨?_, ?_, ?_, ?_, ?_, ?_, ?_, ⟨y.plant.out, ?_⟩, ?_, ?_, plant, ?_, ?_, ?_, ?_, ?_, ?_⟩
    · rw [finish_reporter, reporter]
    · rw [finish_reporter, reporter]
      exact congrArg Timer.running (linkTimeout_congr timers)
    · rw [finish_reporter, reporter]
      exact congrArg Timer.running (alertWait_congr timers)
    · rw [finish_reporter, reporter]
    · rw [finish_reporter, reporter]
    · rw [finish_reporter, reporter]
      rfl
    · rw [finish_reporter, reporter, log1]
      rfl
    · rw [log, log4]
      cases record : s.reporter.gapRecord with
      | none => rw [acked.kept (gap1.trans record), log1]
      | some r =>
        obtain ⟨g, next⟩ := r
        have tmiss := acked.gap g next (gap1.trans record)
        rw [log1] at tmiss
        rw [tmiss]
    · rw [finish_plant]
      exact lost
    · intro g next record order passed
      rw [finish_plant, missed, ← sameLog]
      exact overrun g next record order passed
    · rw [finish_plant]
      exact (Plant.Kept.emptied kept).1
    · intro u
      rw [finish_reporter, reporter]
      dsimp only
      rw [List.mem_filter, decide_eq_true_eq, acked.urgent, urgent1, log1]
      have o : x4.log.o = s.log.o := by rw [acked.log, log1]
      rw [o]
      exact ⟨fun ⟨⟨mem, high⟩, kept⟩ => ⟨mem, kept, high⟩, fun ⟨mem, kept, high⟩ => ⟨⟨mem, high⟩, kept⟩⟩
    · intro more
      obtain ⟨slot, readReq, sameLink⟩ := started.builds (by rw [t4, ← w]; exact more)
      refine ⟨⟨x4.firstBuild tag x4.link.reportMask, ?_, ?_, fun settled => ?_⟩, ?_⟩
      · rw [finish_reporter]
        exact slot
      · rw [w]
        simp only [gap, missed]
        unfold State.firstBuild
        by_cases full : x4.log.tmiss = 0
        · rw [if_pos full, if_pos full]
        · rw [if_neg full, if_neg full]
      · rw [finish_link, sameLink (polled_settled cleared acked settled)]
        rfl
      · rw [finish_reporter, w]
        exact readReq
    · intro done
      obtain ⟨r, asked, reply⟩ := started.replies (by rw [t4, ← w]; exact done)
      refine ⟨r, ?_, ?_, ?_, ?_, ?_, ?_⟩
      · rw [finish_reporter]
        exact asked
      all_goals rw [reply, buildReply_eq]
      · rw [missed]
        refine if_congr ?_ rfl rfl
        show (if x4.log.tmiss = 0 then [] else [gapItem x4.log.tmiss]) = [] ↔ _
        split
        case isTrue full => exact iff_of_true rfl full
        case isFalse some => exact iff_of_false (List.cons_ne_nil _ _) some
      · rfl
      · rw [w]
        rfl
      · simp only [gap, missed]
        rfl
    · exact alone.trans (finish_linkAlone s y)
    · rw [finish_holder]
      exact holder
  case waits =>
    have held' : (s.popInbox f).addressed f = (s.popInbox f).holdFrame f := by
      rw [popped]
      unfold State.addressed
      rw [show (s.setLink { s.link with inbox := inbox }).reporter.slot = .held r from held]
      exact if_neg (fun free => Bool.false_ne_true (busy.symm.trans free))
    let z := (s.popInbox f).holdFrame f
    have parts : z = { s with link := { s.link with inbox := inbox }, reporter := { s.reporter with
        waiting := some f
        counts := { s.reporter.counts with superseded :=
          if s.reporter.waiting = none then s.reporter.counts.superseded else bump s.reporter.counts.superseded } } } := by
      show (s.popInbox f).holdFrame f = _
      rw [holdFrame_reporter, popped]
      rfl
    have moved : z = { s with link := z.link, reporter := z.reporter } := by rw [parts]
    have slot : z.reporter.slot = .held r := by rw [parts]; exact held
    have still := settle_slot (s := z) fun q ready => nomatch slot.symm.trans ready
    have step := (settle_step z).rest
    rw [held'] at run
    refine ⟨_, run, settled_linkStep out moved, ?_, ?_, ?_, ?_⟩
    · rw [finish_reporter, still]
      exact slot
    · rw [finish_reporter, step, parts]
    · rw [finish_reporter, step, parts]
    · rw [finish_reporter, step, parts]

end Sys2Proof.Machine
end

section
/-! ALARM_ACK, CLOCK_SET and rejected frames (R15, R160, R161, R165): O58. -/

namespace Sys2Proof.Machine

/-! The points that the town acknowledges. -/

theorem PointState.acked_acked (x : PointState) : x.acked.acked = x.acked := by cases x <;> rfl

theorem Plant.ackStep_moved (p : Plant) (town : Bool) (k : Fin 40) : p.AlarmsMoved (p.ackStep town k) := by
  cases unacked : p.pointUnacked k with
  | true => rw [Plant.ackStep_unacked unacked]; rfl
  | false => rw [Plant.ackStep_rest unacked]; rfl

theorem Plant.ackStep_point (p : Plant) (town : Bool) (k j : Fin 40) :
    (p.ackStep town k).alarms.points.get j = if j = k then
      { p.alarms.points.get j with state := (p.alarms.points.get j).state.acked } else p.alarms.points.get j := by
  cases unacked : p.pointUnacked k with
  | true =>
    rw [Plant.ackStep_unacked unacked]
    split
    case isTrue same => rw [same]; exact vset_get_same _ _ _
    case isFalse other => exact vset_get_ne _ _ (Ne.symm other)
  | false =>
    rw [Plant.ackStep_rest unacked]
    split
    case isTrue same => rw [same, PointState.acked_of_not_unacked unacked]
    case isFalse => rfl

/-- Acknowledging points, one of them more than once it may be, acknowledges each. -/
theorem Plant.ackSteps_point (town : Bool) (ks : List (Fin 40)) (j : Fin 40) : ∀ p : Plant,
    (ks.foldl (fun q k => q.ackStep town k) p).alarms.points.get j = if j ∈ ks then
      { p.alarms.points.get j with state := (p.alarms.points.get j).state.acked } else p.alarms.points.get j := by
  induction ks with
  | nil => intro p; exact (if_neg List.not_mem_nil).symm
  | cons k ks ih =>
    intro p
    rw [List.foldl_cons, ih, Plant.ackStep_point]
    by_cases same : j = k
    · rw [if_pos same, if_pos (List.mem_cons.mpr (Or.inl same))]
      split
      · dsimp only; rw [PointState.acked_acked]
      · rfl
    · rw [if_neg same]
      refine if_congr ?_ rfl rfl
      rw [List.mem_cons]
      exact ⟨Or.inr, fun mem => mem.resolve_left same⟩

theorem Plant.acknowledge_point (p : Plant) (town : Bool) (ks : List (Fin 40)) (j : Fin 40) :
    (p.acknowledge town ks).alarms.points.get j = if j ∈ ks then
      { p.alarms.points.get j with state := (p.alarms.points.get j).state.acked } else p.alarms.points.get j := by
  rw [← Plant.ackSteps_point town ks j p]
  show (Plant.clearFirstOut _).alarms.points.get j = _
  rw [Plant.clearFirstOut_eq]

theorem Plant.acknowledge_moved (p : Plant) (town : Bool) (ks : List (Fin 40)) :
    p.AlarmsMoved (p.acknowledge town ks) := by
  have steps : ∀ p : Plant, p.AlarmsMoved (ks.foldl (fun q k => q.ackStep town k) p) := by
    induction ks with
    | nil => intro p; rfl
    | cons k ks ih => intro p; exact (p.ackStep_moved town k).trans (ih _)
  refine (steps p).trans (Plant.AlarmsMoved.trans ?_ (Plant.annunciate_moved _))
  rw [Plant.clearFirstOut_eq]
  rfl

/-- R165: what the town's payload names. -/
theorem Plant.mem_townPoints (p : Plant) (payload : List Byte) (k : Fin 40) :
    k ∈ p.townPoints payload ↔ if payload = [0xFF] then p.pointUnacked k = true else BitVec.ofNat 8 k.val ∈ payload := by
  unfold Plant.townPoints
  split
  · rw [List.mem_filter]
    exact ⟨fun both => both.2, fun unacked => ⟨List.mem_finRange k, unacked⟩⟩
  · rw [List.mem_filterMap]
    constructor
    · rintro ⟨b, mem, named⟩
      split at named
      case isTrue small =>
        obtain rfl := Option.some.inj named
        rwa [BitVec.ofNat_toNat, BitVec.setWidth_eq]
      case isFalse => cases named
    · intro mem
      have value : (BitVec.ofNat 8 k.val).toNat = k.val := by
        rw [BitVec.toNat_ofNat]
        exact Nat.mod_eq_of_lt (by omega)
      refine ⟨_, mem, ?_⟩
      rw [dif_pos (by rw [value]; exact k.isLt)]
      exact congrArg some (Fin.ext value)

theorem Plant.townAcknowledge_state (p : Plant) (payload : List Byte) (k : Fin 40) :
    let x := (p.acknowledge true (p.townPoints payload)).alarms.points.get k
    x.condition = (p.alarms.points.get k).condition ∧
      x.state = if payload = [0xFF] ∨ BitVec.ofNat 8 k.val ∈ payload then (p.alarms.points.get k).state.acked
        else (p.alarms.points.get k).state := by
  intro x
  have isX : x = _ := p.acknowledge_point true (p.townPoints payload) k
  rw [isX]
  by_cases named : k ∈ p.townPoints payload
  · rw [if_pos named]
    refine ⟨rfl, (if_pos ?_).symm⟩
    rw [Plant.mem_townPoints] at named
    split at named
    · exact Or.inl ‹_›
    · exact Or.inr named
  · rw [if_neg named]
    refine ⟨rfl, ?_⟩
    rw [Plant.mem_townPoints] at named
    by_cases all : payload = [0xFF]
    · rw [if_pos all] at named
      rw [if_pos (Or.inl all), PointState.acked_of_not_unacked (Bool.eq_false_iff.mpr named)]
    · rw [if_neg all] at named
      exact (if_neg fun either => either.elim all named).symm

/-! The IDLE that answers. -/

/-- R165: an IDLE whose next is S is the reply, asked for where the transmitter is idle. -/
def State.AnsweredIdle (s : State) (tag : Byte) (t : State) : Prop := ∃ r : Reply,
  t.reporter = { s.reporter with slot := if s.link.tx.isIdle then .held r else .ready r } ∧
    r.kind = 0x82 ∧ r.tag = tag ∧ r.next = s.log.s ∧ r.ofPoll = false ∧ r.gap = none ∧
    r.payload = natBytes 4 s.log.s ++ natBytes 1 (pointCode t.plant.alarms.identity) ++
      natBytes 1 (pointCode t.plant.alarms.firstOut) ++
      natBytes 1 (t.plant.mode.mode.code + 16 * t.plant.mode.cause.code) ++ natBytes 1 (bit t.plant.mode.storm) ∧
    t.link.tx = (if s.link.tx.isIdle then .pending { address := s.link.stationAddress, kind := 0x82, tag := tag
                                                     payload := r.payload, owner := .reply } else s.link.tx)

theorem answerIdle_answered {s z : State} (tag : Byte) (tx : z.link.tx = s.link.tx)
    (address : z.link.stationAddress = s.link.stationAddress) (reporter : z.reporter = s.reporter) (log : z.log = s.log) :
    s.AnsweredIdle tag (finish s (z.answerIdle tag).settle) := by
  have settled : (z.answerIdle tag).settle = z.handReply (z.idleReply tag) := handReply_settle _ _
  have payload : (z.idleReply tag).payload = natBytes 4 s.log.s ++ natBytes 1 (pointCode z.plant.alarms.identity) ++
      natBytes 1 (pointCode z.plant.alarms.firstOut) ++
      natBytes 1 (z.plant.mode.mode.code + 16 * z.plant.mode.cause.code) ++ natBytes 1 (bit z.plant.mode.storm) := by
    rw [← log]
    rfl
  have plant : (z.handReply (z.idleReply tag)).plant = z.plant := by rw [(handReply_step z _).rest]
  refine ⟨z.idleReply tag, ?_, rfl, rfl, congrArg LogUnit.s log, rfl, rfl, ?_, ?_⟩
  · rw [finish_reporter, settled]
    cases idle : s.link.tx.isIdle with
    | true => rw [handReply_idle (by rw [tx]; exact idle), reporter]; rfl
    | false => rw [handReply_busy (by rw [tx]; exact idle), reporter]; rfl
  · rw [finish_plant, settled, plant]
    exact payload
  · rw [finish_link, settled]
    cases idle : s.link.tx.isIdle with
    | true =>
      rw [handReply_idle (by rw [tx]; exact idle), ← address]
      rfl
    | false => rw [handReply_busy (by rw [tx]; exact idle), tx]; rfl

theorem answerIdle_settled (z : State) (tag : Byte) : (z.answerIdle tag).settle = { z with
    link := (z.answerIdle tag).settle.link, reporter := (z.answerIdle tag).settle.reporter } := by
  have settled : (z.answerIdle tag).settle = z.handReply (z.idleReply tag) := handReply_settle _ _
  rw [settled]
  cases idle : z.link.tx.isIdle with
  | true => rw [handReply_idle idle]
  | false => rw [handReply_busy idle]

/-! Station time set by the town. -/

/-- R15: station time is set with setter TOWN, and page 0 is marked. -/
def State.TimedByTown (s : State) (time : Time) (t : State) : Prop :=
  t.plant.clock = { s.plant.clock with station := time, clockSet := true } ∧
    (∀ n, t.plant.weir n = { s.plant.weir n with
      openRecord := (s.plant.weir n).openRecord.map
        (fun r => { r with flags := { r.flags with clockChanged := true } }) }) ∧
    t.plant = { s.plant with clock := t.plant.clock, weirs := t.plant.weirs } ∧
    t.log = s.log.append t.plant.clock
      { source := srcSystem, kind := 0x04, urgent := false
        detail := detail4 s.plant.clock.station.toNat ++ detail4 time.toNat ++ detail1 1 } ∧
    (s.plant.loading = false → t.deposits.dirty.get 0 = true)

theorem setStationTime_town (p : Plant) (time : Time) : p.setStationTime time true = { p with
    clock := { p.clock with station := time, clockSet := true }
    weirs := (p.setStationTime time true).weirs
    out := p.out ++ [{ source := srcSystem, kind := 0x04, urgent := false
                       detail := detail4 p.clock.station.toNat ++ detail4 time.toNat ++ detail1 1 }] } := rfl

theorem finish_timed {s y : State} {time : Time} (out : s.plant.out = [])
    (plant : y.plant = s.plant.setStationTime time true) (log : y.log = s.log)
    (marked : s.plant.loading = false → y.deposits.dirty.get 0 = true) : s.TimedByTown time (finish s y) := by
  have fields := setStationTime_town s.plant time
  have ends : (finish s y).plant = { s.plant with
      clock := { s.plant.clock with station := time, clockSet := true }
      weirs := (s.plant.setStationTime time true).weirs } := by
    rw [finish_plant, plant]
    generalize (s.plant.setStationTime time true).weirs = weirs at fields ⊢
    rw [fields]
    simp only [← out]
  refine ⟨by rw [ends], fun n => ?_, by rw [ends], ?_, fun running => ?_⟩
  · rw [ends]
    exact s.plant.setStationTime_weir time true n
  · rw [finish_log, ends, plant, log, fields, out]
    rfl
  · exact finish_dirty s y ((markEntries_deposits y).2.2 0 (marked running))

theorem townSetTime_eq (s : State) (time : Time) : s.townSetTime (natBytes 4 time.toNat) =
    markPage (s.onPlant fun p => p.setStationTime time true) 0 := by
  unfold State.townSetTime
  rw [bytesNat_natBytes 4 time.toNat time.isLt, BitVec.ofNat_toNat, BitVec.setWidth_eq]

/-- The state in which the frame has left the inbox differs from the one before in the inbox alone. -/
theorem popInbox_rest (s : State) (f : TownFrame) :
    s.popInbox f = { s with link := { s.link with inbox := (s.popInbox f).link.inbox } } := by
  obtain ⟨inbox, popped⟩ := popInbox_eq s f
  rw [popped]
  rfl

/-- The state of the time set: what it has moved, and page 0 marked. -/
theorem townSetTime_moves {s z : State} {f : TownFrame} {time : Time}
    (set : z = (s.popInbox f).townSetTime (natBytes 4 time.toNat)) :
    z = { s with
      plant := s.plant.setStationTime time true, link := { s.link with inbox := z.link.inbox }, deposits := z.deposits } ∧
    s.MarksGrow z ∧ (s.plant.loading = false → z.deposits.dirty.get 0 = true) := by
  rw [townSetTime_eq] at set
  have popped := popInbox_rest s f
  refine ⟨?_, ?_, fun running => ?_⟩
  · rw [set, markPage_rest, popped]
    rfl
  · rw [set]
    refine State.MarksGrow.trans (.of_eq ?_) (markPage_marksGrow _ 0)
    rw [popped]
    rfl
  · rw [set]
    refine markPage_dirty ?_ 0
    show ((s.popInbox f).plant.setStationTime time true).loading = false
    rw [popped]
    exact running

/-! Frames not answered. -/

theorem townFrame_refused {s : State} {f : TownFrame} (running : s.load = .none)
    (bad : frameTaken f.broadcast f.kind f.payload = false) : s.townFrame f = finish s ((s.popInbox f).countReport
      fun c => { c with rejected := bump c.rejected }).settle := by
  have judged : (s.popInbox f).judgeFrame f =
      (s.popInbox f).countReport (fun c => { c with rejected := bump c.rejected }) := by
    unfold State.judgeFrame
    rw [bad]
    rfl
  unfold State.townFrame
  rw [linkEvent_runs running, judged]

theorem townFrame_broadcast {s : State} {f : TownFrame} (running : s.load = .none) (broadcast : f.broadcast = true)
    (good : frameTaken f.broadcast f.kind f.payload = true) :
    s.townFrame f = finish s ((s.popInbox f).townSetTime f.payload).settle := by
  have judged : (s.popInbox f).judgeFrame f = (s.popInbox f).townSetTime f.payload := by
    unfold State.judgeFrame
    rw [good, broadcast]
    rfl
  unfold State.townFrame
  rw [linkEvent_runs running, judged]

/-- R160: the table of the frames that are taken. -/
theorem frameTaken_taken {broadcast : Bool} {kind : Byte} {payload : List Byte}
    (good : frameTaken broadcast kind payload = true) :
    broadcast = false ∧ kind = 0x01 ∧ payload.length = 4 ∨
      broadcast = false ∧ kind = 0x02 ∧
        (payload = [0xFF] ∨ 1 ≤ payload.length ∧ payload.length ≤ 40 ∧ ∀ b ∈ payload, b.toNat ≤ 39) ∨
      kind = 0x03 ∧ payload.length = 4 := by
  obtain ⟨valid, addressed⟩ := Bool.and_eq_true_iff.mp good
  have alone : kind ≠ 0x03 → broadcast = false := fun other => by
    rw [Bool.or_eq_true, beq_iff_eq] at addressed
    exact (Bool.not_eq_true' _).mp (addressed.resolve_right other)
  unfold frameValid at valid
  split_ifs at valid with poll ack set
  · exact Or.inl ⟨alone (by rw [poll]; decide), poll, beq_iff_eq.mp valid⟩
  · refine Or.inr (Or.inl ⟨alone (by rw [ack]; decide), ack, ?_⟩)
    unfold alarmAckPayloadGood at valid
    rcases Bool.or_eq_true_iff.mp valid with all | points
    · exact Or.inl (beq_iff_eq.mp all)
    · obtain ⟨lengths, named⟩ := Bool.and_eq_true_iff.mp points
      obtain ⟨some, few⟩ := Bool.and_eq_true_iff.mp lengths
      exact Or.inr ⟨of_decide_eq_true some, of_decide_eq_true few, fun b mem =>
        of_decide_eq_true (List.all_eq_true.mp named b mem)⟩
  · exact Or.inr (Or.inr ⟨set, beq_iff_eq.mp valid⟩)

/-- The parts of the reporter and the link line that a frame leaves alone that is not addressed to the station. -/
theorem settled_still {s z : State} (link : z.link = { s.link with inbox := z.link.inbox })
    (reporter : z.reporter = { s.reporter with counts := z.reporter.counts }) (holder : z.holder = s.holder) :
    let t := finish s z.settle
    t.reporter.linkUp = s.reporter.linkUp ∧ t.reporter.linkTimer = s.reporter.linkTimer ∧
      t.reporter.pollTimer = s.reporter.pollTimer ∧ t.reporter.gapRecord = s.reporter.gapRecord ∧
      t.reporter.waiting = s.reporter.waiting ∧
      (s.reporter.cycle = none → (∀ r, s.reporter.slot ≠ .ready r) → s.link.pendingS7 = none →
        t.reporter.slot = s.reporter.slot ∧ t.reporter.cycle = none ∧ t.reporter.readReq = s.reporter.readReq ∧
        t.reporter.urgent = s.reporter.urgent ∧ t.holder = s.holder ∧
        t.link = { s.link with inbox := t.link.inbox }) := by
  intro t
  have step := congrArg State.reporter (settle_step z).rest
  dsimp only at step
  have moved : t.reporter = z.settle.reporter := finish_reporter _ _
  rw [moved, step, reporter]
  refine ⟨rfl, rfl, rfl, rfl, rfl, fun cycle slot pending => ?_⟩
  have settled : z.settle = z := settle_still (by rw [link]; exact pending) (by rw [reporter]; exact slot)
    (by rw [reporter]; exact cycle)
  have sameLink : t.link = z.link := (finish_link _ _).trans (by rw [settled])
  have sameHolder : t.holder = z.holder := (finish_holder _ _).trans (by rw [settled])
  rw [settled, reporter, sameLink, sameHolder]
  exact ⟨rfl, cycle, rfl, rfl, holder, link⟩

/-- Settles O58: acknowledges, clock sets and rejected frames. -/
theorem townFramesAreJudgedAndAnswered : Obligations.TownFramesAreJudgedAndAnswered := by
  intro s tag out running still taken answered timed
  have addressedFree (f : TownFrame) (slot : s.reporter.slot = .none) :
      (s.popInbox f).addressed f = (s.popInbox f).handleFrame f := by
    have free : (s.popInbox f).reporter.slot = .none := by rw [popInbox_rest]; exact slot
    unfold State.addressed
    rw [free]
  refine ⟨fun payload good slot => ?ack, fun time => ⟨fun slot => ?set, ?broadcast⟩, fun broadcast kind payload bad => ?rejected⟩
  case ack =>
    let f : TownFrame := { broadcast := false, kind := 0x02, tag := tag, payload := payload }
    have popped := popInbox_rest s f
    let z := (s.popInbox f).townAcknowledge payload
    have handled : (s.popInbox f).addressed f = z.answerIdle tag := addressedFree f slot
    have run : exec (.townAlarmAck tag payload) s = .next (finish s (z.answerIdle tag).settle) := by
      rw [← handled]
      exact congrArg Host.Outcome.next (townFrame_addressed running rfl (frameValid_alarmAck good))
    have parts : z = { s with
        plant := s.plant.acknowledge true (s.plant.townPoints payload)
        link := { s.link with inbox := (s.popInbox f).link.inbox } } := by
      show (s.popInbox f).townAcknowledge payload = _
      rw [popped]
      rfl
    have answer : s.AnsweredIdle tag (finish s (z.answerIdle tag).settle) :=
      answerIdle_answered tag (by rw [parts]) (by rw [parts]; rfl) (by rw [parts]) (by rw [parts])
    have settled := answerIdle_settled z tag
    generalize (z.answerIdle tag).settle = y at run answer settled
    have plant : y.plant = s.plant.acknowledge true (s.plant.townPoints payload) := by rw [settled, parts]
    have log : y.log = s.log := by rw [settled, parts]
    have deposits : y.deposits = s.deposits := by rw [settled, parts]
    have holder : y.holder = s.holder := by rw [settled, parts]
    have alone : s.LinkAlone y := by
      unfold State.LinkAlone
      generalize y.link = link at settled ⊢
      generalize y.reporter = reporter at settled ⊢
      rw [settled, parts]
    have points : (finish s y).plant.alarms = (s.plant.acknowledge true (s.plant.townPoints payload)).alarms := by
      rw [finish_plant, plant]
    have moved : s.plant.AlarmsMoved y.plant := by rw [plant]; exact Plant.acknowledge_moved _ _ _
    have kept : s.plant.Kept y.plant := by rw [plant]; exact Plant.acknowledge_kept _ _ _
    refine ⟨_, run, answer, fun k => ?_, finish_alarmsMoved out moved, ?_, finish_logged _ _ [] log ⟨_, rfl⟩, ?_,
      finish_pages_same _ _ deposits⟩
    · rw [points]
      exact s.plant.townAcknowledge_state payload k
    · rw [finish_plant]
      exact kept.emptied.1
    · have whole : finish s y = _ := alone.trans (finish_linkAlone s y)
      rw [finish_holder, holder] at whole
      exact whole
  case set =>
    let f : TownFrame := { broadcast := false, kind := 0x03, tag := tag, payload := natBytes 4 time.toNat }
    obtain ⟨z, set⟩ : ∃ z, z = (s.popInbox f).townSetTime (natBytes 4 time.toNat) := ⟨_, rfl⟩
    obtain ⟨parts, -, marked⟩ := townSetTime_moves set
    have handled : (s.popInbox f).addressed f = z.answerIdle tag := by
      rw [set]
      exact addressedFree f slot
    have run : exec (.townClockSet false tag time) s = .next (finish s (z.answerIdle tag).settle) := by
      rw [← handled]
      exact congrArg Host.Outcome.next (townFrame_addressed running rfl (frameValid_clockSet (natBytes_length 4 _)))
    have tx : z.link.tx = s.link.tx := by rw [parts]
    have address : z.link.stationAddress = s.link.stationAddress := by rw [parts]; rfl
    have settled := answerIdle_settled z tag
    refine ⟨_, run, finish_timed out ?_ ?_ ?_, answerIdle_answered tag tx address (by rw [parts]) (by rw [parts])⟩
    · rw [settled, parts]
    · rw [settled, parts]
    · intro outside
      rw [settled]
      exact marked outside
  case broadcast =>
    let f : TownFrame := { broadcast := true, kind := 0x03, tag := tag, payload := natBytes 4 time.toNat }
    obtain ⟨z, set⟩ : ∃ z, z = (s.popInbox f).townSetTime (natBytes 4 time.toNat) := ⟨_, rfl⟩
    obtain ⟨parts, -, marked⟩ := townSetTime_moves set
    have good : frameTaken true 0x03 (natBytes 4 time.toNat) = true := by
      unfold frameTaken
      rw [frameValid_clockSet (natBytes_length 4 _)]
      rfl
    have run : exec (.townClockSet true tag time) s = .next (finish s z.settle) := by
      rw [set]
      exact congrArg Host.Outcome.next (townFrame_broadcast (f := f) running rfl good)
    have step := settle_step z
    have link : z.link = { s.link with inbox := z.link.inbox } := by
      have same := congrArg State.link parts
      exact same
    refine ⟨_, run, finish_timed out ?_ ?_ ?_, settled_still link (by rw [parts]) (by rw [parts]), ?_⟩
    · rw [step.rest, parts]
    · rw [step.rest, parts]
    · exact fun outside => step.kept 0 (marked outside)
    · rw [finish_reporter, step.rest, parts]
  case rejected =>
    let f : TownFrame := { broadcast := broadcast, kind := kind, tag := tag, payload := payload }
    have refused : frameTaken broadcast kind payload = false := by
      rw [← Bool.not_eq_true]
      exact fun good => bad (frameTaken_taken good)
    let z := (s.popInbox f).countReport fun c => { c with rejected := bump c.rejected }
    have run : exec (.frameRejected broadcast kind tag payload) s = .next (finish s z.settle) :=
      congrArg Host.Outcome.next (townFrame_refused (f := f) running refused)
    have parts : z = { s with
        link := { s.link with inbox := (s.popInbox f).link.inbox }
        reporter := { s.reporter with
          counts := { s.reporter.counts with rejected := bump s.reporter.counts.rejected } } } := by
      show (s.popInbox f).countReport _ = _
      rw [popInbox_rest s f]
      rfl
    refine ⟨_, run, settled_linkStep out (by rw [parts]), settled_still (by rw [parts]) (by rw [parts]) (by rw [parts]), ?_⟩
    rw [finish_reporter, (settle_step z).rest, parts]

end Sys2Proof.Machine
end

section
/-! What the operations of the pump unit make of their own pump, and what they leave of the others (R35 to R45, R56). -/

namespace Sys2Proof.Machine

/-- Of the pump unit, nothing but pump `n`, its claim, its demand and its place in the queue has moved. -/
structure Plant.OnlyPump (n : Fin 6) (p q : Plant) : Prop where
  pumps   : ∀ m, m ≠ n → q.pump m = p.pump m
  claims  : ∀ h, h ≠ pumpHolder n → q.claim h = p.claim h
  demands : ∀ m, m ≠ n → q.demand m = p.demand m
  queue   : ∀ m, m ≠ n → (m ∈ q.queue ↔ m ∈ p.queue)
  rakes   : q.rakes = p.rakes

theorem Plant.OnlyPump.refl (n : Fin 6) (p : Plant) : Plant.OnlyPump n p p :=
  ⟨fun _ _ => rfl, fun _ _ => rfl, fun _ _ => rfl, fun _ _ => Iff.rfl, rfl⟩

theorem Plant.OnlyPump.trans {n : Fin 6} {p q r : Plant} (first : Plant.OnlyPump n p q) (second : Plant.OnlyPump n q r) :
    Plant.OnlyPump n p r where
  pumps m other := (second.pumps m other).trans (first.pumps m other)
  claims h other := (second.claims h other).trans (first.claims h other)
  demands m other := (second.demands m other).trans (first.demands m other)
  queue m other := (second.queue m other).trans (first.queue m other)
  rakes := second.rakes.trans first.rakes

/-! The parts of the operations. -/

theorem Plant.demand_of_shadow {p q : Plant} (shadow : q.shadow = p.shadow) (m : Fin 6) : q.demand m = p.demand m := by
  unfold Plant.demand
  rw [shadow]

theorem Plant.claim_of_claims {p q : Plant} (claims : q.claims = p.claims) (h : Fin 8) : q.claim h = p.claim h := by
  unfold Plant.claim
  rw [claims]

theorem Plant.setPump_only (p : Plant) (n : Fin 6) (x : Pump) : Plant.OnlyPump n p (p.setPump n x) where
  pumps m other := p.pump_setPump_ne other.symm x
  claims h _ := Plant.claim_of_claims (p.setPump_claims n x) h
  demands m _ := Plant.demand_of_shadow (p.setPump_shadow n x) m
  queue m _ := by rw [Plant.setPump_queue]
  rakes := p.setPump_rakes n x

theorem Plant.leaveQueue_queue (p : Plant) (n : Fin 6) : (p.leaveQueue n).queue = p.queue.filter (fun m => m != n) := by
  unfold Plant.leaveQueue
  dsimp only
  split <;> rfl

theorem Plant.leaveQueue_pumps (p : Plant) (n : Fin 6) : (p.leaveQueue n).pumps = p.pumps := by
  unfold Plant.leaveQueue
  dsimp only
  split <;> rfl

theorem Plant.leaveQueue_claim (p : Plant) (n : Fin 6) (h : Fin 8) : (p.leaveQueue n).claim h =
    if h = pumpHolder n ∧ (p.claim (pumpHolder n)).status = .waiting then { status := .none, units := 0 } else p.claim h := by
  unfold Plant.leaveQueue
  dsimp only
  by_cases waits : (p.claim (pumpHolder n)).status = .waiting
  · rw [if_pos waits, Plant.dropClaim, Plant.claim_setClaim]
    by_cases same : pumpHolder n = h
    · rw [if_pos same, if_pos ⟨same.symm, waits⟩]
    · rw [if_neg same, if_neg fun both => same both.1.symm]
      rfl
  · rw [if_neg waits, if_neg fun both => waits both.2]
    rfl

theorem mem_filter_ne {m n : Fin 6} {l : List (Fin 6)} : m ∈ l.filter (fun k => k != n) ↔ m ∈ l ∧ m ≠ n := by
  rw [List.mem_filter, bne_iff_ne]

theorem Plant.leaveQueue_only (p : Plant) (n : Fin 6) : Plant.OnlyPump n p (p.leaveQueue n) where
  pumps m _ := by unfold Plant.pump; rw [Plant.leaveQueue_pumps]
  claims h other := by rw [Plant.leaveQueue_claim, if_neg fun both => other both.1]
  demands m _ := Plant.demand_of_shadow (p.leaveQueue_kept n).2.1 m
  queue m other := by rw [Plant.leaveQueue_queue, mem_filter_ne]; exact and_iff_left other
  rakes := by
    unfold Plant.leaveQueue
    dsimp only
    split <;> rfl

theorem Plant.dropClaim_only (p : Plant) (n : Fin 6) : Plant.OnlyPump n p (p.dropClaim (pumpHolder n)) where
  pumps _ _ := rfl
  claims _ other := p.claim_setClaim_ne other.symm _
  demands _ _ := rfl
  queue _ _ := Iff.rfl
  rakes := rfl

theorem Plant.setRun_only (p : Plant) (n : Fin 6) (b : Bool) : Plant.OnlyPump n p (p.setRun n b) where
  pumps m _ := by unfold Plant.pump; rw [Plant.setRun_pumps]
  claims := fun h _ => Plant.claim_of_claims (p.setRun_claims n b) h
  demands m other := by rw [Plant.demand_setRun, if_neg other.symm]
  queue m _ := by rw [Plant.setRun_queue]
  rakes := p.setRun_rakes n b

theorem Plant.append_onlyPump (n : Fin 6) (p : Plant) (a b : Byte) (d : List Byte) (u : Bool) :
    Plant.OnlyPump n p (p.append a b d u) := ⟨fun _ _ => rfl, fun _ _ => rfl, fun _ _ => rfl, fun _ _ => Iff.rfl, rfl⟩

theorem Plant.joinQueue_queue (p : Plant) (n m : Fin 6) : m ∈ (p.joinQueue n).queue ↔ m ∈ p.queue ∨ m = n := by
  unfold Plant.joinQueue
  split
  case isTrue mem => exact ⟨Or.inl, fun either => either.elim id (fun same => same ▸ mem)⟩
  case isFalse =>
    show m ∈ p.queue ++ [n] ↔ _
    rw [List.mem_append, List.mem_singleton]

theorem Plant.joinQueue_rest (p : Plant) (n : Fin 6) :
    p.joinQueue n = { p with queue := (p.joinQueue n).queue, marks := (p.joinQueue n).marks } := by
  unfold Plant.joinQueue
  split <;> rfl

theorem Plant.joinQueue_only (p : Plant) (n : Fin 6) : Plant.OnlyPump n p (p.joinQueue n) where
  pumps m _ := by rw [Plant.joinQueue_rest]; rfl
  claims _ _ := by rw [Plant.joinQueue_rest]; rfl
  demands m _ := by rw [Plant.joinQueue_rest]; rfl
  queue m other := by rw [Plant.joinQueue_queue]; exact or_iff_left other
  rakes := by rw [Plant.joinQueue_rest]

/-! Out of motion: rests and trips. -/

/-- A claim given up (log 60). -/
def Claim.gone : Claim := { status := .none, units := 0 }

/-- A pump stopped: as `x` has it, out of the queue, its claim given up. -/
def Plant.stopped (p : Plant) (n : Fin 6) (x : Pump) : Plant := ((p.setPump n x).leaveQueue n).dropClaim (pumpHolder n)

theorem Plant.stopped_only (p : Plant) (n : Fin 6) (x : Pump) : Plant.OnlyPump n p (p.stopped n x) :=
  ((p.setPump_only n x).trans (Plant.leaveQueue_only _ n)).trans (Plant.dropClaim_only _ n)

theorem Plant.stopped_acts (p : Plant) (n : Fin 6) (x : Pump) : p.Acts (p.stopped n x) :=
  ((p.setPump_acts n x).trans (Plant.leaveQueue_kept _ n).acts).trans (Plant.dropClaim_kept _ _).acts

theorem Plant.stopped_pump (p : Plant) (n : Fin 6) (x : Pump) : (p.stopped n x).pump n = x := by
  show ((p.setPump n x).leaveQueue n).pump n = x
  unfold Plant.pump
  rw [Plant.leaveQueue_pumps]
  exact p.pump_setPump_same n x

theorem Plant.stopped_claim (p : Plant) (n : Fin 6) (x : Pump) : (p.stopped n x).claim (pumpHolder n) = .gone :=
  Plant.claim_setClaim_same _ _ _

theorem Plant.stopped_queue (p : Plant) (n : Fin 6) (x : Pump) :
    (p.stopped n x).queue = p.queue.filter (fun m => m != n) := by
  show ((p.setPump n x).leaveQueue n).queue = _
  rw [Plant.leaveQueue_queue, Plant.setPump_queue]

theorem Plant.stopped_shadow (p : Plant) (n : Fin 6) (x : Pump) : (p.stopped n x).shadow = p.shadow :=
  (Plant.leaveQueue_kept (p.setPump n x) n).2.1.trans (p.setPump_shadow n x)

theorem Plant.stopped_corr (p : Plant) (n : Fin 6) (x : Pump) : (p.stopped n x).corr = p.corr :=
  (Plant.leaveQueue_kept (p.setPump n x) n).2.2.trans (p.setPump_corr n x)

theorem Plant.leaveQueue_out (p : Plant) (n : Fin 6) : (p.leaveQueue n).out = p.out := by
  unfold Plant.leaveQueue
  dsimp only
  split <;> rfl

theorem Plant.stopped_out (p : Plant) (n : Fin 6) (x : Pump) : (p.stopped n x).out = p.out := by
  show ((p.setPump n x).leaveQueue n).out = _
  rw [Plant.leaveQueue_out, Plant.setPump_out]

/-- The pump tripped (R43). -/
def Plant.trippedPump (p : Plant) (n : Fin 6) (cause : TripCause) : Pump :=
  { p.pump n with state := .tripped, tripCause := cause, tripUptime := some p.clock.uptime,
                  deferred := false, feedback := .stopped, minRun := .stopped, minOff := .stopped }

/-- R43: the PUMP_TRIP entry, by the state tripped from. -/
def tripDraft (n : Fin 6) (cause : TripCause) (from_ : PumpState) : Draft :=
  { source := srcPump n, kind := 0x23, urgent := false, detail := detail1 cause.code ++ detail1 from_.code }

/-- What a trip makes of its pump. -/
structure Plant.Trips (n : Fin 6) (cause : TripCause) (p q : Plant) : Prop where
  acts   : p.Acts q
  pump   : q.pump n = p.trippedPump n cause
  demand : q.demand n = false
  queue  : n ∉ q.queue
  claim  : q.claim (pumpHolder n) = .gone
  out    : ∃ more, q.out = p.out ++ tripDraft n cause (p.pump n).state :: more

theorem Plant.trip_eq (p : Plant) (n : Fin 6) (cause : TripCause) : p.trip n cause =
    ((p.stopped n (p.trippedPump n cause)).setRun n false).append (srcPump n) 0x23
      (detail1 cause.code ++ detail1 (p.pump n).state.code) := by
  simp only [Plant.trip, Plant.stopped, Plant.trippedPump]

theorem Plant.setRun_out (p : Plant) (n : Fin 6) (b : Bool) : (p.setRun n b).out = p.out := by simp [Plant.setRun]

theorem Plant.trip_queue (p : Plant) (n : Fin 6) (cause : TripCause) :
    (p.trip n cause).queue = p.queue.filter (fun m => m != n) := by
  rw [Plant.trip_eq, Plant.append_queue, Plant.setRun_queue, Plant.stopped_queue]

theorem Plant.trip_only (p : Plant) (n : Fin 6) (cause : TripCause) : Plant.OnlyPump n p (p.trip n cause) := by
  rw [Plant.trip_eq]
  exact ((p.stopped_only n _).trans (Plant.setRun_only _ n false)).trans (Plant.append_onlyPump n _ _ _ _ _)

theorem Plant.trip_trips (p : Plant) (n : Fin 6) (cause : TripCause) : Plant.Trips n cause p (p.trip n cause) where
  acts := p.trip_acts n cause
  pump := by
    rw [Plant.trip_eq, Plant.pump_append]
    unfold Plant.pump
    rw [Plant.setRun_pumps]
    exact p.stopped_pump n _
  demand := by
    rw [Plant.trip_eq, Plant.demand_of_shadow (Plant.append_shadow _ _ _ _ _), Plant.demand_setRun, if_pos rfl]
  queue := by
    rw [Plant.trip_queue, mem_filter_ne]
    exact fun both => both.2 rfl
  claim := by
    rw [Plant.trip_eq, Plant.claim_of_claims (Plant.append_claims _ _ _ _ _), Plant.claim_of_claims (Plant.setRun_claims _ n false)]
    exact p.stopped_claim n _
  out := by
    refine ⟨[], ?_⟩
    have out : ((p.stopped n (p.trippedPump n cause)).setRun n false).out = p.out := by
      rw [Plant.setRun_out, Plant.stopped_out]
    rw [Plant.trip_eq]
    exact congrArg (· ++ [tripDraft n cause (p.pump n).state]) out

/-- The pump come to rest for `off` seconds (R42). -/
def Plant.restingPump (p : Plant) (n : Fin 6) (off : Nat) : Pump :=
  { p.pump n with state := .resting, deferred := false, feedback := .stopped, minRun := .stopped, minOff := .running off }

/-- The reading of a line is that of the debounced contacts and of the settings. -/
theorem Plant.Acts.active {p q : Plant} (acts : p.Acts q) (l : Fin 30) : q.active l = p.active l :=
  acts.inputs.active l

theorem Plant.enterResting_rests {p : Plant} {n : Fin 6} (quiet : p.faultActive n = false) (off : Nat) :
    p.enterResting n off = p.stopped n (p.restingPump n off) := by
  have reading : (p.stopped n (p.restingPump n off)).faultActive n = false :=
    ((p.stopped_acts n _).active _).trans quiet
  exact if_neg fun fault => Bool.false_ne_true (reading.symm.trans fault)

theorem Plant.enterResting_trips {p : Plant} {n : Fin 6} (fault : p.faultActive n = true) (off : Nat) :
    p.enterResting n off = (p.stopped n (p.restingPump n off)).trip n .fault :=
  if_pos (((p.stopped_acts n _).active _).trans fault)

theorem Plant.enterResting_only (p : Plant) (n : Fin 6) (off : Nat) : Plant.OnlyPump n p (p.enterResting n off) := by
  cases fault : p.faultActive n with
  | false => rw [Plant.enterResting_rests fault]; exact p.stopped_only n _
  | true =>
    rw [Plant.enterResting_trips fault]
    exact (p.stopped_only n _).trans (Plant.trip_only _ n .fault)

/-- However the pump comes to rest, it is out of motion, out of the queue and without a claim. -/
theorem Plant.enterResting_out_of_motion (p : Plant) (n : Fin 6) (off : Nat) :
    let q := p.enterResting n off
    (q.pump n).state.inMotion = false ∧ q.claim (pumpHolder n) = .gone ∧
      q.queue = p.queue.filter (fun m => m != n) ∧ (q.demand n = true → p.demand n = true) := by
  intro q
  have isQ : q = p.enterResting n off := rfl
  cases fault : p.faultActive n with
  | false =>
    rw [isQ, Plant.enterResting_rests fault]
    refine ⟨?_, p.stopped_claim n _, p.stopped_queue n _, ?_⟩
    · rw [Plant.stopped_pump]; rfl
    · rw [Plant.demand_of_shadow (p.stopped_shadow n _)]; exact id
  | true =>
    rw [isQ, Plant.enterResting_trips fault]
    have trips := Plant.trip_trips (p.stopped n (p.restingPump n off)) n .fault
    refine ⟨?_, trips.claim, ?_, ?_⟩
    · rw [trips.pump]; rfl
    · rw [Plant.trip_queue, Plant.stopped_queue, List.filter_filter]
      simp only [Bool.and_self]
    · rw [trips.demand]; exact fun no => absurd no Bool.false_ne_true

theorem Plant.stopPump_only (p : Plant) (n : Fin 6) (r : StopReason) : Plant.OnlyPump n p (p.stopPump n r) :=
  (Plant.append_onlyPump n p _ _ _ _).trans (Plant.enterResting_only _ n _)

/-- R42: the PUMP_STOP entry. -/
def stopDraft (n : Fin 6) (r : StopReason) : Draft :=
  { source := srcPump n, kind := 0x22, urgent := false, detail := detail1 r.code }

theorem Plant.stopPump_out (p : Plant) (n : Fin 6) (r : StopReason) :
    ∃ more, (p.stopPump n r).out = p.out ++ stopDraft n r :: more := by
  obtain ⟨more, out⟩ := (Plant.enterResting_acts (p.logStop n r) n (p.minOffTime n)).2
  refine ⟨more, out.trans ?_⟩
  show (p.out ++ [stopDraft n r]) ++ more = _
  rw [List.append_assoc]
  rfl

theorem Plant.stopPump_rests {p : Plant} {n : Fin 6} (quiet : p.faultActive n = false) (r : StopReason) :
    p.stopPump n r = (p.logStop n r).stopped n (p.restingPump n (p.minOffTime n)) :=
  Plant.enterResting_rests (p := p.logStop n r) quiet _

/-! Demands given one after another. -/

theorem Plant.raiseDemands_induct (I : Plant → Prop)
    (step : ∀ (q : Plant) (n : Fin 6), I q → q.nextToDemand = some n → I (q.giveDemand n)) (k : Nat) :
    ∀ p : Plant, I p → I (p.raiseDemands k) := by
  induction k with
  | zero => exact fun p holds => holds
  | succ k ih =>
    intro p holds
    unfold Plant.raiseDemands
    split
    · split
      case h_1 n next => exact ih _ (step p n holds next)
      case h_2 => exact holds
    · exact holds

theorem Plant.reexamine_induct (I : Plant → Prop)
    (step : ∀ (q : Plant) (n : Fin 6), I q → q.nextToDemand = some n → I (q.giveDemand n)) {p : Plant} (holds : I p) :
    I p.reexamine := by
  unfold Plant.reexamine
  split
  · exact Plant.raiseDemands_induct I step 6 p holds
  · exact holds

theorem foldl_picks (f : Option (Fin 6) → Fin 6 → Option (Fin 6))
    (picks : ∀ b m k, f b m = some k → k = m ∨ b = some k) (ns : List (Fin 6)) :
    ∀ (best : Option (Fin 6)) (n : Fin 6), ns.foldl f best = some n → n ∈ ns ∨ best = some n := by
  induction ns with
  | nil => exact fun best n found => Or.inr found
  | cons m ns ih =>
    intro best n found
    rcases ih _ n found with mem | same
    · exact Or.inl (List.mem_cons_of_mem _ mem)
    · rcases picks best m n same with first | kept
      · exact Or.inl (List.mem_cons.mpr (Or.inl first))
      · exact Or.inr kept

theorem Plant.latestStart_mem {p : Plant} {ns : List (Fin 6)} {n : Fin 6} (found : p.latestStart ns = some n) :
    n ∈ ns := by
  refine (foldl_picks _ (fun b m k same => ?_) ns none n found).resolve_right (fun absurd => nomatch absurd)
  cases b with
  | none => exact Or.inl (Option.some.inj same).symm
  | some j =>
    dsimp only at same
    split at same
    · exact Or.inl (Option.some.inj same).symm
    · exact Or.inr same

/-- R56: the next demand goes to a running pump whose stop is deferred, or to one in OFF below its limit. -/
theorem Plant.nextToDemand_cases {p : Plant} {n : Fin 6} (next : p.nextToDemand = some n) :
    (p.pump n).state = .running ∧ (p.pump n).deferred = true ∨
      (p.pump n).state = .off ∧ p.demand n = false ∧ p.atLimit n = false := by
  unfold Plant.nextToDemand at next
  split at next
  case h_1 m found =>
    obtain rfl := Option.some.inj next
    have mem := Plant.latestStart_mem found
    rw [List.mem_filter, Bool.and_eq_true, beq_iff_eq] at mem
    exact Or.inl mem.2
  case h_2 =>
    have chosen := List.find?_some next
    rw [Bool.and_eq_true, Bool.and_eq_true, beq_iff_eq, Bool.not_eq_true', Bool.not_eq_true'] at chosen
    obtain ⟨⟨off, idle⟩, below⟩ := chosen
    exact Or.inr ⟨off, idle, below⟩

theorem Plant.giveDemand_running {p : Plant} {n : Fin 6} (running : (p.pump n).state = .running) :
    p.giveDemand n = (p.setRun n true).setPump n { p.pump n with deferred := false } := by
  have same : (p.setRun n true).pump n = p.pump n := by unfold Plant.pump; rw [Plant.setRun_pumps]
  unfold Plant.giveDemand Plant.demandSet
  rw [same, running]

theorem Plant.giveDemand_off {p : Plant} {n : Fin 6} (off : (p.pump n).state = .off) :
    p.giveDemand n = (p.setRun n true).joinQueue n := by
  have same : (p.setRun n true).pump n = p.pump n := by unfold Plant.pump; rw [Plant.setRun_pumps]
  unfold Plant.giveDemand Plant.demandSet
  rw [same, off]

/-- What a demand given makes of any pump. -/
theorem Plant.giveDemand_facts {p : Plant} {n : Fin 6} (next : p.nextToDemand = some n) :
    Plant.OnlyPump n p (p.giveDemand n) ∧ (p.giveDemand n).demand n = true ∧
      (p.giveDemand n).claims = p.claims ∧
      ((p.giveDemand n).pump n = p.pump n ∨
        (p.pump n).state = .running ∧ (p.giveDemand n).pump n = { p.pump n with deferred := false }) ∧
      ((p.pump n).state ≠ .off → (p.giveDemand n).queue = p.queue) ∧
      (p.giveDemand n).out = p.out ∧ (p.giveDemand n).desired = p.desired := by
  rcases Plant.nextToDemand_cases next with ⟨running, -⟩ | ⟨off, -, -⟩
  · rw [Plant.giveDemand_running running]
    refine ⟨(p.setRun_only n true).trans (Plant.setPump_only _ n _), ?_, ?_, Or.inr ⟨running, ?_⟩, fun _ => ?_, ?_, ?_⟩
    · rw [Plant.demand_of_shadow (Plant.setPump_shadow _ n _), Plant.demand_setRun, if_pos rfl]
    · rw [Plant.setPump_claims, Plant.setRun_claims]
    · rw [Plant.pump_setPump_same]
    · rw [Plant.setPump_queue, Plant.setRun_queue]
    · rw [Plant.setPump_out, Plant.setRun_out]
    · rw [Plant.setPump_desired]; simp [Plant.setRun]
  · rw [Plant.giveDemand_off off]
    refine ⟨(p.setRun_only n true).trans (Plant.joinQueue_only _ n), ?_, ?_, Or.inl ?_, fun other => absurd off other, ?_, ?_⟩
    · have shadow : ((p.setRun n true).joinQueue n).shadow = (p.setRun n true).shadow := by rw [Plant.joinQueue_rest]
      rw [Plant.demand_of_shadow shadow, Plant.demand_setRun, if_pos rfl]
    · rw [Plant.joinQueue_rest]; exact Plant.setRun_claims _ _ _
    · rw [Plant.joinQueue_rest]; unfold Plant.pump; exact congrArg (Vector.get · n) (Plant.setRun_pumps _ _ _)
    · rw [Plant.joinQueue_rest]; exact Plant.setRun_out _ _ _
    · rw [Plant.joinQueue_rest]; simp [Plant.setRun]

/-- A pump that no demand can be given to is left alone when the demands are re-examined. -/
def Pump.NotAsked (x : Pump) : Prop := x.state ≠ .off ∧ (x.state ≠ .running ∨ x.deferred = false)

theorem Plant.giveDemand_other {p : Plant} {n m : Fin 6} (settled : (p.pump n).NotAsked) (next : p.nextToDemand = some m) :
    m ≠ n := by
  rintro rfl
  obtain ⟨notOff, notRunning⟩ := settled
  rcases Plant.nextToDemand_cases next with ⟨running, deferred⟩ | ⟨off, -, -⟩
  · rcases notRunning with other | no
    · exact other running
    · rw [no] at deferred; cases deferred
  · exact notOff off

/-- Demands given while pump `n` is not asked: it keeps what it has. -/
structure Plant.Passes (n : Fin 6) (p q : Plant) : Prop where
  pump   : q.pump n = p.pump n
  demand : q.demand n = p.demand n
  claims : q.claims = p.claims
  queue  : n ∈ q.queue ↔ n ∈ p.queue
  out    : q.out = p.out

theorem Plant.Passes.refl (n : Fin 6) (p : Plant) : Plant.Passes n p p := ⟨rfl, rfl, rfl, Iff.rfl, rfl⟩

theorem Plant.raiseDemands_passes {p : Plant} {n : Fin 6} (settled : (p.pump n).NotAsked) (k : Nat) :
    Plant.Passes n p (p.raiseDemands k) := by
  refine Plant.raiseDemands_induct (Plant.Passes n p) (fun q m passed next => ?_) k p (.refl n p)
  have other := Plant.giveDemand_other (by rw [passed.pump]; exact settled) next
  obtain ⟨only, -, claims, -, -, out, -⟩ := Plant.giveDemand_facts next
  exact ⟨(only.pumps n other.symm).trans passed.pump, (only.demands n other.symm).trans passed.demand,
    claims.trans passed.claims, (only.queue n other.symm).trans passed.queue, out.trans passed.out⟩

theorem Plant.reexamine_passes {p : Plant} {n : Fin 6} (settled : (p.pump n).NotAsked) : Plant.Passes n p p.reexamine := by
  unfold Plant.reexamine
  split
  · exact Plant.raiseDemands_passes settled 6
  · exact .refl n p

theorem Plant.reexamineAfter_passes {was p : Plant} {n m : Fin 6} (settled : (p.pump n).NotAsked) :
    Plant.Passes n p (was.reexamineAfter p m) := by
  unfold Plant.reexamineAfter
  split
  · exact Plant.reexamine_passes settled
  · exact .refl n p

theorem Plant.Trips.passes {n : Fin 6} {cause : TripCause} {p q r : Plant} (trips : Plant.Trips n cause p q)
    (passes : Plant.Passes n q r) (acts : q.Acts r) : Plant.Trips n cause p r where
  acts := trips.acts.trans acts
  pump := passes.pump.trans trips.pump
  demand := passes.demand.trans trips.demand
  queue := fun mem => trips.queue (passes.queue.mp mem)
  claim := (Plant.claim_of_claims passes.claims _).trans trips.claim
  out := by
    obtain ⟨more, out⟩ := trips.out
    exact ⟨more, passes.out.trans out⟩

theorem Plant.Trips.notAsked {n : Fin 6} {cause : TripCause} {p q : Plant} (trips : Plant.Trips n cause p q) :
    (q.pump n).NotAsked := by
  rw [trips.pump]
  exact ⟨PumpState.noConfusion, Or.inl PumpState.noConfusion⟩

theorem Plant.Trips.reexamineAfter {n : Fin 6} {cause : TripCause} {p q : Plant} (trips : Plant.Trips n cause p q)
    (was : Plant) (m : Fin 6) : Plant.Trips n cause p (was.reexamineAfter q m) :=
  trips.passes (Plant.reexamineAfter_passes trips.notAsked) (Plant.reexamineAfter_acts _ _ _)

theorem Plant.Trips.reexamine {n : Fin 6} {cause : TripCause} {p q : Plant} (trips : Plant.Trips n cause p q) :
    Plant.Trips n cause p q.reexamine :=
  trips.passes (Plant.reexamine_passes trips.notAsked) (Plant.reexamine_acts _)

/-! The end of the event. -/

theorem Plant.Acts.emptied {p q : Plant} {marks : List (Fin 16)} (acts : p.Acts q) :
    p.RunsOnly { q with out := [], marks := marks } := by
  obtain ⟨⟨⟨clock, levels, mode, weirs, sections, raw, debounced, stability⟩, words, bits, corr⟩, -⟩ := acts
  exact ⟨⟨clock, levels, mode, weirs, sections, raw, debounced, stability⟩, words, bits, corr⟩

theorem Plant.Acts.loading {p q : Plant} (acts : p.Acts q) : q.loading = p.loading := by
  unfold Plant.loading
  rw [acts.inputs.mode]

/-- An event that has led through an act to `p`, concluded: the entries, and the plant that it leaves. -/
theorem finish_concluded {s : State} {act : Plant → Plant} {p : Plant} (acted : act s.plant = p.conclude)
    {entries : List Draft} (out : ∃ more, p.out = entries ++ more) :
    s.PlantStep (finish s (s.onPlant act)) entries ∧
      (finish s (s.onPlant act)).plant = { p.conclude with out := [], marks := s.plant.marks } := by
  obtain ⟨more, handed⟩ := out
  obtain ⟨later, appended⟩ := p.conclude_kept.1.2
  refine ⟨finish_onPlant_step s act ⟨more ++ later, ?_⟩, ?_⟩
  · rw [acted, appended, handed, List.append_assoc]
  · rw [finish_onPlant_plant, acted]

theorem Claim.gone_notWaiting : Claim.gone.status ≠ .waiting := ClaimStatus.noConfusion

/-- The end of an event in which a pump has tripped (R43). -/
theorem tripStep_concluded {s : State} {act : Plant → Plant} {p q : Plant} {n : Fin 6} {cause : TripCause}
    (out : p.out = []) (running : p.loading = false) (trips : Plant.Trips n cause p q) (acted : act s.plant = q.conclude) :
    s.TripStep (finish s (s.onPlant act)) p n cause := by
  obtain ⟨more, handed⟩ := trips.out
  obtain ⟨step, plant⟩ := finish_concluded (s := s) acted
    (entries := [tripDraft n cause (p.pump n).state]) ⟨more, by rw [handed, out]; rfl⟩
  obtain ⟨pump, queue, claim⟩ := Plant.conclude_pump_kept q n trips.queue (by rw [trips.claim]; exact Claim.gone_notWaiting)
  have loading : q.loading = false := trips.acts.loading.trans running
  refine ⟨step, ?_, ?_, ?_, ?_, ?_, ?_⟩
  all_goals rw [plant]
  · exact pump.trans trips.pump
  · exact (Plant.demand_of_shadow q.conclude_kept.2.1 n).trans trips.demand
  · exact queue
  · exact claim.trans trips.claim
  · refine ((Plant.conclude_announced loading).trip n).trans ?_
    unfold Plant.tripCondition
    rw [show q.conclude.pumps.get n = _ from pump.trans trips.pump]
    rfl
  · exact (trips.acts.trans q.conclude_kept.acts).emptied

end Sys2Proof.Machine
end

section
/-! The inputs of a pump confirm its start and trip it (R40, R41, R43): O15. -/

namespace Sys2Proof.Machine

/-! A settled line whose reading changes is an event at its owner. -/

theorem debounceExpiry_event {s : State} {l : Fin 30} (input : isInputLine l = true)
    (due : s.plant.lines.stability.get l = .running 0) :
    exec (.debounceExpiry l) s = .next (finish s (s.onPlant (fun p => p.debounce l))) := by
  refine congrArg Host.Outcome.next (if_pos ?_)
  rw [input, due]
  rfl

theorem Plant.debounce_changes {p : Plant} {l : Fin 30} (running : p.loading = false)
    (changes : (p.settleLine l).active l ≠ p.active l) :
    p.debounce l = ((p.settleLine l).lineAct l ((p.settleLine l).active l)).conclude := by
  refine if_neg ?_
  rw [Bool.or_eq_true, beq_iff_eq]
  rintro (loading | same)
  · exact Bool.false_ne_true (running.symm.trans loading)
  · exact changes same

theorem isInputLine_feedback (n : Fin 6) : isInputLine (feedbackLine n) = true := by revert n; decide

theorem isInputLine_fault (n : Fin 6) : isInputLine (faultLine n) = true := by revert n; decide

theorem Plant.lineAct_feedback (p : Plant) (b : Bool) : ∀ n : Fin 6, p.lineAct (feedbackLine n) b = p.feedbackChange n b
  | 0 => rfl | 1 => rfl | 2 => rfl | 3 => rfl | 4 => rfl | 5 => rfl

theorem Plant.lineAct_fault (p : Plant) (b : Bool) : ∀ n : Fin 6, p.lineAct (faultLine n) b = p.faultChange n b
  | 0 => rfl | 1 => rfl | 2 => rfl | 3 => rfl | 4 => rfl | 5 => rfl

/-- The pump confirmed in RUNNING (R40). -/
def Plant.runningPump (p : Plant) (n : Fin 6) : Pump :=
  { p.pump n with state := .running, feedback := .stopped, minRun := .running (p.minRunTime n), deferred := false }

theorem Plant.enterRunning_facts (p : Plant) (n : Fin 6) :
    let q := p.enterRunning n
    q.pump n = p.runningPump n ∧ q.claims = p.claims ∧ q.queue = p.queue ∧
      q.out = p.out ++ [{ source := srcPump n, kind := 0x21, urgent := false, detail := [] }] := by
  refine ⟨p.pump_setPump_same n _, ?_, ?_, ?_⟩
  · unfold Plant.enterRunning
    rw [Plant.append_claims, Plant.setPump_claims]
  · unfold Plant.enterRunning
    rw [Plant.append_queue, Plant.setPump_queue]
  · unfold Plant.enterRunning
    rw [Plant.append_out, Plant.setPump_out]

theorem Plant.feedbackChange_starting {p : Plant} {n : Fin 6} (starting : (p.pump n).state = .starting) :
    p.feedbackChange n true = p.enterRunning n := by
  unfold Plant.feedbackChange
  rw [starting]
  rfl

theorem Plant.feedbackChange_running {p : Plant} {n : Fin 6} (running : (p.pump n).state = .running) :
    p.feedbackChange n false = p.reexamineAfter (p.trip n .feedbackLost) n := by
  unfold Plant.feedbackChange
  rw [running]
  rfl

theorem Plant.faultChange_trips {p : Plant} {n : Fin 6} (tripped : (p.pump n).state = .off ∨ (p.pump n).state = .resting ∨
    (p.pump n).state = .starting ∨ (p.pump n).state = .running) :
    p.faultChange n true = p.reexamineAfter (p.trip n .fault) n := by
  unfold Plant.faultChange
  rcases tripped with state | state | state | state
  all_goals
    rw [state]
    rfl

/-- Settles O15: the confirmation, and `tripStep_concluded` for each cause of a trip. -/
theorem pumpInputsConfirmAndTrip : Obligations.PumpInputsConfirmAndTrip := by
  intro s n out running
  have changed {l : Fin 30} {was now : Bool} (before : s.plant.active l = was) (after : (s.plant.settleLine l).active l = now)
      (differ : now ≠ was) : s.plant.debounce l = ((s.plant.settleLine l).lineAct l now).conclude := by
    have event := Plant.debounce_changes running (l := l) (by rw [before, after]; exact differ)
    rwa [after] at event
  refine ⟨fun due inactive active starting absent held => ?confirm, fun due inactive active states => ?fault,
    fun due active inactive state => ?lost, fun starting due => ?timeout⟩
  case confirm =>
    let p := s.plant.settleLine (feedbackLine n)
    have acted : s.plant.debounce (feedbackLine n) = (p.enterRunning n).conclude := by
      rw [changed inactive active (by decide), Plant.lineAct_feedback, Plant.feedbackChange_starting (p := p) starting]
    obtain ⟨pump, claims, queue, handed⟩ := p.enterRunning_facts n
    obtain ⟨step, plant⟩ := finish_concluded (s := s) (act := fun p => p.debounce (feedbackLine n)) acted
      (entries := [{ source := srcPump n, kind := 0x21, urgent := false, detail := [] }])
      ⟨[], by rw [handed, show p.out = [] from out]; rfl⟩
    have sameClaim : (p.enterRunning n).claim (pumpHolder n) = s.plant.claim (pumpHolder n) :=
      Plant.claim_of_claims claims _
    obtain ⟨pump', -, claim'⟩ := Plant.conclude_pump_kept (p.enterRunning n) n (by rw [queue]; exact absent)
      (by rw [sameClaim, held]; exact ClaimStatus.noConfusion)
    refine ⟨_, debounceExpiry_event (isInputLine_feedback n) due, step, ?_, ?_, ?_⟩
    all_goals rw [plant]
    · exact pump'.trans pump
    · exact claim'.trans sameClaim
    · exact ((p.enterRunning_kept n).acts.trans (Plant.conclude_kept _).acts).emptied
  case fault =>
    refine ⟨_, debounceExpiry_event (isInputLine_fault n) due, tripStep_concluded out running
      ((Plant.trip_trips _ n .fault).reexamineAfter (s.plant.settleLine (faultLine n)) n) ?_⟩
    rw [changed inactive active (by decide), Plant.lineAct_fault, Plant.faultChange_trips (p := s.plant.settleLine (faultLine n)) states]
  case lost =>
    refine ⟨_, debounceExpiry_event (isInputLine_feedback n) due, tripStep_concluded out running
      ((Plant.trip_trips _ n .feedbackLost).reexamineAfter (s.plant.settleLine (feedbackLine n)) n) ?_⟩
    rw [changed active inactive (by decide), Plant.lineAct_feedback, Plant.feedbackChange_running (p := s.plant.settleLine (feedbackLine n)) state]
  case timeout =>
    have isDue : s.plant.feedbackDue n = true := by
      unfold Plant.feedbackDue
      rw [starting, due]
      rfl
    exact ⟨_, congrArg Host.Outcome.next (if_pos isDue), tripStep_concluded out running
      ((Plant.trip_trips _ n .feedback).reexamineAfter s.plant n) rfl⟩

end Sys2Proof.Machine
end

section
/-! The low-low float stops every pump (R52): O16. -/

namespace Sys2Proof.Machine

/-! Each pump in motion stopped in turn. -/

/-- R52: a pump in motion stops for the dry well. -/
def Plant.dryStop (p : Plant) (n : Fin 6) : Plant :=
  if (p.pump n).state.inMotion then p.stopPump n .dryWell else p

/-- What the stops have made of pump `m`, from `p` to `q`. -/
structure Plant.DryStopped (m : Fin 6) (p q : Plant) : Prop where
  still : (p.pump m).state.inMotion = false → q.pump m = p.pump m ∧ q.claim (pumpHolder m) = p.claim (pumpHolder m)
  stops : (p.pump m).state.inMotion = true → (q.pump m).state.inMotion = false ∧ q.claim (pumpHolder m) = .gone ∧
    (p.faultActive m = false → q.pump m = p.restingPump m (p.minOffTime m))

theorem Plant.dryStop_only (p : Plant) (n : Fin 6) : Plant.OnlyPump n p (p.dryStop n) := by
  unfold Plant.dryStop
  split
  · exact p.stopPump_only n _
  · exact .refl n p

theorem Plant.dryStop_acts (p : Plant) (n : Fin 6) : p.Acts (p.dryStop n) := by
  unfold Plant.dryStop
  split
  · exact p.stopPump_acts n _
  · exact .refl p

theorem Plant.dryStop_stopped (p : Plant) (n : Fin 6) : Plant.DryStopped n p (p.dryStop n) := by
  unfold Plant.dryStop
  refine ⟨fun still => ?_, fun moving => ?_⟩
  · rw [if_neg (by rw [still]; exact Bool.false_ne_true)]
    exact ⟨rfl, rfl⟩
  · rw [if_pos moving]
    obtain ⟨motion, claim, -, -⟩ := Plant.enterResting_out_of_motion (p.logStop n .dryWell) n (p.minOffTime n)
    refine ⟨motion, claim, fun quiet => ?_⟩
    rw [Plant.stopPump_rests quiet, Plant.stopped_pump]

theorem Plant.dryStop_out {p : Plant} {n : Fin 6} (quiet : p.faultActive n = false) :
    (p.dryStop n).out = p.out ++ if (p.pump n).state.inMotion then [stopDraft n .dryWell] else [] := by
  unfold Plant.dryStop
  split
  · rw [Plant.stopPump_rests quiet, Plant.stopped_out]
    rfl
  · exact (List.append_nil _).symm

/-- The stops of distinct pumps do not meet. -/
theorem Plant.dryStops_facts (ns : List (Fin 6)) : ∀ p : Plant, ns.Nodup →
    let q := ns.foldl Plant.dryStop p
    (∀ m, m ∉ ns → q.pump m = p.pump m ∧ q.claim (pumpHolder m) = p.claim (pumpHolder m)) ∧
    (∀ m, m ∈ ns → Plant.DryStopped m p q) ∧
    ((∀ m, p.faultActive m = false) →
      q.out = p.out ++ (ns.filter (fun m => (p.pump m).state.inMotion)).map (stopDraft · .dryWell)) := by
  induction ns with
  | nil =>
    intro p _ q
    exact ⟨fun _ _ => ⟨rfl, rfl⟩, fun m mem => (List.not_mem_nil mem).elim, fun _ => (List.append_nil _).symm⟩
  | cons n ns ih =>
    intro p distinct q
    obtain ⟨absent, distinct⟩ := List.nodup_cons.mp distinct
    obtain ⟨others, stops, handed⟩ := ih (p.dryStop n) distinct
    have only := p.dryStop_only n
    have acts := p.dryStop_acts n
    have holder {m : Fin 6} (other : m ≠ n) : pumpHolder m ≠ pumpHolder n := fun same => other (pumpHolder_inj same)
    have fault (m : Fin 6) : (p.dryStop n).faultActive m = p.faultActive m := acts.active _
    refine ⟨fun m out => ?_, fun m mem => ?_, fun quiet => ?_⟩
    · rw [List.mem_cons, not_or] at out
      obtain ⟨pump, claim⟩ := others m out.2
      exact ⟨pump.trans (only.pumps m out.1), claim.trans (only.claims _ (holder out.1))⟩
    · by_cases same : m = n
      · subst same
        obtain ⟨pump, claim⟩ := others m absent
        obtain ⟨still, moves⟩ := p.dryStop_stopped m
        refine ⟨fun at_rest => ?_, fun moving => ?_⟩
        · obtain ⟨pump', claim'⟩ := still at_rest
          exact ⟨pump.trans pump', claim.trans claim'⟩
        · obtain ⟨motion, gone, rests⟩ := moves moving
          refine ⟨?_, claim.trans gone, fun quiet => pump.trans (rests quiet)⟩
          rw [show q.pump m = _ from pump]
          exact motion
      · have mem' := (List.mem_cons.mp mem).resolve_left same
        obtain ⟨still, moves⟩ := stops m mem'
        have pump := only.pumps m same
        have claim := only.claims _ (holder same)
        have off : (p.dryStop n).minOffTime m = p.minOffTime m := by
          unfold Plant.minOffTime Plant.s1 Plant.settingN Plant.setting
          rw [acts.inputs.sections]
        rw [pump, claim] at still
        rw [pump] at moves
        refine ⟨still, fun moving => ?_⟩
        obtain ⟨motion, gone, rests⟩ := moves moving
        refine ⟨motion, gone, fun quiet => ?_⟩
        refine (rests ((fault m).trans quiet)).trans ?_
        unfold Plant.restingPump
        rw [pump, off]
    · have out := handed fun m => (fault m).trans (quiet m)
      rw [Plant.dryStop_out (quiet n)] at out
      refine out.trans ?_
      have rest : ns.filter (fun m => ((p.dryStop n).pump m).state.inMotion) =
          ns.filter (fun m => (p.pump m).state.inMotion) :=
        List.filter_congr fun m mem => by rw [only.pumps m fun same => absent (same ▸ mem)]
      rw [rest, List.append_assoc, List.filter_cons]
      split <;> rfl

/-! The queue flushed and the demands cleared. -/

theorem Plant.leaveQueues_facts (ns : List (Fin 6)) : ∀ p : Plant,
    let q := ns.foldl (fun q n => q.leaveQueue n) p
    q.pumps = p.pumps ∧ q.out = p.out ∧ q.shadow = p.shadow ∧ q.corr = p.corr ∧ q.rakes = p.rakes ∧
    (∀ m, m ∈ q.queue ↔ m ∈ p.queue ∧ m ∉ ns) ∧
    ∀ m, q.claim (pumpHolder m) = if m ∈ ns ∧ (p.claim (pumpHolder m)).status = .waiting then .gone
      else p.claim (pumpHolder m) := by
  induction ns with
  | nil =>
    intro p q
    exact ⟨rfl, rfl, rfl, rfl, rfl, fun m => (and_iff_left List.not_mem_nil).symm,
      fun m => (if_neg fun both => List.not_mem_nil both.1).symm⟩
  | cons n ns ih =>
    intro p q
    obtain ⟨pumps, out, shadow, corr, rakes, queue, claims⟩ := ih (p.leaveQueue n)
    have kept := p.leaveQueue_kept n
    refine ⟨pumps.trans (p.leaveQueue_pumps n), out.trans (p.leaveQueue_out n), shadow.trans kept.2.1,
      corr.trans kept.2.2, rakes.trans (p.leaveQueue_only n).rakes, fun m => ?_, fun m => ?_⟩
    · refine (queue m).trans ?_
      rw [Plant.leaveQueue_queue, mem_filter_ne, List.mem_cons, not_or]
      exact ⟨fun ⟨⟨mem, other⟩, out⟩ => ⟨mem, other, out⟩, fun ⟨mem, other, out⟩ => ⟨⟨mem, other⟩, out⟩⟩
    · refine (claims m).trans ?_
      rw [Plant.leaveQueue_claim]
      by_cases same : m = n
      · subst same
        by_cases waits : (p.claim (pumpHolder m)).status = .waiting
        · simp only [waits, and_self, if_true, List.mem_cons, true_or]
          split <;> rfl
        · simp only [waits, and_false, if_false]
      · have apart : pumpHolder m ≠ pumpHolder n := fun equal => same (pumpHolder_inj equal)
        simp only [apart, false_and, if_false, List.mem_cons, same, false_or]

theorem Plant.flushQueue_facts (p : Plant) :
    p.flushQueue.pumps = p.pumps ∧ p.flushQueue.out = p.out ∧ p.flushQueue.queue = [] ∧ p.flushQueue.rakes = p.rakes ∧
    ∀ m, p.flushQueue.claim (pumpHolder m) = if (p.claim (pumpHolder m)).status = .waiting then .gone
      else p.claim (pumpHolder m) := by
  obtain ⟨pumps, out, -, -, rakes, queue, claims⟩ := Plant.leaveQueues_facts allPumps p
  refine ⟨pumps, out, List.eq_nil_iff_forall_not_mem.mpr fun m mem => ?_, rakes, fun m => (claims m).trans ?_⟩
  · exact ((queue m).mp mem).2 (mem_allPumps m)
  · exact if_congr (and_iff_right (mem_allPumps m)) rfl rfl

theorem Plant.clearRuns_facts (ns : List (Fin 6)) : ∀ p : Plant,
    let q := ns.foldl (fun q n => q.setRun n false) p
    q.pumps = p.pumps ∧ q.out = p.out ∧ q.queue = p.queue ∧ q.claims = p.claims ∧
    ∀ m, q.demand m = if m ∈ ns then false else p.demand m := by
  induction ns with
  | nil => intro p q; exact ⟨rfl, rfl, rfl, rfl, fun m => (if_neg List.not_mem_nil).symm⟩
  | cons n ns ih =>
    intro p q
    obtain ⟨pumps, out, queue, claims, demands⟩ := ih (p.setRun n false)
    refine ⟨pumps.trans (p.setRun_pumps n _), out.trans (p.setRun_out n _), queue.trans (p.setRun_queue n _),
      claims.trans (p.setRun_claims n _), fun m => (demands m).trans ?_⟩
    rw [Plant.demand_setRun]
    by_cases later : m ∈ ns
    · rw [if_pos later, if_pos (List.mem_cons_of_mem _ later)]
    · rw [if_neg later]
      refine if_congr ?_ rfl rfl
      rw [List.mem_cons]
      exact ⟨fun same => Or.inl same.symm, fun either => (either.resolve_right later).symm⟩

theorem allPumps_nodup : allPumps.Nodup := by decide

theorem Plant.dryWell_eq (p : Plant) : p.dryWell =
    (allPumps.foldl (fun q n => q.setRun n false) (allPumps.foldl Plant.dryStop p).flushQueue).putDesired 0 := by
  unfold Plant.dryWell Plant.dryStop
  rfl

/-- R52: what the dry well makes of each pump, of the queue, the demands and the desired count. -/
theorem Plant.dryWell_facts (p : Plant) :
    let q := p.dryWell
    (∀ m, (p.pump m).state.inMotion = false → q.pump m = p.pump m) ∧
    (∀ m, (p.pump m).state.inMotion = true → (q.pump m).state.inMotion = false ∧ q.claim (pumpHolder m) = .gone ∧
      (p.faultActive m = false → q.pump m = p.restingPump m (p.minOffTime m))) ∧
    (∀ m, q.demand m = false) ∧ q.queue = [] ∧ q.desired = 0 ∧ (∀ m, (q.claim (pumpHolder m)).status ≠ .waiting) ∧
    ((∀ m, p.faultActive m = false) →
      q.out = p.out ++ (allPumps.filter (fun m => (p.pump m).state.inMotion)).map (stopDraft · .dryWell)) := by
  rw [Plant.dryWell_eq]
  obtain ⟨-, stops, handed⟩ := Plant.dryStops_facts allPumps p allPumps_nodup
  generalize allPumps.foldl Plant.dryStop p = p1 at stops handed
  obtain ⟨pumps1, out1, queue1, -, claims1⟩ := p1.flushQueue_facts
  obtain ⟨pumps2, out2, queue2, claims2, demands2⟩ := Plant.clearRuns_facts allPumps p1.flushQueue
  generalize allPumps.foldl (fun q n => q.setRun n false) p1.flushQueue = p2 at pumps2 out2 queue2 claims2 demands2
  intro q
  have pump (m : Fin 6) : q.pump m = p1.pump m := congrArg (Vector.get · m) (pumps2.trans pumps1)
  have claim (m : Fin 6) : q.claim (pumpHolder m) =
      if (p1.claim (pumpHolder m)).status = .waiting then .gone else p1.claim (pumpHolder m) :=
    (Plant.claim_of_claims claims2 _).trans (claims1 m)
  refine ⟨fun m still => ?_, fun m moving => ?_, fun m => ?_, queue2.trans queue1, rfl, fun m => ?_, fun quiet => ?_⟩
  · exact (pump m).trans ((stops m (mem_allPumps m)).still still).1
  · obtain ⟨motion, gone, rests⟩ := (stops m (mem_allPumps m)).stops moving
    refine ⟨?_, ?_, fun quiet => (pump m).trans (rests quiet)⟩
    · rw [pump m]; exact motion
    · rw [claim m, gone, if_neg Claim.gone_notWaiting]
  · exact (demands2 m).trans (if_pos (mem_allPumps m))
  · rw [claim m]
    split
    · exact Claim.gone_notWaiting
    · assumption
  · exact (out2.trans out1).trans (handed quiet)

/-- A line settled leaves the readings of the others. -/
theorem Plant.settleLine_active_ne (p : Plant) {l k : Fin 30} (other : k ≠ l) :
    (p.settleLine l).active k = p.active k := by
  unfold Plant.active
  rw [show (p.settleLine l).lines.debounced.get k = p.lines.debounced.get k from vset_get_ne _ _ other.symm]
  rfl

/-- Settles O16: the dry well's stops, and nobody left for the end of the event to serve. -/
theorem lowLowFloatStopsEveryPump : Obligations.LowLowFloatStopsEveryPump := by
  intro s out running due inactive active
  let p := s.plant.settleLine 27
  have acted : s.plant.debounce 27 = p.dryWell.conclude := by
    have event := Plant.debounce_changes running (l := 27) (by
      rw [show s.plant.active 27 = false from inactive, show (s.plant.settleLine 27).active 27 = true from active]
      decide)
    rw [event, show (s.plant.settleLine 27).active 27 = true from active]
    rfl
  have fault (m : Fin 6) : p.faultActive m = s.plant.faultActive m :=
    Plant.settleLine_active_ne s.plant (by revert m; decide)
  have facts := p.dryWell_facts
  have acts := p.dryWell_acts
  generalize p.dryWell = w at facts acts acted
  obtain ⟨still, moves, demands, queue, desired, calm, handed⟩ := facts
  have same := w.conclude_pumps_kept queue calm
  have orders := w.conclude_kept.2
  have entries : ∃ more, w.out = (if ∀ n, s.plant.faultActive n = false
      then ((allPumps.filter (fun n => (s.plant.pump n).state.inMotion)).map (fun n => stopDraft n .dryWell))
      else []) ++ more := by
    have empty : p.out = [] := out
    split
    case isTrue quiet =>
      refine ⟨[], ?_⟩
      rw [handed fun m => (fault m).trans (quiet m), empty, List.append_nil]
      rfl
    case isFalse => exact ⟨w.out, (List.nil_append _).symm⟩
  obtain ⟨step, plant⟩ := finish_concluded (s := s) (act := fun p => p.debounce 27) acted entries
  have loading : w.loading = false := acts.loading.trans running
  refine ⟨_, debounceExpiry_event rfl due, step, fun n => ?_, fun n moving => ?_, fun n at_rest => ?_, ?_, ?_, ?_, ?_⟩
  all_goals rw [plant]
  · refine ⟨?_, ?_⟩
    · show (w.conclude.pump n).state.inMotion = false
      rw [same.pump n]
      cases moving : (s.plant.pump n).state.inMotion with
      | false => rw [still n moving]; exact moving
      | true => exact (moves n moving).1
    · exact (Plant.demand_of_shadow orders.shadow n).trans (demands n)
  · obtain ⟨-, gone, rests⟩ := moves n moving
    exact ⟨(same.2.2.2 n).trans gone, fun quiet => (same.pump n).trans (rests ((fault n).trans quiet))⟩
  · exact (same.pump n).trans (still n at_rest)
  · exact same.2.1.trans queue
  · exact orders.desired.trans desired
  · exact (Plant.conclude_announced loading).lowLow.trans (((acts.trans (Plant.conclude_kept _).acts).active 27).trans active)
  · exact (acts.trans (Plant.conclude_kept _).acts).emptied

end Sys2Proof.Machine
end

section
/-! The timers of a pump (R41, R42, R46, R47, R55): O29. -/

namespace Sys2Proof.Machine

/-! An end of an event at which nothing is left to do. -/

theorem Plant.hand_same {p : Plant} {k : Fin 40} {b : Bool} (same : (p.alarms.points.get k).condition = b) :
    p.hand k b = p := by
  unfold Plant.hand
  rw [if_pos]
  rw [same, beq_self_eq_true, Bool.or_true]

theorem Plant.handEach_same {p : Plant} {views : List Plant} {k : Fin 40} {c : Plant → Bool}
    (same : ∀ v ∈ views, (p.alarms.points.get k).condition = c v) : p.handEach views k c = p := by
  unfold Plant.handEach
  induction views with
  | nil => rfl
  | cons v views ih =>
    rw [List.foldl_cons, Plant.hand_same (same v List.mem_cons_self)]
    exact ih fun w mem => same w (List.mem_cons_of_mem _ mem)

theorem foldl_fixed {α : Type} {f : Plant → α → Plant} {p : Plant} (fixed : ∀ a, f p a = p) (l : List α) :
    l.foldl f p = p := by
  induction l with
  | nil => rfl
  | cons a l ih => rw [List.foldl_cons, fixed a, ih]

/-- Conditions already announced are handed without effect. -/
theorem Plant.handPumps_same {p : Plant} {views : List Plant} (all : ∀ v ∈ views, v = p) (announced : p.Announced) :
    p.handPumps views = p := by
  have quiet (k : Fin 40) (c : Plant → Bool) (same : (p.alarms.points.get k).condition = c p) :
      p.handEach views k c = p := Plant.handEach_same fun v mem => by rw [all v mem]; exact same
  have trips : allPumps.foldl (fun q n => q.handEach views (tripPoint n) (fun v => v.tripCondition n)) p = p :=
    foldl_fixed (fun n => quiet (tripPoint n) (fun v => v.tripCondition n) (announced.trip n)) allPumps
  have limits : allPumps.foldl (fun q n => q.handEach views (limitPoint n) (fun v => v.limitCondition n)) p = p :=
    foldl_fixed (fun n => quiet (limitPoint n) (fun v => v.limitCondition n) (announced.limit n)) allPumps
  unfold Plant.handPumps
  dsimp only
  rw [trips, limits, quiet 31 Plant.floatHighActive announced.high, quiet 32 Plant.lowLowActive announced.lowLow]

theorem Plant.handRakes_same {p : Plant} {views : List Plant} (all : ∀ v ∈ views, v = p) (announced : p.Announced) :
    p.handRakes views = p := by
  have quiet (k : Fin 40) (c : Plant → Bool) (same : (p.alarms.points.get k).condition = c p) :
      p.handEach views k c = p := Plant.handEach_same fun v mem => by rw [all v mem]; exact same
  have jams : allRakes.foldl (fun q n => q.handEach views (jamPoint n) (fun v => (v.rakes.get n).state == .jammed)) p = p :=
    foldl_fixed (fun n => quiet (jamPoint n) (fun v => (v.rakes.get n).state == .jammed) (announced.jam n)) allRakes
  have blinds : allRakes.foldl (fun q n => q.handEach views (blindedPoint n) (fun v => (v.rakes.get n).blinded)) p = p :=
    foldl_fixed (fun n => quiet (blindedPoint n) (fun v => (v.rakes.get n).blinded) (announced.blinded n)) allRakes
  have holds : allRakes.foldl (fun q n => q.handEach views (heldPoint n) (fun v => (v.rakes.get n).held)) p = p :=
    foldl_fixed (fun n => quiet (heldPoint n) (fun v => (v.rakes.get n).held) (announced.held n)) allRakes
  unfold Plant.handRakes
  dsimp only
  rw [jams, blinds, holds]

/-- With nothing to serve and every condition announced the end of an event does nothing. -/
theorem Plant.conclude_nothing {p : Plant} (running : p.loading = false) (nothing : p.serveOnce = none)
    (announced : p.Announced) : p.conclude = p := by
  have parts := Plant.concludeAfter_running running []
  rw [Plant.serve_none nothing] at parts
  have both : ∀ v ∈ ([] ++ [p, p] : List Plant), v = p := by
    intro v mem
    simp only [List.nil_append, List.mem_cons, List.not_mem_nil, or_false, or_self] at mem
    exact mem
  refine parts.trans ?_
  rw [Plant.handPumps_same both announced, Plant.handRakes_same both announced]

theorem Plant.Calm.served {p : Plant} (calm : p.Calm) : p.PumpsServed := ⟨calm.queue, fun _ => calm.claims _⟩

theorem Plant.Calm.serveOnce {p : Plant} (calm : p.Calm) : p.serveOnce = none := by
  rw [Plant.serveOnce_served calm.served, Plant.rakeToGrant_none fun _ waits => absurd waits (calm.claims _),
    Plant.stormTrigger_calm calm.storm]
  rfl

theorem Plant.Calm.still {p : Plant} (calm : p.Calm) (running : p.loading = false) : p.SameUnits p.conclude := by
  obtain ⟨units, -⟩ := Plant.conclude_served running
  rwa [Plant.serve_none calm.serveOnce] at units

/-! The lead of the rotation (R55). -/

theorem Plant.setPump_rotation_still (p : Plant) {n : Fin 6} {x : Pump} (still : (p.pump n).state.inMotion = false)
    (rests : x.state.inMotion = false) : (p.setPump n x).rotation = p.rotation := by
  have count : Plant.runningCount { p with pumps := vset p.pumps n x, marks := p.marks ++ pumpMarks n (p.pump n) x } =
      p.runningCount := by
    unfold Plant.runningCount
    congr 1
    funext m
    show ((vset p.pumps n x).get m).state.inMotion = (p.pump m).state.inMotion
    rw [vset_get]
    split
    case isTrue same => rw [← same, still, rests]
    case isFalse => rfl
  unfold Plant.setPump
  dsimp only
  rw [count, if_neg]
  rw [Bool.and_eq_true, decide_eq_true_eq, beq_iff_eq]
  omega

theorem rotateLead_eq (l : List (Fin 6)) : rotateLead l = l.drop 1 ++ l.take 1 := by cases l <;> rfl

theorem Plant.setPump_rotation_stops (p : Plant) {n : Fin 6} {x : Pump} (moving : (p.pump n).state.inMotion = true)
    (rests : x.state.inMotion = false) : (p.setPump n x).rotation =
      if ∃ m, m ≠ n ∧ (p.pump m).state.inMotion = true then p.rotation else p.rotation.drop 1 ++ p.rotation.take 1 := by
  have before : 0 < p.runningCount := List.countP_pos_iff.mpr ⟨n, mem_allPumps n, moving⟩
  have after : Plant.runningCount { p with pumps := vset p.pumps n x, marks := p.marks ++ pumpMarks n (p.pump n) x } = 0 ↔
      ¬ ∃ m, m ≠ n ∧ (p.pump m).state.inMotion = true := by
    have pump (m : Fin 6) : Plant.pump { p with pumps := vset p.pumps n x, marks := p.marks ++ pumpMarks n (p.pump n) x } m =
        if n = m then x else p.pump m := vset_get _ _ _ _
    unfold Plant.runningCount
    rw [List.countP_eq_zero]
    constructor
    · rintro none ⟨m, other, moves⟩
      refine none m (mem_allPumps m) ?_
      rw [pump m, if_neg other.symm]
      exact moves
    · intro none m _ moves
      rw [pump m] at moves
      split at moves
      · rw [rests] at moves; cases moves
      case isFalse other => exact none ⟨m, Ne.symm other, moves⟩
  unfold Plant.setPump
  dsimp only
  by_cases others : ∃ m, m ≠ n ∧ (p.pump m).state.inMotion = true
  · rw [if_pos others, if_neg]
    rw [Bool.and_eq_true, beq_iff_eq]
    exact fun both => after.mp both.2 others
  · rw [if_neg others, if_pos, ← rotateLead_eq]
    · rfl
    · rw [Bool.and_eq_true, beq_iff_eq, decide_eq_true_eq]
      exact ⟨before, after.mpr others⟩

theorem Plant.stopped_rotation (p : Plant) (n : Fin 6) (x : Pump) : (p.stopped n x).rotation = (p.setPump n x).rotation :=
  (Plant.leaveQueue_kept (p.setPump n x) n).2.rotation

theorem Plant.stopPump_rotation (p : Plant) {n : Fin 6} (moving : (p.pump n).state.inMotion = true) (r : StopReason) :
    (p.stopPump n r).rotation =
      if ∃ m, m ≠ n ∧ (p.pump m).state.inMotion = true then p.rotation else p.rotation.drop 1 ++ p.rotation.take 1 := by
  let q := p.logStop n r
  let x := q.restingPump n (p.minOffTime n)
  have first : (q.stopped n x).rotation = _ := (q.stopped_rotation n x).trans
    (Plant.setPump_rotation_stops (p := q) (n := n) (x := x) moving rfl)
  cases fault : p.faultActive n with
  | false => rw [Plant.stopPump_rests fault]; exact first
  | true =>
    have trips : p.stopPump n r = (q.stopped n x).trip n .fault := Plant.enterResting_trips (p := q) fault _
    have still : ((q.stopped n x).pump n).state.inMotion = false := by rw [Plant.stopped_pump]; rfl
    rw [trips, Plant.trip_eq, Plant.append_rotation]
    have run : ∀ z : Plant, (z.setRun n false).rotation = z.rotation := fun z => by simp [Plant.setRun]
    rw [run, Plant.stopped_rotation, Plant.setPump_rotation_still _ still rfl]
    exact first

/-! Demands re-examined, seen from a pump in OFF. -/

/-- What demands given leave of pump `n` where it is not running: it stays, and a demand or a place it has it keeps; at its
limit it gains neither. -/
structure Plant.Waits (n : Fin 6) (p q : Plant) : Prop where
  acts   : p.Acts q
  pump   : q.pump n = p.pump n
  demand : p.demand n = true → q.demand n = true
  queue  : n ∈ p.queue → n ∈ q.queue
  claims : q.claims = p.claims
  limit  : p.atLimit n = true → p.demand n = false → q.demand n = false ∧ (n ∉ p.queue → n ∉ q.queue)

theorem Plant.Waits.refl (n : Fin 6) (p : Plant) : Plant.Waits n p p :=
  ⟨.refl p, rfl, id, id, rfl, fun _ no => ⟨no, id⟩⟩

theorem Plant.Acts.currentLimit {p q : Plant} (acts : p.Acts q) (n : Fin 6) : q.currentLimit n = p.currentLimit n :=
  acts.inputs.currentLimit n

theorem Plant.Acts.atLimit {p q : Plant} (acts : p.Acts q) {n : Fin 6} (pump : q.pump n = p.pump n) :
    q.atLimit n = p.atLimit n := by
  unfold Plant.atLimit
  rw [acts.currentLimit, show q.pumps.get n = p.pumps.get n from pump]

theorem Plant.reexamine_waits {p : Plant} {n : Fin 6} (still : (p.pump n).state ≠ .running) :
    Plant.Waits n p p.reexamine := by
  refine Plant.reexamine_induct (Plant.Waits n p) (fun q m waits next => ?_) (.refl n p)
  obtain ⟨only, gives, claims, moves, -, -, -⟩ := Plant.giveDemand_facts next
  have acts := waits.acts.trans (q.giveDemand_acts m)
  by_cases same : n = m
  · subst same
    have pump : (q.giveDemand n).pump n = q.pump n := by
      rcases moves with same | ⟨running, -⟩
      · exact same
      · rw [waits.pump] at running
        exact absurd running still
    refine ⟨acts, pump.trans waits.pump, fun _ => gives, fun mem => ?_, claims.trans waits.claims, fun limit no => ?_⟩
    · have joins : q.giveDemand n = (q.setRun n true).joinQueue n := by
        rcases Plant.nextToDemand_cases next with ⟨running, -⟩ | ⟨off, -, -⟩
        · rw [waits.pump] at running
          exact absurd running still
        · exact Plant.giveDemand_off off
      rw [joins, Plant.joinQueue_queue]
      exact Or.inr rfl
    · rcases Plant.nextToDemand_cases next with ⟨running, -⟩ | ⟨-, -, below⟩
      · rw [waits.pump] at running
        exact absurd running still
      · rw [waits.acts.atLimit waits.pump, limit] at below
        cases below
  · refine ⟨acts, (only.pumps n same).trans waits.pump, fun yes => ?_, fun mem => ?_, claims.trans waits.claims,
      fun limit no => ?_⟩
    · rw [only.demands n same]; exact waits.demand yes
    · exact (only.queue n same).mpr (waits.queue mem)
    · obtain ⟨demand, queue⟩ := waits.limit limit no
      rw [only.demands n same]
      exact ⟨demand, fun out mem => queue out ((only.queue n same).mp mem)⟩

/-- A pump in the queue stays there until it starts. -/
theorem Plant.conclude_queued {p : Plant} {n : Fin 6} (queued : n ∈ p.queue) :
    n ∈ p.conclude.queue ∨ (p.conclude.pump n).state.inMotion = true := by
  refine Plant.conclude_induct (fun q => n ∈ q.queue ∨ (q.pump n).state.inMotion = true) ?_ ?_ p (Or.inl queued)
  · intro q r _ units holds
    rw [units.2.2.2.1, units.pump n]
    exact holds
  · intro q r holds round
    rcases Plant.serveOnce_cases round with ⟨m, -, -, rfl⟩ | ⟨m, -, rfl⟩ | ⟨m, -, -, rfl⟩ | ⟨m, -, -, rfl⟩ | ⟨m, -, rfl⟩
    · by_cases same : m = n
      · exact Or.inr ((q.pump_startPump m n).1 same)
      · rw [(q.pump_startPump m n).2 same, Plant.startPump_queue, mem_filter_ne]
        exact holds.imp_left fun mem => ⟨mem, Ne.symm same⟩
    · have same := q.suspendRakes_samePumps
      rw [same.2.1, same.pump n]
      exact holds
    · exact holds
    · have same := q.grantRake_samePumps m
      rw [same.2.1, same.pump n]
      exact holds
    · have same := q.triggerRake_samePumps m .storm
      rw [same.2.1, same.pump n]
      exact holds

/-! The minimum run and the minimum off. -/

/-- The pump whose minimum run has passed. -/
def Plant.minRunPassed (p : Plant) (n : Fin 6) : Plant := p.setPump n { p.pump n with minRun := .stopped }

theorem Plant.minRunPassed_pump (p : Plant) (n m : Fin 6) : ((p.minRunPassed n).pump m).state = (p.pump m).state ∧
    ((p.minRunPassed n).pump m).history = (p.pump m).history := by
  unfold Plant.minRunPassed
  rw [Plant.pump_setPump]
  split
  case isTrue same => rw [same]; exact ⟨rfl, rfl⟩
  case isFalse => exact ⟨rfl, rfl⟩

theorem Plant.minRunPassed_announced {p : Plant} (announced : p.Announced) (n : Fin 6) : (p.minRunPassed n).Announced := by
  have acts := p.setPump_acts n { p.pump n with minRun := .stopped }
  have alarms : (p.minRunPassed n).alarms = p.alarms := p.setPump_alarms n _
  have rakes (m : Fin 2) : (p.minRunPassed n).rake m = p.rake m := congrArg (Vector.get · m) (p.setPump_rakes n _)
  refine ⟨fun m => ?_, fun m => ?_, fun m => ?_, fun m => ?_, fun m => ?_, ?_, ?_⟩
  all_goals rw [alarms]
  · rw [announced.trip m]
    exact (congrArg (· == PumpState.tripped) (p.minRunPassed_pump n m).1).symm
  · rw [announced.limit m]
    unfold Plant.limitCondition Plant.atLimit
    rw [show (p.minRunPassed n).currentLimit m = p.currentLimit m from acts.currentLimit m,
      show ((p.minRunPassed n).pumps.get m).state = (p.pumps.get m).state from (p.minRunPassed_pump n m).1,
      show ((p.minRunPassed n).pumps.get m).history = (p.pumps.get m).history from (p.minRunPassed_pump n m).2]
  · rw [announced.jam m, rakes]
  · rw [announced.blinded m, rakes]
  · rw [announced.held m, rakes]
  · rw [announced.high]; exact (acts.active 26).symm
  · rw [announced.lowLow]; exact (acts.active 27).symm

/-- The pump whose minimum off has passed. -/
def Plant.minOffPassed (p : Plant) (n : Fin 6) : Plant := p.setPump n { p.pump n with state := .off, minOff := .stopped }

theorem Plant.enterOff_fault {p : Plant} {n : Fin 6} (fault : p.faultActive n = true) :
    p.enterOff n = (p.minOffPassed n).trip n .fault :=
  if_pos (((p.setPump_acts n _).active _).trans fault)

theorem Plant.enterOff_quiet {p : Plant} {n : Fin 6} (quiet : p.faultActive n = false) : p.enterOff n =
    if p.demand n then (if p.currentLimit n ≤ (p.pump n).history.length then (p.minOffPassed n).setRun n false
      else (p.minOffPassed n).joinQueue n) else p.minOffPassed n := by
  have acts := p.setPump_acts n { p.pump n with state := .off, minOff := .stopped }
  have demand : (p.minOffPassed n).demand n = p.demand n := Plant.demand_of_shadow (p.setPump_shadow n _) n
  have limit : (p.minOffPassed n).atLimit n = decide (p.currentLimit n ≤ (p.pump n).history.length) := by
    unfold Plant.atLimit
    rw [show (p.minOffPassed n).currentLimit n = p.currentLimit n from acts.currentLimit n,
      show (p.minOffPassed n).pumps.get n = _ from p.pump_setPump_same n _]
  have enters : p.enterOff n = if (p.minOffPassed n).demand n then (if (p.minOffPassed n).atLimit n
      then (p.minOffPassed n).setRun n false else (p.minOffPassed n).joinQueue n) else p.minOffPassed n :=
    if_neg fun fault => Bool.false_ne_true ((((p.setPump_acts n _).active _).trans quiet).symm.trans fault)
  rw [enters, demand, limit]
  refine if_congr Iff.rfl (if_congr ?_ rfl rfl) rfl
  exact decide_eq_true_iff

/-- A pump come to OFF, however its demand stands. -/
theorem Plant.enterOff_off {p : Plant} {n : Fin 6} (quiet : p.faultActive n = false) :
    let q := p.enterOff n
    q.pump n = { p.pump n with state := .off, minOff := .stopped } ∧ q.claims = p.claims ∧
    (p.demand n = true → (p.pump n).history.length < p.currentLimit n → q.demand n = true ∧ n ∈ q.queue) ∧
    (p.demand n = true → p.currentLimit n ≤ (p.pump n).history.length →
      q.demand n = false ∧ (n ∉ p.queue → n ∉ q.queue)) ∧
    (p.demand n = false → q.demand n = false ∧ q.queue = p.queue) := by
  intro q
  have isQ : q = _ := Plant.enterOff_quiet quiet
  have pump : (p.minOffPassed n).pump n = _ := p.pump_setPump_same n _
  have claims : (p.minOffPassed n).claims = p.claims := p.setPump_claims n _
  have queue : (p.minOffPassed n).queue = p.queue := p.setPump_queue n _
  have demand : (p.minOffPassed n).demand n = p.demand n := Plant.demand_of_shadow (p.setPump_shadow n _) n
  rw [isQ]
  cases demanded : p.demand n with
  | false =>
    rw [if_neg Bool.false_ne_true]
    exact ⟨pump, claims, fun yes => absurd yes Bool.false_ne_true, fun yes => absurd yes Bool.false_ne_true,
      fun _ => ⟨demand.trans demanded, queue⟩⟩
  | true =>
    rw [if_pos rfl]
    by_cases limit : p.currentLimit n ≤ (p.pump n).history.length
    · rw [if_pos limit]
      refine ⟨?_, ?_, fun _ below => absurd limit (Nat.not_le.mpr below), fun _ _ => ⟨?_, fun out => ?_⟩,
        fun no => absurd no (by decide)⟩
      · rw [← pump]; exact congrArg (Vector.get · n) (Plant.setRun_pumps _ n _)
      · rw [Plant.setRun_claims, claims]
      · rw [Plant.demand_setRun, if_pos rfl]
      · rw [Plant.setRun_queue, queue]; exact out
    · rw [if_neg limit]
      refine ⟨?_, ?_, fun _ _ => ⟨?_, ?_⟩, fun _ at_limit => absurd at_limit limit, fun no => absurd no (by decide)⟩
      · rw [← pump, Plant.joinQueue_rest]; rfl
      · rw [← claims, Plant.joinQueue_rest]
      · rw [Plant.joinQueue_rest]; exact demand.trans demanded
      · rw [Plant.joinQueue_queue]; exact Or.inr rfl

theorem minimumRunExpiry_exec {s : State} {n : Fin 6} (running : (s.plant.pump n).state = .running)
    (due : (s.plant.pump n).minRun = .running 0) :
    exec (.minimumRunExpiry n) s = .next (finish s (s.onPlant fun p => (p.minRunOver n).conclude)) := by
  have isDue : s.plant.minRunDue n = true := by
    unfold Plant.minRunDue
    rw [running, due]
    rfl
  exact congrArg Host.Outcome.next (if_pos isDue)

/-- The plant after an event, but for the entries and marks that the event handed out. -/
structure Plant.Left (r t : Plant) : Prop where
  pump (n : Fin 6) : t.pump n = r.pump n
  claim (h : Fin 8) : t.claim h = r.claim h
  rake (m : Fin 2) : t.rake m = r.rake m
  demand (n : Fin 6) : t.demand n = r.demand n
  queue : t.queue = r.queue
  rotation : t.rotation = r.rotation
  pumps : t.pumps = r.pumps
  claims : t.claims = r.claims
  rakes : t.rakes = r.rakes
  stagger : t.stagger = r.stagger
  shadow : t.shadow = r.shadow
  corr : t.corr = r.corr
  alarms : t.alarms = r.alarms
  sections : t.sections = r.sections

theorem Plant.left_of_eq {r t : Plant} {marks : List (Fin 16)} (left : t = { r with out := [], marks := marks }) : Plant.Left r t := by
  subst left
  constructor <;> intros <;> rfl

/-- R41: with no stop deferred, the end of the minimum run leaves the pump running. -/
theorem minRunOver_kept {s : State} {n : Fin 6} (out : s.plant.out = []) (loading : s.plant.loading = false)
    (moving : (s.plant.pump n).state.inMotion = true) (deferred : (s.plant.pump n).deferred = false) {t : State}
    (reached : t = finish s (s.onPlant fun p => (p.minRunOver n).conclude)) :
    s.plant.RunsOnly t.plant ∧ s.PlantStep t [] ∧
      t.plant.shadow = s.plant.shadow ∧ t.plant.corr = s.plant.corr ∧ t.plant.rotation = s.plant.rotation ∧
      (n ∉ s.plant.queue → (s.plant.claim (pumpHolder n)).status = .held →
        t.plant.pump n = { s.plant.pump n with minRun := .stopped }) ∧
      (s.plant.Calm → t.plant.pumps = vset s.plant.pumps n { s.plant.pump n with minRun := .stopped } ∧
        t.plant.claims = s.plant.claims ∧ (s.plant.Announced → t.log = s.log)) := by
  subst reached
  have acts1 : s.plant.Acts (s.plant.minRunPassed n) := s.plant.setPump_acts n _
  let p := s.plant.minRunPassed n
  have acted : (s.plant.minRunOver n).conclude = p.conclude :=
    congrArg Plant.conclude (if_neg (by rw [deferred]; exact Bool.false_ne_true))
  obtain ⟨step, plant⟩ := finish_concluded (s := s) (act := fun p => (p.minRunOver n).conclude) acted (entries := [])
    ⟨[], (s.plant.setPump_out n _).trans out⟩
  have orders := p.conclude_kept.2
  refine ⟨?_, step, ?_, ?_, ?_, fun absent held => ?_, fun calm => ⟨?_, ?_, fun announced => ?_⟩⟩
  · rw [plant]
    exact (acts1.trans p.conclude_kept.acts).emptied
  · rw [plant]
    exact orders.shadow.trans (s.plant.setPump_shadow n _)
  · rw [plant]
    exact orders.corr.trans (s.plant.setPump_corr n _)
  · rw [plant]
    exact orders.rotation.trans (s.plant.setPump_rotation_inMotion n _ moving)
  · rw [plant]
    have claim : p.claim (pumpHolder n) = s.plant.claim (pumpHolder n) :=
      Plant.claim_of_claims (s.plant.setPump_claims n _) _
    have queue : p.queue = s.plant.queue := s.plant.setPump_queue n _
    obtain ⟨pump, -, -⟩ := p.conclude_pump_kept n (by rw [queue]; exact absent)
      (by rw [claim, held]; exact ClaimStatus.noConfusion)
    exact pump.trans (s.plant.pump_setPump_same n _)
  all_goals
    have claim (h : Fin 8) : p.claim h = s.plant.claim h := Plant.claim_of_claims (s.plant.setPump_claims n _) h
    have calm' : p.Calm := ⟨(s.plant.setPump_queue n _).trans calm.queue,
      fun h => by rw [claim]; exact calm.claims h,
      (congrArg ModeUnit.storm (s.plant.setPump_mode n _)).trans calm.storm⟩
    have loading' : p.loading = false := acts1.loading.trans loading
  · rw [plant]
    exact (calm'.still loading').1.trans (s.plant.setPump_pumps n _)
  · rw [plant]
    exact (calm'.still loading').2.2.1.trans (s.plant.setPump_claims n _)
  · have nothing : p.conclude = p :=
      Plant.conclude_nothing loading' calm'.serveOnce (Plant.minRunPassed_announced announced n)
    rw [finish_onPlant_log, acted, nothing, show p.out = [] from (s.plant.setPump_out n _).trans out]
    rfl

/-- R41, R55: a deferred stop is made at the end of the minimum run. -/
theorem minRunOver_stops {s : State} {n : Fin 6} (out : s.plant.out = [])
    (moving : (s.plant.pump n).state.inMotion = true) (deferred : (s.plant.pump n).deferred = true) {t : State}
    (reached : t = finish s (s.onPlant fun p => (p.minRunOver n).conclude)) :
    s.plant.RunsOnly t.plant ∧
      s.PlantStep t [{ source := srcPump n, kind := 0x22, urgent := false, detail := detail1 0 }] ∧
      t.plant.claim (pumpHolder n) = { status := .none, units := 0 } ∧
      t.plant.rotation = (if ∃ m, m ≠ n ∧ (s.plant.pump m).state.inMotion = true then s.plant.rotation
        else s.plant.rotation.drop 1 ++ s.plant.rotation.take 1) ∧
      (s.plant.faultActive n = false → t.plant.pump n = { s.plant.pump n with
        state := .resting, deferred := false, feedback := .stopped, minRun := .stopped
        minOff := .running (s.plant.minOffTime n) }) := by
  subst reached
  have acts1 : s.plant.Acts (s.plant.minRunPassed n) := s.plant.setPump_acts n _
  let p := s.plant.minRunPassed n
  have acted : (s.plant.minRunOver n).conclude = (p.stopPump n .demand).conclude :=
    congrArg Plant.conclude (if_pos deferred)
  obtain ⟨more, handed⟩ := p.stopPump_out n .demand
  obtain ⟨step, plant⟩ := finish_concluded (s := s) (act := fun p => (p.minRunOver n).conclude) acted
    (entries := [stopDraft n .demand]) ⟨more, by rw [handed, show p.out = [] from (s.plant.setPump_out n _).trans out]; rfl⟩
  obtain ⟨-, gone, queue, -⟩ := Plant.enterResting_out_of_motion (p.logStop n .demand) n (p.minOffTime n)
  have stops := p.stopPump_acts n .demand
  have kept := (p.stopPump n .demand).conclude_kept
  have absent : n ∉ (p.stopPump n .demand).queue := by
    rw [show (p.stopPump n .demand).queue = _ from queue, mem_filter_ne]
    exact fun both => both.2 rfl
  obtain ⟨pump, -, claim⟩ := Plant.conclude_pump_kept (p.stopPump n .demand) n absent
    (by rw [show (p.stopPump n .demand).claim _ = _ from gone]; exact Claim.gone_notWaiting)
  have left := Plant.left_of_eq (r := (p.stopPump n .demand).conclude) plant
  refine ⟨?_, step, (left.claim _).trans (claim.trans gone), left.rotation.trans ?_, fun quiet => (left.pump n).trans ?_⟩
  · rw [plant]
    exact ((acts1.trans stops).trans kept.acts).emptied
  · have moving' : (p.pump n).state.inMotion = true := by rw [(s.plant.minRunPassed_pump n n).1]; exact moving
    refine kept.2.rotation.trans ((p.stopPump_rotation moving' .demand).trans ?_)
    rw [show p.rotation = s.plant.rotation from s.plant.setPump_rotation_inMotion n _ moving]
    refine if_congr (exists_congr fun m => and_congr_right fun _ => ?_) rfl rfl
    rw [(s.plant.minRunPassed_pump n m).1]
  · refine pump.trans ?_
    rw [Plant.stopPump_rests ((acts1.active _).trans quiet), Plant.stopped_pump]
    have own : p.pump n = { s.plant.pump n with minRun := .stopped } := s.plant.pump_setPump_same n _
    have off : p.minOffTime n = s.plant.minOffTime n := by
      unfold Plant.minOffTime Plant.s1 Plant.settingN Plant.setting
      rw [acts1.inputs.sections]
    unfold Plant.restingPump
    rw [own, off]

/-- R42, R43, R47: the end of the minimum off. -/
theorem minimumOffExpiry_step {s : State} {n : Fin 6} (out : s.plant.out = []) (loading : s.plant.loading = false)
    (resting : (s.plant.pump n).state = .resting) (due : (s.plant.pump n).minOff = .running 0) :
    ∃ t, exec (.minimumOffExpiry n) s = .next t ∧ s.PlantStep t [] ∧ s.plant.RunsOnly t.plant ∧
      (s.plant.faultActive n = true →
        s.TripStep t (s.plant.setPump n { s.plant.pump n with state := .off, minOff := .stopped }) n .fault) ∧
      (s.plant.faultActive n = false →
        ((t.plant.pump n).state = .off ∨ (t.plant.pump n).state.inMotion = true) ∧
        (s.plant.demand n = true → (s.plant.pump n).history.length < s.plant.currentLimit n →
          t.plant.demand n = true ∧ (n ∈ t.plant.queue ∨ (t.plant.pump n).state.inMotion = true)) ∧
        (s.plant.demand n = true → s.plant.currentLimit n ≤ (s.plant.pump n).history.length →
          n ∉ s.plant.queue → (s.plant.claim (pumpHolder n)).status ≠ .waiting →
          t.plant.demand n = false ∧ n ∉ t.plant.queue ∧
          t.plant.pump n = { s.plant.pump n with state := .off, minOff := .stopped }) ∧
        (s.plant.demand n = false → s.plant.mode.mode = .auto → n ∉ s.plant.queue →
          (s.plant.claim (pumpHolder n)).status ≠ .waiting →
          t.plant.pump n = { s.plant.pump n with state := .off, minOff := .stopped })) := by
  have isDue : s.plant.minOffDue n = true := by
    unfold Plant.minOffDue
    rw [resting, due]
    rfl
  have run : exec (.minimumOffExpiry n) s = .next (finish s (s.onPlant fun p => ((p.enterOff n).reexamine).conclude)) :=
    congrArg Host.Outcome.next (if_pos isDue)
  have acts : s.plant.Acts (s.plant.enterOff n).reexamine := (s.plant.enterOff_acts n).trans (Plant.reexamine_acts _)
  obtain ⟨q, isQ⟩ : ∃ q, q = (s.plant.enterOff n).reexamine := ⟨_, rfl⟩
  rw [← isQ] at acts
  have acted : ((s.plant.enterOff n).reexamine).conclude = q.conclude := by rw [isQ]
  obtain ⟨step, plant⟩ := finish_concluded (s := s) (act := fun p => ((p.enterOff n).reexamine).conclude) acted
    (entries := []) ⟨q.out, rfl⟩
  have kept := q.conclude_kept
  have left := Plant.left_of_eq (r := q.conclude) plant
  refine ⟨_, run, step, ?_, fun fault => ?_, fun quiet => ?_⟩
  · rw [plant]
    exact (acts.trans kept.acts).emptied
  · refine tripStep_concluded ((s.plant.setPump_out n _).trans out) (((s.plant.setPump_acts n _).loading).trans loading)
      (q := q) ?_ acted
    show Plant.Trips n .fault (s.plant.minOffPassed n) q
    rw [isQ, Plant.enterOff_fault fault]
    exact (Plant.trip_trips _ n .fault).reexamine
  · obtain ⟨pump, claims, joins, loses, without⟩ := Plant.enterOff_off quiet
    have waits : Plant.Waits n (s.plant.enterOff n) q := by
      rw [isQ]
      exact Plant.reexamine_waits (by rw [pump]; exact PumpState.noConfusion)
    have demandKept := (left.demand n).trans (Plant.demand_of_shadow kept.2.shadow n)
    have pumpQ : q.pump n = { s.plant.pump n with state := .off, minOff := .stopped } := waits.pump.trans pump
    have still (absent : n ∉ q.queue) (free : (s.plant.claim (pumpHolder n)).status ≠ .waiting) :=
      q.conclude_pump_kept n absent (by
        rw [Plant.claim_of_claims waits.claims, Plant.claim_of_claims claims]; exact free)
    refine ⟨?_, fun demand below => ?_, fun demand limit absent free => ?_, fun demand auto absent free => ?_⟩
    · rw [left.pump]
      rcases q.conclude_pump n with same | moving
      · rw [same, pumpQ]; exact Or.inl rfl
      · exact Or.inr moving
    · obtain ⟨demanded, queued⟩ := joins demand below
      rw [left.queue, left.pump]
      exact ⟨demandKept.trans (waits.demand demanded), Plant.conclude_queued (waits.queue queued)⟩
    · obtain ⟨cleared, out'⟩ := loses demand limit
      have atLimit : (s.plant.enterOff n).atLimit n = true := by
        unfold Plant.atLimit
        rw [(s.plant.enterOff_acts n).currentLimit, show (s.plant.enterOff n).pumps.get n = _ from pump]
        exact decide_eq_true limit
      obtain ⟨demand', queue'⟩ := waits.limit atLimit cleared
      obtain ⟨same, away, -⟩ := still (queue' (out' absent)) free
      rw [left.queue, left.pump]
      exact ⟨demandKept.trans demand', away, same.trans pumpQ⟩
    · obtain ⟨-, sameQueue⟩ := without demand
      have inAuto : (s.plant.enterOff n).inLocal = false := by
        unfold Plant.inLocal
        rw [(s.plant.enterOff_acts n).inputs.mode, auto]
        rfl
      have same : q = s.plant.enterOff n := isQ.trans (if_neg (by rw [inAuto]; exact Bool.false_ne_true))
      obtain ⟨same', -, -⟩ := still (by rw [same, sameQueue]; exact absent) free
      exact (left.pump n).trans (same'.trans pumpQ)

/-- R46: starts older than 3600 s leave the history. -/
theorem startHistoryAgeOut_step {s : State} {n : Fin 6} {u : Time} {rest : List Time}
    (loading : s.plant.loading = false) (history : (s.plant.pump n).history = u :: rest)
    (old : 3600 ≤ (s.plant.clock.uptime - u).toNat) :
    ∃ t, exec (.startHistoryAgeOut n) s = .next t ∧ s.PlantStep t [] ∧ s.plant.RunsOnly t.plant ∧
      (t.plant.alarms.points.get (limitPoint n)).condition =
        ((t.plant.pump n).state != .absent && decide (t.plant.currentLimit n ≤ (t.plant.pump n).history.length)) ∧
      (s.plant.mode.mode = .auto → n ∉ s.plant.queue → (s.plant.claim (pumpHolder n)).status ≠ .waiting →
        t.plant.pump n = { s.plant.pump n with
          history := (s.plant.pump n).history.dropWhile
            (fun x => decide (3600 ≤ (s.plant.clock.uptime - x).toNat)) } ∧
        ∀ m, s.plant.demand m = t.plant.demand m) := by
  have isDue : s.plant.ageDue n = true := by
    unfold Plant.ageDue
    rw [history]
    exact decide_eq_true old
  have run : exec (.startHistoryAgeOut n) s = .next (finish s (s.onPlant fun p => ((p.ageOut n).reexamine).conclude)) :=
    congrArg Host.Outcome.next (if_pos isDue)
  let q := (s.plant.ageOut n).reexamine
  have acts : s.plant.Acts q := (s.plant.ageOut_acts n).trans (Plant.reexamine_acts _)
  obtain ⟨step, plant⟩ := finish_concluded (s := s) (act := fun p => ((p.ageOut n).reexamine).conclude) (p := q) rfl
    (entries := []) ⟨q.out, rfl⟩
  have kept := q.conclude_kept
  refine ⟨_, run, step, ?_, ?_, fun auto absent free => ?_⟩
  all_goals rw [plant]
  · exact (acts.trans kept.acts).emptied
  · exact (Plant.conclude_announced (acts.loading.trans loading)).limit n
  · have inAuto : (s.plant.ageOut n).inLocal = false := by
      unfold Plant.inLocal
      rw [(s.plant.ageOut_acts n).inputs.mode, auto]
      rfl
    have same : q = s.plant.ageOut n := if_neg (by rw [inAuto]; exact Bool.false_ne_true)
    have aged : q.pump n = { s.plant.pump n with
        history := (s.plant.pump n).history.dropWhile fun x => decide (3600 ≤ s.plant.since x) } := by
      rw [same]
      exact s.plant.pump_setPump_same n _
    obtain ⟨pump, -, -⟩ := q.conclude_pump_kept n
      (by rw [same, show (s.plant.ageOut n).queue = _ from s.plant.setPump_queue n _]; exact absent)
      (by rw [same, show (s.plant.ageOut n).claim _ = _ from Plant.claim_of_claims (s.plant.setPump_claims n _) _]; exact free)
    refine ⟨pump.trans aged, fun m => ?_⟩
    refine Eq.symm ((Plant.demand_of_shadow kept.2.shadow m).trans ?_)
    rw [same]
    exact Plant.demand_of_shadow (s.plant.setPump_shadow n _) m

/-- Settles O29: the three expiries. -/
theorem pumpTimersExpire : Obligations.PumpTimersExpire := by
  intro s n out loading
  refine ⟨fun running due => ⟨_, minimumRunExpiry_exec running due, ?_⟩, minimumOffExpiry_step out loading,
    fun _ _ => startHistoryAgeOut_step loading⟩
  have moving : (s.plant.pump n).state.inMotion = true := by rw [running]; rfl
  cases deferred : (s.plant.pump n).deferred with
  | false =>
    obtain ⟨acts, kept⟩ := minRunOver_kept out loading moving deferred rfl
    exact ⟨acts, fun _ => kept, fun yes => absurd yes Bool.false_ne_true⟩
  | true =>
    obtain ⟨acts, stops⟩ := minRunOver_stops out moving deferred rfl
    exact ⟨acts, fun no => absurd no.symm Bool.false_ne_true, fun _ => stops⟩

end Sys2Proof.Machine
end

section
/-! The load budget: what its entries hold, what each of its rounds makes of them, and the start of the queue's head
(R26 to R29, R37 to R39). -/

namespace Sys2Proof.Machine

/-! The units held. -/

/-- The units that an entry holds (R26). -/
def Claim.load (c : Claim) : Nat := if c.status = .held then c.units else 0

theorem Claim.load_held {c : Claim} (held : c.status = .held) : c.load = c.units := if_pos held

theorem Claim.load_other {c : Claim} (other : c.status ≠ .held) : c.load = 0 := if_neg other

theorem Plant.heldUnits_eq_sum (p : Plant) : p.heldUnits = ∑ h : Fin 8, (p.claim h).load := by
  rw [Fin.sum_univ_eight]
  show (allHolders.map fun h => (p.claim h).load).sum = _
  simp only [allHolders, List.map_cons, List.map_nil, List.sum_cons, List.sum_nil]
  omega

theorem Plant.setClaim_heldUnits (p : Plant) (h : Fin 8) (c : Claim) :
    (p.setClaim h c).heldUnits + (p.claim h).load = p.heldUnits + c.load := by
  have others : ∑ k ∈ Finset.univ.erase h, ((p.setClaim h c).claim k).load =
      ∑ k ∈ Finset.univ.erase h, (p.claim k).load :=
    Finset.sum_congr rfl fun k mem => by rw [p.claim_setClaim_ne (Finset.ne_of_mem_erase mem).symm]
  rw [Plant.heldUnits_eq_sum, Plant.heldUnits_eq_sum, ← Finset.add_sum_erase _ _ (Finset.mem_univ h),
    ← Finset.add_sum_erase _ (fun k => (p.claim k).load) (Finset.mem_univ h), others, Plant.claim_setClaim_same]
  omega

theorem Plant.heldUnits_of_claims {p q : Plant} (claims : q.claims = p.claims) : q.heldUnits = p.heldUnits :=
  Plant.heldUnits_congr fun _ => Or.inl (Plant.claim_of_claims claims _)

/-- The units that the pumps hold. -/
def Plant.pumpHeldUnits (p : Plant) : Nat := (allPumps.map fun n => (p.claim (pumpHolder n)).load).sum

theorem Plant.pumpHeldUnits_of_claims {p q : Plant} (same : ∀ n, q.claim (pumpHolder n) = p.claim (pumpHolder n)) :
    q.pumpHeldUnits = p.pumpHeldUnits :=
  congrArg List.sum (List.map_congr_left fun n _ => congrArg Claim.load (same n))

theorem sum_units_of_held (claim : Fin 2 → Claim) (rakes : List (Fin 2)) :
    ((rakes.filter fun n => (claim n).status == .held).map fun n => (claim n).units).sum =
      (rakes.map fun n => (claim n).load).sum := by
  induction rakes with
  | nil => rfl
  | cons n rest ih =>
    rw [List.map_cons, List.sum_cons, ← ih]
    by_cases held : (claim n).status = .held
    · rw [List.filter_cons, if_pos (beq_iff_eq.mpr held), List.map_cons, List.sum_cons, Claim.load_held held]
    · rw [List.filter_cons, if_neg (fun yes => held (beq_iff_eq.mp yes)), Claim.load_other held, Nat.zero_add]

theorem Plant.rakeHeldUnits_eq_sum (p : Plant) :
    p.rakeHeldUnits = (allRakes.map fun n => (p.claim (rakeHolder n)).load).sum :=
  sum_units_of_held (fun n => p.claim (rakeHolder n)) allRakes

theorem Plant.rakeHeldUnits_of_claims {p q : Plant} (same : ∀ n, q.claim (rakeHolder n) = p.claim (rakeHolder n)) :
    q.rakeHeldUnits = p.rakeHeldUnits := by
  rw [Plant.rakeHeldUnits_eq_sum, Plant.rakeHeldUnits_eq_sum]
  exact congrArg List.sum (List.map_congr_left fun n _ => congrArg Claim.load (same n))

theorem Plant.rakeHeldUnits_none {p : Plant} (free : ∀ n, (p.claim (rakeHolder n)).status ≠ .held) : p.rakeHeldUnits = 0 := by
  have still : p.rakesInMotion = [] := List.filter_eq_nil_iff.mpr fun n _ held => free n (beq_iff_eq.mp held)
  unfold Plant.rakeHeldUnits
  rw [still]
  rfl

theorem Plant.heldUnits_split (p : Plant) : p.heldUnits = p.pumpHeldUnits + p.rakeHeldUnits := by
  have holders : allHolders = allPumps.map pumpHolder ++ allRakes.map rakeHolder := by decide
  rw [Plant.rakeHeldUnits_eq_sum]
  show (allHolders.map fun h => (p.claim h).load).sum = _
  rw [holders, List.map_append, List.sum_append, List.map_map, List.map_map]
  rfl

/-! No round of the load budget takes more than the budget gives (R26, R29). -/

theorem Plant.setClaim_releases (p : Plant) (h : Fin 8) {c : Claim} (released : c.status ≠ .held) :
    (p.setClaim h c).heldUnits ≤ p.heldUnits := by
  have := p.setClaim_heldUnits h c
  rw [Claim.load_other released] at this
  omega

theorem Plant.setClaim_grants {p : Plant} {h : Fin 8} (waits : (p.claim h).status = .waiting) :
    (p.setClaim h { p.claim h with status := .held }).heldUnits = p.heldUnits + (p.claim h).units := by
  have := p.setClaim_heldUnits h { p.claim h with status := .held }
  rw [Claim.load_other (c := p.claim h) (by rw [waits]; exact ClaimStatus.noConfusion), Claim.load_held rfl] at this
  exact this

theorem Plant.checkOverload_claims (p : Plant) (n : Fin 2) : (p.checkOverload n).claims = p.claims := by
  unfold Plant.checkOverload
  split
  · rfl
  · rfl

theorem Plant.startRake_claims (p : Plant) (n : Fin 2) : (p.startRake n).claims = p.claims :=
  Plant.checkOverload_claims (p.rakeStarted n) n

theorem Plant.backInRaking_releases (p : Plant) (n : Fin 2) : (p.backInRaking n).heldUnits ≤ p.heldUnits := by
  unfold Plant.backInRaking
  split
  · exact Plant.setClaim_releases p (rakeHolder n) (c := .gone) ClaimStatus.noConfusion
  · exact (Plant.heldUnits_of_claims (p.checkOverload_claims n)).le

theorem Plant.resumeRake_releases (p : Plant) (n : Fin 2) : (p.resumeRake n).heldUnits ≤ p.heldUnits := by
  unfold Plant.resumeRake
  dsimp only
  split
  · exact le_refl _
  · exact Plant.backInRaking_releases _ n

theorem Plant.grantRake_heldUnits {p : Plant} {n : Fin 2} (waits : (p.claim (rakeHolder n)).status = .waiting) :
    (p.grantRake n).heldUnits ≤ p.heldUnits + (p.claim (rakeHolder n)).units := by
  have granted := Plant.setClaim_grants waits
  unfold Plant.grantRake
  dsimp only
  split
  · rw [Plant.heldUnits_of_claims (Plant.startRake_claims _ n), granted]
  · exact (Plant.resumeRake_releases _ n).trans granted.le
  all_goals exact Nat.le_add_right _ _

theorem Plant.startPump_heldUnits {p : Plant} {n : Fin 6} (waits : (p.claim (pumpHolder n)).status = .waiting) :
    (p.startPump n).heldUnits = p.heldUnits + (p.claim (pumpHolder n)).units := by
  rw [← Plant.setClaim_grants waits]
  exact Plant.heldUnits_of_claims (p.startPump_claims n)

theorem Plant.suspendRakes_heldUnits_le (p : Plant) : p.suspendRakes.heldUnits ≤ p.heldUnits :=
  foldl_rel (fun q r : Plant => r.heldUnits ≤ q.heldUnits) (fun _ => le_refl _) (fun _ _ _ first second => second.trans first)
    (fun (q : Plant) n => q.suspendRake n)
    (fun q n => (q.setRake n _).setClaim_releases (rakeHolder n) (c := { q.claim (rakeHolder n) with status := .waiting })
      ClaimStatus.noConfusion) _ p

theorem Plant.serveOnce_within {p q : Plant} (round : p.serveOnce = some q) (within : p.withinBudget) : q.withinBudget := by
  unfold Plant.withinBudget at within ⊢
  rw [(Plant.serveOnce_kept round).acts.inputs.budget]
  rcases Plant.serveOnce_cases round with ⟨n, found, fits, rfl⟩ | ⟨n, _, rfl⟩ | ⟨n, _, _, rfl⟩ | ⟨n, _, found, rfl⟩ | ⟨n, _, rfl⟩
  · rw [Plant.startPump_heldUnits (Plant.waitingPump_status found)]
    exact of_decide_eq_true fits
  · exact p.suspendRakes_heldUnits_le.trans within
  · exact (p.setClaim_releases _ ClaimStatus.noConfusion).trans within
  · have fits := (Bool.and_eq_true _ _ ▸ List.find?_some found).2
    exact (Plant.grantRake_heldUnits (Plant.rakeToGrant_waiting found)).trans (of_decide_eq_true fits)
  · exact ((p.setRake n _).setClaim_releases (rakeHolder n) ClaimStatus.noConfusion).trans within

theorem Plant.withinBudget_of_claims {p q : Plant} (claims : q.claims = p.claims) (inputs : p.SameInputs q) :
    p.withinBudget → q.withinBudget := by
  unfold Plant.withinBudget
  rw [Plant.heldUnits_of_claims claims, inputs.budget]
  exact id

theorem Plant.conclude_within {p : Plant} (within : p.withinBudget) : p.conclude.withinBudget :=
  Plant.conclude_induct Plant.withinBudget
    (fun _ _ kept units within => Plant.withinBudget_of_claims units.2.2.1 kept.acts.inputs within)
    (fun _ _ within round => Plant.serveOnce_within round within) p within

/-! Rounds that leave the pumps alone. -/

/-- No pump claim waits and the stagger runs: the budget has no pump to serve. -/
structure Plant.GateShut (p : Plant) : Prop where
  running : p.stagger.isRunning = true
  free    : ∀ n, (p.claim (pumpHolder n)).status ≠ .waiting

theorem Plant.GateShut.of_samePumps {p q : Plant} (shut : p.GateShut) (same : p.SamePumps q) : q.GateShut :=
  ⟨by rw [same.2.2.1]; exact shut.running, fun n => by rw [same.2.2.2 n]; exact shut.free n⟩

theorem Plant.waitingPump_none {p : Plant} (free : ∀ n, (p.claim (pumpHolder n)).status ≠ .waiting) : p.waitingPump = none :=
  List.find?_eq_none.mpr fun n _ waits => free n (beq_iff_eq.mp waits)

theorem Plant.waitingPump_only {p : Plant} {n : Fin 6} (waits : (p.claim (pumpHolder n)).status = .waiting)
    (others : ∀ m, m ≠ n → (p.claim (pumpHolder m)).status ≠ .waiting) : p.waitingPump = some n := by
  cases found : p.waitingPump with
  | none => exact absurd (beq_iff_eq.mpr waits) (List.find?_eq_none.mp found n (mem_allPumps n))
  | some m =>
    by_contra other
    exact others m (fun same => other (congrArg some same)) (Plant.waitingPump_status found)

theorem Plant.serveOnce_shut {p q : Plant} (shut : p.GateShut) (round : p.serveOnce = some q) :
    (∃ m, p.rakeToGrant = some m ∧ q = p.grantRake m) ∨ ∃ m, p.stormTrigger = some m ∧ q = p.triggerRake m .storm := by
  have barred : p.claimToEnter = none := by
    refine if_neg ?_
    unfold Plant.gateFree
    rw [shut.running, Bool.not_true, Bool.and_false]
    exact Bool.false_ne_true
  rcases Plant.serveOnce_cases round with ⟨m, found, _, rfl⟩ | ⟨m, found, rfl⟩ | ⟨m, _, found, rfl⟩ | ⟨m, _, found, rfl⟩ |
    ⟨m, found, rfl⟩
  · rw [Plant.waitingPump_none shut.free] at found; cases found
  · rw [Plant.waitingPump_none shut.free] at found; cases found
  · rw [barred] at found; cases found
  · exact Or.inl ⟨m, found, rfl⟩
  · exact Or.inr ⟨m, found, rfl⟩

theorem Plant.serveOnce_shut_samePumps {p q : Plant} (shut : p.GateShut) (round : p.serveOnce = some q) : p.SamePumps q := by
  rcases Plant.serveOnce_shut shut round with ⟨m, _, rfl⟩ | ⟨m, _, rfl⟩
  · exact p.grantRake_samePumps m
  · exact p.triggerRake_samePumps m .storm

theorem Plant.serve_shut {p : Plant} (shut : p.GateShut) (k : Nat) : p.SamePumps (p.serve k) :=
  Plant.serve_induct p.SamePumps
    (fun _ _ same round => same.trans (Plant.serveOnce_shut_samePumps (shut.of_samePumps same) round)) k p (.refl p)

/-- R29: a suspended rake whose units do not fit beside those of the pumps stays suspended. -/
theorem Plant.serve_shut_rake {p : Plant} (shut : p.GateShut) {m : Fin 2} (suspended : (p.rake m).state = .suspended)
    (short : p.budget < p.pumpHeldUnits + (p.claim (rakeHolder m)).units) (k : Nat) :
    (p.serve k).rake m = p.rake m ∧ (p.serve k).claim (rakeHolder m) = p.claim (rakeHolder m) := by
  have law : p.SamePumps (p.serve k) ∧ p.SameInputs (p.serve k) ∧ (p.serve k).rake m = p.rake m ∧
      (p.serve k).claim (rakeHolder m) = p.claim (rakeHolder m) := by
    refine Plant.serve_induct (fun q => p.SamePumps q ∧ p.SameInputs q ∧ q.rake m = p.rake m ∧
      q.claim (rakeHolder m) = p.claim (rakeHolder m)) ?_ k p ⟨.refl p, .refl p, rfl, rfl⟩
    rintro q r ⟨same, inputs, rake, claim⟩ round
    have shut' := shut.of_samePumps same
    refine ⟨same.trans (Plant.serveOnce_shut_samePumps shut' round),
      inputs.trans (Plant.serveOnce_kept round).acts.inputs, ?_⟩
    have other {j : Fin 2} (apart : m ≠ j) (only : Plant.OnlyRake j q r) : r.rake m = p.rake m ∧
        r.claim (rakeHolder m) = p.claim (rakeHolder m) :=
      ⟨(only.1 m apart).trans rake, (only.2 _ fun same => apart (rakeHolder_inj same)).trans claim⟩
    rcases Plant.serveOnce_shut shut' round with ⟨j, found, rfl⟩ | ⟨j, found, rfl⟩
    · refine other ?_ (q.grantRake_only j)
      rintro rfl
      have fits : q.heldUnits + (q.claim (rakeHolder m)).units ≤ q.budget :=
        of_decide_eq_true (Bool.and_eq_true _ _ ▸ List.find?_some found).2
      rw [claim, inputs.budget, Plant.heldUnits_split, Plant.pumpHeldUnits_of_claims same.2.2.2] at fits
      omega
    · refine other ?_ (q.triggerRake_only j .storm)
      rintro rfl
      have idle := (Plant.stormTrigger_idle found).2
      rw [rake, suspended] at idle
      cases idle
  exact law.2.2

/-- R28: the claim of pump `n` waits, and even the units of the rakes in motion do not make room for it. -/
structure Plant.Starved (p : Plant) (n : Fin 6) : Prop where
  waits : p.waitingPump = some n
  short : p.budget < p.pumpHeldUnits + (p.claim (pumpHolder n)).units

theorem Plant.Starved.round {p q : Plant} {n : Fin 6} (starved : p.Starved n) (round : p.serveOnce = some q) :
    ∃ m, p.stormTrigger = some m ∧ q = p.triggerRake m .storm := by
  have split := p.heldUnits_split
  have short := starved.short
  have tight : ¬ p.fits (pumpHolder n) = true := fun fits => by
    have : p.heldUnits + (p.claim (pumpHolder n)).units ≤ p.budget := of_decide_eq_true fits
    omega
  unfold Plant.serveOnce at round
  dsimp only at round
  rw [starved.waits] at round
  dsimp only at round
  rw [if_neg tight, if_neg (by omega)] at round
  obtain ⟨m, found, reached⟩ := Option.map_eq_some_iff.mp round
  exact ⟨m, found, reached.symm⟩

theorem Plant.Starved.of_samePumps {p q : Plant} {n : Fin 6} (starved : p.Starved n) (same : p.SamePumps q)
    (inputs : p.SameInputs q) : q.Starved n where
  waits := by
    have statuses : q.waitingPump = p.waitingPump := by
      unfold Plant.waitingPump
      simp only [same.2.2.2]
    exact statuses.trans starved.waits
  short := by
    rw [inputs.budget, Plant.pumpHeldUnits_of_claims same.2.2.2, same.2.2.2]
    exact starved.short

/-- R28: where nothing makes room the claim waits, and each rake that is not idle goes on. -/
theorem Plant.Starved.serve {p : Plant} {n : Fin 6} (starved : p.Starved n) (k : Nat) :
    p.SamePumps (p.serve k) ∧ ∀ m, (p.rake m).state ≠ .idle →
      (p.serve k).rake m = p.rake m ∧ (p.serve k).claim (rakeHolder m) = p.claim (rakeHolder m) := by
  have law : p.SamePumps (p.serve k) ∧ p.SameInputs (p.serve k) ∧ ∀ m, (p.rake m).state ≠ .idle →
      (p.serve k).rake m = p.rake m ∧ (p.serve k).claim (rakeHolder m) = p.claim (rakeHolder m) := by
    refine Plant.serve_induct (fun q => p.SamePumps q ∧ p.SameInputs q ∧ ∀ m, (p.rake m).state ≠ .idle →
      q.rake m = p.rake m ∧ q.claim (rakeHolder m) = p.claim (rakeHolder m)) ?_ k p ⟨.refl p, .refl p, fun _ _ => ⟨rfl, rfl⟩⟩
    rintro q r ⟨same, inputs, still⟩ round
    obtain ⟨j, found, rfl⟩ := (starved.of_samePumps same inputs).round round
    refine ⟨same.trans (q.triggerRake_samePumps j .storm), inputs.trans (q.triggerRake_kept j .storm).acts.inputs,
      fun m busy => ?_⟩
    obtain ⟨rake, claim⟩ := still m busy
    have apart : m ≠ j := by
      rintro rfl
      exact busy (rake ▸ (Plant.stormTrigger_idle found).2)
    obtain ⟨rakes, claims⟩ := q.triggerRake_only j .storm
    exact ⟨(rakes m apart).trans rake, (claims _ fun same => apart (rakeHolder_inj same)).trans claim⟩
  exact ⟨law.1, law.2.2⟩

/-! The orders to suspend (R28, R71). -/

/-- R71: the rake as an order to suspend leaves it. -/
def Plant.suspendedRake (p : Plant) (n : Fin 2) : Rake :=
  { p.rake n with
    state := .suspended, fromReversing := (p.rake n).state == .reversing, cycle := (p.rake n).cycle.pause
    reverse := .stopped, hold := .running (p.maximumHold n) }

def Plant.suspendDraft (p : Plant) (n : Fin 2) : Draft :=
  { source := srcScreen n, kind := 0x33, urgent := false
    detail := detail1 (if (p.rake n).state = .reversing then 1 else 0) ++ detail2 (p.rake n).attempts }

theorem Plant.suspendRake_facts (p : Plant) (n : Fin 2) :
    (p.suspendRake n).rake n = p.suspendedRake n ∧
      (p.suspendRake n).claim (rakeHolder n) = { p.claim (rakeHolder n) with status := .waiting } ∧
      (p.suspendRake n).out = p.out ++ [p.suspendDraft n] := by
  have code : bit ((p.rake n).state == .reversing) = if (p.rake n).state = .reversing then 1 else 0 := by
    unfold bit
    simp only [beq_iff_eq]
  refine ⟨vset_get_same _ _ _, vset_get_same _ _ _, ?_⟩
  unfold Plant.suspendDraft
  rw [← code]
  rfl

theorem Plant.suspend_each (rakes : List (Fin 2)) (apart : rakes.Nodup) (p : Plant) :
    let q := rakes.foldl (fun q n => q.suspendRake n) p
    (∀ n ∈ rakes, q.rake n = p.suspendedRake n ∧ q.claim (rakeHolder n) = { p.claim (rakeHolder n) with status := .waiting }) ∧
      (∀ n ∉ rakes, q.rake n = p.rake n ∧ q.claim (rakeHolder n) = p.claim (rakeHolder n)) ∧
      q.out = p.out ++ rakes.map p.suspendDraft := by
  induction rakes generalizing p with
  | nil => exact ⟨fun _ absurd => (nomatch absurd), fun _ _ => ⟨rfl, rfl⟩, (List.append_nil _).symm⟩
  | cons m rest ih =>
    obtain ⟨absent, apart⟩ := List.nodup_cons.mp apart
    obtain ⟨ordered, left, out⟩ := ih apart (p.suspendRake m)
    obtain ⟨rake, claim, entry⟩ := p.suspendRake_facts m
    obtain ⟨rakes, claims⟩ := p.suspendRake_only m
    have claims' {n : Fin 2} (other : n ≠ m) := claims (rakeHolder n) fun same => other (rakeHolder_inj same)
    have hold (n : Fin 2) : (p.suspendRake m).maximumHold n = p.maximumHold n := rfl
    refine ⟨fun n mem => ?_, fun n absent => ?_, ?_⟩
    · rcases List.mem_cons.mp mem with rfl | later
      · obtain ⟨rake', claim'⟩ := left n absent
        exact ⟨rake'.trans rake, claim'.trans claim⟩
      · have other : n ≠ m := fun same => absent (same ▸ later)
        obtain ⟨rake', claim'⟩ := ordered n later
        refine ⟨rake'.trans ?_, claim'.trans (by rw [claims' other])⟩
        unfold Plant.suspendedRake
        rw [rakes n other, hold]
    · obtain ⟨other, absent⟩ := not_or.mp fun mem => absent (List.mem_cons.mpr mem)
      obtain ⟨rake', claim'⟩ := left n absent
      exact ⟨rake'.trans (rakes n other), claim'.trans (claims' other)⟩
    · refine out.trans ?_
      rw [entry, List.append_assoc, List.map_cons, List.singleton_append]
      refine congrArg (fun l => p.out ++ p.suspendDraft m :: l) (List.map_congr_left fun n mem => ?_)
      have other : n ≠ m := fun same => absent (same ▸ mem)
      unfold Plant.suspendDraft
      rw [rakes n other]

theorem Plant.suspendRakes_facts (p : Plant) :
    (∀ n, (p.claim (rakeHolder n)).status = .held → p.suspendRakes.rake n = p.suspendedRake n ∧
      p.suspendRakes.claim (rakeHolder n) = { p.claim (rakeHolder n) with status := .waiting }) ∧
    (∀ n, (p.suspendRakes.claim (rakeHolder n)).status ≠ .held) ∧
    p.suspendRakes.out = p.out ++ p.rakesInMotion.map p.suspendDraft := by
  have mem (n : Fin 2) : n ∈ p.rakesInMotion ↔ (p.claim (rakeHolder n)).status = .held := by
    unfold Plant.rakesInMotion
    rw [List.mem_filter, beq_iff_eq]
    exact and_iff_right (mem_allRakes n)
  obtain ⟨ordered, left, out⟩ := Plant.suspend_each p.rakesInMotion (List.Nodup.filter _ (by decide)) p
  refine ⟨fun n held => ordered n ((mem n).mpr held), fun n => ?_, out⟩
  by_cases held : (p.claim (rakeHolder n)).status = .held
  · rw [show p.suspendRakes.claim _ = _ from (ordered n ((mem n).mpr held)).2]
    exact ClaimStatus.noConfusion
  · rw [show p.suspendRakes.claim _ = _ from (left n (fun yes => held ((mem n).mp yes))).2]
    exact held

/-! The start of a pump (R39, R40). -/

def Plant.pumpStartDraft (p : Plant) (n : Fin 6) : Draft :=
  { source := srcPump n, kind := 0x20, urgent := false
    detail := detail1 (n.val + 1) ++ detail2 ((p.pump n).history.length + 1) ++ detail2 (p.currentLimit n) }

/-- The pump that enters STARTING. -/
def Plant.startingPump (p : Plant) (n : Fin 6) : Pump :=
  { p.pump n with
    state := .starting, feedback := .running (p.feedbackTime n), lastStart := some p.clock.uptime
    history := (p.pump n).history ++ [p.clock.uptime], deferred := false }

/-- The plant with the head's claim granted, before the pump enters STARTING. -/
def Plant.headGranted (p : Plant) (n : Fin 6) : Plant :=
  { p.setQueue (p.queue.filter fun m => m != n) with stagger := .running p.staggerTime }.setClaim (pumpHolder n)
    { p.claim (pumpHolder n) with status := .held }

/-- The plant with pump `n` in STARTING, before its feedback input is looked at (R40). -/
def Plant.pumpStarted (p : Plant) (n : Fin 6) : Plant :=
  ((p.headGranted n).setPump n (p.startingPump n)).append (srcPump n) 0x20
    (detail1 (n.val + 1) ++ detail2 (p.startingPump n).history.length ++ detail2 (p.currentLimit n))

theorem Plant.startPump_eq (p : Plant) (n : Fin 6) :
    p.startPump n = if (p.pumpStarted n).feedbackActive n then (p.pumpStarted n).enterRunning n else p.pumpStarted n := rfl

theorem Plant.pumpStarted_facts (p : Plant) (n : Fin 6) :
    (p.pumpStarted n).pump n = p.startingPump n ∧ (p.pumpStarted n).stagger = .running p.staggerTime ∧
      (p.pumpStarted n).feedbackActive n = p.feedbackActive n ∧ (p.pumpStarted n).out = p.out ++ [p.pumpStartDraft n] := by
  have length : (p.startingPump n).history.length = (p.pump n).history.length + 1 := List.length_append
  unfold Plant.pumpStarted
  refine ⟨(p.headGranted n).pump_setPump_same n _, (p.headGranted n).setPump_stagger n _, ?_, ?_⟩
  · exact ((p.headGranted n).setPump_acts n _).active (feedbackLine n)
  · rw [Plant.append_out, Plant.setPump_out, length]
    rfl

theorem Plant.startPump_facts (p : Plant) (n : Fin 6) :
    (p.startPump n).stagger = .running p.staggerTime ∧
      ((p.startPump n).pump n).lastStart = some p.clock.uptime ∧
      ((p.startPump n).pump n).history = (p.pump n).history ++ [p.clock.uptime] ∧
      ((p.startPump n).pump n).state = (if p.feedbackActive n then .running else .starting) ∧
      ∃ more, (p.startPump n).out = p.out ++ p.pumpStartDraft n :: more := by
  obtain ⟨pump, stagger, feedback, out⟩ := p.pumpStarted_facts n
  rw [Plant.startPump_eq, feedback]
  generalize p.pumpStarted n = q at pump stagger out
  cases active : p.feedbackActive n with
  | false =>
    rw [if_neg Bool.false_ne_true, pump]
    exact ⟨stagger, rfl, rfl, rfl, [], out⟩
  | true =>
    obtain ⟨running, -, -, entries⟩ := q.enterRunning_facts n
    have same : (q.enterRunning n).stagger = q.stagger := q.setPump_stagger n _
    rw [if_pos rfl, running, same, stagger]
    unfold Plant.runningPump
    rw [pump]
    refine ⟨rfl, rfl, rfl, rfl, [{ source := srcPump n, kind := 0x21, urgent := false, detail := [] }], ?_⟩
    rw [entries, out, List.append_assoc]
    rfl

/-! The head of the start queue (R27, R28, R38, R39). -/

/-- R37, R38: the gate is free, no pump claim waits, and the head of the queue, pump `n`, has no claim yet. -/
structure Plant.HeadMayClaim (p : Plant) (n : Fin 6) (rest : List (Fin 6)) : Prop where
  queue  : p.queue = n :: rest
  apart  : n ∉ rest
  gate   : p.stagger = .stopped
  steady : ∀ m, (p.pump m).state ≠ .starting
  free   : ∀ m, (p.claim (pumpHolder m)).status ≠ .waiting
  own    : (p.claim (pumpHolder n)).status = .none

/-- R27, R38: the plant with the claim of the head entered. -/
def Plant.headClaimed (p : Plant) (n : Fin 6) : Plant :=
  p.setClaim (pumpHolder n) { status := .waiting, units := p.pumpUnits n }

theorem Plant.serveOnce_fits {p : Plant} {n : Fin 6} (waits : p.waitingPump = some n)
    (fits : p.heldUnits + (p.claim (pumpHolder n)).units ≤ p.budget) : p.serveOnce = some (p.startPump n) := by
  unfold Plant.serveOnce
  dsimp only
  rw [waits]
  exact if_pos (decide_eq_true fits)

theorem Plant.serveOnce_suspends {p : Plant} {n : Fin 6} (waits : p.waitingPump = some n)
    (short : p.budget < p.heldUnits + (p.claim (pumpHolder n)).units)
    (room : p.heldUnits + (p.claim (pumpHolder n)).units ≤ p.budget + p.rakeHeldUnits) :
    p.serveOnce = some p.suspendRakes := by
  have tight : ¬ p.fits (pumpHolder n) = true := fun fits => absurd (of_decide_eq_true fits) (not_le.mpr short)
  unfold Plant.serveOnce
  dsimp only
  rw [waits]
  exact (if_neg tight).trans (if_pos room)

section
variable {p : Plant} {n : Fin 6} {rest : List (Fin 6)}

theorem Plant.HeadMayClaim.round (head : p.HeadMayClaim n rest) : p.serveOnce = some (p.headClaimed n) := by
  have enters : p.claimToEnter = some n := by
    have free : p.gateFree = true := by
      unfold Plant.gateFree
      rw [head.gate, Bool.and_eq_true]
      exact ⟨List.all_eq_true.mpr fun m _ => bne_iff_ne.mpr (head.steady m), rfl⟩
    refine (if_pos free).trans ?_
    rw [head.queue]
    rfl
  unfold Plant.serveOnce
  dsimp only
  rw [Plant.waitingPump_none head.free, enters]
  rfl

theorem Plant.headClaimed_claim (p : Plant) (n : Fin 6) :
    (p.headClaimed n).claim (pumpHolder n) = { status := .waiting, units := p.pumpUnits n } :=
  p.claim_setClaim_same _ _

theorem Plant.headClaimed_rake (p : Plant) (n : Fin 6) (m : Fin 2) :
    (p.headClaimed n).claim (rakeHolder m) = p.claim (rakeHolder m) :=
  p.claim_setClaim_ne (pumpHolder_ne_rakeHolder n m) _

theorem Plant.headClaimed_rakesInMotion (p : Plant) (n : Fin 6) : (p.headClaimed n).rakesInMotion = p.rakesInMotion := by
  unfold Plant.rakesInMotion
  simp only [Plant.headClaimed_rake]

theorem Plant.HeadMayClaim.waitingPump (head : p.HeadMayClaim n rest) : (p.headClaimed n).waitingPump = some n := by
  refine Plant.waitingPump_only (by rw [Plant.headClaimed_claim]) fun m other => ?_
  rw [show (p.headClaimed n).claim (pumpHolder m) = _ from
    p.claim_setClaim_ne (fun same => other (pumpHolder_inj same).symm) _]
  exact head.free m

theorem Plant.HeadMayClaim.units (head : p.HeadMayClaim n rest) :
    (p.headClaimed n).heldUnits = p.heldUnits ∧ (p.headClaimed n).rakeHeldUnits = p.rakeHeldUnits ∧
      (p.headClaimed n).pumpHeldUnits = p.pumpHeldUnits := by
  have set := p.setClaim_heldUnits (pumpHolder n) { status := .waiting, units := p.pumpUnits n }
  rw [Claim.load_other (c := p.claim _) (by rw [head.own]; exact ClaimStatus.noConfusion),
    Claim.load_other ClaimStatus.noConfusion] at set
  have held : (p.headClaimed n).heldUnits = p.heldUnits := set
  have rakes : (p.headClaimed n).rakeHeldUnits = p.rakeHeldUnits := Plant.rakeHeldUnits_of_claims (p.headClaimed_rake n)
  refine ⟨held, rakes, ?_⟩
  rw [Plant.heldUnits_split, Plant.heldUnits_split, rakes] at held
  exact Nat.add_right_cancel held

/-- R28: the units of the head do not fit beside those held. -/
abbrev Plant.Short (p : Plant) (n : Fin 6) : Prop := p.budget < p.heldUnits + p.pumpUnits n

/-- R28: the plant with the head's claim entered, and room made for it where it is short. -/
def Plant.roomMade (p : Plant) (n : Fin 6) : Plant :=
  if p.Short n then (p.headClaimed n).suspendRakes else p.headClaimed n

theorem Plant.roomMade_samePumps (p : Plant) (n : Fin 6) : (p.headClaimed n).SamePumps (p.roomMade n) := by
  unfold Plant.roomMade
  split
  · exact (p.headClaimed n).suspendRakes_samePumps
  · exact .refl _

theorem Plant.roomMade_kept (p : Plant) (n : Fin 6) : p.Kept (p.roomMade n) := by
  have claimed : p.Kept (p.headClaimed n) := p.setClaim_kept _ _
  unfold Plant.roomMade
  split
  · exact claimed.trans (p.headClaimed n).suspendRakes_kept
  · exact claimed

theorem Plant.roomMade_out (p : Plant) (n : Fin 6) :
    (p.roomMade n).out = p.out ++ if p.Short n then p.rakesInMotion.map p.suspendDraft else [] := by
  unfold Plant.roomMade
  by_cases short : p.Short n
  · rw [if_pos short, if_pos short, (p.headClaimed n).suspendRakes_facts.2.2, Plant.headClaimed_rakesInMotion]
    rfl
  · rw [if_neg short, if_neg short]
    exact (List.append_nil _).symm

theorem Plant.roomMade_claim (p : Plant) (n : Fin 6) :
    (p.roomMade n).claim (pumpHolder n) = { status := .waiting, units := p.pumpUnits n } :=
  ((p.roomMade_samePumps n).2.2.2 n).trans (p.headClaimed_claim n)

/-- R28: the room made is enough. -/
theorem Plant.HeadMayClaim.fits (head : p.HeadMayClaim n rest)
    (room : p.heldUnits + p.pumpUnits n ≤ p.budget + p.rakeHeldUnits) :
    ∃ k, p.serve serveBound = ((p.roomMade n).startPump n).serve k := by
  obtain ⟨held, rakes, pumps⟩ := head.units
  have claim := p.headClaimed_claim n
  have split := p.heldUnits_split
  unfold Plant.roomMade
  by_cases short : p.Short n
  · have bound : serveBound = 29 + 1 + 1 + 1 := rfl
    have orders : (p.headClaimed n).serveOnce = some (p.headClaimed n).suspendRakes := by
      refine Plant.serveOnce_suspends head.waitingPump ?_ ?_
      · rw [held, claim]; exact short
      · rw [held, claim, rakes]; exact room
    generalize isQ : p.headClaimed n = q at *
    have same := q.suspendRakes_samePumps
    have freed : q.suspendRakes.heldUnits = p.pumpHeldUnits := by
      rw [Plant.heldUnits_split, Plant.rakeHeldUnits_none q.suspendRakes_facts.2.1,
        Plant.pumpHeldUnits_of_claims same.2.2.2, pumps, Nat.add_zero]
    have budget : q.suspendRakes.budget = p.budget := by
      rw [q.suspendRakes_kept.acts.inputs.budget, ← isQ]
      rfl
    have starts : q.suspendRakes.serveOnce = some (q.suspendRakes.startPump n) := by
      refine Plant.serveOnce_fits ?_ ?_
      · have statuses : q.suspendRakes.waitingPump = q.waitingPump := by
          unfold Plant.waitingPump
          simp only [same.2.2.2]
        rw [statuses, ← isQ]
        exact head.waitingPump
      · rw [freed, same.2.2.2, claim, budget]
        show p.pumpHeldUnits + p.pumpUnits n ≤ p.budget
        omega
    rw [if_pos short, bound, Plant.serve_some (head.round.trans (congrArg some isQ)), Plant.serve_some orders,
      Plant.serve_some starts]
    exact ⟨29, rfl⟩
  · have bound : serveBound = 30 + 1 + 1 := rfl
    have starts : (p.headClaimed n).serveOnce = some ((p.headClaimed n).startPump n) := by
      refine Plant.serveOnce_fits head.waitingPump ?_
      rw [held, claim]
      exact not_lt.mp short
    rw [if_neg short, bound, Plant.serve_some head.round, Plant.serve_some starts]
    exact ⟨30, rfl⟩

theorem Plant.HeadMayClaim.started_shut (head : p.HeadMayClaim n rest) : ((p.roomMade n).startPump n).GateShut where
  running := by
    rw [((p.roomMade n).startPump_facts n).1]
    rfl
  free m := by
    rw [Plant.claim_startPump]
    by_cases same : n = m
    · rw [if_pos (congrArg pumpHolder same)]
      exact ClaimStatus.noConfusion
    · rw [if_neg (fun eq => same (pumpHolder_inj eq)), (p.roomMade_samePumps n).2.2.2,
        show (p.headClaimed n).claim (pumpHolder m) = _ from p.claim_setClaim_ne (fun eq => same (pumpHolder_inj eq)) _]
      exact head.free m

theorem Plant.startPump_pumpHeld {q : Plant} (waits : (q.claim (pumpHolder n)).status = .waiting)
    (free : ∀ m, (q.claim (rakeHolder m)).status ≠ .held) :
    (q.startPump n).pumpHeldUnits = q.pumpHeldUnits + (q.claim (pumpHolder n)).units := by
  have total := Plant.startPump_heldUnits waits
  have rakes : (q.startPump n).rakeHeldUnits = 0 := by
    refine Plant.rakeHeldUnits_none fun m => ?_
    rw [Plant.claim_startPump, if_neg (pumpHolder_ne_rakeHolder n m)]
    exact free m
  rw [Plant.heldUnits_split, rakes, Plant.heldUnits_split, Plant.rakeHeldUnits_none free, Nat.add_zero,
    Nat.add_zero] at total
  exact total

/-- R28, R71: where the rakes made room, what the pumps hold now is what they held with the units of the head. -/
theorem Plant.HeadMayClaim.started_pumpHeld (head : p.HeadMayClaim n rest) (short : p.Short n) :
    ((p.roomMade n).startPump n).pumpHeldUnits = p.pumpHeldUnits + p.pumpUnits n := by
  have claim := p.roomMade_claim n
  have free : ∀ m, ((p.roomMade n).claim (rakeHolder m)).status ≠ .held := by
    rw [show p.roomMade n = (p.headClaimed n).suspendRakes from if_pos short]
    exact (p.headClaimed n).suspendRakes_facts.2.1
  have pumps : (p.roomMade n).pumpHeldUnits = p.pumpHeldUnits :=
    (Plant.pumpHeldUnits_of_claims (p.roomMade_samePumps n).2.2.2).trans head.units.2.2
  have waits : ((p.roomMade n).claim (pumpHolder n)).status = .waiting := congrArg Claim.status claim
  have total := Plant.startPump_pumpHeld (q := p.roomMade n) waits free
  have units : ((p.roomMade n).claim (pumpHolder n)).units = p.pumpUnits n := congrArg Claim.units claim
  rw [pumps, units] at total
  exact total

end

/-! The expiry. -/

section
variable {p : Plant} {n : Fin 6} {rest : List (Fin 6)}

/-- R28, R37 to R40: the head starts where there is room, or where the rakes in motion make it. -/
theorem Plant.HeadMayClaim.conclude_starts (head : p.HeadMayClaim n rest) (running : p.loading = false)
    (room : p.heldUnits + p.pumpUnits n ≤ p.budget + p.rakeHeldUnits) :
    ((p.roomMade n).startPump n).SamePumps p.conclude ∧
      (∃ more, p.conclude.out = p.out ++
        ((if p.Short n then p.rakesInMotion.map p.suspendDraft else []) ++ [p.pumpStartDraft n]) ++ more) ∧
      (p.Short n → ∀ m, (p.claim (rakeHolder m)).status = .held →
        p.budget + p.rakeHeldUnits < p.heldUnits + p.pumpUnits n + (p.claim (rakeHolder m)).units →
        p.conclude.claim (rakeHolder m) = { p.claim (rakeHolder m) with status := .waiting } ∧
        p.conclude.rake m = p.suspendedRake m) := by
  obtain ⟨k, served⟩ := head.fits room
  obtain ⟨units, later⟩ := Plant.conclude_served running
  rw [served] at units later
  have shut := head.started_shut
  refine ⟨(Plant.serve_shut shut k).trans units.samePumps, ?_, fun short m held tight => ?_⟩
  · obtain ⟨more, started⟩ := ((p.roomMade n).startPump_facts n).2.2.2.2
    obtain ⟨more', out⟩ := ((Plant.serve_kept ((p.roomMade n).startPump n) k).trans later).1.2
    have draft : (p.roomMade n).pumpStartDraft n = p.pumpStartDraft n := by
      unfold Plant.pumpStartDraft
      rw [(p.roomMade_kept n).acts.inputs.currentLimit, (p.roomMade_samePumps n).pump]
      rfl
    refine ⟨more ++ more', ?_⟩
    rw [out, started, Plant.roomMade_out, draft]
    simp only [List.append_assoc, List.cons_append, List.nil_append]
  · have split := p.heldUnits_split
    have orders : p.roomMade n = (p.headClaimed n).suspendRakes := if_pos short
    obtain ⟨rake, claim⟩ := (p.headClaimed n).suspendRakes_facts.1 m (by rw [Plant.headClaimed_rake]; exact held)
    rw [← orders] at rake claim
    rw [Plant.headClaimed_rake] at claim
    have sameRake : (((p.roomMade n).startPump n).rake m) = p.suspendedRake m :=
      (congrArg (Vector.get · m) ((p.roomMade n).startPump_rakes n)).trans rake
    have sameClaim : ((p.roomMade n).startPump n).claim (rakeHolder m) = { p.claim (rakeHolder m) with status := .waiting } := by
      rw [Plant.claim_startPump, if_neg (pumpHolder_ne_rakeHolder n m), claim]
    have budget : ((p.roomMade n).startPump n).budget = p.budget :=
      ((p.roomMade_kept n).trans ((p.roomMade n).startPump_kept n)).acts.inputs.budget
    obtain ⟨rake', claim'⟩ := Plant.serve_shut_rake shut (m := m) (by rw [sameRake]; rfl)
      (by
        rw [budget, head.started_pumpHeld short, sameClaim]
        show p.budget < p.pumpHeldUnits + p.pumpUnits n + (p.claim (rakeHolder m)).units
        omega) k
    exact ⟨(units.claim _).trans (claim'.trans sameClaim), (units.rake m).trans (rake'.trans sameRake)⟩

/-- R39, R40: the pumps after the start of the head. -/
theorem Plant.HeadMayClaim.started (head : p.HeadMayClaim n rest) :
    let q := (p.roomMade n).startPump n
    q.stagger = .running p.staggerTime ∧ q.queue = rest ∧
      q.claim (pumpHolder n) = { status := .held, units := p.pumpUnits n } ∧
      (q.pump n).lastStart = some p.clock.uptime ∧ (q.pump n).history = (p.pump n).history ++ [p.clock.uptime] ∧
      (q.pump n).state = (if p.feedbackActive n then .running else .starting) ∧ ∀ m, m ≠ n → q.pump m = p.pump m := by
  have inputs := (p.roomMade_kept n).acts.inputs
  have pumps (m : Fin 6) : (p.roomMade n).pump m = p.pump m := (p.roomMade_samePumps n).pump m
  have queue : (p.roomMade n).queue = n :: rest := (p.roomMade_samePumps n).2.1.trans head.queue
  have claim := p.roomMade_claim n
  have staggers : (p.roomMade n).staggerTime = p.staggerTime := inputs.reads Plant.staggerTime fun _ => rfl
  have feedback : (p.roomMade n).feedbackActive n = p.feedbackActive n := inputs.active (feedbackLine n)
  have clock : (p.roomMade n).clock = p.clock := inputs.clock
  generalize p.roomMade n = b at *
  obtain ⟨stagger, lastStart, history, state, -⟩ := b.startPump_facts n
  rw [clock] at lastStart history
  refine ⟨stagger.trans (by rw [staggers]), ?_, ?_, lastStart, history.trans (by rw [pumps]), state.trans (by rw [feedback]),
    fun m other => ((b.pump_startPump n m).2 other.symm).trans (pumps m)⟩
  · rw [Plant.startPump_queue, queue, List.filter_cons, if_neg (by simp)]
    exact List.filter_eq_self.mpr fun m mem => bne_iff_ne.mpr fun same => head.apart (same ▸ mem)
  · rw [Plant.claim_startPump, if_pos rfl, claim]

/-- R28: where even the rakes make no room the claim waits, and the rakes in motion go on. -/
theorem Plant.HeadMayClaim.conclude_waits (head : p.HeadMayClaim n rest) (running : p.loading = false)
    (full : p.budget + p.rakeHeldUnits < p.heldUnits + p.pumpUnits n) :
    (p.headClaimed n).SamePumps p.conclude ∧ ∀ m, (p.rake m).state ≠ .idle →
      p.conclude.rake m = p.rake m ∧ p.conclude.claim (rakeHolder m) = p.claim (rakeHolder m) := by
  have split := p.heldUnits_split
  have starved : (p.headClaimed n).Starved n := by
    refine ⟨head.waitingPump, ?_⟩
    rw [head.units.2.2, Plant.headClaimed_claim]
    show p.budget < p.pumpHeldUnits + p.pumpUnits n
    omega
  have bound : serveBound = 31 + 1 := rfl
  obtain ⟨units, -⟩ := Plant.conclude_served running
  rw [bound, Plant.serve_some head.round] at units
  obtain ⟨same, still⟩ := starved.serve 31
  refine ⟨same.trans units.samePumps, fun m busy => ?_⟩
  obtain ⟨rake, claim⟩ := still m busy
  exact ⟨(units.rake m).trans rake, (units.claim _).trans (claim.trans (p.headClaimed_rake n m))⟩

end

/-- The plant at the end of the stagger. -/
def Plant.gateOpened (p : Plant) : Plant := { p with stagger := .stopped }

/-- Settles O30: the end of the event enters the head's claim and serves it, as `Plant.HeadMayClaim` says. -/
theorem staggerExpiryStartsQueueHead : Obligations.StaggerExpiryStartsQueueHead := by
  intro s out loading due
  have isDue : s.plant.stagger.due = true := by rw [due]; rfl
  have run : exec .staggerExpiry s = .next (finish s (s.onPlant fun p => p.gateOpened.conclude)) :=
    congrArg Host.Outcome.next (if_pos isDue)
  obtain ⟨p, isP⟩ : ∃ p : Plant, p = s.plant.gateOpened := ⟨_, rfl⟩
  have acted : s.plant.gateOpened.conclude = p.conclude := by rw [isP]
  have running : p.loading = false := by rw [isP]; exact loading
  have handed : p.out = [] := by rw [isP]; exact out
  obtain ⟨step, plant⟩ := finish_concluded (s := s) (act := fun p => p.gateOpened.conclude) acted (entries := []) ⟨p.out, rfl⟩
  have left := Plant.left_of_eq (r := p.conclude) plant
  have kept : s.plant.SameInputs p ∧ s.plant.SameOrders p := by
    rw [isP]
    exact ⟨⟨rfl, rfl, rfl, rfl, rfl, rfl, rfl, rfl⟩, ⟨rfl, rfl, rfl, rfl⟩⟩
  obtain ⟨inputs, orders⟩ := p.conclude_kept.emptied (marks := s.plant.marks)
  rw [← plant] at inputs orders
  have claims : p.claims = s.plant.claims := by rw [isP]; rfl
  refine ⟨_, run, step, kept.1.trans inputs, kept.2.trans orders, fun within => ?_, fun empty free => ?_, ?_⟩
  · refine Plant.withinBudget_of_claims left.claims ?_ (Plant.conclude_within (Plant.withinBudget_of_claims claims kept.1 within))
    rw [plant]
    exact (Plant.Kept.emptied (.refl _)).1
  · have same := p.conclude_pumps_kept (by rw [isP]; exact empty) fun n => by rw [Plant.claim_of_claims claims]; exact free n
    have gate : p.stagger = .stopped ∧ p.pumps = s.plant.pumps := by rw [isP]; exact ⟨rfl, rfl⟩
    exact ⟨(left.stagger.trans same.2.2.1).trans gate.1, (left.pumps.trans same.1).trans gate.2⟩
  · intro n rest queue apart steady free own short
    have head : p.HeadMayClaim n rest := by
      rw [isP]
      exact ⟨queue, apart, rfl, steady, free, own⟩
    refine ⟨fun room => ?_, fun full => ?_⟩
    · obtain ⟨same, ⟨more, entries⟩, tight⟩ := head.conclude_starts running (by rw [isP]; exact room)
      obtain ⟨stagger, queue', claim, lastStart, history, state, others⟩ := head.started
      have entries' := finish_onPlant_step s (fun p => p.gateOpened.conclude)
        ⟨more, (congrArg Plant.out acted).trans (entries.trans (by rw [handed, List.nil_append]))⟩
      rw [← same.pump] at lastStart history state
      have others' (m : Fin 6) (other : m ≠ n) := (left.pump m).trans ((same.pump m).trans (others m other))
      rw [← left.pump] at lastStart history state
      have stagger' := left.stagger.trans (same.2.2.1.trans stagger)
      have claim' := (left.claim _).trans ((same.2.2.2 n).trans claim)
      have tight' (makes : p.Short n) (m : Fin 2) (held : (p.claim (rakeHolder m)).status = .held)
          (full : p.budget + p.rakeHeldUnits < p.heldUnits + p.pumpUnits n + (p.claim (rakeHolder m)).units) :=
        And.intro ((left.claim _).trans (tight makes m held full).1) ((left.rake m).trans (tight makes m held full).2)
      rw [isP] at entries' stagger' claim' lastStart history state others' tight'
      exact ⟨entries', stagger', left.queue.trans (same.2.1.trans queue'), claim', lastStart, history, state, others', tight'⟩
    · obtain ⟨same, still⟩ := head.conclude_waits running (by rw [isP]; exact full)
      obtain ⟨pumps, queues, units⟩ : p.pumps = s.plant.pumps ∧ p.queue = s.plant.queue ∧ p.pumpUnits n = s.plant.pumpUnits n := by
        rw [isP]; exact ⟨rfl, rfl, rfl⟩
      have rakes : p.rakes = s.plant.rakes := by rw [isP]; rfl
      refine ⟨(left.claim _).trans ((same.2.2.2 n).trans ?_), (left.queue.trans same.2.1).trans queues,
        (left.pumps.trans same.1).trans pumps, fun lawful m held => ?_⟩
      · rw [Plant.headClaimed_claim, units]
      · have rake : p.rake m = s.plant.rake m := congrArg (Vector.get · m) rakes
        have busy : (p.rake m).state ≠ .idle := by
          intro idle
          have moving := (lawful m).mp held
          rw [← rake, idle] at moving
          cases moving
        obtain ⟨rake', claim'⟩ := still m busy
        exact ⟨(left.claim _).trans (claim'.trans (Plant.claim_of_claims claims _)), (left.rake m).trans (rake'.trans rake)⟩

end Sys2Proof.Machine
end

section
/-! The pump command words (R44, R45, R48 to R51): what each field makes of the pump. -/

namespace Sys2Proof.Machine

/-- A write to the command word of pump `n` has moved no input, of the other pumps' words at most the RUN field, and has
only added to the correction set and to the entries. -/
structure Plant.Judges (n : Fin 6) (p q : Plant) : Prop where
  inputs : p.SameInputs q
  words  : ∀ i, (∀ m, pumpWord m ≠ i) → q.shadow.get i = p.shadow.get i
  bits   : ∀ m k, m ≠ n → k ≠ 0 → (q.shadow.get (pumpWord m)).getLsbD k = (p.shadow.get (pumpWord m)).getLsbD k
  corr   : ∀ i, i ∈ p.corr → i ∈ q.corr
  out    : ∃ more, q.out = p.out ++ more

theorem Plant.Judges.trans {n : Fin 6} {p q r : Plant} (first : Plant.Judges n p q) (second : Plant.Judges n q r) :
    Plant.Judges n p r where
  inputs := first.inputs.trans second.inputs
  words i other := (second.words i other).trans (first.words i other)
  bits m k other positive := (second.bits m k other positive).trans (first.bits m k other positive)
  corr i mem := second.corr i (first.corr i mem)
  out := by
    obtain ⟨more, out⟩ := first.out
    obtain ⟨more', out'⟩ := second.out
    exact ⟨more ++ more', by rw [out', out, List.append_assoc]⟩

theorem Plant.Acts.judges {p q : Plant} (acts : p.Acts q) (n : Fin 6) : Plant.Judges n p q := by
  obtain ⟨⟨inputs, words, bits, corr⟩, out⟩ := acts
  exact ⟨inputs, words, fun m k _ => bits m k, corr, out⟩

theorem Plant.setPumpWord_judges (p : Plant) (n : Fin 6) (w : Word) : Plant.Judges n p (p.setShadow (pumpWord n) w) where
  inputs := ⟨rfl, rfl, rfl, rfl, rfl, rfl, rfl, rfl⟩
  words _ other := vset_get_ne _ _ (other n)
  bits _ _ other _ := by
    rw [show (p.setShadow (pumpWord n) w).shadow.get _ = _ from
      vset_get_ne _ _ fun same => other (pumpWord_inj same).symm]
  corr _ mem := mem
  out := ⟨[], (List.append_nil _).symm⟩

/-! OOS (R45). -/

/-- The plant with bit `k` of the word of pump `n` written. -/
def Plant.fieldWritten (p : Plant) (n : Fin 6) (k : Nat) (b : Bool) : Plant :=
  p.setShadow (pumpWord n) (setBit (p.shadow.get (pumpWord n)) k b)

theorem Plant.fieldWritten_bit (p : Plant) (n : Fin 6) {k : Nat} (b : Bool) (j : Nat) (place : k < 16) :
    ((p.fieldWritten n k b).shadow.get (pumpWord n)).getLsbD j =
      if j = k then b else (p.shadow.get (pumpWord n)).getLsbD j := by
  rw [show (p.fieldWritten n k b).shadow.get (pumpWord n) = _ from vset_get_same _ _ _, getLsbD_setBit _ _ _ _ place]

theorem Plant.oosWritten_demand (p : Plant) (n : Fin 6) (b : Bool) : (p.fieldWritten n 1 b).demand n = p.demand n :=
  (p.fieldWritten_bit n b 0 (by decide)).trans (if_neg (by decide))

theorem Plant.judgeOos_same {p : Plant} {n : Fin 6} {w : Word} (same : w.getLsbD 1 = p.pumpOosSet n) :
    p.judgeOos n w = p := if_pos same

theorem Plant.judgeOos_set {p : Plant} {n : Fin 6} {w : Word} (set : w.getLsbD 1 = true) (moved : p.pumpOosSet n = false) :
    p.judgeOos n w = p.reexamineAfter ((p.fieldWritten n 1 true).oosSet n) n := by
  have field : oosField w = true := set
  unfold Plant.judgeOos
  rw [if_neg (by rw [field, moved]; decide), field]
  exact if_pos rfl

theorem Plant.judgeOos_clear {p : Plant} {n : Fin 6} {w : Word} (clear : w.getLsbD 1 = false) (moved : p.pumpOosSet n = true) :
    p.judgeOos n w = (p.fieldWritten n 1 false).oosCleared n := by
  have field : oosField w = false := clear
  unfold Plant.judgeOos
  rw [if_neg (by rw [field, moved]; decide), field]
  exact if_neg Bool.false_ne_true

theorem Plant.judgeOos_judges (p : Plant) (n : Fin 6) (w : Word) : Plant.Judges n p (p.judgeOos n w) := by
  cases moved : p.pumpOosSet n <;> cases field : w.getLsbD 1
  case false.false => rw [Plant.judgeOos_same (field.trans moved.symm)]; exact (Plant.Acts.refl p).judges n
  case false.true =>
    rw [Plant.judgeOos_set field moved]
    exact ((p.setPumpWord_judges n _).trans (((p.fieldWritten n 1 true).oosSet_acts n).judges n)).trans
      ((Plant.reexamineAfter_acts p _ n).judges n)
  case true.false =>
    rw [Plant.judgeOos_clear field moved]
    exact (p.setPumpWord_judges n _).trans (((p.fieldWritten n 1 false).oosCleared_acts n).judges n)
  case true.true => rw [Plant.judgeOos_same (field.trans moved.symm)]; exact (Plant.Acts.refl p).judges n

/-- R45: the pump taken out of service. -/
def Plant.outPump (p : Plant) (n : Fin 6) : Pump :=
  { p.pump n with
    state := .outOfService, deferred := false, feedback := .stopped, minRun := .stopped, minOff := .stopped }

/-- A pump stopped for good: out of the queue, its demand and its claim gone, and entries `before` handed first. -/
structure Plant.TakenOut (p : Plant) (n : Fin 6) (x : Pump) (q : Plant) : Prop where
  pump   : q.pump n = x
  demand : q.demand n = false
  queue  : n ∉ q.queue
  claim  : q.claim (pumpHolder n) = .gone
  out    : q.out = p.out ++ if (p.pump n).state.inMotion then [stopDraft n .outOfService] else []

theorem Plant.takeOut_eq (p : Plant) (n : Fin 6) : p.takeOut n .outOfService .outOfService =
    ((if (p.pump n).state.inMotion then p.logStop n .outOfService else p).stopped n (p.outPump n)).setRun n false := rfl

theorem Plant.takeOut_takenOut (p : Plant) (n : Fin 6) :
    p.TakenOut n (p.outPump n) (p.takeOut n .outOfService .outOfService) := by
  have handed : (if (p.pump n).state.inMotion then p.logStop n .outOfService else p).out =
      p.out ++ if (p.pump n).state.inMotion then [stopDraft n .outOfService] else [] := by
    split
    · rfl
    · exact (List.append_nil _).symm
  rw [Plant.takeOut_eq]
  generalize (if (p.pump n).state.inMotion then p.logStop n .outOfService else p) = q at handed
  refine ⟨?_, ?_, ?_, ?_, ?_⟩
  · exact (congrArg (Vector.get · n) (Plant.setRun_pumps _ n _)).trans (q.stopped_pump n _)
  · rw [Plant.demand_setRun, if_pos rfl]
  · rw [Plant.setRun_queue, Plant.stopped_queue, mem_filter_ne]
    exact fun both => both.2 rfl
  · exact (Plant.claim_of_claims (Plant.setRun_claims _ n _) _).trans (q.stopped_claim n _)
  · rw [Plant.setRun_out, Plant.stopped_out, handed]

theorem Plant.oosSet_serving {p : Plant} {n : Fin 6} (present : (p.pump n).state ≠ .absent)
    (serves : (p.pump n).state ≠ .outOfService) : p.oosSet n = p.takeOut n .outOfService .outOfService := by
  cases state : (p.pump n).state
  case absent => exact absurd state present
  case outOfService => exact absurd state serves
  all_goals
    unfold Plant.oosSet
    rw [state]

theorem Plant.oosSet_still {p : Plant} {n : Fin 6} (still : (p.pump n).state = .absent ∨ (p.pump n).state = .outOfService) :
    p.oosSet n = p := by
  unfold Plant.oosSet
  rcases still with state | state
  · rw [state]
  · rw [state]

/-- R45: OOS set on a pump in service. -/
theorem Plant.judgeOos_takenOut {p : Plant} {n : Fin 6} {w : Word} (set : w.getLsbD 1 = true) (moved : p.pumpOosSet n = false)
    (present : (p.pump n).state ≠ .absent) (serves : (p.pump n).state ≠ .outOfService) :
    p.TakenOut n (p.outPump n) (p.judgeOos n w) := by
  rw [Plant.judgeOos_set set moved, Plant.oosSet_serving (p := p.fieldWritten n 1 true) present serves]
  obtain ⟨pump, demand, queue, claim, out⟩ := (p.fieldWritten n 1 true).takeOut_takenOut n
  generalize (p.fieldWritten n 1 true).takeOut n .outOfService .outOfService = q at pump demand queue claim out
  have settled : (q.pump n).NotAsked := by
    rw [pump]
    exact ⟨PumpState.noConfusion, Or.inl PumpState.noConfusion⟩
  have passes : Plant.Passes n q (p.reexamineAfter q n) := Plant.reexamineAfter_passes settled
  exact ⟨passes.pump.trans pump, passes.demand.trans demand, fun mem => queue (passes.queue.mp mem),
    (Plant.claim_of_claims passes.claims _).trans claim, passes.out.trans out⟩

theorem Plant.judgeOos_still {p : Plant} {n : Fin 6} {w : Word} (set : w.getLsbD 1 = true) (moved : p.pumpOosSet n = false)
    (still : (p.pump n).state = .absent ∨ (p.pump n).state = .outOfService) : p.judgeOos n w = p.fieldWritten n 1 true := by
  rw [Plant.judgeOos_set set moved, Plant.oosSet_still (p := p.fieldWritten n 1 true) still]
  refine if_neg ?_
  rw [Plant.oosWritten_demand, Bool.and_not_self]
  exact Bool.false_ne_true

theorem Plant.judgeOos_returns {p : Plant} {n : Fin 6} {w : Word} (clear : w.getLsbD 1 = false) (moved : p.pumpOosSet n = true)
    (out : (p.pump n).state = .outOfService) :
    p.judgeOos n w = (p.fieldWritten n 1 false).enterResting n (p.minOffTime n) := by
  rw [Plant.judgeOos_clear clear moved]
  exact if_pos out

theorem Plant.judgeOos_serves {p : Plant} {n : Fin 6} {w : Word} (clear : w.getLsbD 1 = false) (moved : p.pumpOosSet n = true)
    (serves : (p.pump n).state ≠ .outOfService) : p.judgeOos n w = p.fieldWritten n 1 false := by
  rw [Plant.judgeOos_clear clear moved]
  exact if_neg serves

/-! RESET (R44). -/

theorem Plant.judgeReset_clear {p : Plant} {n : Fin 6} {w : Word} (clear : w.getLsbD 2 = false) :
    p.judgeReset n w = (p, none) :=
  if_pos (by rw [show Sys2Proof.Machine.resetField w = false from clear]; rfl)

theorem Plant.judgeReset_set {p : Plant} {n : Fin 6} {w : Word} (set : w.getLsbD 2 = true) :
    p.judgeReset n w = if p.resetRefused n then (p, some .pumpTripped) else (p.resetField n, none) :=
  if_neg (by rw [show Sys2Proof.Machine.resetField w = true from set]; exact Bool.false_ne_true)

theorem Plant.judgeReset_still {p : Plant} {n : Fin 6} (w : Word) (still : (p.pump n).state ≠ .tripped) :
    p.judgeReset n w = (p, none) := by
  have condition : p.tripCondition n = false := beq_eq_false_iff_ne.mpr still
  cases set : w.getLsbD 2 with
  | false => exact Plant.judgeReset_clear set
  | true =>
    have refused : p.resetRefused n = false := by unfold Plant.resetRefused; rw [condition, Bool.false_and]
    have kept : p.resetField n = p := if_neg (by rw [condition, Bool.false_and]; exact Bool.false_ne_true)
    rw [Plant.judgeReset_set set, refused, kept]
    exact if_neg Bool.false_ne_true

theorem Plant.judgeReset_refused {p : Plant} {n : Fin 6} {w : Word} (set : w.getLsbD 2 = true)
    (tripped : (p.pump n).state = .tripped) (fault : p.faultActive n = true) :
    p.judgeReset n w = (p, some .pumpTripped) := by
  have refused : p.resetRefused n = true := Bool.and_eq_true_iff.mpr ⟨beq_iff_eq.mpr tripped, fault⟩
  rw [Plant.judgeReset_set set, refused]
  exact if_pos rfl

theorem Plant.judgeReset_taken {p : Plant} {n : Fin 6} {w : Word} (set : w.getLsbD 2 = true)
    (tripped : (p.pump n).state = .tripped) (quiet : p.faultActive n = false) :
    p.judgeReset n w = (p.resetTripped n, none) := by
  have refused : p.resetRefused n = false := by unfold Plant.resetRefused; rw [quiet, Bool.and_false]
  have taken : p.resetField n = p.resetTripped n :=
    if_pos (Bool.and_eq_true_iff.mpr ⟨beq_iff_eq.mpr tripped, by rw [quiet]; rfl⟩)
  rw [Plant.judgeReset_set set, refused, taken]
  exact if_neg Bool.false_ne_true

theorem Plant.judgeReset_acts (p : Plant) (n : Fin 6) (w : Word) : p.Acts (p.judgeReset n w).1 := by
  unfold Plant.judgeReset
  split_ifs
  · exact .refl p
  · exact .refl p
  · exact p.resetField_acts n

/-- The seconds since a pump tripped (R44). -/
def Plant.rested (p : Plant) (n : Fin 6) : Nat := (p.clock.uptime - (p.pump n).tripUptime.getD p.clock.uptime).toNat

def resetDraft (n : Fin 6) : Draft := { source := srcPump n, kind := 0x24, urgent := false, detail := [] }

def Plant.resetLogged (p : Plant) (n : Fin 6) : Plant := p.append (srcPump n) 0x24 []

theorem Plant.resetTripped_eq (p : Plant) (n : Fin 6) : p.resetTripped n =
    if p.minOffTime n ≤ p.rested n then (((p.resetLogged n).enterResting n 0).enterOff n).reexamine
    else (p.resetLogged n).enterResting n (p.minOffTime n - p.rested n) := by
  have since : ∀ t : Time, p.since t = (p.clock.uptime - t).toNat := fun _ => rfl
  unfold Plant.resetTripped Plant.rested
  cases (p.pump n).tripUptime with
  | some t => rfl
  | none =>
    rw [Option.getD_none, BitVec.sub_self]
    rfl

theorem Plant.resetTripped_early {p : Plant} {n : Fin 6} (quiet : p.faultActive n = false) (early : p.rested n < p.minOffTime n) :
    p.resetTripped n = (p.resetLogged n).stopped n (p.restingPump n (p.minOffTime n - p.rested n)) := by
  rw [Plant.resetTripped_eq, if_neg (not_le.mpr early)]
  exact Plant.enterResting_rests (p := p.resetLogged n) quiet _

/-- R44: with nothing left of the minimum off the pump goes on to OFF. -/
theorem Plant.resetTripped_late {p : Plant} {n : Fin 6} (quiet : p.faultActive n = false) (late : p.minOffTime n ≤ p.rested n) :
    ((p.resetTripped n).pump n).state = .off ∧ ((p.resetTripped n).pump n).history = (p.pump n).history := by
  rw [Plant.resetTripped_eq, if_pos late, Plant.enterResting_rests (p := p.resetLogged n) quiet]
  have rests : ((p.resetLogged n).stopped n ((p.resetLogged n).restingPump n 0)).pump n = p.restingPump n 0 :=
    (p.resetLogged n).stopped_pump n _
  have quiet' : ((p.resetLogged n).stopped n ((p.resetLogged n).restingPump n 0)).faultActive n = false :=
    (((p.resetLogged n).stopped_acts n _).active _).trans quiet
  generalize (p.resetLogged n).stopped n ((p.resetLogged n).restingPump n 0) = q at rests quiet'
  have off := (Plant.enterOff_off quiet').1
  generalize q.enterOff n = r at off
  rw [(Plant.reexamine_waits (p := r) (n := n) (by rw [off]; exact PumpState.noConfusion)).pump, off, rests]
  exact ⟨rfl, rfl⟩

theorem Plant.resetTripped_out (p : Plant) (n : Fin 6) : ∃ more, (p.resetTripped n).out = p.out ++ resetDraft n :: more := by
  have logged : (p.resetLogged n).out = p.out ++ [resetDraft n] := rfl
  have acts : (p.resetLogged n).Acts (p.resetTripped n) := by
    rw [Plant.resetTripped_eq]
    split
    · exact ((Plant.enterResting_acts _ n 0).trans (Plant.enterOff_acts _ n)).trans (Plant.reexamine_acts _)
    · exact Plant.enterResting_acts _ n _
  obtain ⟨more, out⟩ := acts.2
  exact ⟨more, by rw [out, logged, List.append_assoc]; rfl⟩

/-! RUN (R36, R50, R51). -/

theorem Plant.judgeRun_outside {p : Plant} (n : Fin 6) (w : Word) (outside : p.mode.mode ≠ .auto) :
    p.judgeRun n w = (p, none) := if_pos outside

theorem Plant.judgeRun_clear {p : Plant} {n : Fin 6} {w : Word} (auto : p.mode.mode = .auto) (clear : w.getLsbD 0 = false) :
    p.judgeRun n w = (p.writeRun n false, none) := by
  unfold Plant.judgeRun
  rw [if_neg (not_not_intro auto), show runField w = false from clear]
  exact if_pos rfl

theorem Plant.judgeRun_refused {p : Plant} {n : Fin 6} {w : Word} {cause : RefusalCause} (auto : p.mode.mode = .auto)
    (set : w.getLsbD 0 = true) (refused : p.runRefusal n = some cause) :
    p.judgeRun n w = (p.writeRun n false, some cause) := by
  unfold Plant.judgeRun
  rw [if_neg (not_not_intro auto), show runField w = true from set, refused]
  exact if_neg Bool.false_ne_true

theorem Plant.judgeRun_granted {p : Plant} {n : Fin 6} {w : Word} (auto : p.mode.mode = .auto)
    (set : w.getLsbD 0 = true) (granted : p.runRefusal n = none) :
    p.judgeRun n w = (p.writeRun n true, none) := by
  unfold Plant.judgeRun
  rw [if_neg (not_not_intro auto), show runField w = true from set, granted]
  exact if_neg Bool.false_ne_true

theorem Plant.writeRun_same {p : Plant} {n : Fin 6} {b : Bool} (same : p.demand n = b) : p.writeRun n b = p := if_pos same

theorem Plant.writeRun_set {p : Plant} {n : Fin 6} (idle : p.demand n = false) :
    p.writeRun n true = (p.fieldWritten n 0 true).demandSet n :=
  (if_neg (by rw [idle]; exact Bool.false_ne_true)).trans (if_pos rfl)

theorem Plant.writeRun_clear {p : Plant} {n : Fin 6} (demanded : p.demand n = true) :
    p.writeRun n false = (p.fieldWritten n 0 false).demandCleared n :=
  (if_neg (by rw [demanded]; decide)).trans (if_neg Bool.false_ne_true)

theorem Plant.runWritten_demand (p : Plant) (n : Fin 6) (b : Bool) : (p.fieldWritten n 0 b).demand n = b :=
  (p.fieldWritten_bit n b 0 (by decide)).trans (if_pos rfl)

theorem Plant.writeRun_judges (p : Plant) (n : Fin 6) (b : Bool) : Plant.Judges n p (p.writeRun n b) := by
  unfold Plant.writeRun
  dsimp only
  split_ifs
  · exact (Plant.Acts.refl p).judges n
  · exact (p.setPumpWord_judges n _).trans ((Plant.demandSet_acts _ n).judges n)
  · exact (p.setPumpWord_judges n _).trans ((Plant.demandCleared_acts _ n).judges n)

theorem Plant.judgeRun_judges (p : Plant) (n : Fin 6) (w : Word) : Plant.Judges n p (p.judgeRun n w).1 := by
  unfold Plant.judgeRun
  split_ifs
  · exact (Plant.Acts.refl p).judges n
  · exact p.writeRun_judges n false
  · split
    · exact p.writeRun_judges n false
    · exact p.writeRun_judges n true

theorem Plant.judgeRun_refusal (p : Plant) (n : Fin 6) (w : Word) :
    (p.judgeRun n w).2 = if p.mode.mode ≠ .auto ∨ w.getLsbD 0 = false then none else p.runRefusal n := by
  by_cases auto : p.mode.mode = .auto
  · cases set : w.getLsbD 0 with
    | false => rw [Plant.judgeRun_clear auto set, if_pos (Or.inr rfl)]
    | true =>
      rw [if_neg (not_or.mpr ⟨not_not_intro auto, by decide⟩)]
      cases refusal : p.runRefusal n with
      | none => rw [Plant.judgeRun_granted auto set refusal]
      | some cause => rw [Plant.judgeRun_refused auto set refusal]
  · rw [Plant.judgeRun_outside n w auto, if_pos (Or.inl auto)]

/-- R36: a demand set moves at most the place in the queue, or the deferred stop. -/
theorem Plant.demandSet_shadow (p : Plant) (n : Fin 6) : (p.demandSet n).shadow = p.shadow := by
  unfold Plant.demandSet
  split
  · rw [Plant.joinQueue_rest]
  · exact p.setPump_shadow n _
  all_goals rfl

theorem Plant.demandCleared_demand (p : Plant) (n : Fin 6) (idle : p.demand n = false) : (p.demandCleared n).demand n = false := by
  have stops : (p.stopPump n .demand).demand n = false := by
    obtain ⟨-, -, -, demand⟩ := Plant.enterResting_out_of_motion (p.logStop n .demand) n (p.minOffTime n)
    exact Bool.eq_false_iff.mpr fun yes => Bool.eq_false_iff.mp idle (demand yes)
  unfold Plant.demandCleared
  split
  · exact (Plant.demand_of_shadow (p.leaveQueue_kept n).2.shadow n).trans idle
  · exact stops
  · split_ifs
    · exact (Plant.demand_of_shadow (p.setPump_shadow n _) n).trans idle
    · exact stops
  all_goals exact idle

theorem Plant.writeRun_demand (p : Plant) (n : Fin 6) (b : Bool) : (p.writeRun n b).demand n = b := by
  by_cases same : p.demand n = b
  · rw [Plant.writeRun_same same, same]
  · cases b with
    | true =>
      rw [Plant.writeRun_set (Bool.eq_false_iff.mpr same), Plant.demand_of_shadow (Plant.demandSet_shadow _ n)]
      exact p.runWritten_demand n true
    | false =>
      rw [Plant.writeRun_clear (Bool.not_eq_false _ ▸ same)]
      exact Plant.demandCleared_demand _ n (p.runWritten_demand n false)

theorem Plant.judgeRun_demand (p : Plant) (n : Fin 6) (w : Word) : (p.judgeRun n w).1.demand n =
    if p.mode.mode = .auto then w.getLsbD 0 && (p.judgeRun n w).2.isNone else p.demand n := by
  by_cases auto : p.mode.mode = .auto
  · rw [if_pos auto]
    cases set : w.getLsbD 0 with
    | false => rw [Plant.judgeRun_clear auto set, Plant.writeRun_demand]; rfl
    | true =>
      cases refusal : p.runRefusal n with
      | none => rw [Plant.judgeRun_granted auto set refusal, Plant.writeRun_demand]; rfl
      | some cause => rw [Plant.judgeRun_refused auto set refusal, Plant.writeRun_demand]; rfl
  · rw [if_neg auto, Plant.judgeRun_outside n w auto]

/-- A pump that takes no notice of its demand (R36). -/
abbrev PumpState.Deaf (st : PumpState) : Prop := st = .absent ∨ st = .resting ∨ st = .tripped ∨ st = .outOfService

/-- The pump, its claim, the queue and the entries are as they were. -/
structure Plant.Unmoved (n : Fin 6) (p q : Plant) : Prop where
  pumps  : q.pumps = p.pumps
  claims : q.claims = p.claims
  queue  : q.queue = p.queue
  out    : q.out = p.out

theorem Plant.demandSet_deaf {p : Plant} {n : Fin 6} (deaf : (p.pump n).state.Deaf) : p.demandSet n = p := by
  unfold Plant.demandSet
  rcases deaf with state | state | state | state
  all_goals rw [state]

theorem Plant.demandCleared_deaf {p : Plant} {n : Fin 6} (deaf : (p.pump n).state.Deaf) : p.demandCleared n = p := by
  unfold Plant.demandCleared
  rcases deaf with state | state | state | state
  all_goals rw [state]

theorem Plant.writeRun_deaf {p : Plant} {n : Fin 6} (deaf : (p.pump n).state.Deaf) (b : Bool) :
    Plant.Unmoved n p (p.writeRun n b) := by
  by_cases same : p.demand n = b
  · rw [Plant.writeRun_same same]
    exact ⟨rfl, rfl, rfl, rfl⟩
  · cases b with
    | true =>
      rw [Plant.writeRun_set (Bool.eq_false_iff.mpr same), Plant.demandSet_deaf (p := p.fieldWritten n 0 true) deaf]
      exact ⟨rfl, rfl, rfl, rfl⟩
    | false =>
      rw [Plant.writeRun_clear (Bool.not_eq_false _ ▸ same), Plant.demandCleared_deaf (p := p.fieldWritten n 0 false) deaf]
      exact ⟨rfl, rfl, rfl, rfl⟩

theorem Plant.judgeRun_deaf {p : Plant} {n : Fin 6} (deaf : (p.pump n).state.Deaf) (w : Word) :
    Plant.Unmoved n p (p.judgeRun n w).1 := by
  unfold Plant.judgeRun
  split_ifs
  · exact ⟨rfl, rfl, rfl, rfl⟩
  · exact Plant.writeRun_deaf deaf false
  · split
    · exact Plant.writeRun_deaf deaf false
    · exact Plant.writeRun_deaf deaf true

theorem Plant.writeRun_off {p : Plant} {n : Fin 6} (off : (p.pump n).state = .off) (b : Bool) :
    (p.writeRun n b).pump n = p.pump n := by
  by_cases same : p.demand n = b
  · rw [Plant.writeRun_same same]
  · cases b with
    | true =>
      have joins : (p.fieldWritten n 0 true).demandSet n = (p.fieldWritten n 0 true).joinQueue n := by
        unfold Plant.demandSet
        rw [show ((p.fieldWritten n 0 true).pump n).state = .off from off]
      rw [Plant.writeRun_set (Bool.eq_false_iff.mpr same), joins, Plant.joinQueue_rest]
      rfl
    | false =>
      have leaves : (p.fieldWritten n 0 false).demandCleared n = (p.fieldWritten n 0 false).leaveQueue n := by
        unfold Plant.demandCleared
        rw [show ((p.fieldWritten n 0 false).pump n).state = .off from off]
      rw [Plant.writeRun_clear (Bool.not_eq_false _ ▸ same), leaves]
      exact congrArg (Vector.get · n) (Plant.leaveQueue_pumps (p.fieldWritten n 0 false) n)

theorem Plant.judgeRun_off {p : Plant} {n : Fin 6} (off : (p.pump n).state = .off) (w : Word) :
    (p.judgeRun n w).1.pump n = p.pump n := by
  unfold Plant.judgeRun
  split_ifs
  · rfl
  · exact Plant.writeRun_off off false
  · split
    · exact Plant.writeRun_off off false
    · exact Plant.writeRun_off off true

/-! The whole word (R48). -/

/-- The plant when OOS and RESET have been judged. -/
def Plant.pumpReset (p : Plant) (n : Fin 6) (w : Word) : Plant := ((p.judgeOos n w).judgeReset n w).1

/-- The plant when the word has been judged, before its shadow is set. -/
def Plant.pumpJudged (p : Plant) (n : Fin 6) (w : Word) : Plant := ((p.pumpReset n w).judgeRun n w).1

/-- Why the word is trimmed, if it is. -/
def Plant.pumpRefused (p : Plant) (n : Fin 6) (w : Word) : Option RefusalCause :=
  ((p.judgeOos n w).judgeReset n w).2.or ((p.pumpReset n w).judgeRun n w).2

/-- The shadow word that the write leaves. -/
def Plant.pumpWordWritten (p : Plant) (n : Fin 6) (w : Word) : Word := (p.pumpJudged n w).pumpShadow n w

/-- The plant after a write to a pump command word. -/
def Plant.pumpWritten (p : Plant) (n : Fin 6) (w : Word) : Plant :=
  ((p.pumpJudged n w).setShadow (pumpWord n) (p.pumpWordWritten n w)).conclude

def Plant.pumpVerdict (p : Plant) (n : Fin 6) (w : Word) : Verdict :=
  pumpOutcome (decide (pumpWord n ∈ p.corr)) (p.mode.mode != .auto) (p.pumpRefused n w) w (p.pumpWordWritten n w)

theorem Plant.pumpJudged_judges (p : Plant) (n : Fin 6) (w : Word) : Plant.Judges n p (p.pumpJudged n w) :=
  ((p.judgeOos_judges n w).trans ((Plant.judgeReset_acts _ n w).judges n)).trans (Plant.judgeRun_judges _ n w)

theorem Plant.pumpWritten_judges (p : Plant) (n : Fin 6) (w : Word) : Plant.Judges n p (p.pumpWritten n w) :=
  ((p.pumpJudged_judges n w).trans (Plant.setPumpWord_judges _ n _)).trans ((Plant.conclude_kept _).acts.judges n)

theorem State.judgePump_eq (s : State) (n : Fin 6) (w : Word) :
    s.judgePump n w = (s.withPlant (s.plant.pumpWritten n w), s.plant.pumpVerdict n w) := by
  have mode : (s.plant.pumpJudged n w).mode = s.plant.mode := (s.plant.pumpJudged_judges n w).inputs.mode
  unfold Plant.pumpVerdict
  rw [← mode]
  unfold State.judgePump Plant.pumpRefused Plant.pumpWritten Plant.pumpWordWritten Plant.pumpJudged Plant.pumpReset
  obtain ⟨p1, refusedReset⟩ := (s.plant.judgeOos n w).judgeReset n w
  dsimp only
  obtain ⟨p2, refusedRun⟩ := p1.judgeRun n w
  cases refusedReset with
  | none => rfl
  | some cause => rfl

theorem pumpOutcome_write (s : State) (n : Fin 6) (w : Word) (v : Verdict) :
    v.refusal ≠ none → (s.commandWrite (pumpWord n) w).write = true := fun _ => rfl

/-- What a write to a pump command word leaves. -/
theorem pumpWrite_step {s : State} {n : Fin 6} {w : Word} (taken : s.Takes (s.commandWrite (pumpWord n) w)) :
    let t := s.pumpWrite n w
    let v := s.plant.pumpVerdict n w
    s.AccessStep t (s.commandWrite (pumpWord n) w) v ∧ Plant.Left (s.plant.pumpWritten n w) t.plant ∧
      t.plant = { s.plant.pumpWritten n w with out := [], marks := s.plant.marks } ∧
      t.log = ((s.plant.pumpWritten n w).out ++ s.outcomeEntries (s.commandWrite (pumpWord n) w) v).foldl
        (fun l d => l.append s.plant.clock d) s.log ∧
      t.settings = s.settings ∧ t.link = s.link := by
  have judged := (s.present (s.commandWrite (pumpWord n) w)).judgePump_eq n w
  rw [taken.present_plant] at judged
  have clock : (s.plant.pumpWritten n w).clock = s.plant.clock := (s.plant.pumpWritten_judges n w).inputs.clock
  obtain ⟨step, plant, log, settings, link⟩ := access_step (judge := fun t => t.judgePump n w) taken judged
    ((Judging.start taken).withPlant _) (pumpOutcome_write s n w _) clock
  refine ⟨step, Plant.left_of_eq plant, plant, log.trans ?_, settings.trans taken.present_settings, link.trans taken.present_link⟩
  show ((s.plant.pumpWritten n w).out ++ s.outcomeEntries (s.commandWrite (pumpWord n) w) (s.plant.pumpVerdict n w)).foldl
    (fun l d => l.append (s.plant.pumpWritten n w).clock d) (s.present (s.commandWrite (pumpWord n) w)).log = _
  rw [clock, taken.present_log]

/-! What the write leaves of its pump. -/

section
variable {p : Plant} {n : Fin 6} {w : Word}

theorem Plant.pumpWritten_word : (p.pumpWritten n w).shadow.get (pumpWord n) = p.pumpWordWritten n w := by
  unfold Plant.pumpWritten
  rw [(Plant.conclude_kept _).2.shadow]
  exact vset_get_same _ _ _

theorem Plant.pumpWordWritten_bit (k : Nat) : (p.pumpWordWritten n w).getLsbD k =
    if k = 0 then (p.pumpJudged n w).demand n else if k = 2 then false else w.getLsbD k := by
  unfold Plant.pumpWordWritten Plant.pumpShadow
  rw [getLsbD_setBit _ _ _ _ (by decide), getLsbD_setBit _ _ _ _ (by decide)]

theorem Plant.pumpWritten_demand : (p.pumpWritten n w).demand n = (p.pumpJudged n w).demand n := by
  show ((p.pumpWritten n w).shadow.get (pumpWord n)).getLsbD 0 = _
  rw [Plant.pumpWritten_word, Plant.pumpWordWritten_bit, if_pos rfl]

theorem Plant.pumpWritten_oos : (p.pumpWritten n w).pumpOosSet n = w.getLsbD 1 := by
  show ((p.pumpWritten n w).shadow.get (pumpWord n)).getLsbD 1 = _
  rw [Plant.pumpWritten_word, Plant.pumpWordWritten_bit, if_neg (by decide), if_neg (by decide)]

theorem Plant.pumpWritten_kept (absent : n ∉ (p.pumpJudged n w).queue)
    (free : ((p.pumpJudged n w).claim (pumpHolder n)).status ≠ .waiting) :
    (p.pumpWritten n w).pump n = (p.pumpJudged n w).pump n ∧ n ∉ (p.pumpWritten n w).queue ∧
      (p.pumpWritten n w).claim (pumpHolder n) = (p.pumpJudged n w).claim (pumpHolder n) :=
  Plant.conclude_pump_kept ((p.pumpJudged n w).setShadow (pumpWord n) (p.pumpWordWritten n w)) n absent free

theorem Plant.pumpWritten_moves : (p.pumpWritten n w).pump n = (p.pumpJudged n w).pump n ∨
    ((p.pumpWritten n w).pump n).state.inMotion = true :=
  Plant.conclude_pump ((p.pumpJudged n w).setShadow (pumpWord n) (p.pumpWordWritten n w)) n

theorem Plant.pumpWritten_out : ∃ more, (p.pumpWritten n w).out = (p.pumpJudged n w).out ++ more :=
  (Plant.conclude_kept ((p.pumpJudged n w).setShadow (pumpWord n) (p.pumpWordWritten n w))).1.2

theorem Plant.pumpWritten_outReset : ∃ more, (p.pumpWritten n w).out = (p.pumpReset n w).out ++ more := by
  obtain ⟨more, judged⟩ := (Plant.judgeRun_judges (p.pumpReset n w) n w).out
  obtain ⟨more', written⟩ := Plant.pumpWritten_out (p := p) (n := n) (w := w)
  have judged : (p.pumpJudged n w).out = _ := judged
  exact ⟨more ++ more', by rw [written, judged, List.append_assoc]⟩

theorem Plant.pumpReset_mode : (p.pumpReset n w).mode = p.mode :=
  ((p.judgeOos_judges n w).trans ((Plant.judgeReset_acts _ n w).judges n)).inputs.mode

/-- Where the first two fields are not refused, the third is what trims the word, outside LOCAL. -/
theorem Plant.pumpVerdict_run (kept : ((p.judgeOos n w).judgeReset n w).2 = none) :
    p.pumpRefused n w = if p.mode.mode ≠ .auto ∨ w.getLsbD 0 = false then none else (p.pumpReset n w).runRefusal n := by
  unfold Plant.pumpRefused
  rw [kept, Plant.judgeRun_refusal, Plant.pumpReset_mode]
  rfl

theorem Plant.pumpReset_still (still : ((p.judgeOos n w).pump n).state ≠ .tripped) :
    p.pumpReset n w = p.judgeOos n w ∧ ((p.judgeOos n w).judgeReset n w).2 = none := by
  unfold Plant.pumpReset
  rw [Plant.judgeReset_still w still]
  exact ⟨rfl, rfl⟩

theorem Plant.pumpReset_fault (tripped : ((p.judgeOos n w).pump n).state = .tripped) (fault : p.faultActive n = true) :
    p.pumpReset n w = p.judgeOos n w := by
  have fault' : (p.judgeOos n w).faultActive n = true := ((p.judgeOos_judges n w).inputs.active (faultLine n)).trans fault
  unfold Plant.pumpReset
  cases set : w.getLsbD 2 with
  | false => rw [Plant.judgeReset_clear set]
  | true => rw [Plant.judgeReset_refused set tripped fault']

theorem Plant.pumpWritten_trip (running : p.loading = false) :
    ((p.pumpWritten n w).alarms.points.get (tripPoint n)).condition = (((p.pumpWritten n w).pump n).state == .tripped) := by
  have outside : ((p.pumpJudged n w).setShadow (pumpWord n) (p.pumpWordWritten n w)).loading = false := by
    unfold Plant.loading at running ⊢
    rw [((p.pumpJudged_judges n w).trans (Plant.setPumpWord_judges _ n _)).inputs.mode]
    exact running
  exact (Plant.conclude_announced outside).trip n

/-- A pump that the first two fields leave deaf to its demand is not moved by the third. -/
theorem Plant.pumpJudged_deaf (deaf : ((p.pumpReset n w).pump n).state.Deaf) :
    Plant.Unmoved n (p.pumpReset n w) (p.pumpJudged n w) := Plant.judgeRun_deaf deaf w

/-- What the write leaves of a pump that the first two fields leave deaf, out of the queue and without a claim that waits. -/
theorem Plant.pumpWritten_deaf (deaf : ((p.pumpReset n w).pump n).state.Deaf) (absent : n ∉ (p.pumpReset n w).queue)
    (free : ((p.pumpReset n w).claim (pumpHolder n)).status ≠ .waiting) :
    (p.pumpWritten n w).pump n = (p.pumpReset n w).pump n ∧ n ∉ (p.pumpWritten n w).queue ∧
      (p.pumpWritten n w).claim (pumpHolder n) = (p.pumpReset n w).claim (pumpHolder n) := by
  obtain ⟨pumps, claims, queue, -⟩ := Plant.pumpJudged_deaf deaf
  have claim := Plant.claim_of_claims claims (pumpHolder n)
  obtain ⟨pump, out, kept⟩ := Plant.pumpWritten_kept (p := p) (n := n) (w := w) (by rw [queue]; exact absent)
    (by rw [claim]; exact free)
  exact ⟨pump.trans (congrArg (Vector.get · n) pumps), out, kept.trans claim⟩

theorem Plant.pumpReset_same (same : w.getLsbD 1 = p.pumpOosSet n) : p.pumpReset n w = (p.judgeReset n w).1 := by
  unfold Plant.pumpReset
  rw [Plant.judgeOos_same same]

/-- R44: what a RESET that is taken leaves. -/
theorem Plant.pumpWritten_reset (reset : p.pumpReset n w = p.resetTripped n) (quiet : p.faultActive n = false) :
    (p.rested n < p.minOffTime n → (p.pumpWritten n w).pump n = p.restingPump n (p.minOffTime n - p.rested n)) ∧
      (p.minOffTime n ≤ p.rested n →
        ((p.pumpWritten n w).pump n).state = .off ∨ ((p.pumpWritten n w).pump n).state.inMotion = true) := by
  refine ⟨fun early => ?_, fun late => ?_⟩
  · have rests : p.pumpReset n w = (p.resetLogged n).stopped n (p.restingPump n (p.minOffTime n - p.rested n)) := by
      rw [reset, Plant.resetTripped_early quiet early]
    have pump : (p.pumpReset n w).pump n = _ := rests ▸ (p.resetLogged n).stopped_pump n _
    have claim : (p.pumpReset n w).claim (pumpHolder n) = .gone := rests ▸ (p.resetLogged n).stopped_claim n _
    have queue : n ∉ (p.pumpReset n w).queue := by
      rw [rests, Plant.stopped_queue, mem_filter_ne]
      exact fun both => both.2 rfl
    exact (Plant.pumpWritten_deaf (by rw [pump]; exact Or.inr (Or.inl rfl)) queue
      (by rw [claim]; exact Claim.gone_notWaiting)).1.trans pump
  · have off : ((p.pumpReset n w).pump n).state = .off := by
      rw [reset]
      exact (Plant.resetTripped_late quiet late).1
    have judged : (p.pumpJudged n w).pump n = (p.pumpReset n w).pump n := Plant.judgeRun_off off w
    exact Plant.pumpWritten_moves.imp_left fun same => by rw [same, judged, off]

theorem pumpWrite_logged {s : State} {entries : List Draft} (taken : s.Takes (s.commandWrite (pumpWord n) w))
    (out : ∃ more, (s.plant.pumpWritten n w).out = entries ++ more) : s.Logged (s.pumpWrite n w) entries := by
  obtain ⟨more, out⟩ := out
  obtain ⟨-, -, plant, log, -⟩ := pumpWrite_step taken
  have clock : (s.pumpWrite n w).plant.clock = s.plant.clock := by
    rw [plant]
    exact (s.plant.pumpWritten_judges n w).inputs.clock
  refine ⟨more ++ s.outcomeEntries (s.commandWrite (pumpWord n) w) (s.plant.pumpVerdict n w), ?_⟩
  rw [log, clock, out, List.append_assoc]

theorem pumpOutcome_kept (pending inLocal : Bool) (word shadow : Word) :
    pumpOutcome pending inLocal none word shadow =
      if pending = true ∨ inLocal = true ∧ word.getLsbD 0 ≠ shadow.getLsbD 0 then .rewrite shadow else .forward := by
  unfold pumpOutcome
  dsimp only
  cases pending with
  | true => rw [if_pos rfl, if_pos (Or.inl rfl)]
  | false =>
    rw [if_neg Bool.false_ne_true]
    refine if_congr ?_ rfl rfl
    rw [Bool.and_eq_true, bne_iff_ne, or_iff_right Bool.false_ne_true]
    rfl

theorem pumpOutcome_refusal (pending inLocal : Bool) (word shadow : Word) :
    (pumpOutcome pending inLocal none word shadow).refusal = none := by
  rw [pumpOutcome_kept]
  split
  · rfl
  · rfl

end

/-- Settles O28: `Plant.judgeReset` judges the RESET, and a pump at rest takes no notice of the RUN judged after it. -/
theorem resetFieldClearsTrip : Obligations.ResetFieldClearsTrip := by
  intro s n w u out running taken same set tripped when_
  obtain ⟨step, left, -⟩ := pumpWrite_step taken
  have rested : s.plant.rested n = (s.plant.clock.uptime - u).toNat := by
    unfold Plant.rested
    rw [when_]
    rfl
  refine ⟨_, _, rfl, step, fun quiet => ?_, fun fault => ?_⟩
  · have reset : s.plant.pumpReset n w = s.plant.resetTripped n := by
      rw [Plant.pumpReset_same same, Plant.judgeReset_taken set tripped quiet]
    have entries : ∃ more, (s.plant.pumpWritten n w).out = [resetDraft n] ++ more := by
      obtain ⟨more, first⟩ := s.plant.resetTripped_out n
      obtain ⟨more', last⟩ := Plant.pumpWritten_outReset (p := s.plant) (n := n) (w := w)
      exact ⟨more ++ more', by rw [last, reset, first, out]; rfl⟩
    obtain ⟨early, late⟩ := Plant.pumpWritten_reset reset quiet
    rw [← rested, left.alarms, Plant.pumpWritten_trip running, left.pump]
    refine ⟨pumpWrite_logged taken entries, beq_eq_false_iff_ne.mpr ?_, early, late⟩
    rcases Nat.lt_or_ge (s.plant.rested n) (s.plant.minOffTime n) with soon | past
    · rw [early soon]
      exact PumpState.noConfusion
    · rcases late past with off | moving
      · rw [off]
        exact PumpState.noConfusion
      · intro state
        rw [state] at moving
        cases moving
  · have reset : s.plant.pumpReset n w = s.plant := by
      rw [Plant.pumpReset_same same, Plant.judgeReset_refused set tripped fault]
    refine ⟨?_, fun absent free => ?_⟩
    · rw [left.shadow, Plant.pumpWritten_word]
      unfold Plant.pumpVerdict Plant.pumpRefused
      rw [Plant.judgeOos_same same, Plant.judgeReset_refused set tripped fault]
      rfl
    · obtain ⟨pump, -⟩ := Plant.pumpWritten_deaf (p := s.plant) (n := n) (w := w)
        (by rw [reset]; exact Or.inr (Or.inr (Or.inl tripped))) (by rw [reset]; exact absent)
        (by rw [reset, free]; exact ClaimStatus.noConfusion)
      rw [left.pump, pump, reset]

theorem Plant.runRefusal_outOfService {p : Plant} {n : Fin 6} (out : (p.pump n).state = .outOfService) :
    p.runRefusal n = some .pumpOos := by
  unfold Plant.runRefusal
  rw [out]
  rfl

/-- Settles O27: `Plant.judgeOos` moves the pump, and neither RESET nor RUN moves it further. -/
theorem oosFieldTakesPumpOutOfService : Obligations.OosFieldTakesPumpOutOfService := by
  intro s n w out running taken moves
  obtain ⟨step, left, -⟩ := pumpWrite_step taken
  have moved : s.plant.pumpOosSet n = !w.getLsbD 1 := by rw [moves, Bool.not_not]
  refine ⟨_, _, rfl, step, ?_, fun absent outside free => ?_, fun set present serves => ?set, fun clear stood => ?clear⟩
  · unfold Plant.pumpOosSet
    rw [left.shadow]
    exact Plant.pumpWritten_oos
  · have unmoved : ∃ b, s.plant.judgeOos n w = s.plant.fieldWritten n 1 b := by
      cases field : w.getLsbD 1 with
      | true => exact ⟨true, Plant.judgeOos_still field (by rw [moved, field]; rfl) (Or.inl absent)⟩
      | false =>
        exact ⟨false, Plant.judgeOos_serves field (by rw [moved, field]; rfl) (by rw [absent]; exact PumpState.noConfusion)⟩
    obtain ⟨b, written⟩ := unmoved
    have pump : (s.plant.judgeOos n w).pump n = s.plant.pump n := by rw [written]; rfl
    have reset : s.plant.pumpReset n w = s.plant.fieldWritten n 1 b :=
      (Plant.pumpReset_still (by rw [pump, absent]; exact PumpState.noConfusion)).1.trans written
    rw [left.pump]
    refine (Plant.pumpWritten_deaf ?_ ?_ ?_).1.trans ?_
    all_goals rw [reset]
    · exact Or.inl absent
    · exact outside
    · show (s.plant.claim (pumpHolder n)).status ≠ .waiting
      rw [free]
      exact ClaimStatus.noConfusion
    · rfl
  case set =>
    have moved : s.plant.pumpOosSet n = false := by rw [moved, set]; rfl
    obtain ⟨pump, demand, queue, claim, entries⟩ := Plant.judgeOos_takenOut set moved present serves
    have state : ((s.plant.judgeOos n w).pump n).state = .outOfService := by rw [pump]; rfl
    obtain ⟨reset, unreset⟩ := Plant.pumpReset_still (p := s.plant) (n := n) (w := w) (by rw [state]; exact PumpState.noConfusion)
    have refused := Plant.pumpVerdict_run unreset
    have run := Plant.judgeRun_demand (s.plant.pumpReset n w) n w
    rw [reset, Plant.runRefusal_outOfService state] at refused
    obtain ⟨pump', queue', claim'⟩ := Plant.pumpWritten_deaf (p := s.plant) (n := n) (w := w)
      (by rw [reset, state]; exact Or.inr (Or.inr (Or.inr rfl))) (by rw [reset]; exact queue)
      (by rw [reset, claim]; exact Claim.gone_notWaiting)
    rw [reset] at pump' claim' run
    have undemanded : (s.plant.pumpJudged n w).demand n = false := by
      unfold Plant.pumpJudged
      rw [reset, run, Plant.judgeRun_refusal, Plant.runRefusal_outOfService state, demand]
      cases w.getLsbD 0 with
      | false => rw [Bool.false_and, ite_self]
      | true =>
        split
        case isTrue auto => rw [if_neg (not_or.mpr ⟨not_not_intro auto, by decide⟩)]; rfl
        case isFalse => rfl
    rw [left.pump, left.demand, left.queue, left.claim, left.alarms, Plant.pumpWritten_trip running, pump', pump]
    refine ⟨rfl, Plant.pumpWritten_demand.trans undemanded, queue', claim'.trans claim, rfl, fun moving => ?_, fun auto asked => ?_, ?_⟩
    · obtain ⟨more, last⟩ := Plant.pumpWritten_outReset (p := s.plant) (n := n) (w := w)
      refine pumpWrite_logged taken ⟨more, ?_⟩
      rw [last, reset, entries, if_pos moving, out]
      rfl
    · rw [left.shadow, Plant.pumpWritten_word]
      unfold Plant.pumpVerdict
      rw [refused, if_neg (not_or.mpr ⟨not_not_intro auto, by rw [asked]; decide⟩)]
      rfl
    · by_cases asked : s.plant.mode.mode = .auto ∧ w.getLsbD 0 = true
      · exact Or.inl asked
      · refine Or.inr ?_
        unfold Plant.pumpVerdict
        rw [refused, if_pos (by rw [← Bool.not_eq_true]; exact not_and_or.mp asked)]
        exact pumpOutcome_refusal _ _ _ _
  case clear =>
    have moved : s.plant.pumpOosSet n = true := by rw [moved, clear]; rfl
    have returns := Plant.judgeOos_returns clear moved stood
    refine ⟨fun quiet => ?_, fun fault => ?_⟩
    · have rests := returns.trans (Plant.enterResting_rests (p := s.plant.fieldWritten n 1 false) quiet _)
      have pump : (s.plant.judgeOos n w).pump n = s.plant.restingPump n (s.plant.minOffTime n) := by
        rw [rests]
        exact Plant.stopped_pump _ n _
      have reset := (Plant.pumpReset_still (p := s.plant) (n := n) (w := w) (by rw [pump]; exact PumpState.noConfusion)).1
      rw [left.pump]
      refine (Plant.pumpWritten_deaf ?_ ?_ ?_).1.trans ?_
      all_goals rw [reset]
      · rw [pump]; exact Or.inr (Or.inl rfl)
      · rw [rests, Plant.stopped_queue, mem_filter_ne]
        exact fun both => both.2 rfl
      · rw [rests, Plant.stopped_claim]
        exact Claim.gone_notWaiting
      · exact pump
    · have trips := returns.trans (Plant.enterResting_trips (p := s.plant.fieldWritten n 1 false) fault _)
      obtain ⟨acts, pump, -, queue, claim, -⟩ := Plant.trip_trips ((s.plant.fieldWritten n 1 false).stopped n
        ((s.plant.fieldWritten n 1 false).restingPump n (s.plant.minOffTime n))) n .fault
      have clock := acts.inputs.clock.symm.trans (trips ▸ (s.plant.judgeOos_judges n w).inputs.clock)
      rw [← trips] at pump queue claim
      have tripped : ((s.plant.judgeOos n w).pump n).state = .tripped := by rw [pump]; rfl
      have reset := Plant.pumpReset_fault tripped fault
      obtain ⟨pump', -⟩ := Plant.pumpWritten_deaf (p := s.plant) (n := n) (w := w)
        (by rw [reset, tripped]; exact Or.inr (Or.inr (Or.inl rfl))) (by rw [reset]; exact queue)
        (by rw [reset, claim]; exact Claim.gone_notWaiting)
      rw [left.pump, pump', reset, pump]
      unfold Plant.trippedPump
      rw [clock]
      exact ⟨rfl, rfl, rfl⟩

end Sys2Proof.Machine
end

section
/-! The RUN field in AUTO (R50): O26; and the pump command word as a whole (R48): O25. -/

namespace Sys2Proof.Machine

section
variable {p : Plant} {n : Fin 6} {w : Word}

theorem Plant.pumpReset_asIs (same : w.getLsbD 1 = p.pumpOosSet n) (clear : w.getLsbD 2 = false) :
    p.pumpReset n w = p ∧ ((p.judgeOos n w).judgeReset n w).2 = none := by
  unfold Plant.pumpReset
  rw [Plant.judgeOos_same same, Plant.judgeReset_clear clear]
  exact ⟨rfl, rfl⟩

end

/-- R50: the table by which a set RUN is trimmed. -/
theorem Plant.runRefusal_eq (p : Plant) (n : Fin 6) : p.runRefusal n =
    if (p.pump n).state = .absent then some .pumpAbsent
    else if (p.pump n).state = .tripped then some .pumpTripped
    else if (p.pump n).state = .outOfService then some .pumpOos
    else if p.lowLowActive = true then some .dryWell
    else if (p.pump n).state = .off ∧ p.currentLimit n ≤ (p.pump n).history.length then some .startLimit
    else none := by
  have limit : (p.pump n).state = .off ∧ p.atLimit n = true ↔
      (p.pump n).state = .off ∧ p.currentLimit n ≤ (p.pump n).history.length :=
    and_congr_right fun _ => decide_eq_true_iff
  unfold Plant.runRefusal
  exact if_congr Iff.rfl rfl (if_congr Iff.rfl rfl (if_congr Iff.rfl rfl (if_congr Iff.rfl rfl (if_congr limit rfl rfl))))

theorem Plant.demandSet_off {p : Plant} {n : Fin 6} (off : (p.pump n).state = .off) : p.demandSet n = p.joinQueue n := by
  unfold Plant.demandSet
  rw [off]

theorem Plant.demandCleared_off {p : Plant} {n : Fin 6} (off : (p.pump n).state = .off) :
    p.demandCleared n = p.leaveQueue n := by
  unfold Plant.demandCleared
  rw [off]

theorem Plant.demandCleared_running {p : Plant} {n : Fin 6} (running : (p.pump n).state = .running) : p.demandCleared n =
    if (p.pump n).minRun.isRunning then p.setPump n { p.pump n with deferred := true } else p.stopPump n .demand := by
  unfold Plant.demandCleared
  rw [running]

/-- Settles O26: `Plant.judgeRun` judges the field, and what it makes of the pump the end of the event leaves or starts. -/
theorem runFieldIsJudgedInAuto : Obligations.RunFieldIsJudgedInAuto := by
  intro s n w out taken auto same clear
  obtain ⟨step, left, -⟩ := pumpWrite_step taken
  obtain ⟨reset, unreset⟩ := Plant.pumpReset_asIs same clear
  have refused := Plant.pumpVerdict_run unreset
  have demand : (s.pumpWrite n w).plant.demand n = _ :=
    (left.demand n).trans (Plant.pumpWritten_demand.trans (Plant.judgeRun_demand (s.plant.pumpReset n w) n w))
  rw [reset] at refused demand
  rw [Plant.judgeRun_refusal, if_pos auto] at demand
  refine ⟨_, _, rfl, step, fun set => ?set, fun unset => ?unset⟩
  case set =>
    have asked : ¬ (s.plant.mode.mode ≠ .auto ∨ w.getLsbD 0 = false) := not_or.mpr ⟨not_not_intro auto, by rw [set]; decide⟩
    rw [if_neg asked] at refused demand
    rw [set, Bool.true_and] at demand
    have trims {cause : RefusalCause} (refusal : s.plant.runRefusal n = some cause) :
        s.plant.pumpVerdict n w = .trim ((s.pumpWrite n w).plant.shadow.get (pumpWord n)) cause ∧
          (s.pumpWrite n w).plant.demand n = false := by
      rw [left.shadow, Plant.pumpWritten_word, demand]
      unfold Plant.pumpVerdict
      rw [refused, refusal]
      exact ⟨rfl, rfl⟩
    have refusal := s.plant.runRefusal_eq n
    dsimp only
    by_cases absent : (s.plant.pump n).state = .absent
    · rw [if_pos absent] at refusal ⊢; exact trims refusal
    rw [if_neg absent] at refusal ⊢
    by_cases tripped : (s.plant.pump n).state = .tripped
    · rw [if_pos tripped] at refusal ⊢; exact trims refusal
    rw [if_neg tripped] at refusal ⊢
    by_cases oos : (s.plant.pump n).state = .outOfService
    · rw [if_pos oos] at refusal ⊢; exact trims refusal
    rw [if_neg oos] at refusal ⊢
    by_cases dry : s.plant.lowLowActive = true
    · rw [if_pos dry] at refusal ⊢; exact trims refusal
    rw [if_neg dry] at refusal ⊢
    by_cases full : (s.plant.pump n).state = .off ∧ s.plant.currentLimit n ≤ (s.plant.pump n).history.length
    · rw [if_pos full] at refusal ⊢; exact trims refusal
    rw [if_neg full] at refusal ⊢
    have judged : s.plant.pumpJudged n w = s.plant.writeRun n true := by
      unfold Plant.pumpJudged
      rw [reset, Plant.judgeRun_granted auto set refusal]
    refine ⟨by rw [demand, refusal]; rfl, ?_, fun off idle => ?_, fun resting absent free => ?_⟩
    · unfold Plant.pumpVerdict
      rw [refused, refusal]
      exact pumpOutcome_refusal _ _ _ _
    · have queued : n ∈ (s.plant.pumpJudged n w).queue := by
        rw [judged, Plant.writeRun_set idle, Plant.demandSet_off (p := s.plant.fieldWritten n 0 true) off, Plant.joinQueue_queue]
        exact Or.inr rfl
      rw [left.queue, left.pump]
      exact Plant.conclude_queued (p := (s.plant.pumpJudged n w).setShadow (pumpWord n) (s.plant.pumpWordWritten n w)) queued
    · rw [left.pump]
      refine (Plant.pumpWritten_deaf ?_ ?_ ?_).1.trans (by rw [reset])
      all_goals rw [reset]
      · exact Or.inr (Or.inl resting)
      · exact absent
      · exact free
  case unset =>
    rw [if_pos (Or.inr unset)] at refused demand
    rw [unset, Bool.false_and] at demand
    have judged : s.plant.pumpJudged n w = s.plant.writeRun n false := by
      unfold Plant.pumpJudged
      rw [reset, Plant.judgeRun_clear auto unset]
    refine ⟨demand, ?_, fun demanded off => ?_, fun demanded running timed absent held => ?_, fun demanded running free quiet => ?_⟩
    · unfold Plant.pumpVerdict
      rw [refused]
      exact pumpOutcome_refusal _ _ _ _
    all_goals rw [Plant.writeRun_clear demanded] at judged
    · rw [Plant.demandCleared_off (p := s.plant.fieldWritten n 0 false) off] at judged
      rw [left.queue]
      refine (Plant.pumpWritten_kept ?_ ?_).2.1
      · rw [judged, Plant.leaveQueue_queue, mem_filter_ne]
        exact fun both => both.2 rfl
      · rw [judged, Plant.leaveQueue_claim]
        split
        · exact ClaimStatus.noConfusion
        case isFalse other => exact fun waits => other ⟨rfl, waits⟩
    · have timed : ((s.plant.fieldWritten n 0 false).pump n).minRun.isRunning = true := timed
      rw [Plant.demandCleared_running (p := s.plant.fieldWritten n 0 false) running, if_pos timed] at judged
      rw [left.pump]
      refine (Plant.pumpWritten_kept ?_ ?_).1.trans ?_
      all_goals rw [judged]
      · rw [Plant.setPump_queue]; exact absent
      · rw [Plant.claim_of_claims (Plant.setPump_claims _ n _)]
        show (s.plant.claim (pumpHolder n)).status ≠ .waiting
        rw [held]
        exact ClaimStatus.noConfusion
      · exact Plant.pump_setPump_same _ n _
    · rw [Plant.demandCleared_running (p := s.plant.fieldWritten n 0 false) running,
        if_neg (by rw [show ((s.plant.fieldWritten n 0 false).pump n).minRun.isRunning = false from free]; exact Bool.false_ne_true),
        Plant.stopPump_rests (p := s.plant.fieldWritten n 0 false) quiet] at judged
      rw [left.pump, left.claim]
      obtain ⟨pump, -, claim⟩ := Plant.pumpWritten_kept (p := s.plant) (n := n) (w := w)
        (by
          rw [judged, Plant.stopped_queue, mem_filter_ne]
          exact fun both => both.2 rfl)
        (by
          rw [judged, Plant.stopped_claim]
          exact Claim.gone_notWaiting)
      rw [pump, claim, judged, Plant.stopped_pump, Plant.stopped_claim]
      exact ⟨rfl, rfl⟩

/-! The states that the first two fields lead to (R44, R45). -/

/-- R45: the state of the pump when OOS has been judged. -/
def Plant.oosedState (p : Plant) (n : Fin 6) (w : Word) : PumpState :=
  if w.getLsbD 1 = p.pumpOosSet n then (p.pump n).state
  else if w.getLsbD 1 = true then (if (p.pump n).state = .absent then .absent else .outOfService)
  else if (p.pump n).state = .outOfService then (if p.faultActive n = true then .tripped else .resting)
  else (p.pump n).state

/-- R44: the state of the pump when RESET has been judged too. -/
def Plant.resetState (p : Plant) (n : Fin 6) (w : Word) : PumpState :=
  if w.getLsbD 2 = true ∧ p.oosedState n w = .tripped ∧ p.faultActive n = false
  then (if p.minOffTime n ≤ p.rested n then .off else .resting) else p.oosedState n w

section
variable (p : Plant) (n : Fin 6) (w : Word)

/-- R45: what OOS makes of the pump: its state, and nothing of its history; and a pump that is in TRIPPED without a fault
has been left as it was. -/
theorem Plant.judgeOos_view : ((p.judgeOos n w).pump n).state = p.oosedState n w ∧
    ((p.judgeOos n w).pump n).history = (p.pump n).history ∧
    (p.faultActive n = false → p.oosedState n w = .tripped → (p.judgeOos n w).pump n = p.pump n) := by
  unfold Plant.oosedState
  by_cases same : w.getLsbD 1 = p.pumpOosSet n
  · rw [Plant.judgeOos_same same, if_pos same]
    exact ⟨rfl, rfl, fun _ _ => rfl⟩
  rw [if_neg same]
  have moved : p.pumpOosSet n = !w.getLsbD 1 := Bool.eq_not.mpr (Ne.symm same)
  cases field : w.getLsbD 1 with
  | true =>
    rw [field] at moved
    rw [if_pos rfl]
    by_cases absent : (p.pump n).state = .absent
    · rw [if_pos absent, Plant.judgeOos_still field moved (Or.inl absent)]
      exact ⟨absent, rfl, fun _ _ => rfl⟩
    rw [if_neg absent]
    by_cases out : (p.pump n).state = .outOfService
    · rw [Plant.judgeOos_still field moved (Or.inr out)]
      exact ⟨out, rfl, fun _ _ => rfl⟩
    · rw [(Plant.judgeOos_takenOut field moved absent out).pump]
      exact ⟨rfl, rfl, fun _ tripped => PumpState.noConfusion tripped⟩
  | false =>
    rw [field] at moved
    rw [if_neg Bool.false_ne_true]
    by_cases out : (p.pump n).state = .outOfService
    · rw [if_pos out, Plant.judgeOos_returns field moved out]
      cases fault : p.faultActive n with
      | false =>
        rw [Plant.enterResting_rests (p := p.fieldWritten n 1 false) fault, Plant.stopped_pump]
        exact ⟨rfl, rfl, fun _ tripped => PumpState.noConfusion tripped⟩
      | true =>
        rw [Plant.enterResting_trips (p := p.fieldWritten n 1 false) fault, (Plant.trip_trips _ n .fault).pump]
        refine ⟨rfl, ?_, fun quiet => Bool.noConfusion quiet⟩
        unfold Plant.trippedPump
        rw [Plant.stopped_pump]
        rfl
    · rw [if_neg out, Plant.judgeOos_serves field moved out]
      exact ⟨rfl, rfl, fun _ _ => rfl⟩

theorem Plant.pumpReset_view : ((p.pumpReset n w).pump n).state = p.resetState n w ∧
    ((p.pumpReset n w).pump n).history = (p.pump n).history ∧
    ((p.judgeOos n w).judgeReset n w).2 =
      if w.getLsbD 2 = true ∧ p.oosedState n w = .tripped ∧ p.faultActive n = true then some .pumpTripped else none := by
  obtain ⟨state, history, kept⟩ := p.judgeOos_view n w
  have inputs := (p.judgeOos_judges n w).inputs
  have fault' : (p.judgeOos n w).faultActive n = p.faultActive n := inputs.active (faultLine n)
  have off : (p.judgeOos n w).minOffTime n = p.minOffTime n := inputs.reads (fun p => p.minOffTime n) fun _ => rfl
  unfold Plant.resetState Plant.pumpReset
  cases set : w.getLsbD 2 with
  | false =>
    rw [Plant.judgeReset_clear set, if_neg fun all => Bool.false_ne_true all.1, if_neg fun all => Bool.false_ne_true all.1]
    exact ⟨state, history, rfl⟩
  | true =>
    by_cases tripped : p.oosedState n w = .tripped
    · have tripped' := state.trans tripped
      cases fault : p.faultActive n with
      | true =>
        rw [Plant.judgeReset_refused set tripped' (fault'.trans fault), if_neg fun all => Bool.noConfusion all.2.2,
          if_pos ⟨rfl, tripped, rfl⟩]
        exact ⟨state, history, rfl⟩
      | false =>
        have quiet := fault'.trans fault
        have rested : (p.judgeOos n w).rested n = p.rested n := by
          unfold Plant.rested
          rw [kept fault tripped, inputs.clock]
        rw [Plant.judgeReset_taken set tripped' quiet, if_pos ⟨rfl, tripped, rfl⟩, ← rested, ← off]
        rcases Nat.lt_or_ge ((p.judgeOos n w).rested n) ((p.judgeOos n w).minOffTime n) with early | late
        · rw [if_neg (not_le.mpr early), if_neg fun all => Bool.false_ne_true all.2.2, Plant.resetTripped_early quiet early,
            Plant.stopped_pump]
          exact ⟨rfl, history, rfl⟩
        · obtain ⟨isOff, same⟩ := Plant.resetTripped_late quiet late
          rw [if_pos late, if_neg fun all => Bool.false_ne_true all.2.2]
          exact ⟨isOff, same.trans history, rfl⟩
    · rw [Plant.judgeReset_still w (by rw [state]; exact tripped), if_neg fun all => tripped all.2.1,
        if_neg fun all => tripped all.2.1]
      exact ⟨state, history, rfl⟩

/-- R50: why a set RUN is trimmed in AUTO, by the state that the first two fields lead to. -/
def Plant.runRefused : Option RefusalCause :=
  if p.mode.mode ≠ .auto ∨ w.getLsbD 0 = false then none
  else if p.resetState n w = .absent then some .pumpAbsent
  else if p.resetState n w = .tripped then some .pumpTripped
  else if p.resetState n w = .outOfService then some .pumpOos
  else if p.lowLowActive = true then some .dryWell
  else if p.resetState n w = .off ∧ p.currentLimit n ≤ (p.pump n).history.length then some .startLimit
  else none

theorem Plant.pumpReset_inputs : p.SameInputs (p.pumpReset n w) :=
  ((p.judgeOos_judges n w).trans ((Plant.judgeReset_acts _ n w).judges n)).inputs

theorem Plant.runRefused_eq : ((p.pumpReset n w).judgeRun n w).2 = p.runRefused n w := by
  obtain ⟨state, history, -⟩ := p.pumpReset_view n w
  have inputs := p.pumpReset_inputs n w
  have dry : (p.pumpReset n w).lowLowActive = p.lowLowActive := inputs.active 27
  rw [Plant.judgeRun_refusal, Plant.runRefusal_eq, inputs.mode, state, history, dry, inputs.currentLimit]
  rfl

theorem Plant.pumpRefused_eq : p.pumpRefused n w =
    if w.getLsbD 2 = true ∧ p.oosedState n w = .tripped ∧ p.faultActive n = true then some .pumpTripped
    else p.runRefused n w := by
  unfold Plant.pumpRefused
  rw [(p.pumpReset_view n w).2.2, Plant.runRefused_eq]
  split
  · rfl
  · rfl

end

/-! The word outside AUTO (R51). -/

/-- R51: outside AUTO a word that moves no OOS and resets nothing leaves the pump unit as it was. -/
theorem Plant.pumpJudged_outside {p : Plant} {n : Fin 6} {w : Word} (outside : p.mode.mode ≠ .auto)
    (same : w.getLsbD 1 = p.pumpOosSet n) (unreset : w.getLsbD 2 = false ∨ (p.pump n).state ≠ .tripped ∨ p.faultActive n = true) :
    p.pumpJudged n w = p := by
  have reset : p.pumpReset n w = p := by
    rw [Plant.pumpReset_same same]
    by_cases tripped : (p.pump n).state = .tripped
    · cases set : w.getLsbD 2 with
      | false => rw [Plant.judgeReset_clear set]
      | true =>
        have fault : p.faultActive n = true := by
          rcases unreset with clear | still | fault
          · rw [set] at clear; cases clear
          · exact absurd tripped still
          · exact fault
        rw [Plant.judgeReset_refused set tripped fault]
    · rw [Plant.judgeReset_still w tripped]
  unfold Plant.pumpJudged
  rw [reset, Plant.judgeRun_outside n w outside]

theorem Plant.conclude_calm {p : Plant} (calm : p.Calm) : p.conclude.pumps = p.pumps :=
  (p.conclude_pumps_kept calm.queue fun _ => calm.claims _).1

/-- Settles O25: the verdict is `Plant.pumpVerdict`, by the states that `Plant.pumpReset_view` gives. -/
theorem pumpWordSetsItsShadow : Obligations.PumpWordSetsItsShadow := by
  intro s n w c out asked taken
  have run : exec c s = .next (s.pumpWrite n w) := by
    rcases asked with rfl | rfl | rfl <;> rfl
  obtain ⟨step, left, plant, log, settings, link⟩ := pumpWrite_step taken
  obtain ⟨inputs, words, bits, corr, -⟩ := s.plant.pumpWritten_judges n w
  have word (k : Nat) : ((s.pumpWrite n w).plant.shadow.get (pumpWord n)).getLsbD k =
      if k = 0 then (s.plant.pumpJudged n w).demand n else if k = 2 then false else w.getLsbD k := by
    rw [left.shadow, Plant.pumpWritten_word, Plant.pumpWordWritten_bit]
  refine ⟨_, _, run, step, fun k _ notRun notReset => ?_, ?_, ?fields, ?_, fun i other => ?_, fun m k other positive => ?_,
    fun i mem => ?_, ⟨(s.plant.pumpWritten n w).out, ?_⟩, settings, link⟩
  case fields =>
    intro fault q rested oosed reset runRefused refused
    have isRun : s.plant.runRefused n w = runRefused := rfl
    have isRefused : s.plant.pumpRefused n w = refused := s.plant.pumpRefused_eq n w
    have demand : (s.pumpWrite n w).plant.demand n = (s.plant.pumpJudged n w).demand n :=
      (left.demand n).trans Plant.pumpWritten_demand
    have judged := Plant.judgeRun_demand (s.plant.pumpReset n w) n w
    rw [Plant.runRefused_eq, Plant.pumpReset_mode, isRun] at judged
    refine ⟨?_, fun auto => ?_, fun outside same unreset => ?_⟩
    · rw [left.shadow, Plant.pumpWritten_word]
      unfold Plant.pumpVerdict
      rw [isRefused]
      generalize refused = cause
      cases cause with
      | some cause => rfl
      | none =>
        rw [pumpOutcome_kept, Plant.pumpWordWritten_bit, if_pos rfl, demand]
        refine if_congr (or_congr decide_eq_true_iff (and_congr ?_ Iff.rfl)) rfl rfl
        exact bne_iff_ne
    · rw [demand]
      exact judged.trans (if_pos auto)
    · have kept := Plant.pumpJudged_outside outside same unreset
      have written : s.plant.pumpWritten n w =
          (s.plant.setShadow (pumpWord n) (s.plant.pumpWordWritten n w)).conclude := by
        unfold Plant.pumpWritten
        rw [kept]
      refine ⟨fun m => ?_, fun calm => ?_⟩
      · by_cases own : m = n
        · rw [own, demand, kept]
        · rw [left.demand, written, Plant.demand_of_shadow (Plant.conclude_kept _).2.shadow]
          exact congrArg runField (vset_get_ne _ _ fun same => own (pumpWord_inj same).symm)
      · rw [left.pumps, written]
        exact Plant.conclude_calm (p := s.plant.setShadow (pumpWord n) (s.plant.pumpWordWritten n w)) ⟨calm.queue, calm.claims, calm.storm⟩
  · rw [word, if_neg notRun, if_neg notReset]
  · rw [word, if_neg (by decide), if_pos rfl]
  · rw [plant]
    exact ⟨inputs.clock, inputs.levels, inputs.mode, inputs.weirs, inputs.sections, inputs.raw, inputs.debounced, inputs.stability⟩
  · rw [left.shadow]; exact words i other
  · rw [left.shadow]; exact bits m k other positive
  · rw [left.corr]; exact corr i mem
  · exact log

end Sys2Proof.Machine
end

section
/-! LOCAL taken: the pumps in motion adopted, the queue flushed, and the demands brought to the desired count (R56 to R58);
the freshness word and its lapse (R20, R21). -/

namespace Sys2Proof.Machine

/-! Counts and choices. -/

theorem countP_insert {α : Type} {f g : α → Bool} {a : α} (before : f a = false) (after : g a = true)
    (others : ∀ b, b ≠ a → g b = f b) {l : List α} (distinct : l.Nodup) (mem : a ∈ l) : l.countP g = l.countP f + 1 := by
  classical
  induction l with
  | nil => exact absurd mem List.not_mem_nil
  | cons b rest ih =>
    obtain ⟨absent, distinct⟩ := List.nodup_cons.mp distinct
    by_cases same : b = a
    · subst same
      have tail : rest.countP g = rest.countP f :=
        List.countP_congr fun c mem => by rw [others c fun same => absent (same ▸ mem)]
      rw [List.countP_cons_of_pos after, List.countP_cons_of_neg (by rw [before]; exact Bool.false_ne_true), tail]
    · have found := (List.mem_cons.mp mem).resolve_left (Ne.symm same)
      rw [List.countP_cons, List.countP_cons, ih distinct found, others b same]
      omega

theorem Plant.demandedCount_given {p q : Plant} {n : Fin 6} (before : p.demand n = false) (after : q.demand n = true)
    (others : ∀ m, m ≠ n → q.demand m = p.demand m) : q.demandedCount = p.demandedCount + 1 :=
  countP_insert (f := fun m => p.demand m) (g := fun m => q.demand m) before after others allPumps_nodup (mem_allPumps n)

/-- A pick that keeps the earlier of two keeps the earliest of all. -/
theorem foldl_earliest (start : Fin 6 → Nat) (f : Option (Fin 6) → Fin 6 → Option (Fin 6))
    (step : ∀ m k, f (some m) k = if start k < start m then some k else some m) (ns : List (Fin 6)) :
    ∀ m, ∃ r, ns.foldl f (some m) = some r ∧ (r = m ∨ r ∈ ns) ∧ start r ≤ start m ∧ ∀ k ∈ ns, start r ≤ start k := by
  induction ns with
  | nil => exact fun m => ⟨m, rfl, Or.inl rfl, le_refl _, fun _ mem => absurd mem List.not_mem_nil⟩
  | cons k rest ih =>
    intro m
    rw [List.foldl_cons, step]
    by_cases earlier : start k < start m
    · rw [if_pos earlier]
      obtain ⟨r, found, mem, least, all⟩ := ih k
      refine ⟨r, found, Or.inr (List.mem_cons.mpr mem), by omega, fun j mem' => ?_⟩
      rcases List.mem_cons.mp mem' with rfl | later
      · exact least
      · exact all j later
    · rw [if_neg earlier]
      obtain ⟨r, found, mem, least, all⟩ := ih m
      refine ⟨r, found, mem.imp_right (List.mem_cons_of_mem _), least, fun j mem' => ?_⟩
      rcases List.mem_cons.mp mem' with rfl | later
      · omega
      · exact all j later

theorem foldl_earliest_none (start : Fin 6 → Nat) (f : Option (Fin 6) → Fin 6 → Option (Fin 6))
    (first : ∀ k, f none k = some k) (step : ∀ m k, f (some m) k = if start k < start m then some k else some m)
    {ns : List (Fin 6)} (some_ : ns ≠ []) : ∃ r, ns.foldl f none = some r ∧ r ∈ ns ∧ ∀ k ∈ ns, start r ≤ start k := by
  obtain ⟨m, rest, rfl⟩ := List.exists_cons_of_ne_nil some_
  obtain ⟨r, found, mem, least, all⟩ := foldl_earliest start f step rest m
  rw [List.foldl_cons, first]
  refine ⟨r, found, List.mem_cons.mpr mem, fun k mem' => ?_⟩
  rcases List.mem_cons.mp mem' with rfl | later
  · exact least
  · exact all k later

theorem Plant.earliestStart_least (p : Plant) {ns : List (Fin 6)} (some_ : ns ≠ []) :
    ∃ r, p.earliestStart ns = some r ∧ r ∈ ns ∧ ∀ k ∈ ns, p.lastStartN r ≤ p.lastStartN k :=
  foldl_earliest_none p.lastStartN _ (fun _ => rfl) (fun _ _ => rfl) some_

/-! The pumps in motion adopted (R58). -/

/-- The pump adopted: no stop of it is deferred. -/
def Plant.adoptedPump (p : Plant) (n : Fin 6) : Pump := { p.pump n with deferred := false }

def Plant.adoptOne (p : Plant) (n : Fin 6) : Plant :=
  if (p.pump n).state.inMotion then (p.setRun n true).setPump n (p.adoptedPump n) else p.setRun n false

theorem Plant.adoptRunning_eq (p : Plant) : p.adoptRunning = allPumps.foldl Plant.adoptOne p := rfl

/-- Neither the queue nor the claims, the rotation or the desired count have moved. -/
structure Plant.SameStarts (p q : Plant) : Prop where
  queue    : q.queue = p.queue
  claims   : q.claims = p.claims
  rotation : q.rotation = p.rotation
  desired  : q.desired = p.desired

theorem Plant.SameStarts.trans {p q r : Plant} (first : p.SameStarts q) (second : q.SameStarts r) : p.SameStarts r :=
  ⟨second.queue.trans first.queue, second.claims.trans first.claims, second.rotation.trans first.rotation,
    second.desired.trans first.desired⟩

theorem Plant.setRun_starts (p : Plant) (n : Fin 6) (b : Bool) : p.SameStarts (p.setRun n b) :=
  ⟨p.setRun_queue n b, p.setRun_claims n b, by simp [Plant.setRun], by simp [Plant.setRun]⟩

theorem Plant.adoptOne_starts (p : Plant) (n : Fin 6) : p.SameStarts (p.adoptOne n) := by
  unfold Plant.adoptOne
  split
  case isTrue moving =>
    refine (p.setRun_starts n true).trans ⟨Plant.setPump_queue _ n _, Plant.setPump_claims _ n _, ?_, Plant.setPump_desired _ n _⟩
    exact Plant.setPump_rotation_inMotion _ n _ moving
  case isFalse => exact p.setRun_starts n false

theorem Plant.adoptOne_only (p : Plant) (n : Fin 6) : Plant.OnlyPump n p (p.adoptOne n) := by
  unfold Plant.adoptOne
  split
  · exact (p.setRun_only n true).trans (Plant.setPump_only _ n _)
  · exact p.setRun_only n false

theorem Plant.adoptOne_own (p : Plant) (n : Fin 6) : (p.adoptOne n).demand n = (p.pump n).state.inMotion ∧
    (p.adoptOne n).pump n = if (p.pump n).state.inMotion then p.adoptedPump n else p.pump n := by
  unfold Plant.adoptOne
  cases moving : (p.pump n).state.inMotion with
  | true =>
    rw [if_pos rfl, if_pos rfl]
    refine ⟨?_, Plant.pump_setPump_same _ n _⟩
    rw [Plant.demand_of_shadow (Plant.setPump_shadow _ n _), Plant.demand_setRun, if_pos rfl]
  | false =>
    rw [if_neg Bool.false_ne_true, if_neg Bool.false_ne_true]
    refine ⟨?_, congrArg (Vector.get · n) (p.setRun_pumps n false)⟩
    rw [Plant.demand_setRun, if_pos rfl]

theorem Plant.adoptEach_facts (ns : List (Fin 6)) : ∀ p : Plant, ns.Nodup →
    let q := ns.foldl Plant.adoptOne p
    p.SameStarts q ∧ (∀ m, m ∉ ns → q.pump m = p.pump m ∧ q.demand m = p.demand m) ∧
      ∀ m, m ∈ ns → q.demand m = (p.pump m).state.inMotion ∧
        q.pump m = if (p.pump m).state.inMotion then p.adoptedPump m else p.pump m := by
  induction ns with
  | nil => exact fun p _ => ⟨⟨rfl, rfl, rfl, rfl⟩, fun _ _ => ⟨rfl, rfl⟩, fun _ mem => absurd mem List.not_mem_nil⟩
  | cons n ns ih =>
    intro p distinct
    obtain ⟨absent, distinct⟩ := List.nodup_cons.mp distinct
    obtain ⟨starts, others, adopted⟩ := ih (p.adoptOne n) distinct
    have only := p.adoptOne_only n
    refine ⟨(p.adoptOne_starts n).trans starts, fun m out => ?_, fun m mem => ?_⟩
    · obtain ⟨other, out⟩ := not_or.mp fun mem => out (List.mem_cons.mpr mem)
      obtain ⟨pump, demand⟩ := others m out
      exact ⟨pump.trans (only.pumps m other), demand.trans (only.demands m other)⟩
    · by_cases own : m = n
      · subst own
        obtain ⟨pump, demand⟩ := others m absent
        obtain ⟨demand', pump'⟩ := p.adoptOne_own m
        exact ⟨demand.trans demand', pump.trans pump'⟩
      · obtain ⟨demand, pump⟩ := adopted m ((List.mem_cons.mp mem).resolve_left own)
        unfold Plant.adoptedPump at pump ⊢
        rw [only.pumps m own] at demand pump
        exact ⟨demand, pump⟩

/-- The pump unit as the adoption leaves it: a demand for the pumps in motion alone, nobody queued, no claim of a pump
waiting. -/
structure Plant.Adopted (p q : Plant) : Prop where
  demand   : ∀ n, q.demand n = (p.pump n).state.inMotion
  pump     : ∀ n, q.pump n = if (p.pump n).state.inMotion then p.adoptedPump n else p.pump n
  queue    : q.queue = []
  free     : ∀ n, (q.claim (pumpHolder n)).status ≠ .waiting
  rotation : q.rotation = p.rotation
  desired  : q.desired = p.desired
  inputs   : p.SameInputs q

theorem Plant.adoptRunning_adopted (p : Plant) : p.Adopted p.adoptRunning.flushQueue := by
  obtain ⟨starts, -, adopted⟩ := Plant.adoptEach_facts allPumps p allPumps_nodup
  rw [← Plant.adoptRunning_eq] at starts adopted
  have acts := p.adoptRunning_acts
  generalize p.adoptRunning = q at starts adopted acts
  obtain ⟨pumps, -, queue, -, claims⟩ := q.flushQueue_facts
  have kept := q.flushQueue_kept
  refine ⟨fun n => ?_, fun n => ?_, queue, fun n => ?_, kept.2.rotation.trans starts.rotation,
    kept.2.desired.trans starts.desired, (acts.trans kept.acts).inputs⟩
  · exact (Plant.demand_of_shadow kept.2.shadow n).trans (adopted n (mem_allPumps n)).1
  · exact (congrArg (Vector.get · n) pumps).trans (adopted n (mem_allPumps n)).2
  · rw [claims n]
    split
    · exact Claim.gone_notWaiting
    · assumption

theorem Plant.Adopted.state {p q : Plant} (adopted : p.Adopted q) (n : Fin 6) : (q.pump n).state = (p.pump n).state := by
  rw [adopted.pump]
  split <;> rfl

/-- The pumps in motion. -/
def Plant.inMotion (p : Plant) : List (Fin 6) := allPumps.filter fun n => (p.pump n).state.inMotion

theorem Plant.Adopted.count {p q : Plant} (adopted : p.Adopted q) : q.demandedCount = p.inMotion.length := by
  unfold Plant.demandedCount Plant.inMotion
  rw [← List.countP_eq_length_filter]
  exact List.countP_congr fun n _ => by rw [adopted.demand]

/-! Demands given up to the desired count (R56). -/

/-- R56: the pumps that an adoption can give a demand to, in rotation order. -/
def Plant.candidates (p : Plant) : List (Fin 6) := p.rotation.filter fun n => (p.pump n).state == .off && !p.atLimit n

/-- The pump unit with demands given to the pumps of `given`, in this order, after the adoption that led from `p` to `q`. -/
structure Plant.Given (p q : Plant) (given : List (Fin 6)) (r : Plant) : Prop where
  pump     : r.pump = q.pump
  demand   : ∀ n, r.demand n = true ↔ (p.pump n).state.inMotion = true ∨ n ∈ given
  queue    : r.queue = given
  claims   : r.claims = q.claims
  rotation : r.rotation = p.rotation
  desired  : r.desired = p.desired
  inputs   : p.SameInputs r
  count    : r.demandedCount = p.inMotion.length + given.length

theorem Plant.Adopted.given {p q : Plant} (adopted : p.Adopted q) : p.Given q [] q where
  pump := rfl
  demand n := by rw [adopted.demand, or_iff_left List.not_mem_nil]
  queue := adopted.queue
  claims := rfl
  rotation := adopted.rotation
  desired := adopted.desired
  inputs := adopted.inputs
  count := adopted.count

theorem find?_outside {α : Type} [DecidableEq α] {given rest : List α} (distinct : (given ++ rest).Nodup) :
    (given ++ rest).find? (fun n => decide (n ∉ given)) = rest.head? := by
  rw [List.find?_append, List.find?_eq_none.mpr (fun n mem => by rw [decide_eq_true_iff]; exact not_not_intro mem)]
  cases rest with
  | nil => rfl
  | cons m rest =>
    have apart : m ∉ given := fun mem => (List.disjoint_of_nodup_append distinct) mem (List.mem_cons_self ..)
    rw [Option.none_or]
    exact List.find?_cons_of_pos (p := fun n => decide (n ∉ given)) (decide_eq_true apart)

section
variable {p q r : Plant} {given rest : List (Fin 6)}

/-- R56: no adopted pump is asked to go on, and the next demand goes to the first candidate without one. -/
theorem Plant.Given.next (adopted : p.Adopted q) (raised : p.Given q given r) (order : p.candidates = given ++ rest)
    (distinct : p.rotation.Nodup) : r.nextToDemand = rest.head? := by
  have pump (n : Fin 6) : r.pump n = q.pump n := congrFun raised.pump n
  have none_ : allPumps.filter (fun n => (r.pump n).state == .running && (r.pump n).deferred) = [] := by
    refine List.filter_eq_nil_iff.mpr fun n _ both => ?_
    rw [Bool.and_eq_true, beq_iff_eq, pump, adopted.state] at both
    obtain ⟨running, deferred⟩ := both
    rw [adopted.pump, if_pos (by rw [running]; rfl)] at deferred
    cases deferred
  have latest : r.latestStart [] = none := rfl
  have nodup : (given ++ rest).Nodup := order ▸ distinct.filter _
  unfold Plant.nextToDemand
  rw [none_, latest]
  dsimp only
  rw [raised.rotation, ← find?_outside nodup, ← order]
  unfold Plant.candidates
  rw [List.find?_filter]
  refine congrArg (fun f => List.find? f p.rotation) (funext fun n => ?_)
  have limit : r.atLimit n = p.atLimit n := by
    have history : (q.pump n).history = (p.pump n).history := by
      rw [adopted.pump]
      split <;> rfl
    unfold Plant.atLimit
    rw [raised.inputs.currentLimit, show (r.pumps.get n).history = (p.pumps.get n).history from
      (congrArg Pump.history (pump n)).trans history]
  rw [limit, pump, adopted.state]
  cases off : (p.pump n).state == .off with
  | false => rfl
  | true =>
    have still : (p.pump n).state.inMotion = false := by rw [beq_iff_eq.mp off]; rfl
    have demand : (!r.demand n) = decide (n ∉ given) := by
      rw [Bool.eq_iff_iff, Bool.not_eq_true', ← Bool.not_eq_true, raised.demand, still, decide_eq_true_iff]
      exact not_congr (or_iff_right Bool.false_ne_true)
    rw [demand]
    cases p.atLimit n <;> simp

/-- R56: a demand given to the first candidate without one. -/
theorem Plant.Given.give {n : Fin 6} (adopted : p.Adopted q) (raised : p.Given q given r)
    (order : p.candidates = given ++ n :: rest) (distinct : p.rotation.Nodup) :
    p.Given q (given ++ [n]) (r.giveDemand n) := by
  have nodup : (given ++ n :: rest).Nodup := order ▸ distinct.filter _
  have mem : n ∈ p.candidates := by rw [order]; exact List.mem_append_right _ (List.mem_cons_self ..)
  have ready := (List.mem_filter.mp mem).2
  rw [Bool.and_eq_true, beq_iff_eq] at ready
  have offP : (p.pump n).state = .off := ready.1
  have off : (r.pump n).state = .off := by rw [raised.pump, adopted.state]; exact offP
  have absent : n ∉ given := fun mem => (List.disjoint_of_nodup_append nodup) mem (List.mem_cons_self ..)
  have idle : r.demand n = false := by
    rw [← Bool.not_eq_true, raised.demand, offP]
    exact not_or.mpr ⟨Bool.false_ne_true, absent⟩
  have gives := Plant.giveDemand_off off
  have only : Plant.OnlyPump n r (r.giveDemand n) := by
    rw [gives]
    exact (r.setRun_only n true).trans (Plant.joinQueue_only _ n)
  have demand : (r.giveDemand n).demand n = true := by
    have shadow : ((r.setRun n true).joinQueue n).shadow = (r.setRun n true).shadow := by rw [Plant.joinQueue_rest]
    rw [gives, Plant.demand_of_shadow shadow, Plant.demand_setRun, if_pos rfl]
  have acts := r.giveDemand_acts n
  have starts := r.setRun_starts n true
  refine ⟨?_, fun m => ?_, ?_, ?_, ?_, ?_, raised.inputs.trans acts.inputs, ?_⟩
  · rw [← raised.pump, gives, Plant.joinQueue_rest]
    exact funext fun m => congrArg (Vector.get · m) (r.setRun_pumps n true)
  · rw [List.mem_append, List.mem_singleton, ← or_assoc]
    by_cases own : m = n
    · subst own
      exact ⟨fun _ => Or.inr rfl, fun _ => demand⟩
    · rw [only.demands m own, raised.demand, or_iff_left own]
  · have joins : ((r.setRun n true).joinQueue n).queue = (r.setRun n true).queue ++ [n] := by
      unfold Plant.joinQueue
      rw [if_neg (by rw [starts.queue, raised.queue]; exact absent)]
      rfl
    rw [gives, joins, starts.queue, raised.queue]
  · rw [gives, Plant.joinQueue_rest]
    exact starts.claims.trans raised.claims
  · rw [gives, Plant.joinQueue_rest]
    exact starts.rotation.trans raised.rotation
  · rw [gives, Plant.joinQueue_rest]
    exact starts.desired.trans raised.desired
  · rw [Plant.demandedCount_given idle demand only.demands, raised.count, List.length_append]
    rfl

end

/-- R56: demands are given in order until the count is reached or no candidate is left. -/
theorem Plant.Given.raised {p q : Plant} (adopted : p.Adopted q) (distinct : p.rotation.Nodup) (k : Nat) :
    ∀ (given rest : List (Fin 6)) (r : Plant), p.Given q given r → p.candidates = given ++ rest → rest.length ≤ k →
      p.inMotion.length + given.length ≤ p.desired →
      p.Given q (p.candidates.take (p.desired - p.inMotion.length)) (r.raiseDemands k) := by
  induction k with
  | zero =>
    intro given rest r raised order fuel below
    obtain rfl := List.eq_nil_of_length_eq_zero (Nat.le_zero.mp fuel)
    rw [List.append_nil] at order
    rw [order, List.take_of_length_le (by omega)]
    exact raised
  | succ k ih =>
    intro given rest r raised order fuel below
    have next := raised.next adopted order distinct
    unfold Plant.raiseDemands
    rw [raised.count, raised.desired, next]
    by_cases short : p.inMotion.length + given.length < p.desired
    · rw [if_pos short]
      cases rest with
      | nil =>
        rw [List.append_nil] at order
        rw [order, List.take_of_length_le (by omega)]
        exact raised
      | cons n rest =>
        refine ih (given ++ [n]) rest _ (raised.give adopted order distinct) ?_ ?_ ?_
        · rw [order, List.append_assoc, List.singleton_append]
        · rw [List.length_cons] at fuel; omega
        · rw [List.length_append, List.length_singleton]; omega
    · rw [if_neg short, order, List.take_left' (by omega)]
      exact raised

/-! Demands withdrawn down to the desired count (R57). -/

/-- R57: what a demand lost makes of an adopted pump: its stop is deferred through the minimum run, and else made. -/
def Plant.Stood (p : Plant) (n : Fin 6) (r : Plant) : Prop :=
  if (p.pump n).state = .running ∧ (p.pump n).minRun.isRunning = true
  then r.pump n = { p.pump n with deferred := true } else (r.pump n).state.inMotion = false

/-- The pump unit with some of the adopted demands withdrawn, the earliest starts first. -/
structure Plant.Lowered (p r : Plant) : Prop where
  moving  : ∀ n, r.demand n = true → (p.pump n).state.inMotion = true ∧ r.pump n = p.adoptedPump n
  stood   : ∀ n, (p.pump n).state.inMotion = true → r.demand n = false → p.Stood n r ∧
    ∀ k, r.demand k = true → p.lastStartN n ≤ p.lastStartN k
  queue   : r.queue = []
  free    : ∀ n, (r.claim (pumpHolder n)).status ≠ .waiting
  desired : r.desired = p.desired

theorem Plant.Adopted.lowered {p q : Plant} (adopted : p.Adopted q) : p.Lowered q where
  moving n demand := by
    have moving := (adopted.demand n).symm.trans demand
    exact ⟨moving, (adopted.pump n).trans (if_pos moving)⟩
  stood n moving idle := by
    rw [adopted.demand, moving] at idle
    cases idle
  queue := adopted.queue
  free := adopted.free
  desired := adopted.desired

theorem Plant.leaveQueue_desired (p : Plant) (n : Fin 6) : (p.leaveQueue n).desired = p.desired :=
  (p.leaveQueue_kept n).2.desired

theorem Plant.stopped_desired (p : Plant) (n : Fin 6) (x : Pump) : (p.stopped n x).desired = p.desired :=
  (Plant.leaveQueue_desired (p.setPump n x) n).trans (p.setPump_desired n x)

theorem Plant.trip_desired (p : Plant) (n : Fin 6) (cause : TripCause) : (p.trip n cause).desired = p.desired := by
  have stopped := p.stopped_desired n (p.trippedPump n cause)
  rw [Plant.trip_eq]
  generalize p.stopped n (p.trippedPump n cause) = q at stopped
  exact (q.setRun_starts n false).desired.trans stopped

theorem Plant.stopPump_desired (p : Plant) (n : Fin 6) (why : StopReason) : (p.stopPump n why).desired = p.desired := by
  cases fault : p.faultActive n with
  | false => rw [Plant.stopPump_rests fault]; exact Plant.stopped_desired _ n _
  | true =>
    have trips : p.stopPump n why = ((p.logStop n why).stopped n ((p.logStop n why).restingPump n (p.minOffTime n))).trip n .fault :=
      Plant.enterResting_trips (p := p.logStop n why) fault _
    rw [trips, Plant.trip_desired, Plant.stopped_desired]
    rfl

/-- What a demand withdrawn makes of a pump in motion that stands as adopted. -/
theorem Plant.withdrawDemand_moving {r : Plant} {n : Fin 6} (demand : r.demand n = true)
    (moving : (r.pump n).state.inMotion = true) :
    let q := r.withdrawDemand n
    Plant.OnlyPump n r q ∧ q.demand n = false ∧ (r.queue = [] → q.queue = []) ∧ q.desired = r.desired ∧
      ((r.claim (pumpHolder n)).status ≠ .waiting → (q.claim (pumpHolder n)).status ≠ .waiting) ∧
      if (r.pump n).state = .running ∧ (r.pump n).minRun.isRunning = true
      then q.pump n = { r.pump n with deferred := true } else (q.pump n).state.inMotion = false := by
  have unset : r.withdrawDemand n = (r.setRun n false).demandCleared n := if_pos demand
  have only := r.setRun_only n false
  have starts := r.setRun_starts n false
  have pump : (r.setRun n false).pump n = r.pump n := congrArg (Vector.get · n) (r.setRun_pumps n false)
  have idle : (r.setRun n false).demand n = false := by rw [Plant.demand_setRun, if_pos rfl]
  intro q
  have isQ : q = _ := unset
  have cleared : q.demand n = false := by rw [isQ]; exact Plant.demandCleared_demand _ n idle
  by_cases timed : (r.pump n).state = .running ∧ (r.pump n).minRun.isRunning = true
  · have defers : q = (r.setRun n false).setPump n { r.pump n with deferred := true } := by
      rw [isQ, Plant.demandCleared_running (by rw [pump]; exact timed.1), pump, if_pos timed.2]
    rw [if_pos timed]
    refine ⟨?_, cleared, fun empty => ?_, ?_, fun free => ?_, ?_⟩
    all_goals rw [defers]
    · exact only.trans (Plant.setPump_only _ n _)
    · rw [Plant.setPump_queue, starts.queue]; exact empty
    · rw [Plant.setPump_desired, starts.desired]
    · rw [Plant.claim_of_claims (Plant.setPump_claims _ n _), Plant.claim_of_claims starts.claims]; exact free
    · exact Plant.pump_setPump_same _ n _
  · have stops : q = (r.setRun n false).stopPump n .demand := by
      rw [isQ]
      cases state : (r.pump n).state
      case starting =>
        unfold Plant.demandCleared
        rw [pump, state]
      case running =>
        rw [Plant.demandCleared_running (by rw [pump]; exact state), pump, if_neg fun yes => timed ⟨state, yes⟩]
      all_goals
        rw [state] at moving
        cases moving
    obtain ⟨motion, claim, queue, -⟩ := Plant.enterResting_out_of_motion ((r.setRun n false).logStop n .demand) n
      ((r.setRun n false).minOffTime n)
    rw [if_neg timed]
    refine ⟨?_, cleared, fun empty => ?_, ?_, fun _ => ?_, ?_⟩
    all_goals rw [stops]
    · exact only.trans (Plant.stopPump_only _ n _)
    · have filtered : ((r.setRun n false).stopPump n .demand).queue = (r.setRun n false).queue.filter (fun m => m != n) := queue
      rw [filtered, starts.queue, empty]
      rfl
    · rw [Plant.stopPump_desired, starts.desired]
    · rw [show ((r.setRun n false).stopPump n .demand).claim (pumpHolder n) = .gone from claim]
      exact Claim.gone_notWaiting
    · exact motion

section
variable {p q r : Plant}

theorem Plant.Lowered.next (lowered : p.Lowered r) (surplus : 0 < r.demandedCount) :
    ∃ n, r.nextToWithdraw = some n ∧ r.demand n = true ∧ ∀ k, r.demand k = true → p.lastStartN n ≤ p.lastStartN k := by
  have starts (n : Fin 6) (demand : r.demand n = true) : r.lastStartN n = p.lastStartN n := by
    unfold Plant.lastStartN
    rw [(lowered.moving n demand).2]
    rfl
  have motion (n : Fin 6) (demand : r.demand n = true) : (r.pump n).state.inMotion = true := by
    obtain ⟨moving, pump⟩ := lowered.moving n demand
    rw [pump]
    exact moving
  have resting : r.rotation.filter (fun n => (r.pump n).state == .resting && r.demand n) = [] := by
    refine List.filter_eq_nil_iff.mpr fun n _ both => ?_
    rw [Bool.and_eq_true, beq_iff_eq] at both
    have moving := motion n both.2
    rw [both.1] at moving
    cases moving
  obtain ⟨m, -, demanded⟩ := List.countP_pos_iff.mp surplus
  obtain ⟨n, found, mem, least⟩ := r.earliestStart_least
    (ns := allPumps.filter fun n => (r.pump n).state.inMotion && r.demand n)
    (List.ne_nil_of_mem (List.mem_filter.mpr ⟨mem_allPumps m, Bool.and_eq_true_iff.mpr ⟨motion m demanded, demanded⟩⟩))
  have demand := (Bool.and_eq_true_iff.mp (List.mem_filter.mp mem).2).2
  refine ⟨n, ?_, demand, fun k other => ?_⟩
  · unfold Plant.nextToWithdraw
    rw [lowered.queue, resting]
    exact found
  · rw [← starts n demand, ← starts k other]
    exact least k (List.mem_filter.mpr ⟨mem_allPumps k, Bool.and_eq_true_iff.mpr ⟨motion k other, other⟩⟩)

theorem Plant.Lowered.withdraw {n : Fin 6} (lowered : p.Lowered r) (demand : r.demand n = true)
    (least : ∀ k, r.demand k = true → p.lastStartN n ≤ p.lastStartN k) :
    p.Lowered (r.withdrawDemand n) ∧ (r.withdrawDemand n).demandedCount + 1 = r.demandedCount := by
  obtain ⟨moving, pump⟩ := lowered.moving n demand
  obtain ⟨only, idle, queue, desired, claim, stood⟩ := Plant.withdrawDemand_moving demand (by rw [pump]; exact moving)
  refine ⟨⟨fun m demand' => ?_, fun m moving' idle' => ?_, queue lowered.queue, fun m => ?_, desired.trans lowered.desired⟩,
    (Plant.demandedCount_given idle demand fun m other => (only.demands m other).symm).symm⟩
  · have other : m ≠ n := by
      rintro rfl
      rw [idle] at demand'
      cases demand'
    rw [only.demands m other] at demand'
    rw [only.pumps m other]
    exact lowered.moving m demand'
  · have narrows (k : Fin 6) (demand' : (r.withdrawDemand n).demand k = true) : r.demand k = true := by
      by_cases own : k = n
      · rw [own]; exact demand
      · rw [← only.demands k own]; exact demand'
    by_cases own : m = n
    · subst own
      refine ⟨?_, fun k demand' => least k (narrows k demand')⟩
      unfold Plant.Stood
      rw [pump] at stood
      exact stood
    · obtain ⟨stands, earlier⟩ := lowered.stood m moving' ((only.demands m own).symm.trans idle')
      refine ⟨?_, fun k demand' => earlier k (narrows k demand')⟩
      unfold Plant.Stood at stands ⊢
      rw [only.pumps m own]
      exact stands
  · by_cases own : m = n
    · subst own
      exact claim (lowered.free m)
    · rw [only.claims _ fun same => own (pumpHolder_inj same)]
      exact lowered.free m

/-- R57: demands are withdrawn until the count is reached. -/
theorem Plant.Lowered.lower (k : Nat) : ∀ r : Plant, p.Lowered r → p.desired ≤ r.demandedCount →
    r.demandedCount ≤ p.desired + k →
    p.Lowered (r.lowerDemands k) ∧ (r.lowerDemands k).demandedCount = p.desired := by
  induction k with
  | zero => exact fun r lowered low high => ⟨lowered, le_antisymm high low⟩
  | succ k ih =>
    intro r lowered low high
    unfold Plant.lowerDemands
    rw [lowered.desired]
    by_cases surplus : p.desired < r.demandedCount
    · obtain ⟨n, next, demand, least⟩ := lowered.next (by omega)
      obtain ⟨lowered', count⟩ := lowered.withdraw demand least
      rw [if_pos surplus, next]
      exact ih _ lowered' (by omega) (by omega)
    · rw [if_neg surplus]
      exact ⟨lowered, by omega⟩

theorem Plant.raiseDemands_enough {r : Plant} (enough : r.desired ≤ r.demandedCount) (k : Nat) : r.raiseDemands k = r := by
  cases k with
  | zero => rfl
  | succ k => exact if_neg (not_lt.mpr enough)

theorem Plant.lowerDemands_few {r : Plant} (few : r.demandedCount ≤ r.desired) (k : Nat) : r.lowerDemands k = r := by
  cases k with
  | zero => rfl
  | succ k => exact if_neg (not_lt.mpr few)

/-- R56 to R58: the pump unit with the demands rebuilt. -/
def Plant.rebuilt (p : Plant) : Plant := (p.adoptRunning.flushQueue.lowerDemands 6).raiseDemands 6

theorem Plant.rebuilt_few (few : p.inMotion.length ≤ p.desired) (distinct : p.rotation.Nodup) :
    p.Given p.adoptRunning.flushQueue (p.candidates.take (p.desired - p.inMotion.length)) p.rebuilt := by
  have adopted := p.adoptRunning_adopted
  have bound : p.candidates.length ≤ 6 := (distinct.filter _).length_le_card.trans_eq (Fintype.card_fin 6)
  unfold Plant.rebuilt
  rw [Plant.lowerDemands_few (by rw [adopted.count, adopted.desired]; exact few)]
  exact adopted.given.raised adopted distinct 6 [] p.candidates _ rfl bound few

theorem Plant.rebuilt_many (many : p.desired < p.inMotion.length) :
    p.Lowered p.rebuilt ∧ p.rebuilt.demandedCount = p.desired := by
  have adopted := p.adoptRunning_adopted
  have bound : p.inMotion.length ≤ 6 := (allPumps_nodup.filter _).length_le_card.trans_eq (Fintype.card_fin 6)
  obtain ⟨lowered, count⟩ := Plant.Lowered.lower 6 p.adoptRunning.flushQueue adopted.lowered (by rw [adopted.count]; omega)
    (by rw [adopted.count]; omega)
  unfold Plant.rebuilt
  rw [Plant.raiseDemands_enough (by rw [lowered.desired, count])]
  exact ⟨lowered, count⟩

end

/-! The end of the event (R38, R39). -/

/-- Where no pump claim waits the end of an event starts at most the head of the queue. -/
theorem Plant.conclude_queue {p : Plant} (free : ∀ n, (p.claim (pumpHolder n)).status ≠ .waiting) (distinct : p.queue.Nodup) :
    p.conclude.queue = p.queue ∨ p.conclude.queue = p.queue.drop 1 := by
  have law : (p.conclude.queue = p.queue ∧ ∀ m, (p.conclude.claim (pumpHolder m)).status = .waiting → p.queue.head? = some m) ∨
      (p.conclude.queue = p.queue.drop 1 ∧ p.conclude.GateShut) := by
    refine Plant.conclude_induct (fun q =>
      (q.queue = p.queue ∧ ∀ m, (q.claim (pumpHolder m)).status = .waiting → p.queue.head? = some m) ∨
        (q.queue = p.queue.drop 1 ∧ q.GateShut)) ?_ ?_ p (Or.inl ⟨rfl, fun m waits => absurd waits (free m)⟩)
    · intro q r _ units holds
      have same := units.samePumps
      refine holds.imp (fun ⟨queue, head⟩ => ⟨same.2.1.trans queue, fun m waits => head m ?_⟩)
        (fun ⟨queue, shut⟩ => ⟨same.2.1.trans queue, shut.of_samePumps same⟩)
      rw [← same.2.2.2 m]
      exact waits
    · intro q r holds round
      rcases holds with ⟨queue, head⟩ | ⟨queue, shut⟩
      · have still (same : q.SamePumps r) : (r.queue = p.queue ∧
            ∀ m, (r.claim (pumpHolder m)).status = .waiting → p.queue.head? = some m) ∨
              (r.queue = p.queue.drop 1 ∧ r.GateShut) :=
          Or.inl ⟨same.2.1.trans queue, fun m waits => head m (by rw [← same.2.2.2 m]; exact waits)⟩
        rcases Plant.serveOnce_cases round with ⟨m, found, -, rfl⟩ | ⟨m, -, rfl⟩ | ⟨m, -, found, rfl⟩ | ⟨m, -, -, rfl⟩ | ⟨m, -, rfl⟩
        · have first := head m (Plant.waitingPump_status found)
          obtain ⟨rest, split⟩ := List.head?_eq_some_iff.mp first
          refine Or.inr ⟨?_, ?_, fun k waits => ?_⟩
          · have absent : m ∉ rest := (List.nodup_cons.mp (split ▸ distinct)).1
            rw [Plant.startPump_queue, queue, split, List.filter_cons, if_neg (by simp)]
            exact List.filter_eq_self.mpr fun k mem => bne_iff_ne.mpr fun same => absent (same ▸ mem)
          · rw [(q.startPump_facts m).1]
            rfl
          · rw [Plant.claim_startPump] at waits
            by_cases own : m = k
            · rw [if_pos (congrArg pumpHolder own)] at waits
              cases waits
            · rw [if_neg fun same => own (pumpHolder_inj same)] at waits
              exact own (Option.some.inj (first.symm.trans (head k waits)))
        · exact still q.suspendRakes_samePumps
        · refine Or.inl ⟨queue, fun k waits => ?_⟩
          by_cases own : m = k
          · subst own
            unfold Plant.claimToEnter at found
            split at found
            · rw [← queue]; exact found
            · cases found
          · rw [q.claim_setClaim_ne (fun same => own (pumpHolder_inj same))] at waits
            exact head k waits
        · exact still (q.grantRake_samePumps m)
        · exact still (q.triggerRake_samePumps m .storm)
      · have same := Plant.serveOnce_shut_samePumps shut round
        exact Or.inr ⟨same.2.1.trans queue, shut.of_samePumps same⟩
  exact law.imp And.left And.left

/-! The lapse (R21). -/

theorem mem_correctRuns_changed {before after : Plant} {n : Fin 6} (changed : before.demand n ≠ after.demand n) :
    pumpWord n ∈ (before.correctRuns after).corr := by
  have law (pumps : List (Fin 6)) : ∀ corr : List (Fin 32), n ∈ pumps ∨ pumpWord n ∈ corr →
      pumpWord n ∈ pumps.foldl (fun c n => if before.demand n = after.demand n then c else joinCorr c (pumpWord n)) corr := by
    induction pumps with
    | nil => exact fun corr mem => mem.resolve_left List.not_mem_nil
    | cons m rest ih =>
      intro corr mem
      refine ih _ ?_
      dsimp only
      rcases mem with mem | mem
      · rcases List.mem_cons.mp mem with rfl | later
        · rw [if_neg changed, mem_joinCorr]
          exact Or.inr (Or.inr rfl)
        · exact Or.inl later
      · refine Or.inr ?_
        split
        · exact mem
        · exact mem_joinCorr.mpr (Or.inl mem)
  exact law allPumps before.corr (Or.inl (mem_allPumps n))

/-- R18, R58: what a change to LOCAL makes of the pump unit. -/
theorem Plant.changeMode_local {p : Plant} (c : ModeCause) (byPart : Bool) (other : p.mode.mode ≠ .localControl) :
    let w := p.modeWritten .localControl c (if byPart then 0 else p.requestedCode)
    let q := p.changeMode .localControl c byPart
    w.rebuilt.SameUnits q ∧ (∀ n, q.demand n = w.rebuilt.demand n) ∧ q.desired = w.rebuilt.desired ∧
      ∀ n, w.demand n ≠ w.rebuilt.demand n → pumpWord n ∈ q.corr := by
  intro w q
  let told := w.correctRuns w.rebuilt
  have isQ : q = told.hand 35 told.localModeCondition := by
    have adopts : (if Mode.localControl = .localControl ∧ p.mode.mode ≠ .localControl then w.adopt else w) = told :=
      if_pos ⟨rfl, other⟩
    have eq := p.changeMode_eq .localControl c byPart
    dsimp only at eq
    rw [adopts] at eq
    exact eq
  have told_units : w.rebuilt.SameUnits told := ⟨rfl, rfl, rfl, rfl, rfl⟩
  have kept := told.hand_kept 35 told.localModeCondition
  rw [isQ]
  refine ⟨told_units.trans (told.hand_units 35 _), fun n => Plant.demand_of_shadow kept.2.shadow n, kept.2.desired,
    fun n changed => ?_⟩
  rw [kept.2.corr]
  exact mem_correctRuns_changed changed

/-- The plant at the lapse, before the mode changes (R21). -/
def Plant.stale (p : Plant) : Plant := { p with mode := { p.mode with freshTimer := .stopped, fresh := false } }

theorem Plant.giveDemand_desired {p : Plant} {n : Fin 6} (next : p.nextToDemand = some n) :
    (p.giveDemand n).desired = p.desired := by
  obtain ⟨-, -, -, -, -, -, desired⟩ := Plant.giveDemand_facts next
  exact desired

theorem Plant.rebuilt_desired {p : Plant} (few : p.inMotion.length ≤ p.desired) : p.rebuilt.desired = p.desired := by
  have adopted := p.adoptRunning_adopted
  unfold Plant.rebuilt
  rw [Plant.lowerDemands_few (by rw [adopted.count, adopted.desired]; exact few)]
  exact Plant.raiseDemands_induct (fun q => q.desired = p.desired)
    (fun q n same next => (Plant.giveDemand_desired next).trans same) 6 _ adopted.desired

/-- What the end of the event leaves where the pumps in motion are no more than are desired. -/
theorem Plant.rebuilt_few_concluded {w p : Plant} (units : w.rebuilt.SameUnits p) (few : w.inMotion.length ≤ w.desired)
    (distinct : w.rotation.Nodup) :
    let given := w.candidates.take (w.desired - w.inMotion.length)
    (∀ n, (w.pump n).state.inMotion = true → p.conclude.pump n = { w.pump n with deferred := false }) ∧
      (∀ n, w.rebuilt.demand n = true ↔ (w.pump n).state.inMotion = true ∨ n ∈ given) ∧
      (p.conclude.queue = given ∨ p.conclude.queue = given.drop 1) := by
  have adopted := w.adoptRunning_adopted
  have raised := w.rebuilt_few few distinct
  intro given
  have free (n : Fin 6) : (p.claim (pumpHolder n)).status ≠ .waiting := by
    rw [units.claim, Plant.claim_of_claims raised.claims]
    exact adopted.free n
  have queue : p.queue = given := units.2.2.2.1.trans raised.queue
  have nodup : p.queue.Nodup := by
    rw [queue]
    exact (distinct.filter _).sublist (List.take_sublist _ _)
  refine ⟨fun n moving => ?_, raised.demand, ?_⟩
  · have absent : n ∉ p.queue := by
      rw [queue]
      intro mem
      have ready := (List.mem_filter.mp (List.mem_of_mem_take mem)).2
      rw [Bool.and_eq_true, beq_iff_eq] at ready
      rw [ready.1] at moving
      cases moving
    refine (p.conclude_pump_kept n absent (free n)).1.trans ((units.pump n).trans ?_)
    rw [raised.pump, adopted.pump, if_pos moving]
    rfl
  · rw [← queue]
    exact Plant.conclude_queue free nodup

/-- What the end of the event leaves where more pumps are in motion than are desired. -/
theorem Plant.rebuilt_many_concluded {w p : Plant} (units : w.rebuilt.SameUnits p) (many : w.desired < w.inMotion.length) :
    p.conclude.queue = [] ∧ w.rebuilt.demandedCount = w.desired ∧
      (∀ n, w.rebuilt.demand n = true → (w.pump n).state.inMotion = true ∧
        p.conclude.pump n = { w.pump n with deferred := false } ∧
        ∀ m, (w.pump m).state.inMotion = true → w.rebuilt.demand m = false → w.lastStartN m ≤ w.lastStartN n) ∧
      ∀ n, (w.pump n).state.inMotion = true → w.rebuilt.demand n = false → w.Stood n p.conclude := by
  obtain ⟨lowered, count⟩ := w.rebuilt_many many
  have same := p.conclude_pumps_kept (units.2.2.2.1.trans lowered.queue) fun n => by
    rw [units.claim]
    exact lowered.free n
  have pump (n : Fin 6) : p.conclude.pump n = w.rebuilt.pump n := (same.pump n).trans (units.pump n)
  refine ⟨same.2.1.trans (units.2.2.2.1.trans lowered.queue), count, fun n demand => ?_, fun n moving idle => ?_⟩
  · obtain ⟨moving, adopted⟩ := lowered.moving n demand
    exact ⟨moving, (pump n).trans adopted, fun m moving idle => (lowered.stood m moving idle).2 n demand⟩
  · have stood := (lowered.stood n moving idle).1
    unfold Plant.Stood at stood ⊢
    rw [pump]
    exact stood

theorem Plant.RunsOnly.emptied {p q : Plant} {marks : List (Fin 16)} (runs : p.RunsOnly q) :
    p.RunsOnly { q with out := [], marks := marks } := by
  obtain ⟨⟨clock, levels, mode, weirs, sections, raw, debounced, stability⟩, words, bits, corr⟩ := runs
  exact ⟨⟨clock, levels, mode, weirs, sections, raw, debounced, stability⟩, words, bits, corr⟩

theorem freshnessExpiry_exec {s : State} (due : s.plant.mode.freshTimer = .running 0) :
    exec .freshnessExpiry s = .next (finish s (s.onPlant fun p => p.freshnessLapse.conclude)) := by
  have isDue : s.plant.mode.freshTimer.due = true := by rw [due]; rfl
  exact congrArg Host.Outcome.next (if_pos isDue)

/-- Settles O24: the write is `Plant.freshnessTaken`; the lapse changes the mode, and the demands are rebuilt
(`Plant.rebuilt`) before the end of the event starts at most the head of the queue. -/
theorem freshnessKeepsAuto : Obligations.FreshnessKeepsAuto := by
  intro s out
  refine ⟨fun v taken => ?write, fun due => ⟨_, freshnessExpiry_exec due, fun outside => ?outside, fun auto => ?auto⟩⟩
  case write =>
    have judged : (s.present (s.commandWrite 1 v)).judgeFreshness v =
        ((s.present (s.commandWrite 1 v)).withPlant ((s.plant.setShadow 1 v).freshnessTaken v), .forward) := by
      unfold State.judgeFreshness
      rw [State.onPlant, taken.present_plant]
      rfl
    have moved : (s.plant.setShadow 1 v).freshnessTaken v = { s.plant with
        shadow := vset s.plant.shadow 1 v
        mode := if v = s.plant.mode.freshLast then s.plant.mode
          else { s.plant.mode with
            freshLast := v, freshTimer := .running s.plant.freshnessLimit, freshLimit := s.plant.freshnessLimit
            fresh := true } } := by
      unfold Plant.freshnessTaken
      by_cases stale : v = s.plant.mode.freshLast
      · rw [if_pos stale]
        exact if_pos stale
      · rw [if_neg stale]
        exact if_neg stale
    rw [moved] at judged
    obtain ⟨step, plant, log, settings, link⟩ := access_step (judge := fun t => t.judgeFreshness v) taken judged
      ((Judging.start taken).withPlant _) (fun _ => rfl) rfl
    refine ⟨_, rfl, step, log.trans ?_, settings.trans taken.present_settings, link.trans taken.present_link, plant.trans ?_⟩
    · show (s.plant.out ++ []).foldl _ (s.present (s.commandWrite 1 v)).log = _
      rw [out, taken.present_log]
      rfl
    · rw [← out]
      rfl
  case outside =>
    have acted : s.plant.freshnessLapse.conclude = s.plant.stale.conclude := congrArg Plant.conclude (if_neg outside)
    obtain ⟨step, plant⟩ := finish_concluded (s := s) (act := fun p => p.freshnessLapse.conclude) acted (entries := [])
      ⟨s.plant.out, rfl⟩
    obtain ⟨inputs, orders⟩ := s.plant.stale.conclude_kept.emptied (marks := s.plant.marks)
    rw [← plant] at inputs orders
    exact ⟨step, inputs.mode, orders.shadow, orders.corr, orders.desired, orders.rotation⟩
  case auto =>
    obtain ⟨p, isP⟩ : ∃ p, p = s.plant.stale.changeMode .localControl .lapse true := ⟨_, rfl⟩
    have acted : s.plant.freshnessLapse.conclude = p.conclude := by
      rw [isP]
      exact congrArg Plant.conclude (if_pos auto)
    have elsewhere : s.plant.stale.mode.mode ≠ .localControl := by
      show s.plant.mode.mode ≠ _
      rw [auto]
      exact Mode.noConfusion
    have acts := s.plant.stale.changeMode_acts .localControl .lapse true
    obtain ⟨units, demands, desired, changes⟩ := Plant.changeMode_local (p := s.plant.stale) .lapse true elsewhere
    have point := s.plant.stale.changeMode_localMode (m := .localControl) .lapse true Mode.noConfusion
    have shape : ∃ w : Plant, w = s.plant.stale.modeWritten .localControl .lapse 0 := ⟨_, rfl⟩
    rw [← isP] at acts units demands desired changes point
    obtain ⟨w, isW⟩ := shape
    rw [show s.plant.stale.modeWritten .localControl .lapse (if true then 0 else s.plant.stale.requestedCode) = w
      from isW.symm] at units demands desired changes
    have pumps : w.pump = s.plant.pump ∧ w.desired = s.plant.desired ∧ w.demand = s.plant.demand ∧
        w.rotation = s.plant.rotation ∧ w.candidates = s.plant.candidates ∧ w.inMotion = s.plant.inMotion := by
      rw [isW]
      refine ⟨rfl, rfl, funext fun n => ?_, rfl, rfl, rfl⟩
      exact congrArg runField (vset_get_ne _ _ (pumpWord_ne_zero n).symm)
    obtain ⟨mode, word, pending, -, runs⟩ := Plant.changeMode_facts (acts.trans p.conclude_kept.acts)
    obtain ⟨-, -, -, ⟨more, entries⟩, -⟩ := Plant.changeMode_facts acts
    have orders := p.conclude_kept.2
    obtain ⟨step, plant⟩ := finish_concluded (s := s) (act := fun p => p.freshnessLapse.conclude) acted
      (entries := [s.plant.stale.modeDraft .localControl .lapse]) ⟨more, by
        rw [entries, show s.plant.stale.out = [] from out]
        rfl⟩
    have left := Plant.left_of_eq (r := p.conclude) plant
    have draft : s.plant.stale.modeDraft .localControl .lapse =
        { source := srcMode, kind := 0x10, urgent := true
          detail := detail1 1 ++ detail1 s.plant.mode.cause.code ++ detail1 2 ++ detail1 2 } := by
      unfold Plant.modeDraft
      rw [show s.plant.stale.mode.mode = .auto from auto]
      rfl
    rw [draft] at step
    have demand (n : Fin 6) : (finish s (s.onPlant fun p => p.freshnessLapse.conclude)).plant.demand n = w.rebuilt.demand n :=
      (left.demand n).trans ((Plant.demand_of_shadow orders.shadow n).trans (demands n))
    obtain ⟨pumps, wDesired, wDemand, rotation, candidates, moving⟩ := pumps
    refine ⟨step, ?_, ?_, ?_, ?_, ?_, ?_, fun n changed => ?_, ?_⟩
    · rw [plant]; exact mode
    · rw [left.shadow]; exact word
    · rw [left.corr]; exact pending
    · rw [left.alarms, Plant.conclude_point _ rfl, point]; rfl
    · rw [left.shadow, word, plant]
      exact runs.emptied (marks := s.plant.marks)
    · rw [plant]
      refine orders.desired.trans (desired.trans ?_)
      rw [← wDesired]
      rcases Nat.lt_or_ge w.desired w.inMotion.length with many | few
      · exact (w.rebuilt_many many).1.desired
      · exact w.rebuilt_desired few
    · rw [left.corr, orders.corr]
      refine changes n fun same => changed ?_
      rw [demand, ← same, wDemand]
    · intro before after moving' ready candidates'
      refine ⟨fun few distinct => ?_, fun many => ?_⟩
      · intro given
        have isGiven : w.candidates.take (w.desired - w.inMotion.length) = given := by
          rw [candidates, wDesired, moving]
          rfl
        obtain ⟨motions, demanded, queue⟩ := w.rebuilt_few_concluded (p := p) units
          (by rw [wDesired, moving]; exact few) (by rw [rotation]; exact distinct)
        rw [isGiven] at demanded queue
        rw [pumps] at motions demanded
        refine ⟨fun n => ?_, ?_, fun n motion => (left.pump n).trans (motions n motion)⟩
        · rw [demand]; exact demanded n
        · rw [left.queue]; exact queue
      · obtain ⟨queue, count, keeps, stands⟩ := Plant.rebuilt_many_concluded (p := p) units
          (by rw [wDesired, moving]; exact many)
        have starts (n : Fin 6) : w.lastStartN n = s.plant.lastStartN n := by
          unfold Plant.lastStartN
          rw [pumps]
        refine ⟨left.queue.trans queue, ?_, fun n demanded => ?_, fun n motion idle => ?_⟩
        · refine Eq.trans ?_ (count.trans wDesired)
          exact List.countP_congr fun n _ => by rw [demand]
        · obtain ⟨motion, pump, earlier⟩ := keeps n ((demand n).symm.trans demanded)
          rw [pumps] at motion pump
          refine ⟨motion, (left.pump n).trans pump, fun m motion' idle => ?_⟩
          rw [← starts, ← starts]
          exact earlier m (by rw [pumps]; exact motion') ((demand m).symm.trans idle)
        · have stood := stands n (by rw [pumps]; exact motion) ((demand n).symm.trans idle)
          unfold Plant.Stood at stood
          rw [pumps, ← left.pump] at stood
          exact stood

end Sys2Proof.Machine
end

section
/-! The desired count (R53), and what a settled line leads to at its owners (R2, R5, R32, R54, R68, R69): O14. -/

namespace Sys2Proof.Machine

/-! What moves the desired count, and what does not. -/

theorem Plant.demandCleared_desired (p : Plant) (n : Fin 6) : (p.demandCleared n).desired = p.desired := by
  unfold Plant.demandCleared
  split
  · exact p.leaveQueue_desired n
  · exact p.stopPump_desired n _
  · split
    · exact p.setPump_desired n _
    · exact p.stopPump_desired n _
  all_goals rfl

theorem Plant.withdrawDemand_desired (p : Plant) (n : Fin 6) : (p.withdrawDemand n).desired = p.desired := by
  unfold Plant.withdrawDemand
  split
  · exact (Plant.demandCleared_desired _ n).trans (p.setRun_starts n false).desired
  · rfl

theorem Plant.lowerDemands_desired (k : Nat) : ∀ p : Plant, (p.lowerDemands k).desired = p.desired := by
  induction k with
  | zero => exact fun _ => rfl
  | succ k ih =>
    intro p
    unfold Plant.lowerDemands
    split
    · split
      · exact (ih _).trans (p.withdrawDemand_desired _)
      · rfl
    · rfl

theorem Plant.raiseDemands_desired (p : Plant) (k : Nat) : (p.raiseDemands k).desired = p.desired :=
  Plant.raiseDemands_induct (fun q => q.desired = p.desired) (fun _ _ same next => (Plant.giveDemand_desired next).trans same)
    k p rfl

theorem Plant.setDesired_desired (p : Plant) (d : Nat) : (p.setDesired d).desired = d := by
  unfold Plant.setDesired
  dsimp only
  split
  · rfl
  · split
    · exact (Plant.raiseDemands_desired _ 6).trans (Plant.lowerDemands_desired 6 _)
    · exact Plant.raiseDemands_desired _ 6

theorem foldl_desired {α : Type} (f : Plant → α → Plant) (step : ∀ (p : Plant) a, (f p a).desired = p.desired) (l : List α)
    (p : Plant) : (l.foldl f p).desired = p.desired :=
  foldl_rel (fun p q => q.desired = p.desired) (fun _ => rfl) (fun _ _ _ first second => second.trans first) f step l p

theorem Plant.limitsChanged_desired (p : Plant) : p.limitsChanged.desired = p.desired := by
  have withdrawn (l : List (Fin 6)) : (l.foldl (fun q n => q.withdrawDemand n) p).desired = p.desired :=
    foldl_desired _ (fun q n => q.withdrawDemand_desired n) l p
  unfold Plant.limitsChanged
  dsimp only
  split
  · exact withdrawn _
  · unfold Plant.reexamine
    split
    · exact (Plant.raiseDemands_desired _ 6).trans (withdrawn _)
    · exact withdrawn _

theorem Plant.stormRecompute_desired (p : Plant) : p.stormRecompute.desired = p.desired := by
  by_cases changed : (p.mode.wetWell || p.mode.overflow || p.mode.floatHigh) = p.mode.storm
  · rw [Plant.stormRecompute_of_posture changed.symm]
  · rw [Plant.stormRecompute_changed changed]
    exact (foldl_desired _ (fun q n => (q.standingTrigger_kept n).2.desired) _ _).trans (Plant.limitsChanged_desired _)

/-! The desired count (R53, R54). -/

theorem Plant.desiredNow_low {p : Plant} (low : p.lowLowActive = true) : p.desiredNow = 0 := by
  unfold Plant.desiredNow
  exact if_pos low

theorem Plant.desiredNow_high {p : Plant} (low : p.lowLowActive = false) (high : p.floatHighActive = true) :
    p.desiredNow = p.presentCount := by
  unfold Plant.desiredNow
  dsimp only
  rw [low, high, if_neg Bool.false_ne_true, if_pos rfl]

theorem Plant.desiredNow_good {p : Plant} {v : Nat} (low : p.lowLowActive = false) (high : p.floatHighActive = false)
    (good : (p.levels.channels.get 0).state = .good) (value : (p.levels.channels.get 0).value = some v) :
    p.desiredNow = min (max p.desired (p.startLevels.countP fun x => x ≤ v)) (p.stopLevels.countP fun x => x ≤ v) := by
  unfold Plant.desiredNow
  dsimp only
  rw [low, high, if_neg Bool.false_ne_true, if_neg Bool.false_ne_true, good, value]

theorem Plant.desiredNow_keeps {p : Plant} (low : p.lowLowActive = false) (high : p.floatHighActive = false)
    (blind : (p.levels.channels.get 0).state ≠ .good ∨ (p.levels.channels.get 0).value = none) : p.desiredNow = p.desired := by
  unfold Plant.desiredNow
  dsimp only
  rw [low, high, if_neg Bool.false_ne_true, if_neg Bool.false_ne_true]
  split
  case h_1 good value =>
    rcases blind with other | nothing
    · exact absurd good other
    · rw [nothing] at value
      cases value
  case h_2 => rfl

/-- The desired count looks at the levels, the settings, the lines and itself alone. -/
theorem Plant.desiredNow_congr {p q : Plant} (levels : q.levels = p.levels) (sections : q.sections = p.sections)
    (lines : q.lines.debounced = p.lines.debounced) (desired : q.desired = p.desired) : q.desiredNow = p.desiredNow := by
  have reads {α : Type} (f : Plant → α) (looks : ∀ p : Plant, f p = f { Plant.reset with sections := p.sections }) : f q = f p := by
    rw [looks q, looks p, sections]
  have active (l : Fin 30) : q.active l = p.active l := by
    unfold Plant.active
    rw [lines, reads (fun p => p.openActive l) fun _ => rfl]
  have low : q.lowLowActive = p.lowLowActive := active 27
  have high : q.floatHighActive = p.floatHighActive := active 26
  unfold Plant.desiredNow
  rw [low, high, levels, desired, reads Plant.presentCount fun _ => rfl, reads Plant.startLevels fun _ => rfl,
    reads Plant.stopLevels fun _ => rfl]

theorem Plant.evaluateDesired_desired (p : Plant) : p.evaluateDesired.desired = p.desiredNow := p.setDesired_desired _

/-! Inputs but for the mode. -/

/-- The inputs but for the mode are the same, and entries are only added. -/
def Plant.Senses (p q : Plant) : Prop := p.SameInputs { q with mode := p.mode } ∧ ∃ more, q.out = p.out ++ more

theorem Plant.Acts.senses {p q : Plant} (acts : p.Acts q) : p.Senses q := by
  obtain ⟨⟨⟨clock, levels, -, weirs, sections, raw, debounced, stability⟩, -⟩, out⟩ := acts
  exact ⟨⟨clock, levels, rfl, weirs, sections, raw, debounced, stability⟩, out⟩

theorem Plant.Senses.trans {p q r : Plant} (first : p.Senses q) (second : q.Senses r) : p.Senses r := by
  obtain ⟨⟨clock, levels, -, weirs, sections, raw, debounced, stability⟩, more, out⟩ := first
  obtain ⟨⟨clock', levels', -, weirs', sections', raw', debounced', stability'⟩, more', out'⟩ := second
  exact ⟨⟨clock'.trans clock, levels'.trans levels, rfl, weirs'.trans weirs, sections'.trans sections, raw'.trans raw,
    debounced'.trans debounced, stability'.trans stability⟩, more ++ more', by rw [out', out, List.append_assoc]⟩

theorem Plant.setMode_senses (p : Plant) (m : ModeUnit) : p.Senses { p with mode := m } :=
  ⟨⟨rfl, rfl, rfl, rfl, rfl, rfl, rfl, rfl⟩, [], (List.append_nil _).symm⟩

theorem Plant.stormTold_senses (p : Plant) (now : Bool) : p.Senses (p.stormTold now) :=
  ⟨⟨rfl, rfl, rfl, rfl, rfl, rfl, rfl, rfl⟩, _, rfl⟩

theorem Plant.stormRecompute_senses (p : Plant) : p.Senses p.stormRecompute := by
  by_cases changed : (p.mode.wetWell || p.mode.overflow || p.mode.floatHigh) = p.mode.storm
  · rw [Plant.stormRecompute_of_posture changed.symm]
    exact (Plant.Acts.refl p).senses
  · rw [Plant.stormRecompute_changed changed]
    exact ((p.stormTold_senses _).trans (Plant.limitsChanged_acts _).senses).trans
      (foldl_kept (fun q n => q.standingTrigger n) (fun q n => q.standingTrigger_kept n) allRakes _).acts.senses

theorem Plant.evaluateFloatHigh_senses (p : Plant) : p.Senses p.evaluateFloatHigh :=
  (p.setMode_senses _).trans (Plant.stormRecompute_senses _)

theorem Plant.shed_senses (p : Plant) : p.Senses p.shed := by
  unfold Plant.shed
  split
  · exact (Plant.Acts.refl p).senses
  · dsimp only
    exact ((((p.suspendRakes_kept.acts.trans (Plant.shedPumps_acts _ _ 6)).trans (Plant.append_kept _ _ _ _ _).acts).senses.trans
      (Plant.setMode_senses _ _)).trans (Plant.hand_kept _ _ _).acts.senses)

theorem Plant.changeSupply_senses (p : Plant) (generator : Bool) : p.Senses (p.changeSupply generator) := by
  unfold Plant.changeSupply
  dsimp only
  split
  · exact (Plant.Acts.refl p).senses
  · refine Plant.Senses.trans ?_ (Plant.shed_senses _)
    have told := ((p.append_kept srcMode 0x13 (detail1 p.mode.supply.code ++ detail1 (supplyOf generator).code) false).acts.senses.trans
      (Plant.setMode_senses _ { p.mode with supply := supplyOf generator })).trans (Plant.hand_kept _ 33 generator).acts.senses
    split
    · exact told
    · exact (told.trans (Plant.setMode_senses _ _)).trans (Plant.hand_kept _ _ _).acts.senses

theorem Plant.lowLowChange_acts (p : Plant) (active : Bool) : p.Acts (p.lowLowChange active) := by
  unfold Plant.lowLowChange
  split_ifs
  · exact p.dryWell_acts
  · exact .refl p
  · exact p.evaluateDesired_acts

/-- R2: no change of a line moves an input but the mode. -/
theorem Plant.lineAct_senses (p : Plant) (l : Fin 30) (active : Bool) : p.Senses (p.lineAct l active) := by
  unfold Plant.lineAct
  split
  iterate 6 exact (p.feedbackChange_acts _ _).senses
  iterate 6 exact (p.faultChange_acts _ _).senses
  iterate 2 exact (p.homeChange_kept _ _).acts.senses
  iterate 2 exact (p.overloadChange_kept _ _).acts.senses
  · exact p.evaluateFloatHigh_senses.trans (Plant.evaluateDesired_acts _).senses
  · exact (p.lowLowChange_acts _).senses
  · exact p.changeSupply_senses _
  · exact (Plant.Acts.refl p).senses

/-! The home and overload lines (R68, R69). -/

theorem isInputLine_home (n : Fin 2) : isInputLine (homeLine n) = true := by revert n; decide

theorem Plant.lineAct_home (p : Plant) (b : Bool) : ∀ n : Fin 2, p.lineAct (homeLine n) b = p.homeChange n b
  | 0 => rfl | 1 => rfl

theorem Plant.lineAct_overload (p : Plant) (b : Bool) : ∀ n : Fin 2, p.lineAct (overloadLine n) b = p.overloadChange n b
  | 0 => rfl | 1 => rfl

/-- R68: the rake has left home. -/
def Plant.homeLeft (p : Plant) (n : Fin 2) : Plant := p.setRake n { p.rake n with homeLeave := true }

theorem Plant.homeChange_arrives {p : Plant} {n : Fin 2} (raking : (p.rake n).state = .raking)
    (left : (p.rake n).homeLeave = true) : p.homeChange n true = p.endCycle n := by
  unfold Plant.homeChange
  dsimp only
  rw [raking, left]
  rfl

theorem Plant.homeChange_home {p : Plant} {n : Fin 2} (other : (p.rake n).state ≠ .raking ∨ (p.rake n).homeLeave = false) :
    p.homeChange n true = p := by
  unfold Plant.homeChange
  dsimp only
  cases state : (p.rake n).state
  case raking =>
    rw [other.resolve_left (not_not_intro state)]
    rfl
  all_goals rfl

theorem Plant.homeChange_leaves {p : Plant} {n : Fin 2}
    (cycling : (p.rake n).state = .raking ∨ (p.rake n).state = .reversing ∨ (p.rake n).state = .suspended) :
    p.homeChange n false = p.homeLeft n := by
  unfold Plant.homeChange Plant.homeLeft
  dsimp only
  rcases cycling with state | state | state
  all_goals
    rw [state]
    rfl

theorem Plant.homeChange_still {p : Plant} {n : Fin 2} (raking : (p.rake n).state ≠ .raking)
    (reversing : (p.rake n).state ≠ .reversing) (suspended : (p.rake n).state ≠ .suspended) : p.homeChange n false = p := by
  unfold Plant.homeChange
  dsimp only
  cases state : (p.rake n).state
  case raking => exact absurd state raking
  case reversing => exact absurd state reversing
  case suspended => exact absurd state suspended
  all_goals rfl

theorem Plant.overloadChange_raking {p : Plant} {n : Fin 2} (raking : (p.rake n).state = .raking) :
    p.overloadChange n true = p.reverseRake n := if_pos (by rw [raking]; rfl)

theorem Plant.overloadChange_still {p : Plant} {n : Fin 2} {b : Bool} (still : b = false ∨ (p.rake n).state ≠ .raking) :
    p.overloadChange n b = p := by
  refine if_neg fun both => ?_
  rw [Bool.and_eq_true, beq_iff_eq] at both
  exact still.elim (fun no => Bool.false_ne_true (no.symm.trans both.1)) fun other => other both.2

/-! The home-leave flag through the end of an event (R68). -/

/-- The home-leave flag of rake `n` is set, and the rake is not at home. -/
structure Plant.Away (p : Plant) (n : Fin 2) : Prop where
  left : (p.rake n).homeLeave = true
  away : p.homeActive n = false

theorem Plant.Away.setRake {p : Plant} {n m : Fin 2} {r : Rake} (away : p.Away n) (keeps : m = n → r.homeLeave = true) :
    (p.setRake m r).Away n := by
  refine ⟨?_, away.away⟩
  by_cases own : m = n
  · rw [own, Plant.rake_setRake]
    exact keeps own
  · rw [p.rake_setRake_ne (Ne.symm own)]
    exact away.left

theorem Plant.Away.setClaim {p : Plant} {n : Fin 2} (away : p.Away n) (h : Fin 8) (c : Claim) : (p.setClaim h c).Away n :=
  ⟨away.left, away.away⟩

theorem Plant.Away.append {p : Plant} {n : Fin 2} (away : p.Away n) (a b : Byte) (d : List Byte) (u : Bool) :
    (p.append a b d u).Away n := ⟨away.left, away.away⟩

theorem Plant.Away.suspendRake {p : Plant} {n : Fin 2} (away : p.Away n) (m : Fin 2) : (p.suspendRake m).Away n :=
  ((away.setRake fun own => own ▸ away.left).setClaim _ _).append _ _ _ _

theorem Plant.Away.suspendRakes {p : Plant} {n : Fin 2} (away : p.Away n) : p.suspendRakes.Away n := by
  unfold Plant.suspendRakes
  generalize p.rakesInMotion = rakes
  induction rakes generalizing p with
  | nil => exact away
  | cons m rest ih => exact ih (away.suspendRake m)

theorem Plant.Away.reverseRake {p : Plant} {n : Fin 2} (away : p.Away n) (m : Fin 2) : (p.reverseRake m).Away n :=
  (away.setRake fun own => own ▸ away.left).append _ _ _ _

theorem Plant.Away.checkOverload {p : Plant} {n : Fin 2} (away : p.Away n) (m : Fin 2) : (p.checkOverload m).Away n := by
  unfold Plant.checkOverload
  split
  · exact away.reverseRake m
  · exact away

theorem Plant.Away.startRake {p : Plant} {n : Fin 2} (away : p.Away n) (m : Fin 2) : (p.startRake m).Away n := by
  refine Plant.Away.checkOverload ?_ m
  refine Plant.Away.append (away.setRake fun own => ?_) _ _ _ _
  show (!p.homeActive m) = true
  rw [own, away.away]
  rfl

theorem Plant.Away.endCycle {p : Plant} {n : Fin 2} (away : p.Away n) (m : Fin 2) : (p.endCycle m).Away n :=
  ((away.append _ _ _ _).setClaim _ _).setRake fun own => own ▸ away.left

theorem Plant.Away.backInRaking {p : Plant} {n : Fin 2} (away : p.Away n) (m : Fin 2) : (p.backInRaking m).Away n := by
  unfold Plant.backInRaking
  split
  · exact away.endCycle m
  · exact away.checkOverload m

theorem Plant.Away.resumeRake {p : Plant} {n : Fin 2} (away : p.Away n) (m : Fin 2) : (p.resumeRake m).Away n := by
  unfold Plant.resumeRake
  dsimp only
  split
  · exact (away.setRake fun own => own ▸ away.left).append _ _ _ _
  · exact ((away.setRake fun own => own ▸ away.left).append _ _ _ _).backInRaking m

theorem Plant.Away.grantRake {p : Plant} {n : Fin 2} (away : p.Away n) (m : Fin 2) : (p.grantRake m).Away n := by
  unfold Plant.grantRake
  dsimp only
  split
  · exact (away.setClaim _ _).startRake m
  · exact (away.setClaim _ _).resumeRake m
  all_goals exact away

theorem Plant.Away.triggerRake {p : Plant} {n : Fin 2} (away : p.Away n) (m : Fin 2) (cause : Trigger) :
    (p.triggerRake m cause).Away n :=
  (away.setRake fun own => own ▸ away.left).setClaim _ _

theorem Plant.Away.conclude {p : Plant} {n : Fin 2} (away : p.Away n) : p.conclude.Away n := by
  refine Plant.conclude_induct (fun q => q.Away n) (fun q r kept units away => ?_) (fun q r away round => ?_) p away
  · exact ⟨by rw [units.rake]; exact away.left, (kept.acts.active (homeLine n)).trans away.away⟩
  · rcases Plant.serveOnce_cases round with ⟨m, -, -, rfl⟩ | ⟨m, -, rfl⟩ | ⟨m, -, -, rfl⟩ | ⟨m, -, -, rfl⟩ | ⟨m, -, rfl⟩
    · refine ⟨?_, ((q.startPump_kept m).acts.active (homeLine n)).trans away.away⟩
      rw [show (q.startPump m).rake n = q.rake n from congrArg (Vector.get · n) (q.startPump_rakes m)]
      exact away.left
    · exact away.suspendRakes
    · exact away.setClaim _ _
    · exact away.grantRake m
    · exact away.triggerRake m .storm

/-! The line F26 (R32, R33, R53). -/

/-- What a change of storm posture hands first (R33). -/
def Plant.stormDraft (p : Plant) (now : Bool) : Draft :=
  { source := srcMode, kind := if now then 0x11 else 0x12, urgent := false, detail := detail1 p.stormBits }

theorem Plant.stormRecompute_out {p : Plant}
    (changed : (p.mode.wetWell || p.mode.overflow || p.mode.floatHigh) ≠ p.mode.storm) :
    ∃ more, p.stormRecompute.out = p.out ++ p.stormDraft (p.mode.wetWell || p.mode.overflow || p.mode.floatHigh) :: more := by
  rw [Plant.stormRecompute_changed changed]
  obtain ⟨-, more, out⟩ := (Plant.limitsChanged_acts (p.stormTold (p.mode.wetWell || p.mode.overflow || p.mode.floatHigh))).trans
    (foldl_kept (fun q n => q.standingTrigger n) (fun q n => q.standingTrigger_kept n) allRakes _).acts
  refine ⟨more, out.trans ?_⟩
  show (p.out ++ [p.stormDraft _]) ++ more = _
  rw [List.append_assoc]
  rfl

/-- The plant with the condition of the high float taken (R32). -/
def Plant.highTaken (p : Plant) : Plant := { p with mode := { p.mode with floatHigh := p.floatHighActive } }

theorem Plant.evaluateFloatHigh_eq (p : Plant) : p.evaluateFloatHigh = p.highTaken.stormRecompute := rfl

theorem Plant.highTaken_facts (p : Plant) :
    p.evaluateFloatHigh.mode = { p.mode with
      floatHigh := p.floatHighActive, storm := p.mode.wetWell || p.mode.overflow || p.floatHighActive } ∧
    p.evaluateFloatHigh.desiredNow = p.desiredNow := by
  refine ⟨p.highTaken.stormRecompute_mode, ?_⟩
  obtain ⟨⟨-, levels, -, -, sections, -, debounced, -⟩, -⟩ := p.evaluateFloatHigh_senses
  exact Plant.desiredNow_congr levels sections debounced p.highTaken.stormRecompute_desired

/-! The whole event. -/

/-- R2, R5: a line whose reading stays, or one that settles in LOAD, is taken without an event. -/
theorem Plant.debounce_still {p : Plant} {l : Fin 30} (still : p.loading = true ∨ (p.settleLine l).active l = p.active l) :
    p.debounce l = p.settleLine l := by
  refine if_pos ?_
  rw [Bool.or_eq_true, beq_iff_eq]
  exact still

theorem Plant.debounce_senses (p : Plant) (l : Fin 30) : (p.settleLine l).Senses (p.debounce l) := by
  by_cases still : p.loading = true ∨ (p.settleLine l).active l = p.active l
  · rw [Plant.debounce_still still]
    exact (Plant.Acts.refl _).senses
  · obtain ⟨running, changes⟩ := not_or.mp still
    rw [Plant.debounce_changes (Bool.eq_false_iff.mpr running) changes]
    exact (Plant.lineAct_senses _ l _).trans (Plant.conclude_kept _).acts.senses

theorem Plant.settleLine_calm {p : Plant} (calm : p.Calm) (l : Fin 30) : (p.settleLine l).Calm := ⟨calm.queue, calm.claims, calm.storm⟩

/-- An event of a line at its owner `act`, concluded. -/
structure LineEvent (s t : State) (l : Fin 30) (q : Plant) : Prop where
  left  : Plant.Left q.conclude t.plant
  plant : t.plant = { q.conclude with out := [], marks := s.plant.marks }
  step  : ∀ entries, (∃ more, q.out = entries ++ more) → s.PlantStep t entries

theorem lineEvent_of {s : State} {l : Fin 30} {q : Plant} (running : s.plant.loading = false)
    (changes : (s.plant.settleLine l).active l ≠ s.plant.active l)
    (acts : (s.plant.settleLine l).lineAct l ((s.plant.settleLine l).active l) = q) :
    LineEvent s (finish s (s.onPlant fun p => p.debounce l)) l q := by
  have acted : s.plant.debounce l = q.conclude := by rw [Plant.debounce_changes running changes, acts]
  obtain ⟨-, plant⟩ := finish_concluded (s := s) (act := fun p => p.debounce l) acted (entries := []) ⟨q.out, rfl⟩
  exact ⟨Plant.left_of_eq plant, plant, fun entries out => (finish_concluded (s := s) (act := fun p => p.debounce l) acted out).1⟩

section
variable {s t : State} {l : Fin 30} {q : Plant}

theorem LineEvent.kept (event : LineEvent s t l q) (kept : (s.plant.settleLine l).Kept q) :
    (s.plant.settleLine l).SameInputs t.plant ∧ s.plant.SameOrders t.plant := by
  obtain ⟨inputs, orders⟩ := (kept.trans q.conclude_kept).emptied (marks := s.plant.marks)
  rw [← event.plant] at inputs orders
  exact ⟨inputs, orders.shadow, orders.corr, orders.desired, orders.rotation⟩

/-- Where nothing waits the units stay as the owner left them. -/
theorem LineEvent.calm (event : LineEvent s t l q) (calm : q.Calm) (running : q.loading = false) :
    t.plant.rakes = q.rakes ∧ t.plant.claims = q.claims := by
  obtain ⟨-, rakes, claims, -⟩ := calm.still running
  exact ⟨event.left.rakes.trans rakes, event.left.claims.trans claims⟩

end

/-- R68: what a settled home line leads to. -/
theorem homeEvent {s t : State} {n : Fin 2} (out : s.plant.out = []) (running : s.plant.loading = false)
    (event : LineEvent s t (homeLine n)
      ((s.plant.settleLine (homeLine n)).homeChange n ((s.plant.settleLine (homeLine n)).active (homeLine n)))) :
    let p := s.plant.settleLine (homeLine n)
    let r := s.plant.rake n
    p.SameInputs t.plant ∧ s.plant.SameOrders t.plant ∧
    (p.active (homeLine n) = true → r.state = .raking → r.homeLeave = true →
      s.PlantStep t [s.plant.cycleDraft n] ∧ (s.plant.mode.storm = false → s.plant.Rests t.plant n)) ∧
    (p.active (homeLine n) = true → r.state ≠ .raking ∨ r.homeLeave = false → s.plant.Calm →
      t.plant.rakes = s.plant.rakes ∧ t.plant.claims = s.plant.claims) ∧
    (p.active (homeLine n) = false → r.state = .raking ∨ r.state = .reversing ∨ r.state = .suspended →
      (t.plant.rake n).homeLeave = true ∧
      (s.plant.Calm → t.plant.rake n = { r with homeLeave := true } ∧ t.plant.claims = s.plant.claims)) ∧
    (p.active (homeLine n) = false → r.state ≠ .raking → r.state ≠ .reversing → r.state ≠ .suspended → s.plant.Calm →
      t.plant.rakes = s.plant.rakes ∧ t.plant.claims = s.plant.claims) := by
  intro p r
  obtain ⟨inputs, orders⟩ := event.kept (Plant.homeChange_kept _ n _)
  refine ⟨inputs, orders, fun home raking left => ?_, fun home other calm => ?_, fun away cycling => ?_,
    fun away raking reversing suspended calm => ?_⟩
  · rw [show (s.plant.settleLine (homeLine n)).active (homeLine n) = true from home,
      Plant.homeChange_arrives (p := s.plant.settleLine (homeLine n)) raking left] at event
    obtain ⟨rake, claim, entries⟩ := (s.plant.settleLine (homeLine n)).endCycle_facts n
    have mode := ((s.plant.settleLine (homeLine n)).endCycle_kept n).acts.inputs.mode
    refine ⟨event.step _ ⟨[], ?_⟩, fun still => ?_⟩
    · rw [entries, show (s.plant.settleLine (homeLine n)).out = [] from out]
      rfl
    · obtain ⟨rake', claim'⟩ := Plant.conclude_rake_kept ((s.plant.settleLine (homeLine n)).endCycle n) n (by rw [claim])
        (Or.inr (by rw [mode]; exact still))
      exact ⟨(event.left.claim _).trans (claim'.trans claim), (event.left.rake n).trans (rake'.trans rake)⟩
  · rw [show (s.plant.settleLine (homeLine n)).active (homeLine n) = true from home,
      Plant.homeChange_home (p := s.plant.settleLine (homeLine n)) other] at event
    exact event.calm (Plant.settleLine_calm calm _) running
  · rw [show (s.plant.settleLine (homeLine n)).active (homeLine n) = false from away,
      Plant.homeChange_leaves (p := s.plant.settleLine (homeLine n)) cycling] at event
    have rake := (s.plant.settleLine (homeLine n)).rake_setRake n { s.plant.rake n with homeLeave := true }
    have gone : ((s.plant.settleLine (homeLine n)).homeLeft n).Away n := by
      refine ⟨?_, away⟩
      rw [show ((s.plant.settleLine (homeLine n)).homeLeft n).rake n = _ from rake]
    refine ⟨?_, fun calm => ?_⟩
    · rw [event.left.rake]
      exact gone.conclude.left
    · have calm' : ((s.plant.settleLine (homeLine n)).homeLeft n).Calm := ⟨calm.queue, calm.claims, calm.storm⟩
      obtain ⟨rakes, claims⟩ := event.calm calm' running
      exact ⟨(congrArg (Vector.get · n) rakes).trans rake, claims⟩
  · rw [show (s.plant.settleLine (homeLine n)).active (homeLine n) = false from away,
      Plant.homeChange_still (p := s.plant.settleLine (homeLine n)) raking reversing suspended] at event
    exact event.calm (Plant.settleLine_calm calm _) running

/-- R69: what a settled overload line leads to. -/
theorem overloadEvent {s t : State} {n : Fin 2} (out : s.plant.out = []) (running : s.plant.loading = false)
    (event : LineEvent s t (overloadLine n)
      ((s.plant.settleLine (overloadLine n)).overloadChange n ((s.plant.settleLine (overloadLine n)).active (overloadLine n)))) :
    let p := s.plant.settleLine (overloadLine n)
    let r := s.plant.rake n
    p.SameInputs t.plant ∧ s.plant.SameOrders t.plant ∧
    (p.active (overloadLine n) = true → r.state = .raking →
      s.PlantStep t [{ source := srcScreen n, kind := 0x32, urgent := false, detail := detail2 (r.attempts + 1) }] ∧
      (s.plant.Calm → t.plant.rake n = { r with
        state := .reversing, attempts := r.attempts + 1, cycle := .stopped
        reverse := .running (s.plant.reverseTime n) } ∧ t.plant.claims = s.plant.claims)) ∧
    (p.active (overloadLine n) = false ∨ r.state ≠ .raking → s.plant.Calm →
      t.plant.rakes = s.plant.rakes ∧ t.plant.claims = s.plant.claims) := by
  intro p r
  obtain ⟨inputs, orders⟩ := event.kept (Plant.overloadChange_kept _ n _)
  refine ⟨inputs, orders, fun overloaded raking => ?_, fun still calm => ?_⟩
  · rw [show (s.plant.settleLine (overloadLine n)).active (overloadLine n) = true from overloaded,
      Plant.overloadChange_raking (p := s.plant.settleLine (overloadLine n)) raking] at event
    refine ⟨event.step _ ⟨[], ?_⟩, fun calm => ?_⟩
    · rw [Plant.reverseRake_out, show (s.plant.settleLine (overloadLine n)).out = [] from out]
      rfl
    · have calm' : ((s.plant.settleLine (overloadLine n)).reverseRake n).Calm := ⟨calm.queue, calm.claims, calm.storm⟩
      obtain ⟨rakes, claims⟩ := event.calm calm' running
      exact ⟨(congrArg (Vector.get · n) rakes).trans (Plant.reverseRake_rake _ n), claims⟩
  · rw [Plant.overloadChange_still (p := s.plant.settleLine (overloadLine n)) still] at event
    exact event.calm (Plant.settleLine_calm calm _) running

/-- R32, R33, R53: what the settled high float leads to. -/
theorem highFloatEvent {s t : State} (out : s.plant.out = []) (running : s.plant.loading = false)
    (event : LineEvent s t 26 ((s.plant.settleLine 26).evaluateFloatHigh.evaluateDesired)) :
    let p := s.plant.settleLine 26
    let storm := s.plant.mode.wetWell || s.plant.mode.overflow || p.active 26
    t.plant.mode = { s.plant.mode with floatHigh := p.active 26, storm := storm } ∧
    (storm ≠ s.plant.mode.storm →
      s.PlantStep t [{ source := srcMode, kind := if storm then 0x11 else 0x12, urgent := false
                       detail := detail1 (bit s.plant.mode.wetWell + 2 * bit s.plant.mode.overflow +
                         4 * bit (p.active 26)) }]) ∧
    t.plant.desired = p.desiredNow ∧ (t.plant.alarms.points.get 31).condition = p.active 26 := by
  intro p storm
  obtain ⟨mode, same⟩ := p.highTaken_facts
  have acts := p.evaluateFloatHigh.evaluateDesired_acts
  have sensed := p.evaluateFloatHigh_senses.trans acts.senses
  have desired : p.evaluateFloatHigh.evaluateDesired.desired = p.desiredNow :=
    (Plant.evaluateDesired_desired _).trans same
  have handed (changed : storm ≠ s.plant.mode.storm) :
      ∃ more, p.evaluateFloatHigh.evaluateDesired.out = [p.highTaken.stormDraft storm] ++ more := by
    obtain ⟨more, out'⟩ := Plant.stormRecompute_out (p := p.highTaken) changed
    obtain ⟨more', out''⟩ := acts.2
    refine ⟨more ++ more', ?_⟩
    rw [out'', Plant.evaluateFloatHigh_eq, out', show p.highTaken.out = [] from out]
    rfl
  have mode' : p.evaluateFloatHigh.evaluateDesired.mode = _ := acts.inputs.mode.trans mode
  generalize isQ : p.evaluateFloatHigh.evaluateDesired = q at event sensed desired handed mode'
  have kept := q.conclude_kept
  have loading : q.loading = false := by
    unfold Plant.loading at running ⊢
    rw [mode']
    exact running
  refine ⟨?_, fun changed => event.step _ (handed changed), ?_, ?_⟩
  · rw [event.plant]
    exact kept.acts.inputs.mode.trans mode'
  · rw [event.plant]
    exact kept.2.desired.trans desired
  · rw [event.left.alarms]
    refine (Plant.conclude_announced loading).high.trans ((kept.acts.active 26).trans ?_)
    unfold Plant.active
    rw [sensed.1.debounced, show q.openActive 26 = p.openActive 26 from
      congrArg (fun x => Plant.openActive { Plant.reset with sections := x } 26) sensed.1.sections]

/-- R52, R53: what the return of the low-low float leads to. -/
theorem lowFloatReturns {s t : State} (running : s.plant.loading = false)
    (low : (s.plant.settleLine 27).active 27 = false)
    (event : LineEvent s t 27 ((s.plant.settleLine 27).lowLowChange false)) :
    t.plant.mode = s.plant.mode ∧ (t.plant.alarms.points.get 32).condition = false ∧
      t.plant.desired = if s.plant.mode.mode = .localControl then s.plant.desired else (s.plant.settleLine 27).desiredNow := by
  have acts := (s.plant.settleLine 27).lowLowChange_acts false
  have desired : ((s.plant.settleLine 27).lowLowChange false).desired =
      if s.plant.mode.mode = .localControl then s.plant.desired else (s.plant.settleLine 27).desiredNow := by
    unfold Plant.lowLowChange
    rw [if_neg Bool.false_ne_true]
    by_cases inLocal : s.plant.mode.mode = .localControl
    · have here : (s.plant.settleLine 27).inLocal = true := beq_iff_eq.mpr inLocal
      rw [if_pos inLocal, if_pos here]
      rfl
    · have here : ¬ (s.plant.settleLine 27).inLocal = true := fun yes => inLocal (beq_iff_eq.mp yes)
      rw [if_neg inLocal, if_neg here]
      exact Plant.evaluateDesired_desired _
  generalize (s.plant.settleLine 27).lowLowChange false = q at event acts desired
  have kept := q.conclude_kept
  refine ⟨?_, ?_, ?_⟩
  · rw [event.plant]
    exact kept.acts.inputs.mode.trans acts.inputs.mode
  · rw [event.left.alarms]
    exact (Plant.conclude_announced (acts.loading.trans running)).lowLow.trans
      (((acts.trans kept.acts).active 27).trans low)
  · rw [event.plant]
    exact kept.2.desired.trans desired

/-- Settles O14: the event of the line at its owner, by the statements above. -/
theorem debounceExpiryTakesRawState : Obligations.DebounceExpiryTakesRawState := by
  intro s l out input due p
  have run := debounceExpiry_event input due
  obtain ⟨inputs, -⟩ := s.plant.debounce_senses l
  have plant := finish_onPlant_plant s fun p => p.debounce l
  refine ⟨_, run, finish_onPlant_step s _ ⟨_, rfl⟩, ?_, ?_, ?_, ?_, ?_, ?_, ?_, fun still => ?_, fun running changes => ?_⟩
  case refine_8 =>
    have same := Plant.debounce_still still
    refine ⟨?_, ?_⟩
    · rw [plant]
      refine (congrArg (fun q : Plant => ({ q with out := [], marks := s.plant.marks } : Plant)) same).trans ?_
      rw [← out]
      rfl
    · rw [finish_onPlant_log, same, show (s.plant.settleLine l).out = [] from out]
      rfl
  case refine_9 =>
    have event {q : Plant} (acts : p.lineAct l (p.active l) = q) := lineEvent_of running changes acts
    intro desired
    have count : p.desiredNow = if p.active 27 then 0 else if p.active 26 then s.plant.presentCount else desired := by
      cases low : p.active 27 with
      | true => exact Plant.desiredNow_low low
      | false =>
        cases high : p.active 26 with
        | true => exact Plant.desiredNow_high low high
        | false =>
          cases level : (s.plant.levels.channels.get 0).state with
          | good =>
            cases value : (s.plant.levels.channels.get 0).value with
            | none =>
              refine (Plant.desiredNow_keeps low high (.inr value)).trans ?_
              simp only [desired, level, value]
              rfl
            | some v =>
              refine (Plant.desiredNow_good low high level value).trans ?_
              simp only [desired, level, value]
              rfl
          | _ =>
            refine (Plant.desiredNow_keeps low high (.inl fun good => nomatch level.symm.trans good)).trans ?_
            simp only [desired, level]
            rfl
    refine ⟨fun n home => ?_, fun n overload => ?_, fun high => ?_, fun low returned => ?_⟩
    · subst home
      exact homeEvent out running (event (Plant.lineAct_home _ _ n))
    · subst overload
      exact overloadEvent out running (event (Plant.lineAct_overload _ _ n))
    · subst high
      rw [← count]
      exact highFloatEvent out running (event rfl)
    · subst low
      rw [returned, if_neg Bool.false_ne_true] at count
      rw [← count]
      exact lowFloatReturns running returned (event (returned ▸ rfl))
  all_goals rw [plant]
  · exact inputs.raw
  · exact inputs.debounced
  · exact inputs.stability
  · exact inputs.clock
  · exact inputs.levels
  · exact inputs.weirs
  · exact inputs.sections

end Sys2Proof.Machine
end

section
/-! What acts of the pump unit leave of the screens, what the events of a plant leave of the rakes' readings (R64), and a
weir within an event (R78 to R85). -/

namespace Sys2Proof.Machine

/-! The pump unit leaves the screens alone. -/

/-- The rakes and their claims are the same. -/
structure Plant.SameScreens (p q : Plant) : Prop where
  rakes  : q.rakes = p.rakes
  claims : ∀ n, q.claim (rakeHolder n) = p.claim (rakeHolder n)

theorem Plant.SameScreens.refl (p : Plant) : p.SameScreens p := ⟨rfl, fun _ => rfl⟩

theorem Plant.SameScreens.trans {p q r : Plant} (first : p.SameScreens q) (second : q.SameScreens r) : p.SameScreens r :=
  ⟨second.rakes.trans first.rakes, fun n => (second.claims n).trans (first.claims n)⟩

theorem Plant.SameScreens.rake {p q : Plant} (same : p.SameScreens q) (n : Fin 2) : q.rake n = p.rake n :=
  congrArg (Vector.get · n) same.rakes

theorem Plant.OnlyPump.screens {n : Fin 6} {p q : Plant} (only : Plant.OnlyPump n p q) : p.SameScreens q :=
  ⟨only.rakes, fun m => only.claims _ (pumpHolder_ne_rakeHolder n m).symm⟩

theorem foldl_screens {α : Type} (f : Plant → α → Plant) (step : ∀ (p : Plant) a, p.SameScreens (f p a)) (l : List α)
    (p : Plant) : p.SameScreens (l.foldl f p) :=
  foldl_rel Plant.SameScreens .refl (fun _ _ _ => .trans) f step l p

theorem Plant.demandCleared_only (p : Plant) (n : Fin 6) : Plant.OnlyPump n p (p.demandCleared n) := by
  unfold Plant.demandCleared
  split
  · exact p.leaveQueue_only n
  · exact p.stopPump_only n _
  · split
    · exact p.setPump_only n _
    · exact p.stopPump_only n _
  all_goals exact .refl n p

theorem Plant.demandSet_only (p : Plant) (n : Fin 6) : Plant.OnlyPump n p (p.demandSet n) := by
  unfold Plant.demandSet
  split
  · exact p.joinQueue_only n
  · exact p.setPump_only n _
  all_goals exact .refl n p

theorem Plant.giveDemand_only (p : Plant) (n : Fin 6) : Plant.OnlyPump n p (p.giveDemand n) :=
  (p.setRun_only n true).trans (Plant.demandSet_only _ n)

theorem Plant.withdrawDemand_only (p : Plant) (n : Fin 6) : Plant.OnlyPump n p (p.withdrawDemand n) := by
  unfold Plant.withdrawDemand
  split
  · exact (p.setRun_only n false).trans (Plant.demandCleared_only _ n)
  · exact .refl n p

theorem Plant.raiseDemands_screens (p : Plant) (k : Nat) : p.SameScreens (p.raiseDemands k) :=
  Plant.raiseDemands_induct p.SameScreens (fun q _ same _ => same.trans (q.giveDemand_only _).screens) k p (.refl p)

theorem Plant.lowerDemands_screens (k : Nat) : ∀ p : Plant, p.SameScreens (p.lowerDemands k) := by
  induction k with
  | zero => exact .refl
  | succ k ih =>
    intro p
    unfold Plant.lowerDemands
    split
    · split
      · exact (p.withdrawDemand_only _).screens.trans (ih _)
      · exact .refl p
    · exact .refl p

theorem Plant.reexamine_screens (p : Plant) : p.SameScreens p.reexamine :=
  Plant.reexamine_induct p.SameScreens (fun q _ same _ => same.trans (q.giveDemand_only _).screens) (.refl p)

theorem Plant.reexamineAfter_screens (was p : Plant) (n : Fin 6) : p.SameScreens (was.reexamineAfter p n) := by
  unfold Plant.reexamineAfter
  split
  · exact p.reexamine_screens
  · exact .refl p

theorem Plant.limitsChanged_screens (p : Plant) : p.SameScreens p.limitsChanged := by
  have withdrawn (l : List (Fin 6)) : p.SameScreens (l.foldl (fun q n => q.withdrawDemand n) p) :=
    foldl_screens _ (fun q n => (q.withdrawDemand_only n).screens) l p
  unfold Plant.limitsChanged
  dsimp only
  split
  · exact withdrawn _
  · exact (withdrawn _).trans (Plant.reexamine_screens _)

theorem Plant.putDesired_screens (p : Plant) (d : Nat) : p.SameScreens (p.putDesired d) := ⟨rfl, fun _ => rfl⟩

theorem Plant.evaluateDesired_screens (p : Plant) : p.SameScreens p.evaluateDesired := by
  unfold Plant.evaluateDesired Plant.setDesired
  dsimp only
  split
  · exact p.putDesired_screens _
  · split
    · exact ((p.putDesired_screens _).trans (Plant.lowerDemands_screens 6 _)).trans (Plant.raiseDemands_screens _ 6)
    · exact (p.putDesired_screens _).trans (Plant.raiseDemands_screens _ 6)

theorem Plant.evaluateDesired_alarms (p : Plant) : p.evaluateDesired.alarms = p.alarms := by
  unfold Plant.evaluateDesired Plant.setDesired
  dsimp only
  split
  · rfl
  · split
    · exact (Plant.raiseDemands_alarms 6 _).trans (Plant.lowerDemands_alarms 6 _)
    · exact Plant.raiseDemands_alarms 6 _

/-! The readings of a rake (R64). -/

/-- The rake shows the same readings. -/
structure Rake.SameReadings (r q : Rake) : Prop where
  counts       : q.counts = r.counts
  differential : q.differential = r.differential
  blinded      : q.blinded = r.blinded

/-- Each rake shows the same readings. -/
def Plant.SameReadings (p q : Plant) : Prop := ∀ n, (p.rake n).SameReadings (q.rake n)

theorem Plant.SameReadings.refl (p : Plant) : p.SameReadings p := fun _ => ⟨rfl, rfl, rfl⟩

theorem Plant.SameReadings.trans {p q r : Plant} (first : p.SameReadings q) (second : q.SameReadings r) : p.SameReadings r :=
  fun n => ⟨(second n).counts.trans (first n).counts, (second n).differential.trans (first n).differential,
    (second n).blinded.trans (first n).blinded⟩

theorem Plant.readings_of_rakes {p q : Plant} (same : ∀ n, q.rake n = p.rake n) : p.SameReadings q :=
  fun n => by rw [same n]; exact ⟨rfl, rfl, rfl⟩

theorem Plant.setRake_readings {p : Plant} {n : Fin 2} {r : Rake} (same : (p.rake n).SameReadings r) :
    p.SameReadings (p.setRake n r) := by
  intro m
  by_cases own : m = n
  · subst own
    rw [Plant.rake_setRake]
    exact same
  · rw [p.rake_setRake_ne own]
    exact ⟨rfl, rfl, rfl⟩

theorem Plant.setClaim_readings (p : Plant) (h : Fin 8) (c : Claim) : p.SameReadings (p.setClaim h c) :=
  Plant.readings_of_rakes fun _ => rfl

theorem Plant.append_readings (p : Plant) (a b : Byte) (d : List Byte) (u : Bool) : p.SameReadings (p.append a b d u) :=
  Plant.readings_of_rakes fun _ => rfl

theorem Plant.reverseRake_readings (p : Plant) (n : Fin 2) : p.SameReadings (p.reverseRake n) :=
  (Plant.setRake_readings (by exact ⟨rfl, rfl, rfl⟩)).trans (Plant.append_readings _ _ _ _ _)

theorem Plant.checkOverload_readings (p : Plant) (n : Fin 2) : p.SameReadings (p.checkOverload n) := by
  unfold Plant.checkOverload
  split
  · exact p.reverseRake_readings n
  · exact .refl p

theorem Plant.startRake_readings (p : Plant) (n : Fin 2) : p.SameReadings (p.startRake n) :=
  ((Plant.setRake_readings (by exact ⟨rfl, rfl, rfl⟩)).trans (Plant.append_readings _ _ _ _ _)).trans
    (Plant.checkOverload_readings _ n)

theorem Plant.endCycle_readings (p : Plant) (n : Fin 2) : p.SameReadings (p.endCycle n) :=
  ((p.append_readings _ _ _ _).trans (Plant.setClaim_readings _ _ _)).trans
    (Plant.setRake_readings (by exact ⟨rfl, rfl, rfl⟩))

theorem Plant.backInRaking_readings (p : Plant) (n : Fin 2) : p.SameReadings (p.backInRaking n) := by
  unfold Plant.backInRaking
  split
  · exact p.endCycle_readings n
  · exact p.checkOverload_readings n

theorem Plant.resumeRake_readings (p : Plant) (n : Fin 2) : p.SameReadings (p.resumeRake n) := by
  unfold Plant.resumeRake
  dsimp only
  split
  · exact (Plant.setRake_readings (by exact ⟨rfl, rfl, rfl⟩)).trans (Plant.append_readings _ _ _ _ _)
  · exact ((Plant.setRake_readings (by exact ⟨rfl, rfl, rfl⟩)).trans (Plant.append_readings _ _ _ _ _)).trans
      (Plant.backInRaking_readings _ n)

theorem Plant.grantRake_readings (p : Plant) (n : Fin 2) : p.SameReadings (p.grantRake n) := by
  have claimed := p.setClaim_readings (rakeHolder n) { p.claim (rakeHolder n) with status := .held }
  unfold Plant.grantRake
  dsimp only
  split
  · exact claimed.trans (Plant.startRake_readings _ n)
  · exact claimed.trans (Plant.resumeRake_readings _ n)
  all_goals exact .refl p

theorem Plant.triggerRake_readings (p : Plant) (n : Fin 2) (cause : Trigger) : p.SameReadings (p.triggerRake n cause) :=
  (Plant.setRake_readings (by exact ⟨rfl, rfl, rfl⟩)).trans (Plant.setClaim_readings _ _ _)

theorem Plant.suspendRakes_readings (p : Plant) : p.SameReadings p.suspendRakes :=
  foldl_rel Plant.SameReadings .refl (fun _ _ _ => .trans) _
    (fun _ _ => ((Plant.setRake_readings (by exact ⟨rfl, rfl, rfl⟩)).trans (Plant.setClaim_readings _ _ _)).trans
      (Plant.append_readings _ _ _ _ _)) _ _

/-- The end of an event moves no reading. -/
theorem Plant.concludeAfter_readings (p : Plant) (views : List Plant) : p.SameReadings (p.concludeAfter views) := by
  refine Plant.concludeAfter_induct p.SameReadings (fun q r _ units same => same.trans (Plant.readings_of_rakes units.rake))
    (fun q r same round => same.trans ?_) p views (.refl p)
  rcases Plant.serveOnce_cases round with ⟨m, -, -, rfl⟩ | ⟨m, -, rfl⟩ | ⟨m, -, -, rfl⟩ | ⟨m, -, -, rfl⟩ | ⟨m, -, rfl⟩
  · exact Plant.readings_of_rakes fun n => congrArg (Vector.get · n) (q.startPump_rakes m)
  · exact q.suspendRakes_readings
  · exact q.setClaim_readings _ _
  · exact q.grantRake_readings m
  · exact q.triggerRake_readings m .storm

theorem Plant.stormRecompute_readings (p : Plant) : p.SameReadings p.stormRecompute := by
  by_cases changed : (p.mode.wetWell || p.mode.overflow || p.mode.floatHigh) = p.mode.storm
  · rw [Plant.stormRecompute_of_posture changed.symm]
    exact .refl p
  · rw [Plant.stormRecompute_changed changed]
    have told : p.SameReadings (p.stormTold (p.mode.wetWell || p.mode.overflow || p.mode.floatHigh)).limitsChanged :=
      Plant.readings_of_rakes (Plant.limitsChanged_screens _).rake
    refine told.trans (foldl_rel Plant.SameReadings .refl (fun _ _ _ => .trans) _ (fun q n => ?_) _ _)
    unfold Plant.standingTrigger
    split
    · exact q.triggerRake_readings n _
    · exact .refl q

theorem Plant.hand_readings (p : Plant) (k : Fin 40) (b : Bool) : p.SameReadings (p.hand k b) :=
  Plant.readings_of_rakes (p.hand_units k b).rake

/-! A weir within an event. -/

/-- What the weirs' acts do in a relation that holds of each of their parts. -/
structure Plant.WeirClosed (R : Plant → Plant → Prop) (n : Fin 3) : Prop where
  refl : ∀ p, R p p
  trans : ∀ p q r, R p q → R q r → R p r
  set : ∀ p w, R p (p.setWeir n w)
  append : ∀ (p : Plant) a b d u, R p (p.append a b d u)
  hand : ∀ (p : Plant) b, R p (p.hand (overflowPoint n) b)
  overflow : ∀ p : Plant, R p p.evaluateOverflow

section
variable {R : Plant → Plant → Prop} {n : Fin 3}

theorem Plant.WeirClosed.openRecord (closed : Plant.WeirClosed R n) (p : Plant) : R p (p.openRecord n) :=
  closed.trans _ _ _ (closed.set p _) (closed.trans _ _ _ (closed.append _ _ _ _ _)
    (closed.trans _ _ _ (closed.hand _ true) (closed.overflow _)))

theorem Plant.WeirClosed.closeRecord (closed : Plant.WeirClosed R n) (p : Plant) : R p (p.closeRecord n) := by
  unfold Plant.closeRecord
  dsimp only
  split
  · exact closed.set p _
  · exact closed.trans _ _ _ (closed.set p _) (closed.trans _ _ _ (closed.append _ _ _ _ _)
      (closed.trans _ _ _ (closed.hand _ false) (closed.overflow _)))

theorem Plant.WeirClosed.enterRising (closed : Plant.WeirClosed R n) (p : Plant) : R p (p.enterRising n) := by
  unfold Plant.enterRising
  dsimp only
  split
  · exact closed.trans _ _ _ (closed.set p _) (closed.openRecord _)
  · exact closed.set p _

theorem Plant.WeirClosed.enterFalling (closed : Plant.WeirClosed R n) (p : Plant) : R p (p.enterFalling n) := by
  unfold Plant.enterFalling
  dsimp only
  split
  · exact closed.trans _ _ _ (closed.set p _) (closed.closeRecord _)
  · exact closed.set p _

theorem Plant.WeirClosed.weirGood (closed : Plant.WeirClosed R n) (p : Plant) (v : Nat) : R p (p.weirGood n v) := by
  unfold Plant.weirGood
  dsimp only
  split
  · split
    · exact closed.trans _ _ _ (closed.set p _) (closed.enterRising _)
    · exact closed.set p _
  · split <;> exact closed.set p _
  · split
    · exact closed.trans _ _ _ (closed.set p _) (closed.enterFalling _)
    · exact closed.set p _
  · split <;> exact closed.set p _

theorem Plant.WeirClosed.weirFault (closed : Plant.WeirClosed R n) (p : Plant) : R p (p.weirFault n) := by
  unfold Plant.weirFault
  dsimp only
  split
  · exact closed.refl p
  all_goals exact closed.set p _

theorem Plant.WeirClosed.weirLevel (closed : Plant.WeirClosed R n) (p : Plant) : R p (p.weirLevel n) := by
  unfold Plant.weirLevel
  dsimp only
  split
  · have delivered : R p (p.deliverWeir n) := closed.set p _
    split
    · exact closed.trans _ _ _ delivered (closed.weirGood _ _)
    · exact closed.trans _ _ _ delivered (closed.weirFault _)
  · exact closed.refl p

end

theorem Plant.weirLevel_absent {p : Plant} {n : Fin 3} (absent : p.weirPresent n ≠ true) : p.weirLevel n = p := if_neg absent

/-- A weir leaves its fellows alone. -/
theorem Plant.weirLevel_others (p : Plant) {n m : Fin 3} (other : m ≠ n) : (p.weirLevel n).weir m = p.weir m :=
  (Plant.WeirClosed.weirLevel (R := fun p q => q.weir m = p.weir m)
    { refl := fun _ => rfl
      trans := fun _ _ _ first second => second.trans first
      set := fun p w => p.weir_setWeir_ne other.symm w
      append := fun _ _ _ _ _ => rfl
      hand := fun p b => congrArg (Vector.get · m) (p.hand_kept _ b).acts.inputs.weirs
      overflow := fun p => congrArg (Vector.get · m) p.evaluateOverflow_facts.2.2.2.1 } p)

theorem Plant.weirLevel_readings (p : Plant) (n : Fin 3) : p.SameReadings (p.weirLevel n) :=
  Plant.WeirClosed.weirLevel
    { refl := .refl
      trans := fun _ _ _ => .trans
      set := fun _ _ => Plant.readings_of_rakes fun _ => rfl
      append := fun p => p.append_readings
      hand := fun p => p.hand_readings _
      overflow := fun p => Plant.SameReadings.trans (q := p.overflowTaken) (Plant.readings_of_rakes fun _ => rfl)
        (Plant.stormRecompute_readings _) } p

theorem Plant.weirLevel_point (p : Plant) {n : Fin 3} {j : Fin 40} (other : j ≠ overflowPoint n) :
    (p.weirLevel n).alarms.points.get j = p.alarms.points.get j :=
  Plant.WeirClosed.weirLevel (R := fun p q => q.alarms.points.get j = p.alarms.points.get j)
    { refl := fun _ => rfl
      trans := fun _ _ _ first second => second.trans first
      set := fun _ _ => rfl
      append := fun _ _ _ _ _ => rfl
      hand := fun p b => p.hand_point_ne other b
      overflow := fun p => congrArg (fun a => a.points.get j) p.evaluateOverflow_facts.2.2.2.2.1 } p

/-- With its channel in FAULT a weir sets itself alone (R82). -/
theorem Plant.weirLevel_blind {p : Plant} {n : Fin 3} (blind : (p.levels.channels.get (weirChannel n)).state ≠ .good) :
    p.weirLevel n = p.setWeir n ((p.weirLevel n).weir n) := by
  by_cases present : p.weirPresent n = true
  · rw [Plant.weirLevel_fault present blind]
    unfold Plant.weirFault
    dsimp only
    rw [Plant.weir_setWeir]
    split
    · rw [Plant.weir_setWeir]
    all_goals rw [Plant.setWeir_setWeir, Plant.weir_setWeir]
  · rw [Plant.weirLevel_absent present, Plant.setWeir_self]

/-! A weir looks at the clock, the levels, the settings and itself alone. -/

/-- Weir `n` and all that it looks at are the same. -/
structure Plant.SeesAlike (n : Fin 3) (p q : Plant) : Prop where
  clock    : q.clock = p.clock
  levels   : q.levels = p.levels
  sections : q.sections = p.sections
  weir     : q.weir n = p.weir n

section
variable {p q : Plant} {n : Fin 3}

theorem Plant.SeesAlike.reads {α : Type} (alike : Plant.SeesAlike n p q) (f : Plant → α)
    (reads : ∀ p : Plant, f p = f { Plant.reset with sections := p.sections }) : f q = f p := by
  rw [reads q, reads p, alike.sections]

theorem Plant.SeesAlike.set (alike : Plant.SeesAlike n p q) (w : Weir) : Plant.SeesAlike n (p.setWeir n w) (q.setWeir n w) :=
  ⟨alike.clock, alike.levels, alike.sections, by rw [Plant.weir_setWeir, Plant.weir_setWeir]⟩

theorem Plant.SeesAlike.openRecord (alike : Plant.SeesAlike n p q) : (q.openRecord n).weir n = (p.openRecord n).weir n := by
  rw [(q.openRecord_facts n).2.2.2.1, (p.openRecord_facts n).2.2.2.1]
  unfold Plant.overflowingWeir Plant.newRecord
  rw [alike.weir, alike.clock]

theorem Plant.SeesAlike.closeRecord (alike : Plant.SeesAlike n p q) : (q.closeRecord n).weir n = (p.closeRecord n).weir n := by
  cases opened : (p.weir n).openRecord with
  | none =>
    unfold Plant.closeRecord
    dsimp only
    rw [alike.weir, opened]
    exact (Plant.weir_setWeir _ n _).trans (Plant.weir_setWeir _ n _).symm
  | some r =>
    rw [(Plant.closeRecord_facts (p := q) (alike.weir ▸ opened)).2.2.2.1, (Plant.closeRecord_facts opened).2.2.2.1]
    unfold Plant.endedWeir Plant.closedRecord
    rw [alike.weir, alike.clock]

theorem Plant.SeesAlike.enterRising (alike : Plant.SeesAlike n p q) : (q.enterRising n).weir n = (p.enterRising n).weir n := by
  have time : q.startConfirmTime n = p.startConfirmTime n := alike.reads (fun p => p.startConfirmTime n) fun _ => rfl
  unfold Plant.enterRising
  dsimp only
  rw [alike.weir, time]
  split
  · exact (alike.set _).openRecord
  · exact (alike.set _).weir

theorem Plant.SeesAlike.enterFalling (alike : Plant.SeesAlike n p q) : (q.enterFalling n).weir n = (p.enterFalling n).weir n := by
  have time : q.endConfirmTime n = p.endConfirmTime n := alike.reads (fun p => p.endConfirmTime n) fun _ => rfl
  unfold Plant.enterFalling
  dsimp only
  rw [alike.weir, time]
  split
  · exact (alike.set _).closeRecord
  · exact (alike.set _).weir

theorem Plant.SeesAlike.weirGood (alike : Plant.SeesAlike n p q) (v : Nat) : (q.weirGood n v).weir n = (p.weirGood n v).weir n := by
  have crest : q.crest n = p.crest n := alike.reads (fun p => p.crest n) fun _ => rfl
  have margin : q.startMargin n = p.startMargin n := alike.reads (fun p => p.startMargin n) fun _ => rfl
  have heeded : q.heededWeir n v = p.heededWeir n v := by
    unfold Plant.heededWeir
    rw [alike.weir, alike.clock]
  cases state : (p.weir n).state with
  | normal =>
    rw [Plant.weirGood_normal state, Plant.weirGood_normal (alike.weir ▸ state)]
    dsimp only
    rw [heeded, crest, margin]
    split
    · exact (alike.set _).enterRising
    · exact (alike.set _).weir
  | rising =>
    rw [Plant.weirGood_rising state, Plant.weirGood_rising (alike.weir ▸ state), heeded, crest, margin]
    split <;> exact (alike.set _).weir
  | overflowing =>
    rw [Plant.weirGood_overflowing state, Plant.weirGood_overflowing (alike.weir ▸ state), heeded, crest]
    split
    · exact (alike.set _).enterFalling
    · exact (alike.set _).weir
  | falling =>
    rw [Plant.weirGood_falling state, Plant.weirGood_falling (alike.weir ▸ state), heeded, crest]
    split <;> exact (alike.set _).weir

theorem Plant.SeesAlike.weirFault (alike : Plant.SeesAlike n p q) : (q.weirFault n).weir n = (p.weirFault n).weir n := by
  unfold Plant.weirFault
  dsimp only
  rw [alike.weir]
  split
  · exact alike.weir
  all_goals exact (alike.set _).weir

theorem Plant.SeesAlike.weirLevel (alike : Plant.SeesAlike n p q) : (q.weirLevel n).weir n = (p.weirLevel n).weir n := by
  have present : q.weirPresent n = p.weirPresent n := alike.reads (fun p => p.weirPresent n) fun _ => rfl
  have delivered : q.deliveredWeir n = p.deliveredWeir n := by
    unfold Plant.deliveredWeir
    rw [alike.weir, alike.levels]
  unfold Plant.weirLevel
  dsimp only
  rw [present, Plant.deliverWeir_eq, Plant.deliverWeir_eq, Plant.weir_setWeir, Plant.weir_setWeir, delivered]
  split
  · split
    · exact (alike.set _).weirGood _
    · exact (alike.set _).weirFault
  · exact alike.weir

end

end Sys2Proof.Machine
end

section
/-! A failed scan (R6, R7, R12): O20. -/

namespace Sys2Proof.Machine

/-! What the level unit hands (R11). -/

/-- Of conditions that nothing handed moves, each stays at its own point. -/
theorem foldl_hand_condition {α : Type} (members : List α) (point : α → Fin 40) (c : α → Plant → Bool)
    (apart : ∀ a b, point a = point b → a = b) (stays : ∀ p q : Plant, p.Kept q → ∀ a, c a q = c a p) :
    ∀ p : Plant, p.loading = false → ∀ a ∈ members,
      ((members.foldl (fun q n => q.hand (point n) (c n q)) p).alarms.points.get (point a)).condition = c a p := by
  classical
  induction members with
  | nil => intro p _ a mem; cases mem
  | cons b rest ih =>
    intro p running a mem
    have kept := p.hand_kept (point b) (c b p)
    by_cases later : a ∈ rest
    · exact (ih _ (kept.loading.trans running) a later).trans (stays _ _ kept a)
    · obtain rfl : a = b := (List.mem_cons.mp mem).resolve_right later
      have untouched : ∀ (l : List α) (q : Plant), a ∉ l →
          (l.foldl (fun q n => q.hand (point n) (c n q)) q).alarms.points.get (point a) = q.alarms.points.get (point a) := by
        intro l
        induction l with
        | nil => exact fun _ _ => rfl
        | cons d l ih' =>
          intro q absent
          obtain ⟨other, absent⟩ := not_or.mp (fun h => absent (List.mem_cons.mpr h))
          exact (ih' _ absent).trans (q.hand_point_ne (fun same => other (apart _ _ same)) _)
      rw [List.foldl_cons, untouched rest _ later, Plant.hand_condition running]

theorem channelPoint_inj (c d : Fin 8) (same : channelPoint c = channelPoint d) : c = d :=
  Fin.ext (Nat.add_left_cancel (Fin.mk.inj same))

/-- R11: the level unit leaves its conditions announced. -/
theorem Plant.handLevels_announced {p : Plant} (running : p.loading = false) :
    (∀ c, (p.handLevels.alarms.points.get (channelPoint c)).condition = p.channelCondition c) ∧
      (p.handLevels.alarms.points.get 29).condition = p.converterCondition := by
  have kept := foldl_kept _ (fun (q : Plant) c => q.hand_kept (channelPoint c) (q.channelCondition c)) allChannels p
  have low (c : Fin 8) : channelPoint c ≠ 29 := by revert c; decide
  have handed := foldl_hand_condition allChannels channelPoint (fun c q => q.channelCondition c) channelPoint_inj
    (fun p q kept c => by unfold Plant.channelCondition; rw [kept.acts.inputs.levels]) p running
  unfold Plant.handLevels
  dsimp only
  generalize allChannels.foldl (fun q c => q.hand (channelPoint c) (q.channelCondition c)) p = q at kept handed
  refine ⟨fun c => ?_, ?_⟩
  · rw [q.hand_point_ne (low c)]
    exact handed c (mem_allChannels c)
  · rw [Plant.hand_condition (kept.loading.trans running)]
    unfold Plant.converterCondition
    rw [kept.acts.inputs.levels]

/-- In LOAD nothing is handed (R105). -/
theorem Plant.hand_loading {p : Plant} (loading : p.loading = true) (k : Fin 40) (b : Bool) : p.hand k b = p :=
  if_pos (by rw [loading]; rfl)

theorem Plant.handLevels_loading {p : Plant} (loading : p.loading = true) : p.handLevels = p := by
  have still : ∀ l : List (Fin 8), l.foldl (fun (q : Plant) c => q.hand (channelPoint c) (q.channelCondition c)) p = p := by
    intro l
    induction l with
    | nil => rfl
    | cons c rest ih => rwa [List.foldl_cons, Plant.hand_loading loading]
  unfold Plant.handLevels
  dsimp only
  rw [still, Plant.hand_loading loading]

/-! The level-updated event with every channel in FAULT (R7, R12). -/

/-- No channel is GOOD. -/
def Plant.Blind (p : Plant) : Prop := ∀ c, (p.levels.channels.get c).state ≠ .good

/-- The rakes, their differentials no longer counted (R64). -/
def Plant.uncounted (p : Plant) (n : Fin 2) : Plant := p.setRake n { p.rake n with counts := false }

theorem Plant.wetWellNow_blind {p : Plant} (blind : p.Blind) : p.wetWellNow = p.mode.wetWell := by
  unfold Plant.wetWellNow
  dsimp only
  split
  case h_1 good _ => exact absurd good (blind 0)
  case h_2 => rfl

theorem Plant.evaluateWetWell_blind {p : Plant} (blind : p.Blind) : p.evaluateWetWell = p :=
  if_pos (Plant.wetWellNow_blind blind)

theorem Plant.differentialNow_blind {p : Plant} (n : Fin 2) (blind : (p.levels.channels.get (upstreamChannel n)).state ≠ .good ∨
    (p.levels.channels.get (downstreamChannel n)).state ≠ .good) : p.differentialNow n = none := by
  unfold Plant.differentialNow
  dsimp only
  split
  case h_1 up _ down _ => exact blind.elim (fun other => absurd up other) fun other => absurd down other
  case h_2 => rfl

theorem Plant.rakeLevel_blind {p : Plant} (n : Fin 2) (blind : (p.levels.channels.get (upstreamChannel n)).state ≠ .good ∨
    (p.levels.channels.get (downstreamChannel n)).state ≠ .good) : p.rakeLevel n = p.uncounted n := by
  have taken : p.takeDifferential n = p.uncounted n := by
    unfold Plant.takeDifferential
    dsimp only
    rw [Plant.differentialNow_blind n blind]
    rfl
  have quiet : (p.uncounted n).diffTriggers n = false := by
    unfold Plant.diffTriggers Plant.uncounted
    rw [Plant.rake_setRake, Bool.and_false, Bool.false_and]
  unfold Plant.rakeLevel
  dsimp only
  rw [taken, if_neg (by rw [quiet]; exact Bool.false_ne_true)]

/-! The weirs in their order (R78). -/

/-- The weirs take the event. -/
def Plant.weirsLevel (p : Plant) : Plant := ((p.weirLevel 0).weirLevel 1).weirLevel 2

/-- The weirs' acts move storm posture and what follows from it, and else no input but the weirs. -/
structure Plant.WeirActs (p q : Plant) : Prop where
  clock     : q.clock = p.clock
  levels    : q.levels = p.levels
  sections  : q.sections = p.sections
  raw       : q.lines.raw = p.lines.raw
  debounced : q.lines.debounced = p.lines.debounced
  stability : q.lines.stability = p.lines.stability
  desired   : q.desired = p.desired
  mode      : q.mode = { p.mode with overflow := q.mode.overflow, storm := q.mode.storm }
  out       : ∃ more, q.out = p.out ++ more

theorem Plant.WeirActs.trans {p q r : Plant} (first : p.WeirActs q) (second : q.WeirActs r) : p.WeirActs r where
  clock := second.clock.trans first.clock
  levels := second.levels.trans first.levels
  sections := second.sections.trans first.sections
  raw := second.raw.trans first.raw
  debounced := second.debounced.trans first.debounced
  stability := second.stability.trans first.stability
  desired := second.desired.trans first.desired
  mode := by rw [second.mode, first.mode]
  out := by
    obtain ⟨more, out⟩ := first.out
    obtain ⟨more', out'⟩ := second.out
    exact ⟨more ++ more', by rw [out', out, List.append_assoc]⟩

theorem Plant.Kept.weirActs {p q : Plant} (kept : p.Kept q) : p.WeirActs q where
  clock := kept.acts.inputs.clock
  levels := kept.acts.inputs.levels
  sections := kept.acts.inputs.sections
  raw := kept.acts.inputs.raw
  debounced := kept.acts.inputs.debounced
  stability := kept.acts.inputs.stability
  desired := kept.2.desired
  mode := by rw [kept.acts.inputs.mode]
  out := kept.1.2

theorem Plant.evaluateOverflow_eq (p : Plant) : p.evaluateOverflow = p.overflowTaken.stormRecompute := rfl

theorem Plant.overflowTaken_senses (p : Plant) : p.Senses p.overflowTaken :=
  ⟨⟨rfl, rfl, rfl, rfl, rfl, rfl, rfl, rfl⟩, [], (List.append_nil _).symm⟩

theorem Plant.evaluateOverflow_weirActs (p : Plant) : p.WeirActs p.evaluateOverflow := by
  have mode := p.evaluateOverflow_facts.2.2.2.2.2.1
  have desired : p.overflowTaken.desired = p.desired := rfl
  have senses := p.overflowTaken_senses.trans p.overflowTaken.stormRecompute_senses
  rw [← Plant.stormRecompute_desired, ← Plant.evaluateOverflow_eq] at desired
  rw [← Plant.evaluateOverflow_eq] at senses
  obtain ⟨⟨clock, levels, -, -, sections, raw, debounced, stability⟩, out⟩ := senses
  exact ⟨clock, levels, sections, raw, debounced, stability, desired, by rw [mode], out⟩

theorem Plant.weirLevel_acts (p : Plant) (n : Fin 3) : p.WeirActs (p.weirLevel n) :=
  Plant.WeirClosed.weirLevel
    { refl := fun p => (Plant.Kept.refl p).weirActs
      trans := fun _ _ _ => .trans
      set := fun _ _ => ⟨rfl, rfl, rfl, rfl, rfl, rfl, rfl, rfl, [], (List.append_nil _).symm⟩
      append := fun p a b d u => (p.append_kept a b d u).weirActs
      hand := fun p b => (p.hand_kept _ b).weirActs
      overflow := Plant.evaluateOverflow_weirActs } p

theorem Plant.weirsLevel_acts (p : Plant) : p.WeirActs p.weirsLevel :=
  ((p.weirLevel_acts 0).trans (Plant.weirLevel_acts _ 1)).trans (Plant.weirLevel_acts _ 2)

theorem Plant.weirsLevel_readings (p : Plant) : p.SameReadings p.weirsLevel :=
  ((p.weirLevel_readings 0).trans (Plant.weirLevel_readings _ 1)).trans (Plant.weirLevel_readings _ 2)

theorem Plant.weirsLevel_point (p : Plant) {j : Fin 40} (other : ∀ n, j ≠ overflowPoint n) :
    p.weirsLevel.alarms.points.get j = p.alarms.points.get j := by
  unfold Plant.weirsLevel
  rw [Plant.weirLevel_point _ (other 2), Plant.weirLevel_point _ (other 1), Plant.weirLevel_point _ (other 0)]

theorem Plant.WeirActs.alike {p q : Plant} (acts : p.WeirActs q) {n : Fin 3} (weir : q.weir n = p.weir n) :
    Plant.SeesAlike n p q := ⟨acts.clock, acts.levels, acts.sections, weir⟩

/-- Each weir judges the event as it stood before it (R78). -/
theorem Plant.weirsLevel_weir (p : Plant) : ∀ n, p.weirsLevel.weir n = (p.weirLevel n).weir n
  | 0 => (Plant.weirLevel_others _ (by decide)).trans (Plant.weirLevel_others _ (by decide))
  | 1 => (Plant.weirLevel_others _ (by decide)).trans
      ((p.weirLevel_acts 0).alike (p.weirLevel_others (by decide))).weirLevel
  | 2 => (((p.weirLevel_acts 0).trans (Plant.weirLevel_acts _ 1)).alike
      ((Plant.weirLevel_others _ (by decide)).trans (p.weirLevel_others (by decide)))).weirLevel

theorem Plant.weirsLevel_blind {p : Plant} (blind : p.Blind) : ∃ weirs, p.weirsLevel = { p with weirs := weirs } := by
  have second : (p.weirLevel 0).weirLevel 1 = (p.weirLevel 0).setWeir 1 (((p.weirLevel 0).weirLevel 1).weir 1) :=
    Plant.weirLevel_blind (by rw [(p.weirLevel_acts 0).levels]; exact blind _)
  have third : p.weirsLevel = ((p.weirLevel 0).weirLevel 1).setWeir 2 (p.weirsLevel.weir 2) :=
    Plant.weirLevel_blind (by rw [((p.weirLevel_acts 0).trans (Plant.weirLevel_acts _ 1)).levels]; exact blind _)
  rw [third, second, Plant.weirLevel_blind (blind _)]
  exact ⟨_, rfl⟩

/-! The event as a whole. -/

/-- The rakes take the event. -/
def Plant.rakesLevel (p : Plant) : Plant := (p.rakeLevel 0).rakeLevel 1

theorem Plant.levelUpdated_loading {p : Plant} (loading : p.loading = true) : p.levelUpdated = p := if_pos loading

theorem Plant.rakesLevel_eq (p : Plant) : allRakes.foldl (fun q n => q.rakeLevel n) p = p.rakesLevel := rfl

/-- R12: the consumers take a level-updated event in their order. -/
theorem Plant.levelUpdated_running {p : Plant} (running : p.loading = false) :
    ∃ views, p.levelUpdated = p.evaluateWetWell.evaluateDesired.rakesLevel.weirsLevel.concludeAfter views := by
  unfold Plant.levelUpdated
  rw [running, if_neg Bool.false_ne_true]
  dsimp only
  rw [Plant.rakesLevel_eq]
  exact ⟨_, rfl⟩

/-- With nothing to serve the end of an event leaves the units as they are. -/
theorem Plant.Calm.stillAfter {p : Plant} (calm : p.Calm) (views : List Plant) : p.SameUnits (p.concludeAfter views) := by
  cases running : p.loading with
  | true => rw [show p.concludeAfter views = p from if_pos running]; exact .refl p
  | false =>
    rw [Plant.concludeAfter_running running, Plant.serve_none calm.serveOnce]
    exact (Plant.handPumps_units _ _).trans (Plant.handRakes_units _ _)

/-- What a level-updated event with every channel in FAULT leaves. -/
structure Plant.Blinded (p q : Plant) : Prop where
  clock     : q.clock = p.clock
  levels    : q.levels = p.levels
  sections  : q.sections = p.sections
  mode      : q.mode = p.mode
  raw       : q.lines.raw = p.lines.raw
  debounced : q.lines.debounced = p.lines.debounced
  stability : q.lines.stability = p.lines.stability
  out       : ∃ more, q.out = p.out ++ more
  desired   : q.desired = p.desiredNow
  readings  : ∀ n, (q.rake n).counts = false ∧ (q.rake n).differential = (p.rake n).differential ∧
    (q.rake n).blinded = (p.rake n).blinded
  weirs     : ∀ n, q.weir n = (p.weirLevel n).weir n
  points    : ∀ j : Fin 40, 21 ≤ j.val → j.val < 30 → q.alarms.points.get j = p.alarms.points.get j
  calm      : p.Calm → p.mode.mode = .auto ∨ p.desiredNow = p.desired →
    (∀ n, q.rake n = { p.rake n with counts := false }) ∧ q.pumps = p.pumps ∧ q.claims = p.claims ∧ q.queue = p.queue ∧
      q.stagger = p.stagger ∧ q.rotation = p.rotation ∧ q.shadow = p.shadow ∧ q.corr = p.corr

theorem Plant.uncounted_rake (p : Plant) : ∀ n, ((p.uncounted 0).uncounted 1).rake n = { p.rake n with counts := false } := by
  have kept {m k : Fin 2} (q : Plant) (other : m ≠ k) : (q.uncounted k).rake m = q.rake m := q.rake_setRake_ne other _
  have own (k : Fin 2) (q : Plant) : (q.uncounted k).rake k = { q.rake k with counts := false } := q.rake_setRake k _
  intro n
  match n with
  | 0 => rw [kept _ (by decide), own]
  | 1 => rw [own, kept _ (by decide)]

theorem Plant.levelUpdated_blinded {p : Plant} (running : p.loading = false) (blind : p.Blind) : p.Blinded p.levelUpdated := by
  obtain ⟨views, event⟩ := Plant.levelUpdated_running running
  have acts := p.evaluateDesired_acts
  have desired := p.evaluateDesired_desired
  have screens := p.evaluateDesired_screens
  have alarms := p.evaluateDesired_alarms
  have auto (still : p.mode.mode = .auto ∨ p.desiredNow = p.desired) : p.evaluateDesired = p.putDesired p.desiredNow := by
    refine if_pos ?_
    rw [Bool.or_eq_true, decide_eq_true_iff]
    refine still.symm.imp id fun auto => ?_
    unfold Plant.inLocal
    rw [auto]
    rfl
  rw [Plant.evaluateWetWell_blind blind] at event
  generalize isQ : p.evaluateDesired = q at acts desired screens alarms auto event
  have blindQ : q.Blind := by
    intro c
    rw [acts.inputs.levels]
    exact blind c
  have rakes : q.rakesLevel = (q.uncounted 0).uncounted 1 := by
    unfold Plant.rakesLevel
    rw [q.rakeLevel_blind 0 (.inl (blindQ _)), (q.uncounted 0).rakeLevel_blind 1 (.inl (blindQ _))]
  rw [rakes] at event
  have uncounted := q.uncounted_rake
  obtain ⟨weirs, weirsSet⟩ := Plant.weirsLevel_blind (p := (q.uncounted 0).uncounted 1) blindQ
  have judged := ((q.uncounted 0).uncounted 1).weirsLevel_weir
  rw [weirsSet] at event judged
  have kept := Plant.concludeAfter_kept { (q.uncounted 0).uncounted 1 with weirs := weirs } views
  have inputs := kept.acts.inputs
  rw [event]
  exact
    { clock := inputs.clock.trans acts.inputs.clock
      levels := inputs.levels.trans acts.inputs.levels
      sections := inputs.sections.trans acts.inputs.sections
      mode := inputs.mode.trans acts.inputs.mode
      raw := inputs.raw.trans acts.inputs.raw
      debounced := inputs.debounced.trans acts.inputs.debounced
      stability := inputs.stability.trans acts.inputs.stability
      out := by
        obtain ⟨more, out⟩ := acts.2
        obtain ⟨more', out'⟩ := kept.1.2
        refine ⟨more ++ more', out'.trans ?_⟩
        show q.out ++ more' = _
        rw [out, List.append_assoc]
      desired := kept.2.desired.trans desired
      readings := fun n => by
        obtain ⟨counts, differential, blinded⟩ := Plant.concludeAfter_readings
          { (q.uncounted 0).uncounted 1 with weirs := weirs } views n
        have rake : Plant.rake { (q.uncounted 0).uncounted 1 with weirs := weirs } n = { p.rake n with counts := false } := by
          rw [← screens.rake n]
          exact uncounted n
        rw [counts, differential, blinded, rake]
        exact ⟨rfl, rfl, rfl⟩
      weirs := fun n => by
        rw [show Plant.weir (Plant.concludeAfter _ views) n = _ from congrArg (Vector.get · n) inputs.weirs]
        refine (judged n).trans (Plant.SeesAlike.weirLevel ⟨acts.inputs.clock, acts.inputs.levels, acts.inputs.sections, ?_⟩)
        exact congrArg (Vector.get · n) acts.inputs.weirs
      points := fun j low high => by
        rw [Plant.concludeAfter_point _ views]
        · exact congrArg (fun a => a.points.get j) alarms
        · revert j; decide
      calm := fun calm still => by
        have set := auto still
        obtain ⟨pumps, rakes, claims, queue, stagger⟩ := Plant.Calm.stillAfter
          (p := { (q.uncounted 0).uncounted 1 with weirs := weirs })
          (by subst set; exact ⟨calm.queue, calm.claims, calm.storm⟩) views
        refine ⟨fun n => ?_, ?_⟩
        · rw [← screens.rake n]
          exact (congrArg (Vector.get · n) rakes).trans (uncounted n)
        · rw [pumps, claims, queue, stagger, kept.2.rotation, kept.2.shadow, kept.2.corr, set]
          exact ⟨rfl, rfl, rfl, rfl, rfl, rfl, rfl⟩ }

/-! A failed scan (R6, R7). -/

/-- The level unit after a failed scan that is not the third in a row (R7). -/
def LevelUnit.counted (l : LevelUnit) : LevelUnit := { l with scan := none, failCount := min (l.failCount + 1) 255 }

/-- The level unit after the third failed scan in a row (R7). -/
def LevelUnit.converterFailed (l : LevelUnit) : LevelUnit := { l.counted with channels := l.channels.map Channel.converterFail }

theorem Plant.scanFailed_eq (p : Plant) : p.scanFailed =
    if p.levels.failCount = 2 then ({ p with levels := p.levels.converterFailed } : Plant).handLevels.levelUpdated
    else { p with levels := p.levels.counted } := by
  have count : (if p.levels.failCount < 255 then p.levels.failCount + 1 else 255) = min (p.levels.failCount + 1) 255 := by
    split <;> omega
  unfold Plant.scanFailed
  dsimp only
  rw [count]
  by_cases third : p.levels.failCount = 2
  · rw [if_pos third, if_pos (by rw [third]; rfl)]
    rfl
  · rw [if_neg third, if_neg (by omega)]
    rfl

theorem Channel.converterFail_good {x : Channel} (good : x.state = .good) :
    x.converterFail = { x with state := .fault .converter, stale := true, ring := [], goodCount := 0 } := by
  unfold Channel.converterFail
  rw [good]

theorem Channel.converterFail_fault {x : Channel} (fault : x.state ≠ .good) :
    x.converterFail = { x with ring := [], goodCount := 0 } := by
  unfold Channel.converterFail
  split
  case h_1 good => exact absurd good fault
  case h_2 => rfl

theorem Channel.converterFail_state (x : Channel) : x.converterFail.state ≠ .good := by
  by_cases good : x.state = .good
  · rw [Channel.converterFail_good good]
    exact ChannelState.noConfusion
  · rw [Channel.converterFail_fault good]
    exact good

theorem LevelUnit.converterFailed_channel (l : LevelUnit) (c : Fin 8) :
    l.converterFailed.channels.get c = (l.channels.get c).converterFail := by
  show (l.channels.map Channel.converterFail)[c.val] = _
  exact Vector.getElem_map _ _

/-- R6: a scan fails by a bad reply or by none. -/
theorem failedScan_run {s : State} {c : Instr} {x : Scan} (scan : s.plant.levels.scan = some x)
    (fails : c = .exchangeTimeout ∧ x.timer = .running 0 ∨ ∃ reply : Word, c = .exchangeReply reply ∧
      (reply.getLsbD 15 = false ∨ (reply.extractLsb' 12 3).toNat ≠ x.codes.length)) :
    exec c s = .next (finish s (s.onPlant Plant.scanFailed)) := by
  rcases fails with ⟨rfl, due⟩ | ⟨reply, rfl, bad⟩
  · have due' : s.plant.exchangeDue = true := by
      unfold Plant.exchangeDue
      rw [scan]
      show x.timer.due = true
      rw [due]
      rfl
    exact congrArg Host.Outcome.next (if_pos due')
  · have refused : replyGood reply x.channel = false := by
      unfold replyGood Scan.channel
      rw [Bool.and_eq_false_iff, beq_eq_false_iff_ne]
      exact bad
    have taken : s.plant.takeReply reply = s.plant.scanFailed := by
      unfold Plant.takeReply
      rw [scan]
      dsimp only
      rw [refused, if_neg Bool.false_ne_true]
    have same : s.onPlant (fun p => p.takeReply reply) = s.onPlant Plant.scanFailed := congrArg s.withPlant taken
    exact congrArg (fun t => Host.Outcome.next (finish s t)) same

/-- The plant after the third failed scan in a row, before its conditions are handed (R7). -/
def Plant.converterFailed (p : Plant) : Plant := { p with levels := p.levels.converterFailed }

theorem Plant.converterFailed_blind (p : Plant) : p.converterFailed.Blind := by
  intro c
  show (p.levels.converterFailed.channels.get c).state ≠ .good
  rw [LevelUnit.converterFailed_channel]
  exact Channel.converterFail_state _

/-- R7, R12: outside LOAD the third failed scan in a row leads to the level-updated event of the blinded plant. -/
theorem Plant.converterFailed_blinded {p : Plant} (running : p.loading = false) :
    let h := p.converterFailed.handLevels
    h.Blinded h.levelUpdated ∧ p.converterFailed.Kept h ∧ p.converterFailed.SameUnits h ∧
      (∀ c, (h.levelUpdated.alarms.points.get (channelPoint c)).condition =
        ((p.levels.converterFailed.channels.get c).state == .fault .badSample)) ∧
      (p.levels.failCount = 2 → (h.levelUpdated.alarms.points.get 29).condition = true) := by
  intro h
  have kept := p.converterFailed.handLevels_kept
  have running' : p.converterFailed.loading = false := running
  obtain ⟨channels, converter⟩ := Plant.handLevels_announced running'
  have blind : h.Blind := by
    intro c
    rw [show h.levels = p.converterFailed.levels from kept.acts.inputs.levels]
    exact p.converterFailed_blind c
  have blinded := Plant.levelUpdated_blinded (kept.loading.trans running') blind
  have range (c : Fin 8) : 21 ≤ (channelPoint c).val ∧ (channelPoint c).val < 30 := by
    show 21 ≤ 21 + c.val ∧ 21 + c.val < 30
    omega
  refine ⟨blinded, kept, p.converterFailed.handLevels_units, fun c => ?_, fun third => ?_⟩
  · rw [blinded.points _ (range c).1 (range c).2]
    exact channels c
  · rw [blinded.points 29 (by decide) (by decide)]
    refine converter.trans ?_
    unfold Plant.converterCondition
    rw [show p.converterFailed.levels.failCount = min (p.levels.failCount + 1) 255 from rfl, third]
    rfl

/-- R53: with every channel in FAULT the desired count follows the floats alone. -/
theorem Plant.desiredNow_blind {p : Plant} (blind : p.Blind) :
    p.desiredNow = if p.lowLowActive then 0 else if p.floatHighActive then p.presentCount else p.desired := by
  cases low : p.lowLowActive with
  | true => exact Plant.desiredNow_low low
  | false =>
    cases high : p.floatHighActive with
    | true => exact Plant.desiredNow_high low high
    | false => exact Plant.desiredNow_keeps low high (.inl (blind 0))

/-- The plant after an event that has moved the levels, the desired count, the rakes, the weirs, the points and the lines alone. -/
theorem Plant.levelMoved {p r : Plant} (out : p.out = []) (clock : r.clock = p.clock) (mode : r.mode = p.mode)
    (sections : r.sections = p.sections) (pumps : r.pumps = p.pumps) (claims : r.claims = p.claims) (queue : r.queue = p.queue)
    (stagger : r.stagger = p.stagger) (rotation : r.rotation = p.rotation) (shadow : r.shadow = p.shadow)
    (corr : r.corr = p.corr) :
    ({ r with out := [], marks := p.marks } : Plant) = { p with
      levels := r.levels, desired := r.desired, rakes := r.rakes, weirs := r.weirs, alarms := r.alarms, lines := r.lines } := by
  rw [clock, mode, sections, pumps, claims, queue, stagger, rotation, shadow, corr, out]

/-- R7: what the third failed scan in a row leaves outside LOAD. -/
theorem converterFails {s t : State} (out : s.plant.out = []) (running : s.plant.loading = false) (third : s.plant.levels.failCount = 2)
    (reached : t.plant = { s.plant.converterFailed.handLevels.levelUpdated with out := [], marks := s.plant.marks }) :
    let p := s.plant
    let q := t.plant
    q.levels = p.levels.converterFailed ∧
    (q.alarms.points.get 29).condition = true ∧
    (∀ c, (q.alarms.points.get (channelPoint c)).condition = ((q.levels.channels.get c).state == .fault .badSample)) ∧
    q.clock = p.clock ∧ q.sections = p.sections ∧ q.mode = p.mode ∧ q.lines.raw = p.lines.raw ∧
    q.lines.debounced = p.lines.debounced ∧ q.lines.stability = p.lines.stability ∧
    q.desired = (if p.lowLowActive then 0 else if p.floatHighActive then p.presentCount else p.desired) ∧
    (∀ n, (q.rake n).counts = false ∧ (q.rake n).differential = (p.rake n).differential ∧
      (q.rake n).blinded = (p.rake n).blinded) ∧
    (∀ n, q.weir n = ({ p with levels := q.levels }.weirLevel n).weir n) ∧
    (p.Calm → p.mode.mode = .auto ∨ q.desired = p.desired →
      (∀ n, q.rake n = { p.rake n with counts := false }) ∧
      q = { p with
        levels := q.levels, desired := q.desired, rakes := q.rakes, weirs := q.weirs
        alarms := q.alarms, lines := q.lines }) := by
  obtain ⟨blinded, kept, units, channels, converter⟩ := s.plant.converterFailed_blinded running
  have inputs := kept.acts.inputs
  generalize s.plant.converterFailed.handLevels = h at *
  have same : h.desiredNow = s.plant.converterFailed.desiredNow :=
    Plant.desiredNow_congr inputs.levels inputs.sections inputs.debounced kept.2.desired
  have left := Plant.left_of_eq reached
  have levels : t.plant.levels = s.plant.levels.converterFailed := by
    rw [reached]
    exact blinded.levels.trans inputs.levels
  have desired : t.plant.desired = s.plant.converterFailed.desiredNow := by
    rw [reached]
    exact blinded.desired.trans same
  intro p q
  refine ⟨levels, ?_, fun c => ?_, ?_, ?_, ?_, ?_, ?_, ?_, ?_, fun n => ?_, fun n => ?_, fun calm still => ?_⟩
  · exact (congrArg (fun a => (a.points.get 29).condition) left.alarms).trans (converter third)
  · rw [show q.levels = s.plant.levels.converterFailed from levels]
    exact (congrArg (fun a => (a.points.get (channelPoint c)).condition) left.alarms).trans (channels c)
  · exact (congrArg Plant.clock reached).trans (blinded.clock.trans inputs.clock)
  · exact (congrArg Plant.sections reached).trans (blinded.sections.trans inputs.sections)
  · exact (congrArg Plant.mode reached).trans (blinded.mode.trans inputs.mode)
  · exact (congrArg (fun p => p.lines.raw) reached).trans (blinded.raw.trans inputs.raw)
  · exact (congrArg (fun p => p.lines.debounced) reached).trans (blinded.debounced.trans inputs.debounced)
  · exact (congrArg (fun p => p.lines.stability) reached).trans (blinded.stability.trans inputs.stability)
  · exact desired.trans (Plant.desiredNow_blind s.plant.converterFailed_blind)
  · obtain ⟨counts, differential, screen⟩ := blinded.readings n
    rw [show q.rake n = _ from left.rake n, counts, differential, screen, units.rake n]
    exact ⟨rfl, rfl, rfl⟩
  · rw [show q.levels = s.plant.levels.converterFailed from levels]
    refine (congrArg (fun p => p.weir n) reached).trans ((blinded.weirs n).trans (Plant.SeesAlike.weirLevel ?_))
    exact ⟨inputs.clock, inputs.levels, inputs.sections, congrArg (Vector.get · n) inputs.weirs⟩
  · obtain ⟨unitPumps, unitRakes, unitClaims, unitQueue, unitStagger⟩ := units
    have calm' : h.Calm := by
      refine ⟨unitQueue.trans calm.queue, fun k => ?_, ?_⟩
      · rw [Plant.claim_of_claims unitClaims]
        exact calm.claims k
      · rw [inputs.mode]
        exact calm.storm
    obtain ⟨rakes, pumps, claims, queue, stagger, rotation, shadow, corr⟩ := blinded.calm calm' <| by
      rw [inputs.mode, same, show h.desired = s.plant.desired from kept.2.desired, ← desired]
      exact still
    refine ⟨fun n => ?_, ?_⟩
    · rw [show q.rake n = _ from left.rake n, rakes n, show h.rake n = _ from congrArg (Vector.get · n) unitRakes]
      rfl
    · have moved := Plant.levelMoved (r := h.levelUpdated) out (blinded.clock.trans inputs.clock) (blinded.mode.trans inputs.mode)
        (blinded.sections.trans inputs.sections) (pumps.trans unitPumps) (claims.trans unitClaims) (queue.trans unitQueue)
        (stagger.trans unitStagger) (rotation.trans kept.2.rotation) (shadow.trans kept.2.shadow) (corr.trans kept.2.corr)
      rw [← reached] at moved
      show t.plant = { s.plant with
        levels := t.plant.levels, desired := t.plant.desired, rakes := t.plant.rakes, weirs := t.plant.weirs
        alarms := t.plant.alarms, lines := t.plant.lines }
      rw [show t.plant.levels = h.levelUpdated.levels by rw [reached],
        show t.plant.desired = h.levelUpdated.desired by rw [reached],
        show t.plant.weirs = h.levelUpdated.weirs by rw [reached],
        show t.plant.lines = h.levelUpdated.lines by rw [reached], left.rakes, left.alarms]
      exact moved

/-- Settles O20: but for the third failure in a row a count alone; then the level-updated event with every channel in FAULT. -/
theorem failedScanIsCounted : Obligations.FailedScanIsCounted := by
  intro s c x out scan fails
  have run := failedScan_run scan fails
  have plant := finish_onPlant_plant s Plant.scanFailed
  have eq := s.plant.scanFailed_eq
  have silent {act : Plant} (acted : s.plant.scanFailed = { s.plant with levels := act.levels }) :=
    finish_onPlant_silent (act := Plant.scanFailed) out (by rw [acted])
  by_cases third : s.plant.levels.failCount = 2
  · rw [if_pos third] at eq
    cases loading : s.plant.loading with
    | true =>
      have loading' : s.plant.converterFailed.loading = true := loading
      have still : s.plant.scanFailed = s.plant.converterFailed := by
        rw [eq, show ({ s.plant with levels := s.plant.levels.converterFailed } : Plant) = s.plant.converterFailed from rfl,
          Plant.handLevels_loading loading', Plant.levelUpdated_loading loading']
      obtain ⟨step, log, plant⟩ := silent (act := s.plant.converterFailed) still
      rw [still] at plant
      refine ⟨_, run, step, ?_, ?_, ?_, fun other => absurd third other, fun _ =>
        ⟨fun c good => ?_, fun c fault => ?_, fun _ => ⟨?_, log⟩, fun running => absurd running Bool.noConfusion⟩⟩
      all_goals rw [plant]
      · rfl
      · rfl
      · rfl
      · exact (s.plant.levels.converterFailed_channel c).trans (Channel.converterFail_good good)
      · exact (s.plant.levels.converterFailed_channel c).trans (Channel.converterFail_fault fault)
      · rfl
    | false =>
      rw [eq] at plant
      have facts := converterFails out loading third plant
      have levels := facts.1
      refine ⟨_, run, finish_onPlant_step s _ ⟨_, rfl⟩, ?_, ?_, ?_, fun other => absurd third other, fun _ =>
        ⟨fun c good => ?_, fun c fault => ?_, fun loading => absurd loading Bool.noConfusion, fun _ => facts.2⟩⟩
      all_goals rw [levels]
      · rfl
      · rfl
      · rfl
      · exact (s.plant.levels.converterFailed_channel c).trans (Channel.converterFail_good good)
      · exact (s.plant.levels.converterFailed_channel c).trans (Channel.converterFail_fault fault)
  · rw [if_neg third] at eq
    obtain ⟨step, log, plant⟩ := silent (act := { s.plant with levels := s.plant.levels.counted }) eq
    rw [eq] at plant
    refine ⟨_, run, step, ?_, ?_, ?_, fun _ => ⟨log, plant⟩, fun same => absurd same third⟩
    all_goals rw [plant]
    · rfl
    · rfl
    · rfl

end Sys2Proof.Machine
end

section
/-! A change of the supply: the shed and the resumption (R24, R30, R31, R72): O17. -/

namespace Sys2Proof.Machine

/-! The pump that entered STARTING last. -/

theorem Plant.lastStartN_lt (p : Plant) (n : Fin 6) : p.lastStartN n < 2 ^ 32 := BitVec.isLt _

/-- The latest start is the earliest by the time that is left to the end of the count. -/
theorem Plant.latestStart_greatest (p : Plant) {ns : List (Fin 6)} (some_ : ns ≠ []) :
    ∃ r, p.latestStart ns = some r ∧ r ∈ ns ∧ ∀ k ∈ ns, p.lastStartN k ≤ p.lastStartN r := by
  have later (m k : Fin 6) : p.lastStartN m < p.lastStartN k ↔ 2 ^ 32 - p.lastStartN k < 2 ^ 32 - p.lastStartN m := by
    have := p.lastStartN_lt m
    have := p.lastStartN_lt k
    omega
  obtain ⟨r, found, mem, least⟩ : ∃ r, p.latestStart ns = some r ∧ r ∈ ns ∧
      ∀ k ∈ ns, 2 ^ 32 - p.lastStartN r ≤ 2 ^ 32 - p.lastStartN k :=
    foldl_earliest_none (fun n => 2 ^ 32 - p.lastStartN n) _ (fun _ => rfl) (fun m k => if_congr (later m k) rfl rfl) some_
  refine ⟨r, found, mem, fun k mem' => ?_⟩
  have le := least k mem'
  have := p.lastStartN_lt k
  omega

/-! What the demands given leave of every pump. -/

/-- Every pump keeps its state and its last start, and every claim stands. -/
structure Plant.Steady (p q : Plant) : Prop where
  state  : ∀ n, (q.pump n).state = (p.pump n).state
  start  : ∀ n, (q.pump n).lastStart = (p.pump n).lastStart
  claims : q.claims = p.claims
  desired : q.desired = p.desired

theorem Plant.Steady.refl (p : Plant) : p.Steady p := ⟨fun _ => rfl, fun _ => rfl, rfl, rfl⟩

theorem Plant.Steady.trans {p q r : Plant} (first : p.Steady q) (second : q.Steady r) : p.Steady r :=
  ⟨fun n => (second.state n).trans (first.state n), fun n => (second.start n).trans (first.start n),
    second.claims.trans first.claims, second.desired.trans first.desired⟩

theorem Plant.giveDemand_steady {p : Plant} {n : Fin 6} (next : p.nextToDemand = some n) : p.Steady (p.giveDemand n) := by
  obtain ⟨only, -, claims, own, -, -, desired⟩ := Plant.giveDemand_facts next
  have both (m : Fin 6) : ((p.giveDemand n).pump m).state = (p.pump m).state ∧
      ((p.giveDemand n).pump m).lastStart = (p.pump m).lastStart := by
    by_cases same : m = n
    · subst same
      rcases own with kept | ⟨-, kept⟩ <;> rw [kept] <;> exact ⟨rfl, rfl⟩
    · rw [only.pumps m same]
      exact ⟨rfl, rfl⟩
  exact ⟨fun m => (both m).1, fun m => (both m).2, claims, desired⟩

theorem Plant.reexamineAfter_steady (was p : Plant) (n : Fin 6) : p.Steady (was.reexamineAfter p n) := by
  unfold Plant.reexamineAfter
  split
  · exact Plant.reexamine_induct p.Steady (fun _ _ steady next => steady.trans (Plant.giveDemand_steady next)) (.refl p)
  · exact .refl p

/-! The pumps stopped by a shed (R30). -/

/-- The last start of a pump stays when it stops. -/
theorem Plant.stopPump_start (p : Plant) (n : Fin 6) (r : StopReason) :
    ((p.stopPump n r).pump n).lastStart = (p.pump n).lastStart ∧ ((p.stopPump n r).pump n).NotAsked := by
  cases fault : p.faultActive n with
  | false =>
    rw [Plant.stopPump_rests fault, Plant.stopped_pump]
    exact ⟨rfl, PumpState.noConfusion, .inl PumpState.noConfusion⟩
  | true =>
    have trips := Plant.trip_trips ((p.logStop n r).stopped n ((p.logStop n r).restingPump n (p.minOffTime n))) n .fault
    rw [← Plant.enterResting_trips (p := p.logStop n r) fault] at trips
    refine ⟨?_, trips.notAsked⟩
    refine (congrArg Pump.lastStart trips.pump).trans ?_
    unfold Plant.trippedPump
    rw [Plant.stopped_pump]
    rfl

/-- One pump stopped by a shed. -/
def Plant.shedPump (p : Plant) (n : Fin 6) : Plant := p.reexamineAfter (p.stopPump n .shed) n

/-- The units of the pumps listed. -/
def Plant.unitsOf (p : Plant) (l : List (Fin 6)) : Nat := (l.map fun n => (p.claim (pumpHolder n)).units).sum

/-- The shed has led from `p` to `q`, and stopped the pumps listed. -/
structure Plant.Shed (p : Plant) (l : List (Fin 6)) (q : Plant) : Prop where
  acts    : p.Acts q
  screens : p.SameScreens q
  desired : q.desired = p.desired
  start   : ∀ n, (q.pump n).lastStart = (p.pump n).lastStart
  apart   : l.Nodup
  order   : l.Pairwise fun n m => p.lastStartN m ≤ p.lastStartN n
  moved   : ∀ n ∈ l, (p.pump n).state.inMotion = true
  stopped : ∀ n ∈ l, (q.pump n).state.inMotion = false ∧ (q.pump n).NotAsked ∧ n ∉ q.queue ∧
    q.claim (pumpHolder n) = .gone
  left    : ∀ n ∉ l, (q.pump n).state = (p.pump n).state ∧ q.claim (pumpHolder n) = p.claim (pumpHolder n)
  latest  : ∀ n ∈ l, ∀ m ∉ l, (p.pump m).state.inMotion = true → p.lastStartN m ≤ p.lastStartN n
  quiet   : (∀ n, p.faultActive n = false) → q.shadow = p.shadow ∧ q.corr = p.corr
  tight   : (∀ n, (p.pump n).state.inMotion = true → (p.claim (pumpHolder n)).status = .held) → l ≠ [] →
    p.budget + p.unitsOf l.dropLast < p.heldUnits
  freed   : (∀ n, (p.pump n).state.inMotion = true → (p.claim (pumpHolder n)).status = .held) →
    q.heldUnits + p.unitsOf l = p.heldUnits

theorem Plant.Shed.refl (p : Plant) : p.Shed [] p where
  acts := .refl p
  screens := .refl p
  desired := rfl
  start _ := rfl
  apart := List.nodup_nil
  order := .nil
  moved _ mem := nomatch mem
  stopped _ mem := nomatch mem
  left _ _ := ⟨rfl, rfl⟩
  latest _ mem := nomatch mem
  quiet _ := ⟨rfl, rfl⟩
  tight _ some_ := absurd rfl some_
  freed _ := rfl

/-- What the stop of one pump by a shed leaves. -/
structure Plant.ShedOne (p : Plant) (n : Fin 6) (q : Plant) : Prop where
  acts    : p.Acts q
  screens : p.SameScreens q
  desired : q.desired = p.desired
  start   : ∀ m, (q.pump m).lastStart = (p.pump m).lastStart
  states  : ∀ m, m ≠ n → (q.pump m).state = (p.pump m).state
  claims  : ∀ h, h ≠ pumpHolder n → q.claim h = p.claim h
  passed  : ∀ m, m ≠ n → (p.pump m).NotAsked → (q.pump m).NotAsked ∧ (m ∉ p.queue → m ∉ q.queue)
  still   : (q.pump n).state.inMotion = false ∧ (q.pump n).NotAsked ∧ n ∉ q.queue ∧ q.claim (pumpHolder n) = .gone
  quiet   : p.faultActive n = false → q.shadow = p.shadow ∧ q.corr = p.corr

theorem Plant.shedPump_one (p : Plant) (n : Fin 6) : p.ShedOne n (p.shedPump n) := by
  have only := p.stopPump_only n .shed
  obtain ⟨start, settled⟩ := p.stopPump_start n .shed
  obtain ⟨still, gone, queue, -⟩ := Plant.enterResting_out_of_motion (p.logStop n .shed) n (p.minOffTime n)
  have steady := Plant.reexamineAfter_steady p (p.stopPump n .shed) n
  have own : Plant.Passes n (p.stopPump n .shed) (p.shedPump n) := Plant.reexamineAfter_passes settled
  exact
    { acts := (p.stopPump_acts n .shed).trans (Plant.reexamineAfter_acts _ _ _)
      screens := only.screens.trans (Plant.reexamineAfter_screens _ _ _)
      desired := steady.desired.trans (p.stopPump_desired n .shed)
      start := fun m => (steady.start m).trans <| by
        by_cases same : m = n
        · subst same
          exact start
        · rw [only.pumps m same]
      states := fun m other => (steady.state m).trans (by rw [only.pumps m other])
      claims := fun h other => (Plant.claim_of_claims steady.claims _).trans (only.claims h other)
      passed := fun m other notAsked => by
        have before : ((p.stopPump n .shed).pump m).NotAsked := by
          rw [only.pumps m other]
          exact notAsked
        have passes : Plant.Passes m (p.stopPump n .shed) (p.shedPump n) := Plant.reexamineAfter_passes before
        refine ⟨by rw [passes.pump]; exact before, fun absent mem => absent ?_⟩
        exact (only.queue m other).mp (passes.queue.mp mem)
      still := by
        refine ⟨by rw [own.pump]; exact still, by rw [own.pump]; exact settled, fun mem => ?_,
          (Plant.claim_of_claims own.claims _).trans gone⟩
        have mem' : n ∈ (p.logStop n .shed).queue.filter fun m => m != n := queue ▸ own.queue.mp mem
        exact (mem_filter_ne.mp mem').2 rfl
      quiet := fun fault => by
        have stops := Plant.stopPump_rests fault .shed
        have shadow : (p.stopPump n .shed).shadow = p.shadow := by rw [stops, Plant.stopped_shadow]; rfl
        have corr : (p.stopPump n .shed).corr = p.corr := by rw [stops, Plant.stopped_corr]; rfl
        have nothing : p.shedPump n = p.stopPump n .shed := by
          refine if_neg fun lost => ?_
          rw [Plant.demand_of_shadow shadow, Bool.and_not_self] at lost
          exact Bool.false_ne_true lost
        rw [nothing]
        exact ⟨shadow, corr⟩ }

theorem Plant.ShedOne.others {p q : Plant} {n m : Fin 6} (one : p.ShedOne n q) (other : m ≠ n) :
    (q.pump m).state = (p.pump m).state ∧ q.claim (pumpHolder m) = p.claim (pumpHolder m) :=
  ⟨one.states m other, one.claims _ fun same => other (pumpHolder_inj same)⟩

/-- The units of a pump that stops are free. -/
theorem Plant.ShedOne.heldUnits {p q : Plant} {n : Fin 6} (one : p.ShedOne n q) :
    q.heldUnits + (p.claim (pumpHolder n)).load = p.heldUnits := by
  have released := p.setClaim_heldUnits (pumpHolder n) .gone
  rw [Claim.load_other (c := .gone) ClaimStatus.noConfusion, Nat.add_zero] at released
  refine (congrArg (· + _) (Plant.heldUnits_congr fun h => .inl ?_)).trans released
  by_cases own : h = pumpHolder n
  · rw [own, one.still.2.2.2, Plant.claim_setClaim_same]
  · rw [one.claims h own, p.claim_setClaim_ne (Ne.symm own)]

theorem Plant.unitsOf_snoc (p : Plant) (l : List (Fin 6)) (n : Fin 6) :
    p.unitsOf (l ++ [n]) = p.unitsOf l + (p.claim (pumpHolder n)).units := by
  unfold Plant.unitsOf
  rw [List.map_append, List.sum_append, List.map_singleton, List.sum_singleton]

theorem Plant.inMotion_of_filter {p : Plant} {n : Fin 6} : n ∈ allPumps.filter (fun n => (p.pump n).state.inMotion) ↔
    (p.pump n).state.inMotion = true := by
  rw [List.mem_filter]
  exact and_iff_right (mem_allPumps n)

/-- R30: one pump more. -/
theorem Plant.Shed.next {p q : Plant} {l : List (Fin 6)} {n : Fin 6} (shed : p.Shed l q) (above : q.budget < q.heldUnits)
    (latest : q.latestStart (allPumps.filter fun n => (q.pump n).state.inMotion) = some n) :
    p.Shed (l ++ [n]) (q.shedPump n) := by
  have one := q.shedPump_one n
  have moving := Plant.inMotion_of_filter.mp (Plant.latestStart_mem latest)
  have new : n ∉ l := fun mem => Bool.false_ne_true ((shed.stopped n mem).1.symm.trans moving)
  obtain ⟨state, claim⟩ := shed.left n new
  have moved : (p.pump n).state.inMotion = true := state ▸ moving
  have starts (m : Fin 6) : q.lastStartN m = p.lastStartN m := by
    unfold Plant.lastStartN
    rw [shed.start]
  have greatest (m : Fin 6) (absent : m ∉ l) (moved' : (p.pump m).state.inMotion = true) : p.lastStartN m ≤ p.lastStartN n := by
    have mem : m ∈ allPumps.filter fun n => (q.pump n).state.inMotion :=
      Plant.inMotion_of_filter.mpr ((shed.left m absent).1 ▸ moved')
    obtain ⟨r, found, -, most⟩ := q.latestStart_greatest (List.ne_nil_of_mem mem)
    obtain rfl : r = n := Option.some.inj (found.symm.trans latest)
    rw [← starts, ← starts]
    exact most m mem
  have mem_snoc (m : Fin 6) : m ∈ l ++ [n] ↔ m ∈ l ∨ m = n := by rw [List.mem_append, List.mem_singleton]
  have budget : q.budget = p.budget := shed.acts.inputs.budget
  exact
    { acts := shed.acts.trans one.acts
      screens := shed.screens.trans one.screens
      desired := one.desired.trans shed.desired
      start := fun m => (one.start m).trans (shed.start m)
      apart := List.Nodup.append shed.apart (List.nodup_singleton n) (List.disjoint_singleton.mpr new)
      order := List.pairwise_append.mpr ⟨shed.order, List.pairwise_singleton _ _, fun m mem k mem' => by
        rw [List.mem_singleton.mp mem']
        exact shed.latest m mem n new moved⟩
      moved := fun m mem => ((mem_snoc m).mp mem).elim (shed.moved m) fun same => same ▸ moved
      stopped := fun m mem => by
        by_cases same : m = n
        · rw [same]
          exact one.still
        · obtain ⟨still, settled, absent, gone⟩ := shed.stopped m (((mem_snoc m).mp mem).resolve_right same)
          obtain ⟨state', claim'⟩ := one.others same
          obtain ⟨settled', absent'⟩ := one.passed m same settled
          exact ⟨by rw [state']; exact still, settled', absent' absent, claim'.trans gone⟩
      left := fun m absent => by
        obtain ⟨absent, other⟩ := not_or.mp fun either => absent ((mem_snoc m).mpr either)
        obtain ⟨state', claim'⟩ := one.others other
        obtain ⟨state, claim⟩ := shed.left m absent
        exact ⟨state'.trans state, claim'.trans claim⟩
      latest := fun m mem k absent' moved' => by
        obtain ⟨absent, -⟩ := not_or.mp fun either => absent' ((mem_snoc k).mpr either)
        rcases (mem_snoc m).mp mem with old | rfl
        · exact shed.latest m old k absent moved'
        · exact greatest k absent moved'
      quiet := fun quiet => by
        obtain ⟨shadow, corr⟩ := shed.quiet quiet
        obtain ⟨shadow', corr'⟩ := one.quiet ((shed.acts.active _).trans (quiet n))
        exact ⟨shadow'.trans shadow, corr'.trans corr⟩
      tight := fun held _ => by
        have freed := shed.freed held
        rw [List.dropLast_concat]
        omega
      freed := fun held => by
        have freed := shed.freed held
        have released := one.heldUnits
        rw [claim, Claim.load_held (held n moved)] at released
        rw [p.unitsOf_snoc l n]
        omega }

theorem Plant.heldUnits_none {p : Plant} (free : ∀ h, (p.claim h).status ≠ .held) : p.heldUnits = 0 := by
  rw [Plant.heldUnits_eq_sum]
  exact Finset.sum_eq_zero fun h _ => Claim.load_other (free h)

theorem holder_cases : ∀ h : Fin 8, (∃ n, h = pumpHolder n) ∨ ∃ n, h = rakeHolder n := by decide

/-- The pumps in motion. -/
def Plant.movingCount (p : Plant) : Nat := (allPumps.filter fun n => (p.pump n).state.inMotion).length

theorem Plant.ShedOne.fewer {p q : Plant} {n : Fin 6} (one : p.ShedOne n q) (moving : (p.pump n).state.inMotion = true) :
    q.movingCount + 1 = p.movingCount := by
  have count := countP_insert (f := fun m => (q.pump m).state.inMotion) (g := fun m => (p.pump m).state.inMotion)
    one.still.1 moving (fun m other => by rw [one.states m other]) allPumps_nodup (mem_allPumps n)
  unfold Plant.movingCount
  rw [← List.countP_eq_length_filter, ← List.countP_eq_length_filter]
  exact count.symm

/-- R30: the shed goes on until the held units fit, at the latest with the last pump stopped. -/
theorem Plant.Shed.done {p : Plant} (rakes : ∀ n, (p.claim (rakeHolder n)).status ≠ .held)
    (pumps : ∀ n, (p.claim (pumpHolder n)).status = .held → (p.pump n).state.inMotion = true) (k : Nat) :
    ∀ (l : List (Fin 6)) (q : Plant), p.Shed l q → q.movingCount ≤ k →
      p.Shed (q.shedPumps l k).2 (q.shedPumps l k).1 ∧ (q.shedPumps l k).1.withinBudget := by
  have emptied (l : List (Fin 6)) (q : Plant) (shed : p.Shed l q)
      (still : ∀ n, (q.pump n).state.inMotion ≠ true) : q.withinBudget := by
    unfold Plant.withinBudget
    rw [Plant.heldUnits_none fun h => ?_]
    · exact Nat.zero_le _
    · rcases holder_cases h with ⟨n, rfl⟩ | ⟨n, rfl⟩
      · by_cases mem : n ∈ l
        · rw [(shed.stopped n mem).2.2.2]
          exact ClaimStatus.noConfusion
        · obtain ⟨state, claim⟩ := shed.left n mem
          rw [claim]
          exact fun held => still n (state ▸ pumps n held)
      · rw [shed.screens.claims]
        exact rakes n
  induction k with
  | zero =>
    intro l q shed few
    refine ⟨shed, emptied l q shed fun n moving => ?_⟩
    have nothing := List.eq_nil_of_length_eq_zero (Nat.le_zero.mp few)
    exact absurd (nothing ▸ Plant.inMotion_of_filter.mpr moving) List.not_mem_nil
  | succ k ih =>
    intro l q shed few
    unfold Plant.shedPumps
    by_cases above : q.budget < q.heldUnits
    · rw [if_pos above]
      split
      case h_1 n latest =>
        have fewer := (q.shedPump_one n).fewer (Plant.inMotion_of_filter.mp (Plant.latestStart_mem latest))
        exact ih _ _ (shed.next above latest) (show (q.shedPump n).movingCount ≤ k by omega)
      case h_2 none_ =>
        refine ⟨shed, emptied l q shed fun n moving => ?_⟩
        obtain ⟨r, found, -⟩ := q.latestStart_greatest (List.ne_nil_of_mem (Plant.inMotion_of_filter.mpr moving))
        exact (nomatch none_.symm.trans found)
    · rw [if_neg above]
      exact ⟨shed, not_lt.mp above⟩

/-! The change of the supply (R24, R31). -/

/-- What a change of the supply hands first (R24). -/
def Plant.supplyDraft (p : Plant) (generator : Bool) : Draft :=
  { source := srcMode, kind := 0x13, urgent := false, detail := detail1 p.mode.supply.code ++ detail1 (supplyOf generator).code }

/-- The plant with the supply changed, its condition handed (R24). -/
def Plant.supplyTold (p : Plant) (generator : Bool) : Plant :=
  ({ p.append srcMode 0x13 (detail1 p.mode.supply.code ++ detail1 (supplyOf generator).code) with
    mode := { p.mode with supply := supplyOf generator } } : Plant).hand 33 generator

/-- The plant with the supply changed, before the new budget is acted on (R31). -/
def Plant.supplyTaken (p : Plant) (generator : Bool) : Plant :=
  if generator then p.supplyTold generator
  else ({ p.supplyTold generator with mode := { (p.supplyTold generator).mode with loadShed := false } } : Plant).hand 34 false

theorem Plant.changeSupply_eq {p : Plant} {generator : Bool} (changed : supplyOf generator ≠ p.mode.supply) :
    p.changeSupply generator = (p.supplyTaken generator).shed := if_neg changed

theorem Plant.Senses.clock {p q : Plant} (senses : p.Senses q) : q.clock = p.clock := senses.1.clock

theorem Plant.Senses.levels {p q : Plant} (senses : p.Senses q) : q.levels = p.levels := senses.1.levels

theorem Plant.Senses.weirs {p q : Plant} (senses : p.Senses q) : q.weirs = p.weirs := senses.1.weirs

theorem Plant.Senses.sections {p q : Plant} (senses : p.Senses q) : q.sections = p.sections := senses.1.sections

/-- Beside the mode the change of the supply moves points and entries alone. -/
structure Plant.Told (p q : Plant) : Prop where
  units  : p.SameUnits q
  orders : p.SameOrders q
  senses : p.Senses q

theorem Plant.Told.trans {p q r : Plant} (first : p.Told q) (second : q.Told r) : p.Told r :=
  ⟨first.units.trans second.units, first.orders.trans second.orders, first.senses.trans second.senses⟩

theorem Plant.append_told (p : Plant) (a b : Byte) (d : List Byte) (u : Bool) : p.Told (p.append a b d u) :=
  ⟨p.append_units a b d u, (p.append_kept a b d u).2, (p.append_kept a b d u).acts.senses⟩

theorem Plant.hand_told (p : Plant) (k : Fin 40) (b : Bool) : p.Told (p.hand k b) :=
  ⟨p.hand_units k b, (p.hand_kept k b).2, (p.hand_kept k b).acts.senses⟩

theorem Plant.setMode_told (p : Plant) (m : ModeUnit) : p.Told { p with mode := m } :=
  ⟨⟨rfl, rfl, rfl, rfl, rfl⟩, ⟨rfl, rfl, rfl, rfl⟩, p.setMode_senses m⟩

theorem Plant.supplyTold_facts {p : Plant} (running : p.loading = false) (generator : Bool) :
    p.Told (p.supplyTold generator) ∧ (p.supplyTold generator).mode = { p.mode with supply := supplyOf generator } ∧
      ((p.supplyTold generator).alarms.points.get 33).condition = generator ∧
      ∃ more, (p.supplyTold generator).out = p.out ++ p.supplyDraft generator :: more := by
  have told := ((p.append_told srcMode 0x13 (detail1 p.mode.supply.code ++ detail1 (supplyOf generator).code) false).trans
    (Plant.setMode_told _ { p.mode with supply := supplyOf generator }))
  unfold Plant.supplyTold
  generalize isQ : ({ p.append srcMode 0x13 (detail1 p.mode.supply.code ++ detail1 (supplyOf generator).code) with
    mode := { p.mode with supply := supplyOf generator } } : Plant) = q at told
  have kept := q.hand_kept 33 generator
  obtain ⟨more, handed⟩ := kept.1.2
  have mode : q.mode = { p.mode with supply := supplyOf generator } := by rw [← isQ]
  have running' : q.loading = false := by
    unfold Plant.loading at running ⊢
    rw [mode]
    exact running
  refine ⟨told.trans (q.hand_told 33 generator), kept.acts.inputs.mode.trans mode, Plant.hand_condition running' _ _, more, ?_⟩
  rw [handed, show q.out = p.out ++ [p.supplyDraft generator] by rw [← isQ]; rfl, List.append_assoc]
  rfl

/-- R24, R31: what the change of the supply leaves before the shed. -/
structure Plant.SupplyTaken (p : Plant) (generator : Bool) (q : Plant) : Prop where
  told  : p.Told q
  mode  : q.mode = { p.mode with supply := supplyOf generator, loadShed := generator && p.mode.loadShed }
  point : (q.alarms.points.get 33).condition = generator
  out   : ∃ more, q.out = p.out ++ p.supplyDraft generator :: more

theorem Plant.supplyTaken_taken {p : Plant} (running : p.loading = false) (generator : Bool) :
    p.SupplyTaken generator (p.supplyTaken generator) := by
  obtain ⟨told, mode, point, more, out⟩ := Plant.supplyTold_facts running generator
  cases generator with
  | true => exact ⟨told, mode, point, more, out⟩
  | false =>
    unfold Plant.supplyTaken
    rw [if_neg Bool.false_ne_true]
    generalize p.supplyTold false = q at told mode point out
    have told' := (q.setMode_told { q.mode with loadShed := false }).trans (Plant.hand_told _ 34 false)
    have kept := Plant.hand_kept { q with mode := { q.mode with loadShed := false } } 34 false
    refine ⟨told.trans told', ?_, ?_, ?_⟩
    · rw [kept.acts.inputs.mode, mode]
      rfl
    · rw [Plant.hand_point_ne _ (by decide)]
      exact point
    · obtain ⟨more', out'⟩ := told'.senses.2
      exact ⟨more ++ more', by rw [out', out, List.append_assoc]; rfl⟩

/-! The shed (R30). -/

theorem Plant.shed_within {p : Plant} (within : p.withinBudget) : p.shed = p := if_pos within

/-- The pumps stopped by the shed, and the plant after the last of them. -/
@[irreducible] def Plant.shedDone (p : Plant) : Plant × List (Fin 6) := p.suspendRakes.shedPumps [] 6

theorem Plant.shedDone_eq (p : Plant) : p.suspendRakes.shedPumps [] 6 = p.shedDone := by
  unfold Plant.shedDone
  rfl

/-- What the shed hands last (R30). -/
def Plant.shedDraft (p : Plant) : Draft :=
  { source := srcMode, kind := 0x14, urgent := false
    detail := p.rakesInMotion.map srcScreen ++ p.shedDone.2.map srcPump ++ detail2 p.shedDone.1.budget }

/-- The plant with the shed handed (R30, R31). -/
def Plant.shedTold (p : Plant) (detail : List Byte) : Plant :=
  ({ p.append srcMode 0x14 detail with mode := { p.mode with loadShed := true } } : Plant).hand 34 true

theorem Plant.shed_above {p : Plant} (above : p.budget < p.heldUnits) : p.shed = p.shedDone.1.shedTold p.shedDraft.detail := by
  unfold Plant.shed
  rw [if_neg (not_le.mpr above), Plant.shedDone_eq]
  unfold Plant.shedDraft
  generalize p.shedDone = done
  obtain ⟨r, l⟩ := done
  rfl

theorem Plant.shedTold_facts (p : Plant) (detail : List Byte) :
    p.Told (p.shedTold detail) ∧ (p.shedTold detail).mode = { p.mode with loadShed := true } ∧
      (∀ j, j ≠ 34 → (p.shedTold detail).alarms.points.get j = p.alarms.points.get j) ∧
      (p.loading = false → ((p.shedTold detail).alarms.points.get 34).condition = true) ∧
      ∃ more, (p.shedTold detail).out = p.out ++ { source := srcMode, kind := 0x14, urgent := false, detail := detail } :: more := by
  have told := (p.append_told srcMode 0x14 detail false).trans (Plant.setMode_told _ { p.mode with loadShed := true })
  unfold Plant.shedTold
  generalize isQ : ({ p.append srcMode 0x14 detail with mode := { p.mode with loadShed := true } } : Plant) = q at told
  have kept := q.hand_kept 34 true
  obtain ⟨more, handed⟩ := kept.1.2
  have mode : q.mode = { p.mode with loadShed := true } := by rw [← isQ]
  refine ⟨told.trans (q.hand_told 34 true), kept.acts.inputs.mode.trans mode, fun j other => ?_, fun running => ?_, more, ?_⟩
  · rw [q.hand_point_ne other]
    rw [← isQ]
    rfl
  · refine Plant.hand_condition ?_ _ _
    unfold Plant.loading at running ⊢
    rw [mode]
    exact running
  · rw [handed, ← isQ]
    show (p.out ++ [_]) ++ more = _
    rw [List.append_assoc]
    rfl

theorem Plant.movingCount_le (p : Plant) : p.movingCount ≤ 6 := List.length_filter_le _ _

theorem Plant.shedPump_alarms (p : Plant) (n : Fin 6) : (p.shedPump n).alarms = p.alarms := by
  unfold Plant.shedPump Plant.reexamineAfter
  split
  · exact (Plant.reexamine_alarms _).trans (p.stopPump_alarms n _)
  · exact p.stopPump_alarms n _

theorem Plant.shedPumps_alarms (k : Nat) : ∀ (p : Plant) (l : List (Fin 6)), (p.shedPumps l k).1.alarms = p.alarms := by
  induction k with
  | zero => exact fun _ _ => rfl
  | succ k ih =>
    intro p l
    unfold Plant.shedPumps
    split
    · split
      · exact (ih _ _).trans (p.shedPump_alarms _)
      · rfl
    · rfl

theorem Plant.budgets_of_sections {p q : Plant} (sections : q.sections = p.sections) :
    q.mainsBudget = p.mainsBudget ∧ q.generatorBudget = p.generatorBudget := by
  have reads {α : Type} (f : Plant → α) (looks : ∀ p : Plant, f p = f { Plant.reset with sections := p.sections }) : f q = f p := by
    rw [looks q, looks p, sections]
  exact ⟨reads Plant.mainsBudget fun _ => rfl, reads Plant.generatorBudget fun _ => rfl⟩

/-- The present budget looks at the supply and the settings alone. -/
theorem Plant.budget_congr {p q : Plant} (supply : q.mode.supply = p.mode.supply) (sections : q.sections = p.sections) :
    q.budget = p.budget := by
  obtain ⟨mains, generator⟩ := Plant.budgets_of_sections sections
  unfold Plant.budget
  rw [supply, mains, generator]

theorem Plant.withinBudget_left {r t : Plant} {marks : List (Fin 16)} (left : t = { r with out := [], marks := marks })
    (within : r.withinBudget) : t.withinBudget := by
  subst left
  exact within

/-- What a shed that stops pumps leaves. -/
structure Plant.ShedWhole (p q : Plant) : Prop where
  shed   : p.suspendRakes.Shed p.shedDone.2 p.shedDone.1
  told   : p.shedDone.1.Told q
  mode   : q.mode = { p.mode with loadShed := true }
  within : q.withinBudget
  points : ∀ j, j ≠ 34 → q.alarms.points.get j = p.alarms.points.get j
  point  : p.loading = false → (q.alarms.points.get 34).condition = true
  out    : ∃ between more, q.out = p.out ++ between ++ p.shedDraft :: more

theorem Plant.shed_whole {p : Plant} (above : p.budget < p.heldUnits)
    (pumps : ∀ n, (p.claim (pumpHolder n)).status = .held → (p.pump n).state.inMotion = true) : p.ShedWhole p.shed := by
  have same := p.suspendRakes_samePumps
  obtain ⟨shed, within⟩ := Plant.Shed.done p.suspendRakes_facts.2.1
    (fun n held => by rw [same.pump]; rw [same.2.2.2] at held; exact pumps n held) 6 [] p.suspendRakes (.refl _)
    (Plant.movingCount_le _)
  rw [Plant.shedDone_eq] at shed within
  have acts := p.suspendRakes_kept.acts.trans shed.acts
  have alarms : p.shedDone.1.alarms = p.alarms := by
    rw [← Plant.shedDone_eq, Plant.shedPumps_alarms, Plant.suspendRakes_alarms]
  obtain ⟨between, handed⟩ := acts.2
  obtain ⟨told, mode, points, point, more, out⟩ := p.shedDone.1.shedTold_facts p.shedDraft.detail
  rw [Plant.shed_above above]
  refine ⟨shed, told, ?_, ?_, fun j other => ?_, fun running => ?_, between, more, ?_⟩
  · rw [mode, acts.inputs.mode]
  · unfold Plant.withinBudget at within ⊢
    have budget : (p.shedDone.1.shedTold p.shedDraft.detail).budget = p.shedDone.1.budget :=
      Plant.budget_congr (by rw [mode]) told.senses.sections
    rw [Plant.heldUnits_of_claims told.units.2.2.1, budget]
    exact within
  · rw [points j other, alarms]
  · exact point (acts.loading.trans running)
  · rw [out, handed]
    rfl

/-! The resumption of the suspended rakes (R29, R72). -/

/-- What a resumption hands first (R72). -/
def Plant.resumeDraft (p : Plant) (n : Fin 2) : Draft :=
  { source := srcScreen n, kind := 0x34, urgent := false, detail := detail1 (if (p.rake n).fromReversing then 4 else 3) }

/-- The rake that goes on in RAKING, before home and the overload input are looked at (R72). -/
def Plant.rakingAgain (p : Plant) (n : Fin 2) : Rake :=
  { p.rake n with state := .raking, hold := .stopped, held := false, cycle := (p.rake n).cycle.resume }

/-- What the grant to a suspended rake leaves (R72). -/
structure Plant.Resumed (p : Plant) (n : Fin 2) (g : Plant) : Prop where
  out     : ∃ before more, g.out = before ++ p.resumeDraft n :: more
  granted : (g.claim (rakeHolder n)).status ≠ .waiting
  held    : (g.rake n).held = false
  rests   : (p.rake n).fromReversing = false → (p.rake n).homeLeave = true → p.homeActive n = true → p.Rests g n
  claim   : (p.rake n).fromReversing = true ∨ (p.rake n).homeLeave = false ∨ p.homeActive n = false →
    g.claim (rakeHolder n) = { p.claim (rakeHolder n) with status := .held }
  reverses : (p.rake n).fromReversing = true → g.rake n = { p.rake n with
    state := .reversing, hold := .stopped, held := false, reverse := .running (p.reverseTime n) }
  rakes   : (p.rake n).fromReversing = false → (p.rake n).homeLeave = false ∨ p.homeActive n = false →
    g.rake n = if p.overloadActive n
      then { p.rake n with
        state := .reversing, hold := .stopped, held := false, attempts := (p.rake n).attempts + 1, cycle := .stopped
        reverse := .running (p.reverseTime n) }
      else p.rakingAgain n

/-- The plant with the claim of rake `n` held (R29). -/
def Plant.rakeGranted (p : Plant) (n : Fin 2) : Plant :=
  p.setClaim (rakeHolder n) { p.claim (rakeHolder n) with status := .held }

theorem Plant.grantRake_suspended {p : Plant} {n : Fin 2} (suspended : (p.rake n).state = .suspended) :
    p.grantRake n = (p.rakeGranted n).resumeRake n := by
  unfold Plant.grantRake
  rw [suspended]
  rfl

/-- The plant with rake `n` again in RAKING (R72). -/
def Plant.goneOn (p : Plant) (n : Fin 2) : Plant :=
  ((p.rakeGranted n).setRake n (p.rakingAgain n)).append (srcScreen n) 0x34 (detail1 3)

theorem Plant.goneOn_facts (p : Plant) (n : Fin 2) :
    (p.goneOn n).rake n = p.rakingAgain n ∧
      (p.goneOn n).claim (rakeHolder n) = { p.claim (rakeHolder n) with status := .held } ∧
      (p.goneOn n).out = p.out ++ [{ source := srcScreen n, kind := 0x34, urgent := false, detail := detail1 3 }] :=
  ⟨vset_get_same _ _ _, vset_get_same _ _ _, rfl⟩

/-- R72: a rake suspended in REVERSING reverses again. -/
theorem Plant.resumed_reversing {p : Plant} {n : Fin 2} (suspended : (p.rake n).state = .suspended)
    (back : (p.rake n).fromReversing = true) : p.Resumed n (p.grantRake n) := by
  have eq : p.grantRake n = ((p.rakeGranted n).setRake n { p.rake n with
      state := .reversing, hold := .stopped, held := false, reverse := .running (p.reverseTime n) }).append
        (srcScreen n) 0x34 (detail1 4) := (Plant.grantRake_suspended suspended).trans (if_pos back)
  have rake : (p.grantRake n).rake n = { p.rake n with
      state := .reversing, hold := .stopped, held := false, reverse := .running (p.reverseTime n) } := by
    rw [eq, Plant.rake_append, Plant.rake_setRake]
  have claim : (p.grantRake n).claim (rakeHolder n) = { p.claim (rakeHolder n) with status := .held } := by
    rw [eq, Plant.claim_append, Plant.claim_setRake]
    exact Plant.claim_setClaim_same _ _ _
  exact
    { out := ⟨p.out, [], by rw [eq]; unfold Plant.resumeDraft; rw [back]; rfl⟩
      granted := by rw [claim]; exact ClaimStatus.noConfusion
      held := by rw [rake]
      rests := fun other => absurd (back.symm.trans other) Bool.noConfusion
      claim := fun _ => claim
      reverses := fun _ => rake
      rakes := fun other => absurd (back.symm.trans other) Bool.noConfusion }

/-- R72: a rake suspended in RAKING rakes again, by way of `Plant.backInRaking`. -/
theorem Plant.resumed_raking {p : Plant} {n : Fin 2} (suspended : (p.rake n).state = .suspended)
    (raked : (p.rake n).fromReversing = false) : p.Resumed n (p.grantRake n) := by
  have eq : p.grantRake n = (p.goneOn n).backInRaking n := by
    refine (Plant.grantRake_suspended suspended).trans (if_neg ?_)
    show ¬ (p.rake n).fromReversing = true
    rw [raked]
    exact Bool.false_ne_true
  obtain ⟨rake, claim, out⟩ := p.goneOn_facts n
  have home : (p.goneOn n).homeActive n = p.homeActive n := rfl
  have overload : (p.goneOn n).overloadActive n = p.overloadActive n := rfl
  have draft : p.resumeDraft n = { source := srcScreen n, kind := 0x34, urgent := false, detail := detail1 3 } := by
    unfold Plant.resumeDraft
    rw [raked]
    rfl
  have interval : (p.goneOn n).intervalTime n = p.intervalTime n := rfl
  have reverse : (p.goneOn n).reverseTime n = p.reverseTime n := rfl
  rw [← draft] at out
  generalize p.goneOn n = q at *
  by_cases ends : (p.rake n).homeLeave = true ∧ p.homeActive n = true
  · obtain ⟨left, home'⟩ := ends
    have left' : (q.rake n).homeLeave = true := by rw [rake]; exact left
    rw [Plant.backInRaking_home left' (home.trans home')] at eq
    obtain ⟨rake', claim', out'⟩ := q.endCycle_facts n
    rw [← eq] at rake' claim' out'
    rw [rake, interval] at rake'
    exact
      { out := ⟨p.out, [q.cycleDraft n], by rw [out', out, List.append_assoc]; rfl⟩
        granted := by rw [claim']; exact ClaimStatus.noConfusion
        held := by rw [rake']
        rests := fun _ _ _ => ⟨claim', rake'⟩
        claim := fun other => by
          rcases other with back | clear | clear
          · exact absurd (raked.symm.trans back) Bool.noConfusion
          · exact absurd (left.symm.trans clear) Bool.noConfusion
          · exact absurd (home'.symm.trans clear) Bool.noConfusion
        reverses := fun back => absurd (raked.symm.trans back) Bool.noConfusion
        rakes := fun _ other => by
          rcases other with clear | clear
          · exact absurd (left.symm.trans clear) Bool.noConfusion
          · exact absurd (home'.symm.trans clear) Bool.noConfusion }
  · have away : (q.rake n).homeLeave = false ∨ q.homeActive n = false := by
      rw [rake, home, ← Bool.not_eq_true, ← Bool.not_eq_true (p.homeActive n)]
      exact not_and_or.mp ends
    rw [Plant.backInRaking_away away] at eq
    have claim' : (p.grantRake n).claim (rakeHolder n) = { p.claim (rakeHolder n) with status := .held } := by
      rw [eq, Plant.claim_of_claims (q.checkOverload_claims n)]
      exact claim
    have rake' : (p.grantRake n).rake n = if p.overloadActive n
        then { p.rake n with
          state := .reversing, hold := .stopped, held := false, attempts := (p.rake n).attempts + 1, cycle := .stopped
          reverse := .running (p.reverseTime n) }
        else p.rakingAgain n := by
      rw [eq]
      cases active : p.overloadActive n with
      | true =>
        rw [Plant.checkOverload_active (overload.trans active), Plant.reverseRake_rake, rake, reverse]
        rfl
      | false =>
        rw [Plant.checkOverload_rest (overload.trans active), rake]
        rfl
    exact
      { out := by
          obtain ⟨more, out'⟩ := (q.checkOverload_kept n).1.2
          exact ⟨p.out, more, by rw [eq, out', out, List.append_assoc]; rfl⟩
        granted := by rw [claim']; exact ClaimStatus.noConfusion
        held := by
          rw [rake']
          split <;> rfl
        rests := fun _ left home' => absurd ⟨left, home'⟩ ends
        claim := fun _ => claim'
        reverses := fun back => absurd (raked.symm.trans back) Bool.noConfusion
        rakes := fun _ _ => rake' }

theorem Plant.resumed {p : Plant} {n : Fin 2} (suspended : (p.rake n).state = .suspended) : p.Resumed n (p.grantRake n) := by
  cases back : (p.rake n).fromReversing with
  | true => exact Plant.resumed_reversing suspended back
  | false => exact Plant.resumed_raking suspended back

theorem Plant.grantRake_notWaiting {p : Plant} {n : Fin 2} (waits : (p.rake n).state = .waiting ∨ (p.rake n).state = .suspended) :
    ((p.grantRake n).claim (rakeHolder n)).status ≠ .waiting := by
  rcases waits with waiting | suspended
  · rw [Plant.grantRake_waiting waiting, Plant.claim_of_claims (Plant.startRake_claims _ n), Plant.claim_setClaim_same]
    exact ClaimStatus.noConfusion
  · exact (Plant.resumed suspended).granted

/-- The units that the rakes wait for. -/
def Plant.rakeWaitingUnits (p : Plant) : Nat :=
  ((allRakes.filter fun n => (p.claim (rakeHolder n)).status = .waiting).map fun n => (p.claim (rakeHolder n)).units).sum

theorem Plant.rakeWaitingUnits_eq (p : Plant) : p.rakeWaitingUnits =
    (if (p.claim (rakeHolder 0)).status = .waiting then (p.claim (rakeHolder 0)).units else 0) +
      if (p.claim (rakeHolder 1)).status = .waiting then (p.claim (rakeHolder 1)).units else 0 := by
  unfold Plant.rakeWaitingUnits
  rw [show allRakes = [0, 1] from rfl]
  by_cases first : (p.claim (rakeHolder 0)).status = .waiting
  all_goals by_cases second : (p.claim (rakeHolder 1)).status = .waiting
  all_goals simp [first, second]

/-- R29: where all that the rakes wait for fits, the claim of each that waits is granted in its round. -/
theorem Plant.serve_grants_each {p : Plant} (served : p.PumpsServed) (waits : p.rakesWait)
    (room : p.heldUnits + p.rakeWaitingUnits ≤ p.budget) {n : Fin 2} (waiting : (p.claim (rakeHolder n)).status = .waiting) :
    ∃ q k, p.serve serveBound = (q.grantRake n).serve k ∧ q.PumpsServed ∧ p.Kept q ∧ q.rake n = p.rake n ∧
      q.claim (rakeHolder n) = p.claim (rakeHolder n) := by
  have units := p.rakeWaitingUnits_eq
  have granted {q : Plant} {m : Fin 2} (served : q.PumpsServed) (found : q.rakeToGrant = some m) :
      q.serveOnce = some (q.grantRake m) := by
    rw [Plant.serveOnce_served served, found]
    rfl
  have firstRound {m : Fin 2} (found : p.rakeToGrant = some m) : p.serve serveBound = (p.grantRake m).serve 31 :=
    Plant.serve_some (granted served found) 31
  by_cases first : (p.claim (rakeHolder 0)).status = .waiting
  · rw [if_pos first] at units
    have found : p.rakeToGrant = some 0 := by
      have fits : p.fits (rakeHolder 0) = true := decide_eq_true (by omega)
      exact List.find?_cons_of_pos (by rw [first, fits]; rfl)
    match n with
    | 0 => exact ⟨p, 31, firstRound found, served, .refl p, rfl, rfl⟩
    | 1 =>
      rw [if_pos waiting] at units
      have only := p.grantRake_only 0
      have claim := only.2 (rakeHolder 1) (by decide)
      have served' := served.of_samePumps (p.grantRake_samePumps 0)
      have grown := Plant.grantRake_heldUnits first
      have budget := (p.grantRake_kept 0).acts.inputs.budget
      have found' : (p.grantRake 0).rakeToGrant = some 1 := by
        refine Plant.rakeToGrant_only (by rw [claim]; exact waiting) (fun m other => ?_) (decide_eq_true ?_)
        · match m with
          | 0 => exact Plant.grantRake_notWaiting ((waits 0).mp first)
          | 1 => exact absurd rfl other
        · rw [claim, budget]
          omega
      exact ⟨p.grantRake 0, 30, (firstRound found).trans (Plant.serve_some (granted served' found') 30), served',
        p.grantRake_kept 0, only.1 1 (by decide), claim⟩
  · match n with
    | 0 => exact absurd waiting first
    | 1 =>
      rw [if_pos waiting] at units
      have found : p.rakeToGrant = some 1 := Plant.rakeToGrant_only waiting (fun m other => by
        match m with
        | 0 => exact first
        | 1 => exact absurd rfl other) (decide_eq_true (by omega))
      exact ⟨p, 31, firstRound found, served, .refl p, rfl, rfl⟩

/-- What a resumption of rake `n` looks at is the same. -/
structure Plant.ResumesAlike (n : Fin 2) (p q : Plant) : Prop where
  rake     : q.rake n = p.rake n
  claim    : q.claim (rakeHolder n) = p.claim (rakeHolder n)
  home     : q.homeActive n = p.homeActive n
  overload : q.overloadActive n = p.overloadActive n
  interval : q.intervalTime n = p.intervalTime n
  reverse  : q.reverseTime n = p.reverseTime n

theorem Plant.ResumesAlike.trans {n : Fin 2} {p q r : Plant} (first : Plant.ResumesAlike n p q)
    (second : Plant.ResumesAlike n q r) : Plant.ResumesAlike n p r :=
  ⟨second.rake.trans first.rake, second.claim.trans first.claim, second.home.trans first.home,
    second.overload.trans first.overload, second.interval.trans first.interval, second.reverse.trans first.reverse⟩

theorem Plant.Senses.resumesAlike {n : Fin 2} {p q : Plant} (senses : p.Senses q) (rake : q.rake n = p.rake n)
    (claim : q.claim (rakeHolder n) = p.claim (rakeHolder n)) : Plant.ResumesAlike n p q :=
  ⟨rake, claim, senses.1.active (homeLine n), senses.1.active (overloadLine n),
    senses.1.reads (fun p => p.intervalTime n) fun _ => rfl, senses.1.reads (fun p => p.reverseTime n) fun _ => rfl⟩

theorem Plant.Resumed.of_alike {n : Fin 2} {p q g t : Plant} (resumed : q.Resumed n g) (alike : Plant.ResumesAlike n p q)
    (rake : t.rake n = g.rake n) (claim : t.claim (rakeHolder n) = g.claim (rakeHolder n))
    (out : ∃ before more, t.out = before ++ q.resumeDraft n :: more) : p.Resumed n t := by
  obtain ⟨-, granted, held, rests, claimed, reverses, rakes⟩ := resumed
  unfold Plant.Rests at rests
  unfold Plant.rakingAgain at rakes
  unfold Plant.resumeDraft at out
  rw [alike.rake] at rests claimed reverses rakes out
  rw [alike.home] at rests claimed rakes
  rw [alike.claim] at claimed
  rw [alike.overload, alike.reverse] at rakes
  rw [alike.interval] at rests
  rw [alike.reverse] at reverses
  rw [← rake] at held rests reverses rakes
  rw [← claim] at granted rests claimed
  exact ⟨out, granted, held, rests, claimed, reverses, rakes⟩

/-- R29, R72: where the mains carry all, a suspended rake is resumed by the end of the event. -/
theorem Plant.conclude_resumes {p : Plant} (running : p.loading = false) (served : p.PumpsServed) (waits : p.rakesWait)
    (calm : p.mode.storm = false) (room : p.heldUnits + p.rakeWaitingUnits ≤ p.budget) {n : Fin 2}
    (waiting : (p.claim (rakeHolder n)).status = .waiting) (suspended : (p.rake n).state = .suspended) :
    p.Resumed n p.conclude := by
  obtain ⟨q, k, rounds, served', kept, rake, claim⟩ := Plant.serve_grants_each served waits room waiting
  obtain ⟨units, concluded⟩ := Plant.conclude_served running
  rw [rounds] at units concluded
  have resumed := Plant.resumed (p := q) (n := n) (by rw [rake]; exact suspended)
  have storm : (q.grantRake n).mode.storm = false := by
    rw [(kept.trans (q.grantRake_kept n)).acts.inputs.mode]
    exact calm
  obtain ⟨still, claimed⟩ := Plant.serve_rake_still (served'.of_samePumps (q.grantRake_samePumps n)) resumed.granted
    (.inr storm) k
  obtain ⟨before, more, out⟩ := resumed.out
  obtain ⟨more', out'⟩ := ((Plant.serve_kept _ k).trans concluded).1.2
  exact resumed.of_alike (kept.acts.senses.resumesAlike rake claim) ((units.rake n).trans still)
    ((units.claim _).trans claimed) ⟨before, more ++ more', by rw [out', out, List.append_assoc]; rfl⟩

/-! The change of the supply as a whole. -/

/-- What a change of the supply leaves within its event, be there a shed or none. -/
structure Plant.SupplyChanged (p : Plant) (generator : Bool) (q : Plant) : Prop where
  out     : ∃ more, q.out = p.out ++ p.supplyDraft generator :: more
  mode    : q.mode = { p.mode with
    supply := supplyOf generator
    loadShed := if (p.supplyTaken generator).budget < p.heldUnits then true else generator && p.mode.loadShed }
  within  : q.withinBudget
  point   : (q.alarms.points.get 33).condition = generator
  senses  : p.Senses q
  desired : q.desired = p.desired
  quiet   : (∀ n, p.faultActive n = false) → q.shadow = p.shadow ∧ q.corr = p.corr

theorem Plant.changeSupply_changed {p : Plant} (running : p.loading = false) (generator : Bool)
    (pumps : ∀ n, (p.claim (pumpHolder n)).status = .held → (p.pump n).state.inMotion = true) :
    p.SupplyChanged generator (p.supplyTaken generator).shed := by
  obtain ⟨told, mode, point, more, out⟩ := Plant.supplyTaken_taken running generator
  generalize isQ : p.supplyTaken generator = q at told mode point out
  have held : q.heldUnits = p.heldUnits := Plant.heldUnits_of_claims told.units.2.2.1
  by_cases above : q.budget < q.heldUnits
  · have whole := Plant.shed_whole above fun n holds => by
      rw [told.units.pump]
      rw [told.units.claim] at holds
      exact pumps n holds
    have senses := (told.senses.trans q.suspendRakes_kept.acts.senses).trans (whole.shed.acts.senses.trans whole.told.senses)
    obtain ⟨between, more', handed⟩ := whole.out
    have orders := q.suspendRakes_kept.2
    exact
      { out := ⟨more ++ between ++ q.shedDraft :: more', by rw [handed, out]; simp only [List.append_assoc, List.cons_append]⟩
        mode := by
          rw [whole.mode, mode, isQ, if_pos (by rw [← held]; exact above)]
        within := whole.within
        point := by
          rw [whole.points 33 (by decide)]
          exact point
        senses := senses
        desired := whole.told.orders.desired.trans (whole.shed.desired.trans (orders.desired.trans told.orders.desired))
        quiet := fun quiet => by
          have same : ∀ n, q.suspendRakes.faultActive n = false := fun n =>
            (q.suspendRakes_kept.acts.active _).trans ((told.senses.1.active _).trans (quiet n))
          obtain ⟨shadow, corr⟩ := whole.shed.quiet same
          exact ⟨whole.told.orders.shadow.trans (shadow.trans (orders.shadow.trans told.orders.shadow)),
            whole.told.orders.corr.trans (corr.trans (orders.corr.trans told.orders.corr))⟩ }
  · rw [Plant.shed_within (not_lt.mp above)]
    exact
      { out := ⟨more, out⟩
        mode := by rw [mode, isQ, if_neg (by rw [← held]; exact above)]
        within := not_lt.mp above
        point := point
        senses := told.senses
        desired := told.orders.desired
        quiet := fun _ => ⟨told.orders.shadow, told.orders.corr⟩ }

theorem settleLine_alike {p : Plant} (n : Fin 2) : Plant.ResumesAlike n p (p.settleLine 28) :=
  ⟨rfl, rfl, Plant.settleLine_active_ne p (by revert n; decide), Plant.settleLine_active_ne p (by revert n; decide), rfl, rfl⟩

/-- An entry handed by the end of an event is among those that the log unit takes (R109). -/
theorem finish_logs {s : State} {act : Plant → Plant} {q : Plant} {entry : Draft} (acted : act s.plant = q)
    (out : ∃ before more, q.out = before ++ entry :: more) : s.Logs (finish s (s.onPlant act)) entry := by
  obtain ⟨before, more, handed⟩ := out
  refine ⟨before, more, ?_⟩
  rw [finish_onPlant_log, finish_onPlant_plant, acted, handed]

/-- R30: what the shed of an event that changed the supply leaves, the end of the event included. -/
theorem shedEvent {s t : State} {q : Plant} (whole : q.ShedWhole q.shed) (running : q.loading = false)
    (left : Plant.Left q.shed.conclude t.plant) (logs : ∀ entry, (∃ before more, q.shed.conclude.out = before ++ entry :: more) →
      s.Logs t entry) :
    (t.plant.alarms.points.get 34).condition = true ∧
      ∃ stopped : List (Fin 6),
        stopped.Nodup ∧ stopped.Pairwise (fun n m => q.lastStartN m ≤ q.lastStartN n) ∧
        (∀ n, n ∈ stopped ↔ (q.pump n).state.inMotion = true ∧ (t.plant.pump n).state.inMotion = false) ∧
        s.Logs t { source := srcMode, kind := 0x14, urgent := false
                   detail := q.rakesInMotion.map srcScreen ++ stopped.map srcPump ++ detail2 q.budget } ∧
        (∀ n, n ∈ stopped → ∀ m, m ∉ stopped → (q.pump m).state.inMotion = true → q.lastStartN m ≤ q.lastStartN n) ∧
        ((∀ n, (q.pump n).state.inMotion = true → (q.claim (pumpHolder n)).status = .held) →
          q.heldUnits ≤ q.budget + q.rakeHeldUnits + q.unitsOf stopped ∧
          (stopped ≠ [] → q.budget + q.rakeHeldUnits + q.unitsOf stopped.dropLast < q.heldUnits)) := by
  obtain ⟨shed, told, mode, within, -, point, between, more, out⟩ := whole
  have same := q.suspendRakes_samePumps
  have starts (n : Fin 6) : q.suspendRakes.lastStartN n = q.lastStartN n := by
    unfold Plant.lastStartN
    rw [same.pump]
  have units (l : List (Fin 6)) : q.suspendRakes.unitsOf l = q.unitsOf l := by
    unfold Plant.unitsOf
    simp only [same.2.2.2]
  have budget : q.shedDone.1.budget = q.budget := (q.suspendRakes_kept.acts.trans shed.acts).inputs.budget
  have suspended : q.suspendRakes.heldUnits + q.rakeHeldUnits = q.heldUnits := by
    rw [q.heldUnits_split, q.suspendRakes.heldUnits_split, Plant.rakeHeldUnits_none q.suspendRakes_facts.2.1,
      Plant.pumpHeldUnits_of_claims same.2.2.2, Nat.add_zero]
  have pumps := told.units.pump
  have sections := (q.suspendRakes_kept.acts.trans shed.acts).inputs.sections
  obtain ⟨-, -, -, start, apart, order, moved, stopped, still, latest, -, tight, freed⟩ := shed
  refine ⟨?_, q.shedDone.2, apart, ?_, fun n => ⟨fun mem => ⟨?_, ?_⟩, fun both => ?_⟩, logs _ ?_, fun n mem m absent moving => ?_,
    fun held => ?_⟩
  · rw [left.alarms, Plant.conclude_point _ (by decide)]
    exact point running
  · exact order.imp fun {n m} le => by rwa [starts, starts] at le
  · rw [← same.pump]
    exact moved n mem
  · obtain ⟨out_, -, absent, gone⟩ := stopped n mem
    obtain ⟨pump, -, -⟩ := q.shed.conclude_pump_kept n (by rw [told.units.2.2.2.1]; exact absent)
      (by rw [told.units.claim, gone]; exact ClaimStatus.noConfusion)
    rw [left.pump, pump, pumps]
    exact out_
  · by_contra absent
    have moving : (q.shed.pump n).state.inMotion = true := by
      rw [pumps, (still n absent).1, same.pump]
      exact both.1
    have goes : (q.shed.conclude.pump n).state.inMotion = true := by
      rcases q.shed.conclude_pump n with kept | started
      · rw [kept]
        exact moving
      · exact started
    rw [left.pump, goes] at both
    exact Bool.noConfusion both.2
  · obtain ⟨later, appended⟩ := q.shed.conclude_kept.1.2
    refine ⟨q.out ++ between, more ++ later, ?_⟩
    rw [appended, out, List.append_assoc]
    unfold Plant.shedDraft
    rw [budget]
    rfl
  · rw [← starts, ← starts]
    exact latest n mem m absent (by rw [same.pump]; exact moving)
  · have held' : ∀ n, (q.suspendRakes.pump n).state.inMotion = true →
        (q.suspendRakes.claim (pumpHolder n)).status = .held := fun n moving => by
      rw [same.2.2.2]
      rw [same.pump] at moving
      exact held n moving
    have freed' := freed held'
    have within' : q.shedDone.1.heldUnits ≤ q.budget := by
      have same' : q.shed.budget = q.budget := Plant.budget_congr (by rw [mode])
        (told.senses.sections.trans sections)
      unfold Plant.withinBudget at within
      rwa [Plant.heldUnits_of_claims told.units.2.2.1, same'] at within
    refine ⟨?_, fun some_ => ?_⟩
    · rw [units] at freed'
      omega
    · have tight' := tight held' some_
      rw [units, q.suspendRakes_kept.acts.inputs.budget] at tight'
      omega

theorem Plant.budget_of_supply {p : Plant} {generator : Bool} (supply : p.mode.supply = supplyOf generator) :
    p.budget = bif generator then p.generatorBudget else p.mainsBudget := by
  unfold Plant.budget
  rw [supply]
  cases generator <;> rfl

/-- The end of the event moves no input and no order. -/
theorem LineEvent.concluded {s t : State} {l : Fin 30} {q : Plant} (event : LineEvent s t l q) :
    q.SameInputs t.plant ∧ q.SameOrders t.plant := by
  have kept := q.conclude_kept.emptied (marks := s.plant.marks)
  rwa [← event.plant] at kept

/-- Settles O17: `Plant.SupplyChanged` for every change, `shedEvent` above the budget, `Plant.conclude_resumes` within it. -/
theorem supplyChangeKeepsWithinBudget : Obligations.SupplyChangeKeepsWithinBudget := by
  intro s generator out running due before after supply held budget
  have changes : (s.plant.settleLine 28).active 28 ≠ s.plant.active 28 := by
    rw [show (s.plant.settleLine 28).active 28 = generator from after, show s.plant.active 28 = !generator from before]
    cases generator <;> decide
  have differs : supplyOf generator ≠ (s.plant.settleLine 28).mode.supply := by
    rw [show (s.plant.settleLine 28).mode.supply = supplyOf (!generator) from supply]
    cases generator <;> decide
  have running' : (s.plant.settleLine 28).loading = false := running
  have acts : (s.plant.settleLine 28).lineAct 28 ((s.plant.settleLine 28).active 28) =
      ((s.plant.settleLine 28).supplyTaken generator).shed := by
    rw [show (s.plant.settleLine 28).active 28 = generator from after]
    exact Plant.changeSupply_eq differs
  have event := lineEvent_of running changes acts
  have logs (entry : Draft) := finish_logs (s := s) (act := fun p => p.debounce 28) (entry := entry)
    (Plant.debounce_changes running changes |>.trans (congrArg Plant.conclude acts))
  have changed := Plant.changeSupply_changed running' generator held
  have taken := Plant.supplyTaken_taken running' generator
  have isBudget : ((s.plant.settleLine 28).supplyTaken generator).budget = budget := by
    rw [Plant.budget_of_supply (generator := generator) (by rw [taken.mode])]
    obtain ⟨mains, generator⟩ := Plant.budgets_of_sections taken.told.senses.sections
    rw [mains, generator]
    rfl
  have fault (n : Fin 6) : (s.plant.settleLine 28).faultActive n = s.plant.faultActive n :=
    Plant.settleLine_active_ne s.plant (by revert n; decide)
  have alike (n : Fin 2) := settleLine_alike (p := s.plant) n
  have run := debounceExpiry_event (s := s) (l := 28) (by decide) due
  generalize finish s (s.onPlant fun p => p.debounce 28) = t at event logs run
  obtain ⟨⟨more, handed⟩, mode, within, point, senses, desired, quiet⟩ := changed
  obtain ⟨told, mode', -, -⟩ := taken
  rw [isBudget] at mode
  generalize (s.plant.settleLine 28).supplyTaken generator = q at *
  have left := event.left
  obtain ⟨inputs, orders⟩ := event.concluded
  have heldUnits : q.heldUnits = s.plant.heldUnits := Plant.heldUnits_of_claims told.units.2.2.1
  have pumps (n : Fin 6) : q.pump n = s.plant.pump n := told.units.pump n
  have claims (h : Fin 8) : q.claim h = s.plant.claim h := told.units.claim h
  have outside : q.loading = false := by
    unfold Plant.loading at running ⊢
    rw [mode']
    exact running
  refine ⟨t, run, event.step _ ⟨more, ?_⟩, ?_, ?_, ?_, ?_, ?_, ?_, ?_, fun noFault => ?_, fun above => ?_,
    fun mains queue pumpsServed rakesWait calm room n waits suspended => ?_⟩
  · rw [handed, show (s.plant.settleLine 28).out = [] from out]
    unfold Plant.supplyDraft
    rw [show (s.plant.settleLine 28).mode.supply = supplyOf (!generator) from supply]
    rfl
  · exact inputs.mode.trans mode
  · exact Plant.withinBudget_left event.plant (Plant.conclude_within within)
  · rw [left.alarms, Plant.conclude_point _ (by decide)]
    exact point
  · exact inputs.weirs.trans senses.weirs
  · exact inputs.levels.trans senses.levels
  · exact inputs.clock.trans senses.clock
  · exact orders.desired.trans desired
  · obtain ⟨shadow, corr⟩ := quiet fun n => (fault n).trans (noFault n)
    exact ⟨orders.shadow.trans shadow, orders.corr.trans corr⟩
  · have above' : q.budget < q.heldUnits := by
      rw [isBudget, heldUnits]
      exact above
    have facts := shedEvent (Plant.shed_whole above' fun n holds => by
      rw [pumps]
      rw [claims] at holds
      exact held n holds) outside left logs
    simp only [isBudget, heldUnits, pumps, claims, Plant.lastStartN, Plant.unitsOf, Plant.rakeHeldUnits, Plant.rakesInMotion] at facts
    exact facts
  · have same : q.shed = q := Plant.shed_within (show q.heldUnits ≤ q.budget by rw [heldUnits, isBudget]; omega)
    rw [same] at left logs
    have units : q.rakeWaitingUnits = s.plant.rakeWaitingUnits := by
      unfold Plant.rakeWaitingUnits
      simp only [claims]
    have resumed := Plant.conclude_resumes (p := q) (n := n) outside
      ⟨told.units.2.2.2.1.trans queue, fun m => by rw [claims]; exact pumpsServed m⟩
      (fun m => by rw [claims, told.units.rake]; exact rakesWait m) (by rw [mode']; exact calm)
      (by rw [heldUnits, units, isBudget]; exact room) (by rw [claims]; exact waits)
      (by rw [told.units.rake]; exact suspended)
    have whole := resumed.of_alike ((alike n).trans (told.senses.resumesAlike (told.units.rake n) (told.units.claim _))) rfl rfl
      resumed.out
    have handed := logs _ whole.out
    obtain ⟨-, -, idle, rests, claimed, reverses, rakes⟩ := whole
    unfold Plant.Rests at rests
    rw [← left.rake, ← left.claim] at rests
    rw [← left.claim] at claimed
    rw [← left.rake] at reverses rakes
    refine ⟨handed, ?_, rests, claimed, reverses, rakes⟩
    rw [left.alarms, (Plant.conclude_announced outside).held]
    exact idle

end Sys2Proof.Machine
end

section
/-! A complete scan: the samples of the channels (R8 to R10): O21. -/

namespace Sys2Proof.Machine

/-- The channel after its code of a complete scan (R8 to R10). -/
def Plant.sampled (p : Plant) (c : Fin 8) (code : Nat) : Channel :=
  if code < p.lowCode c ∨ p.highCode c < code then (p.levels.channels.get c).bad else p.goodSample c code

theorem Plant.takeSample_eq (p : Plant) (c : Fin 8) (code : Nat) : p.takeSample c code = p.setChannel c (p.sampled c code) := by
  unfold Plant.takeSample Plant.sampled
  by_cases out : code < p.lowCode c ∨ p.highCode c < code
  · rw [if_pos out, if_pos (by simpa using out)]
  · rw [if_neg out, if_neg (by simpa using out)]

/-- A sample looks at its own channel and the settings. -/
theorem Plant.sampled_congr {p q : Plant} {c : Fin 8} (channel : q.levels.channels.get c = p.levels.channels.get c)
    (sections : q.sections = p.sections) (code : Nat) : q.sampled c code = p.sampled c code := by
  have reads {α : Type} (f : Plant → α) (looks : ∀ p : Plant, f p = f { Plant.reset with sections := p.sections }) : f q = f p := by
    rw [looks q, looks p, sections]
  unfold Plant.sampled Plant.goodSample
  simp only [Plant.filtered, channel, reads (fun p => p.lowCode c) fun _ => rfl, reads (fun p => p.highCode c) fun _ => rfl,
    reads (fun p => p.zero c) fun _ => rfl, reads (fun p => p.span c) fun _ => rfl]

/-- Each channel takes its own code. -/
theorem Plant.takeSamples_facts (code : Fin 8 → Nat) (l : List (Fin 8)) : ∀ p : Plant, l.Nodup →
    let q := l.foldl (fun q c => q.takeSample c (code c)) p
    q = { p with levels := { p.levels with channels := q.levels.channels } } ∧
      (∀ c ∈ l, q.levels.channels.get c = p.sampled c (code c)) ∧
      ∀ c ∉ l, q.levels.channels.get c = p.levels.channels.get c := by
  induction l with
  | nil => exact fun p _ => ⟨rfl, fun _ mem => (nomatch mem), fun _ _ => rfl⟩
  | cons d rest ih =>
    intro p distinct
    obtain ⟨absent, distinct⟩ := List.nodup_cons.mp distinct
    have own : (p.takeSample d (code d)).levels.channels.get d = p.sampled d (code d) := by
      rw [Plant.takeSample_eq]
      exact vset_get_same _ _ _
    have others {c : Fin 8} (other : c ≠ d) : (p.takeSample d (code d)).levels.channels.get c = p.levels.channels.get c := by
      rw [Plant.takeSample_eq]
      exact vset_get_ne _ _ other.symm
    have rest_ : p.takeSample d (code d) =
        { p with levels := { p.levels with channels := (p.takeSample d (code d)).levels.channels } } := by
      rw [Plant.takeSample_eq]
      rfl
    obtain ⟨whole, inside, outside⟩ := ih (p.takeSample d (code d)) distinct
    refine ⟨?_, fun c mem => ?_, fun c absent' => ?_⟩
    · have set (channels : Vector Channel 8) :
          ({ p.takeSample d (code d) with levels := { (p.takeSample d (code d)).levels with channels := channels } } : Plant) =
            { p with levels := { p.levels with channels := channels } } := by
        rw [Plant.takeSample_eq]
        rfl
      exact whole.trans (set _)
    · rcases List.mem_cons.mp mem with rfl | later
      · exact (outside c absent).trans own
      · have other : c ≠ d := fun same => absent (same ▸ later)
        exact (inside c later).trans (Plant.sampled_congr (others other) (by rw [rest_]) _)
    · obtain ⟨other, absent'⟩ := not_or.mp fun mem => absent' (List.mem_cons.mpr mem)
      exact (outside c absent').trans (others other)

theorem Plant.sampled_bad {p : Plant} {c : Fin 8} {code : Nat} (out : code < p.lowCode c ∨ p.highCode c < code) :
    p.sampled c code = (p.levels.channels.get c).bad := if_pos out

theorem Plant.sampled_good {p : Plant} {c : Fin 8} {code : Nat} (low : p.lowCode c ≤ code) (high : code ≤ p.highCode c) :
    p.sampled c code = p.goodSample c code := if_neg (by omega)

theorem Channel.bad_good {x : Channel} (good : x.state = .good) :
    x.bad = { x with state := .fault .badSample, ring := [], goodCount := 0, stale := true } := by
  unfold Channel.bad
  rw [good]

theorem Channel.bad_fault {x : Channel} (fault : x.state ≠ .good) :
    x.bad = { x with state := .fault .badSample, ring := [], goodCount := 0 } := by
  unfold Channel.bad
  split
  case h_1 good => exact absurd good fault
  case h_2 => rfl

theorem Plant.goodSample_good {p : Plant} {c : Fin 8} (good : (p.levels.channels.get c).state = .good) (code : Nat) :
    let was := p.levels.channels.get c
    let ring := was.ring.drop (was.ring.length - 3) ++ [code]
    p.goodSample c code = { was with ring := ring, stale := false, value := some (p.filtered c ring) } := by
  unfold Plant.goodSample
  dsimp only
  rw [good]

theorem Plant.goodSample_fourth {p : Plant} {c : Fin 8} (fault : (p.levels.channels.get c).state ≠ .good)
    (fourth : (p.levels.channels.get c).goodCount + 1 = 4) (code : Nat) :
    let ring := (p.levels.channels.get c).ring ++ [code]
    p.goodSample c code = { ring := ring, goodCount := 4, state := .good, stale := false, value := some (p.filtered c ring) } := by
  unfold Plant.goodSample
  dsimp only
  split
  case h_1 good => exact absurd good fault
  case h_2 => rw [if_pos fourth]

theorem Plant.goodSample_early {p : Plant} {c : Fin 8} (fault : (p.levels.channels.get c).state ≠ .good)
    (early : (p.levels.channels.get c).goodCount + 1 ≠ 4) (code : Nat) :
    let was := p.levels.channels.get c
    p.goodSample c code = { was with ring := was.ring ++ [code], goodCount := was.goodCount + 1 } := by
  unfold Plant.goodSample
  dsimp only
  split
  case h_1 good => exact absurd good fault
  case h_2 => rw [if_neg early]

/-- The level unit after a complete scan, before its conditions are handed (R6, R8). -/
def Plant.scanned (p : Plant) (codes : List Nat) : Plant :=
  allChannels.foldl (fun q c => q.takeSample c (codes.getD c.val 0))
    { p with levels := { p.levels with failCount := 0, scan := none } }

theorem Plant.scanSucceeded_eq (p : Plant) (codes : List Nat) :
    p.scanSucceeded codes = (p.scanned codes).handLevels.levelUpdated := by
  unfold Plant.scanSucceeded Plant.scanned
  rfl

theorem Plant.scanned_facts (p : Plant) (codes : List Nat) :
    p.scanned codes = { p with levels := (p.scanned codes).levels } ∧
      (p.scanned codes).levels.failCount = 0 ∧ (p.scanned codes).levels.scan = none ∧
      (p.scanned codes).levels.period = p.levels.period ∧
      ∀ c, (p.scanned codes).levels.channels.get c = p.sampled c (codes.getD c.val 0) := by
  obtain ⟨whole, inside, -⟩ := Plant.takeSamples_facts (fun c => codes.getD c.val 0) allChannels
    { p with levels := { p.levels with failCount := 0, scan := none } } (by decide)
  rw [show allChannels.foldl (fun q c => q.takeSample c (codes.getD c.val 0))
    { p with levels := { p.levels with failCount := 0, scan := none } } = p.scanned codes from rfl] at whole inside
  generalize p.scanned codes = q at whole inside
  refine ⟨?_, ?_, ?_, ?_, fun c => (inside c (mem_allChannels c)).trans (Plant.sampled_congr rfl rfl _)⟩
  · rw [whole]
  all_goals rw [whole]

end Sys2Proof.Machine
end

section
/-! The level-updated event after a complete scan: storm posture, the rakes and the weirs (R12, R32, R33, R64, R65). -/

namespace Sys2Proof.Machine

/-! The points that the event hands beside those of the units. -/

theorem Plant.handLevels_point (p : Plant) {j : Fin 40} (high : 30 ≤ j.val) :
    p.handLevels.alarms.points.get j = p.alarms.points.get j := by
  have apart (c : Fin 8) : j ≠ channelPoint c := fun same => by
    have : j.val = 21 + c.val := congrArg Fin.val same
    omega
  unfold Plant.handLevels
  dsimp only
  rw [Plant.hand_point_ne _ (fun same => absurd (same ▸ high) (by decide)),
    foldl_point j _ (fun q c => q.hand_point_ne (apart c) _)]

/-! The wet-well condition (R32, R33). -/

/-- The plant with the wet-well condition taken, before storm posture (R32). -/
def Plant.wellTaken (p : Plant) : Plant := { p with mode := { p.mode with wetWell := p.wetWellNow } }

theorem Plant.evaluateWetWell_same {p : Plant} (same : p.wetWellNow = p.mode.wetWell) : p.evaluateWetWell = p := if_pos same

theorem Plant.evaluateWetWell_changed {p : Plant} (changed : p.wetWellNow ≠ p.mode.wetWell) :
    p.evaluateWetWell = p.wellTaken.stormRecompute.hand 30 p.wetWellNow := if_neg changed

theorem Plant.evaluateWetWell_senses (p : Plant) : p.Senses p.evaluateWetWell := by
  by_cases same : p.wetWellNow = p.mode.wetWell
  · rw [Plant.evaluateWetWell_same same]
    exact (Plant.Acts.refl p).senses
  · rw [Plant.evaluateWetWell_changed same]
    exact ((p.setMode_senses _).trans (Plant.stormRecompute_senses p.wellTaken)).trans (Plant.hand_kept _ _ _).acts.senses

theorem Plant.wellTaken_storm (p : Plant) : p.wellTaken.stormRecompute.mode = { p.mode with
    wetWell := p.wetWellNow, storm := p.wetWellNow || p.mode.overflow || p.mode.floatHigh } := p.wellTaken.stormRecompute_mode

theorem Plant.evaluateWetWell_mode (p : Plant) : p.evaluateWetWell.mode = { p.mode with
    wetWell := p.wetWellNow
    storm := if p.wetWellNow = p.mode.wetWell then p.mode.storm
      else p.wetWellNow || p.mode.overflow || p.mode.floatHigh } := by
  by_cases same : p.wetWellNow = p.mode.wetWell
  · rw [Plant.evaluateWetWell_same same, if_pos same, same]
  · rw [Plant.evaluateWetWell_changed same, if_neg same, (Plant.hand_kept _ _ _).acts.inputs.mode, Plant.wellTaken_storm]

theorem Plant.evaluateWetWell_desired (p : Plant) : p.evaluateWetWell.desired = p.desired := by
  by_cases same : p.wetWellNow = p.mode.wetWell
  · rw [Plant.evaluateWetWell_same same]
  · rw [Plant.evaluateWetWell_changed same, (Plant.hand_kept _ _ _).2.desired, Plant.stormRecompute_desired]
    rfl

theorem Plant.evaluateWetWell_readings (p : Plant) : p.SameReadings p.evaluateWetWell := by
  by_cases same : p.wetWellNow = p.mode.wetWell
  · rw [Plant.evaluateWetWell_same same]
    exact .refl p
  · rw [Plant.evaluateWetWell_changed same]
    exact (Plant.SameReadings.trans (q := p.wellTaken) (Plant.readings_of_rakes fun _ => rfl)
      (Plant.stormRecompute_readings _)).trans (Plant.hand_readings _ _ _)

theorem Plant.evaluateWetWell_point (p : Plant) {j : Fin 40} (other : j ≠ 30) :
    p.evaluateWetWell.alarms.points.get j = p.alarms.points.get j := by
  by_cases same : p.wetWellNow = p.mode.wetWell
  · rw [Plant.evaluateWetWell_same same]
  · rw [Plant.evaluateWetWell_changed same, Plant.hand_point_ne _ other, p.wellTaken.stormRecompute_facts.2.2.2.2.1]
    rfl

/-- R33: LEVEL_HIGH is handed where the wet-well condition changes. -/
theorem Plant.evaluateWetWell_high {p : Plant} (running : p.loading = false) :
    (p.evaluateWetWell.alarms.points.get 30).condition =
      if p.wetWellNow = p.mode.wetWell then (p.alarms.points.get 30).condition else p.wetWellNow := by
  by_cases same : p.wetWellNow = p.mode.wetWell
  · rw [Plant.evaluateWetWell_same same, if_pos same]
  · rw [Plant.evaluateWetWell_changed same, if_neg same]
    refine Plant.hand_condition ?_ _ _
    unfold Plant.loading at running ⊢
    rw [Plant.wellTaken_storm]
    exact running

/-- R33: where storm posture changes with the wet-well condition its entry comes first. -/
theorem Plant.evaluateWetWell_out {p : Plant} (changed : p.wetWellNow ≠ p.mode.wetWell)
    (turns : (p.wetWellNow || p.mode.overflow || p.mode.floatHigh) ≠ p.mode.storm) :
    ∃ more, p.evaluateWetWell.out =
      p.out ++ p.wellTaken.stormDraft (p.wetWellNow || p.mode.overflow || p.mode.floatHigh) :: more := by
  obtain ⟨more, out⟩ := Plant.stormRecompute_out (p := p.wellTaken) turns
  obtain ⟨later, out'⟩ := (Plant.hand_kept p.wellTaken.stormRecompute 30 p.wetWellNow).1.2
  rw [Plant.evaluateWetWell_changed changed]
  exact ⟨more ++ later, by rw [out', out, List.append_assoc]; rfl⟩

/-- What the change of storm posture makes of a rake: it stays, or triggers in IDLE with STORM (R65). -/
theorem Plant.standingTriggers_rake (l : List (Fin 2)) (n : Fin 2) : ∀ p : Plant,
    (l.foldl (fun q n => q.standingTrigger n) p).rake n = p.rake n ∨
      (p.rake n).state = .idle ∧ ((l.foldl (fun q n => q.standingTrigger n) p).rake n).state = .waiting := by
  induction l with
  | nil => exact fun _ => .inl rfl
  | cons m rest ih =>
    intro p
    have one : (p.standingTrigger m).rake n = p.rake n ∨
        (p.rake n).state = .idle ∧ ((p.standingTrigger m).rake n).state = .waiting := by
      unfold Plant.standingTrigger
      split
      case isTrue both =>
        rw [Bool.and_eq_true, beq_iff_eq] at both
        by_cases own : n = m
        · subst own
          refine .inr ⟨both.2, ?_⟩
          show ((p.setRake n _).rake n).state = _
          rw [Plant.rake_setRake]
        · exact .inl ((p.triggerRake_only m .storm).1 n own)
      case isFalse => exact .inl rfl
    rw [List.foldl_cons]
    rcases ih (p.standingTrigger m) with kept | ⟨idle, waiting⟩
    · rw [kept]
      exact one
    · rcases one with kept | ⟨idle', waiting'⟩
      · exact .inr ⟨kept ▸ idle, waiting⟩
      · rw [idle] at waiting'
        cases waiting'

theorem Plant.stormRecompute_rake (p : Plant) (n : Fin 2) : p.stormRecompute.rake n = p.rake n ∨
    (p.rake n).state = .idle ∧ (p.stormRecompute.rake n).state = .waiting := by
  by_cases changed : (p.mode.wetWell || p.mode.overflow || p.mode.floatHigh) = p.mode.storm
  · rw [Plant.stormRecompute_of_posture changed.symm]
    exact .inl rfl
  · rw [Plant.stormRecompute_changed changed]
    have told := (Plant.limitsChanged_screens (p.stormTold (p.mode.wetWell || p.mode.overflow || p.mode.floatHigh))).rake n
    have rakes := Plant.standingTriggers_rake allRakes n
      (p.stormTold (p.mode.wetWell || p.mode.overflow || p.mode.floatHigh)).limitsChanged
    rw [told] at rakes
    exact rakes

theorem Plant.evaluateWetWell_rake (p : Plant) (n : Fin 2) : p.evaluateWetWell.rake n = p.rake n ∨
    (p.rake n).state = .idle ∧ (p.evaluateWetWell.rake n).state = .waiting := by
  by_cases same : p.wetWellNow = p.mode.wetWell
  · rw [Plant.evaluateWetWell_same same]
    exact .inl rfl
  · rw [Plant.evaluateWetWell_changed same, (Plant.hand_units _ _ _).rake]
    exact p.wellTaken.stormRecompute_rake n

/-! Storm posture through the weirs (R32). -/

/-- Storm posture is what its conditions make it. -/
def Plant.StormLaw (p : Plant) : Prop := p.mode.storm = (p.mode.wetWell || p.mode.overflow || p.mode.floatHigh)

theorem Plant.StormLaw.of_mode {p q : Plant} (law : p.StormLaw) (mode : q.mode = p.mode) : q.StormLaw := by
  unfold Plant.StormLaw at law ⊢
  rw [mode]
  exact law

theorem Plant.evaluateOverflow_storm (p : Plant) : p.evaluateOverflow.StormLaw := by
  unfold Plant.StormLaw
  rw [p.evaluateOverflow_facts.2.2.2.2.2.1]

/-- The weirs keep the law of storm posture, and bring it about where they move the overflow condition. -/
def Plant.StormFollows (p q : Plant) : Prop :=
  (p.StormLaw → q.StormLaw) ∧ (q.mode.overflow ≠ p.mode.overflow → q.StormLaw)

theorem Plant.stormFollows_of_mode {p q : Plant} (mode : q.mode = p.mode) : p.StormFollows q :=
  ⟨fun law => law.of_mode mode, fun moved => absurd (congrArg ModeUnit.overflow mode) moved⟩

theorem Plant.StormFollows.trans {p q r : Plant} (first : p.StormFollows q) (second : q.StormFollows r) : p.StormFollows r := by
  refine ⟨fun law => second.1 (first.1 law), fun moved => ?_⟩
  by_cases same : q.mode.overflow = p.mode.overflow
  · exact second.2 (same ▸ moved)
  · exact second.1 (first.2 same)

theorem Plant.weirLevel_storm (p : Plant) (n : Fin 3) : p.StormFollows (p.weirLevel n) :=
  Plant.WeirClosed.weirLevel
    { refl := fun _ => Plant.stormFollows_of_mode rfl
      trans := fun _ _ _ => .trans
      set := fun _ _ => Plant.stormFollows_of_mode rfl
      append := fun _ _ _ _ _ => Plant.stormFollows_of_mode rfl
      hand := fun p b => Plant.stormFollows_of_mode (p.hand_kept _ b).acts.inputs.mode
      overflow := fun p => ⟨fun _ => p.evaluateOverflow_storm, fun _ => p.evaluateOverflow_storm⟩ } p

theorem Plant.weirsLevel_storm (p : Plant) : p.StormFollows p.weirsLevel :=
  ((p.weirLevel_storm 0).trans (Plant.weirLevel_storm _ 1)).trans (Plant.weirLevel_storm _ 2)

/-! The rakes (R64, R65). -/

/-- The rake with the differential `d` taken (R64). -/
def Plant.takenRake (p : Plant) (n : Fin 2) (d : Int) : Rake :=
  { p.rake n with differential := d, counts := true
                  blinded := (p.rake n).state != .absent && decide ((p.blindLevel n : Int) ≤ d) }

theorem Plant.differentialNow_good {p : Plant} {n : Fin 2} {u v : Nat}
    (up : (p.levels.channels.get (upstreamChannel n)).state = .good)
    (upValue : (p.levels.channels.get (upstreamChannel n)).value = some u)
    (down : (p.levels.channels.get (downstreamChannel n)).state = .good)
    (downValue : (p.levels.channels.get (downstreamChannel n)).value = some v) :
    p.differentialNow n = some ((u : Int) - (v : Int)) := by
  unfold Plant.differentialNow
  dsimp only
  rw [up, upValue, down, downValue]

theorem Plant.rakeLevel_good {p : Plant} {n : Fin 2} {d : Int} (now : p.differentialNow n = some d) :
    p.rakeLevel n = if (p.rake n).state = .idle ∧ (p.diffTrigger n : Int) ≤ d
      then (p.setRake n (p.takenRake n d)).triggerRake n .differential else p.setRake n (p.takenRake n d) := by
  have taken : p.takeDifferential n = p.setRake n (p.takenRake n d) := by
    unfold Plant.takeDifferential
    dsimp only
    rw [now]
    rfl
  have triggers : (p.setRake n (p.takenRake n d)).diffTriggers n = true ↔
      (p.rake n).state = .idle ∧ (p.diffTrigger n : Int) ≤ d := by
    unfold Plant.diffTriggers
    rw [Plant.rake_setRake, Bool.and_eq_true, Bool.and_eq_true, beq_iff_eq, decide_eq_true_iff]
    exact ⟨fun all => ⟨all.1.1, all.2⟩, fun both => ⟨⟨both.1, rfl⟩, both.2⟩⟩
  unfold Plant.rakeLevel
  dsimp only
  rw [taken]
  exact if_congr triggers rfl rfl

theorem Plant.rakeLevel_only (p : Plant) (n : Fin 2) : Plant.OnlyRake n p (p.rakeLevel n) := by
  have taken : Plant.OnlyRake n p (p.takeDifferential n) := by
    unfold Plant.takeDifferential
    dsimp only
    split
    · exact p.setRake_only n _
    · exact p.setRake_only n _
  unfold Plant.rakeLevel
  dsimp only
  split
  · exact taken.trans (Plant.triggerRake_only _ n _)
  · exact taken

/-- Rake `n` takes the event as the plant stood before it. -/
theorem Plant.rakesLevel_rake (p : Plant) (n : Fin 2) : ∃ q : Plant, p.Kept q ∧ q.rake n = p.rake n ∧
    p.rakesLevel.rake n = (q.rakeLevel n).rake n ∧
    p.rakesLevel.claim (rakeHolder n) = (q.rakeLevel n).claim (rakeHolder n) := by
  match n with
  | 0 =>
    have only := (p.rakeLevel 0).rakeLevel_only 1
    exact ⟨p, .refl p, rfl, only.1 0 (by decide), only.2 _ (by decide)⟩
  | 1 => exact ⟨p.rakeLevel 0, p.rakeLevel_kept 0, (p.rakeLevel_only 0).1 1 (by decide), rfl, rfl⟩

theorem Plant.rakesLevel_kept (p : Plant) : p.Kept p.rakesLevel := (p.rakeLevel_kept 0).trans (Plant.rakeLevel_kept _ 1)

theorem Plant.rakeLevel_alarms (p : Plant) (n : Fin 2) : (p.rakeLevel n).alarms = p.alarms := by
  have taken : (p.takeDifferential n).alarms = p.alarms := by
    unfold Plant.takeDifferential
    dsimp only
    split <;> rfl
  unfold Plant.rakeLevel
  dsimp only
  split
  · exact taken
  · exact taken

/-- The rake has triggered with DIFFERENTIAL within the event: it waits, or its claim has been granted with no pump to serve. -/
def Plant.DiffCycle (p : Plant) (n : Fin 2) : Prop :=
  (p.rake n).trigger = .differential ∧
    ((p.rake n).state = .waiting ∧ (p.claim (rakeHolder n)).status = .waiting ∨
      ((p.rake n).state = .raking ∨ (p.rake n).state = .reversing) ∧ p.waitingPump = none ∧ p.claimToEnter = none)

theorem Plant.DiffCycle.busy {p : Plant} {n : Fin 2} (cycle : p.DiffCycle n) : (p.rake n).state ≠ .idle := by
  obtain ⟨-, ⟨waiting, -⟩ | ⟨raking | reversing, -⟩⟩ := cycle
  · rw [waiting]; exact RakeState.noConfusion
  · rw [raking]; exact RakeState.noConfusion
  · rw [reversing]; exact RakeState.noConfusion

theorem Plant.waitingPump_samePumps {p q : Plant} (same : p.SamePumps q) : q.waitingPump = p.waitingPump := by
  unfold Plant.waitingPump
  simp only [same.2.2.2]

theorem Plant.claimToEnter_samePumps {p q : Plant} (same : p.SamePumps q) : q.claimToEnter = p.claimToEnter := by
  unfold Plant.claimToEnter Plant.gateFree
  simp only [same.pump, same.2.1, same.2.2.1]

theorem Plant.DiffCycle.of_same {p q : Plant} {n : Fin 2} (cycle : p.DiffCycle n) (same : p.SamePumps q)
    (rake : q.rake n = p.rake n) (claim : q.claim (rakeHolder n) = p.claim (rakeHolder n)) : q.DiffCycle n := by
  unfold Plant.DiffCycle at cycle ⊢
  rw [rake, claim, Plant.waitingPump_samePumps same, Plant.claimToEnter_samePumps same]
  exact cycle

/-- A pump is served while the rake waits. -/
theorem Plant.DiffCycle.waits {p : Plant} {n : Fin 2} (cycle : p.DiffCycle n)
    (pump : p.waitingPump ≠ none ∨ p.claimToEnter ≠ none) :
    (p.rake n).state = .waiting ∧ (p.claim (rakeHolder n)).status = .waiting := by
  obtain ⟨-, waits | ⟨-, nobody, shut⟩⟩ := cycle
  · exact waits
  · exact (pump.elim (fun some_ => some_ nobody) fun some_ => some_ shut).elim

/-- R29, R67, R69: the grant of a rake that waits with DIFFERENTIAL. -/
theorem Plant.DiffCycle.granted {p : Plant} {n : Fin 2} (trigger : (p.rake n).trigger = .differential)
    (waiting : (p.rake n).state = .waiting) (nobody : p.waitingPump = none) (shut : p.claimToEnter = none) :
    (p.grantRake n).DiffCycle n := by
  have same := p.grantRake_samePumps n
  obtain ⟨rake, -⟩ := (p.setClaim (rakeHolder n) { p.claim (rakeHolder n) with status := .held }).startRake_facts n
  rw [← Plant.grantRake_waiting waiting] at rake
  refine ⟨by rw [rake]; exact trigger, .inr ⟨?_, (Plant.waitingPump_samePumps same).trans nobody,
    (Plant.claimToEnter_samePumps same).trans shut⟩⟩
  rw [rake]
  dsimp only
  split
  · exact .inr rfl
  · exact .inl rfl

theorem Plant.serveOnce_enters {p : Plant} {k : Fin 6} (nobody : p.waitingPump = none) (enters : p.claimToEnter = some k) :
    p.serveOnce = some (p.setClaim (pumpHolder k) { status := .waiting, units := p.pumpUnits k }) := by
  unfold Plant.serveOnce
  dsimp only
  rw [nobody]
  dsimp only
  rw [enters]

/-- R28, R29: a round of the load budget leaves the cycle of the rake to go on. -/
theorem Plant.DiffCycle.round {p q : Plant} {n : Fin 2} (cycle : p.DiffCycle n) (round : p.serveOnce = some q) : q.DiffCycle n := by
  have busy := cycle.busy
  have waits := cycle.waits
  have enters (k : Fin 6) (some_ : p.claimToEnter = some k) :
      (p.setClaim (pumpHolder k) { status := .waiting, units := p.pumpUnits k }).DiffCycle n := by
    obtain ⟨state, claim⟩ := waits (.inr (by rw [some_]; exact Option.some_ne_none k))
    refine ⟨cycle.1, .inl ⟨state, ?_⟩⟩
    rw [p.claim_setClaim_ne (pumpHolder_ne_rakeHolder k n)]
    exact claim
  rcases Plant.serveOnce_cases round with ⟨m, found, _, rfl⟩ | ⟨m, found, rfl⟩ | ⟨m, _, found, rfl⟩ | ⟨m, nobody, found, reached⟩ |
    ⟨m, found, rfl⟩
  · obtain ⟨state, claim⟩ := waits (.inl (by rw [found]; exact Option.some_ne_none m))
    have rake : (p.startPump m).rake n = p.rake n := congrArg (Vector.get · n) (p.startPump_rakes m)
    refine ⟨by rw [rake]; exact cycle.1, .inl ⟨by rw [rake]; exact state, ?_⟩⟩
    rw [Plant.claim_startPump, if_neg (pumpHolder_ne_rakeHolder m n)]
    exact claim
  · obtain ⟨state, claim⟩ := waits (.inl (by rw [found]; exact Option.some_ne_none m))
    obtain ⟨rake, claim'⟩ := p.suspendRakes_rake (n := n) (by rw [claim]; exact ClaimStatus.noConfusion)
    exact ⟨by rw [rake]; exact cycle.1, .inl ⟨by rw [rake]; exact state, by rw [claim']; exact claim⟩⟩
  · exact enters m found
  · cases enter : p.claimToEnter with
    | some k =>
      obtain rfl := Option.some.inj ((Plant.serveOnce_enters nobody enter).symm.trans round)
      exact enters k enter
    | none =>
      subst reached
      by_cases own : n = m
      · subst own
        have granted := Plant.rakeToGrant_waiting found
        obtain ⟨trigger, ⟨waiting, -⟩ | ⟨moving, -⟩⟩ := cycle
        · exact Plant.DiffCycle.granted trigger waiting nobody enter
        · have still : p.grantRake n = p := by
            unfold Plant.grantRake
            dsimp only
            rcases moving with state | state <;> rw [state]
          rw [still]
          exact ⟨trigger, .inr ⟨moving, nobody, enter⟩⟩
      · obtain ⟨rakes, claims⟩ := p.grantRake_only m
        exact cycle.of_same (p.grantRake_samePumps m) (rakes n own) (claims _ fun same => own (rakeHolder_inj same))
  · have other : n ≠ m := by
      rintro rfl
      exact busy (Plant.stormTrigger_idle found).2
    obtain ⟨rakes, claims⟩ := p.triggerRake_only m .storm
    exact cycle.of_same (p.triggerRake_samePumps m .storm) (rakes n other) (claims _ fun same => other (rakeHolder_inj same))

theorem Plant.DiffCycle.concludeAfter {p : Plant} {n : Fin 2} (cycle : p.DiffCycle n) (views : List Plant) :
    (p.concludeAfter views).DiffCycle n :=
  Plant.concludeAfter_induct (fun q => q.DiffCycle n)
    (fun _ _ _ units cycle => cycle.of_same units.samePumps (units.rake n) (units.claim _))
    (fun _ _ cycle round => cycle.round round) p views cycle

/-- A rake that is not idle goes through a change of storm posture as it is. -/
theorem Plant.stormRecompute_busy {p : Plant} {n : Fin 2} (busy : (p.rake n).state ≠ .idle) :
    p.stormRecompute.rake n = p.rake n ∧ p.stormRecompute.claim (rakeHolder n) = p.claim (rakeHolder n) := by
  by_cases changed : (p.mode.wetWell || p.mode.overflow || p.mode.floatHigh) = p.mode.storm
  · rw [Plant.stormRecompute_of_posture changed.symm]
    exact ⟨rfl, rfl⟩
  · rw [Plant.stormRecompute_changed changed]
    have told := Plant.limitsChanged_screens (p.stormTold (p.mode.wetWell || p.mode.overflow || p.mode.floatHigh))
    generalize (p.stormTold (p.mode.wetWell || p.mode.overflow || p.mode.floatHigh)).limitsChanged = q at told
    have rake : q.rake n = p.rake n := told.rake n
    have claim : q.claim (rakeHolder n) = p.claim (rakeHolder n) := told.claims n
    clear told
    suffices kept : ∀ l : List (Fin 2), (l.foldl (fun q n => q.standingTrigger n) q).rake n = p.rake n ∧
        (l.foldl (fun q n => q.standingTrigger n) q).claim (rakeHolder n) = p.claim (rakeHolder n) from kept _
    intro l
    induction l generalizing q with
    | nil => exact ⟨rake, claim⟩
    | cons m rest ih =>
      have one : (q.standingTrigger m).rake n = q.rake n ∧
          (q.standingTrigger m).claim (rakeHolder n) = q.claim (rakeHolder n) := by
        unfold Plant.standingTrigger
        split
        case isTrue both =>
          rw [Bool.and_eq_true, beq_iff_eq] at both
          have other : n ≠ m := by
            rintro rfl
            exact busy (rake ▸ both.2)
          obtain ⟨rakes, claims⟩ := q.triggerRake_only m .storm
          exact ⟨rakes n other, claims _ fun same => other (rakeHolder_inj same)⟩
        case isFalse => exact ⟨rfl, rfl⟩
      exact ih _ (one.1.trans rake) (one.2.trans claim)

/-- A rake that is not idle goes through the weirs' acts as it is. -/
def Plant.BusyKept (n : Fin 2) (p q : Plant) : Prop :=
  (p.rake n).state ≠ .idle → q.rake n = p.rake n ∧ q.claim (rakeHolder n) = p.claim (rakeHolder n)

theorem Plant.BusyKept.trans {n : Fin 2} {p q r : Plant} (first : Plant.BusyKept n p q) (second : Plant.BusyKept n q r) :
    Plant.BusyKept n p r := fun busy => by
  obtain ⟨rake, claim⟩ := first busy
  obtain ⟨rake', claim'⟩ := second (by rw [rake]; exact busy)
  exact ⟨rake'.trans rake, claim'.trans claim⟩

theorem Plant.weirLevel_busy (p : Plant) (k : Fin 3) (n : Fin 2) : Plant.BusyKept n p (p.weirLevel k) :=
  Plant.WeirClosed.weirLevel
    { refl := fun _ _ => ⟨rfl, rfl⟩
      trans := fun _ _ _ => .trans
      set := fun _ _ _ => ⟨rfl, rfl⟩
      append := fun _ _ _ _ _ _ => ⟨rfl, rfl⟩
      hand := fun p b _ => ⟨(p.hand_units _ b).rake n, (p.hand_units _ b).claim _⟩
      overflow := fun p busy => Plant.stormRecompute_busy (p := p.overflowTaken) busy } p

theorem Plant.weirsLevel_busy (p : Plant) (n : Fin 2) : Plant.BusyKept n p p.weirsLevel :=
  ((p.weirLevel_busy 0 n).trans (Plant.weirLevel_busy _ 1 n)).trans (Plant.weirLevel_busy _ 2 n)

end Sys2Proof.Machine
end

section
/-! Demands given and withdrawn with the desired count (R56, R57). -/

namespace Sys2Proof.Machine

/-! Demands given (R56). -/

/-- A demand could be given to the pump, but for its limit and its place in the rotation. -/
def Plant.askable (p : Plant) (n : Fin 6) : Bool :=
  ((p.pump n).state == .running && (p.pump n).deferred) || ((p.pump n).state == .off && !p.demand n)

def Plant.askableCount (p : Plant) : Nat := allPumps.countP fun n => p.askable n

theorem Plant.askableCount_le (p : Plant) : p.askableCount ≤ 6 := List.countP_le_length

theorem Plant.giveDemand_askable {p : Plant} {n : Fin 6} (next : p.nextToDemand = some n) :
    (p.giveDemand n).askableCount + 1 = p.askableCount := by
  obtain ⟨only, given, -, own, -⟩ := Plant.giveDemand_facts next
  have before : p.askable n = true := by
    unfold Plant.askable
    rcases Plant.nextToDemand_cases next with ⟨running, deferred⟩ | ⟨off, idle, -⟩
    · rw [running, deferred]; rfl
    · rw [off, idle]; rfl
  have after : (p.giveDemand n).askable n = false := by
    unfold Plant.askable
    rw [given]
    rcases Plant.nextToDemand_cases next with ⟨running, deferred⟩ | ⟨off, -, -⟩
    · rw [Plant.giveDemand_running running, Plant.pump_setPump_same]
      dsimp only
      rw [running]
      rfl
    · rcases own with kept | ⟨running, -⟩
      · rw [kept, off]; rfl
      · rw [off] at running; cases running
  refine (countP_insert (f := fun m => (p.giveDemand n).askable m) (g := fun m => p.askable m) after before
    (fun m other => ?_) allPumps_nodup (mem_allPumps n)).symm
  unfold Plant.askable
  rw [only.pumps m other, only.demands m other]

theorem Plant.giveDemand_count {p : Plant} {n : Fin 6} (next : p.nextToDemand = some n) :
    p.demandedCount ≤ (p.giveDemand n).demandedCount ∧ (p.giveDemand n).demandedCount ≤ p.demandedCount + 1 := by
  obtain ⟨only, given, -⟩ := Plant.giveDemand_facts next
  cases before : p.demand n with
  | false =>
    rw [Plant.demandedCount_given before given only.demands]
    omega
  | true =>
    have same : (p.giveDemand n).demandedCount = p.demandedCount := by
      unfold Plant.demandedCount
      congr 1
      funext m
      by_cases own : m = n
      · rw [own, given, before]
      · exact only.demands m own
    omega

/-- R56: what the rounds of demands given leave. -/
structure Plant.Raised (p r : Plant) : Prop where
  demands : ∀ n, p.demand n = true → r.demand n = true
  count   : r.demandedCount ≤ max p.demandedCount p.desired
  desired : r.desired = p.desired

theorem Plant.Raised.refl (p : Plant) : p.Raised p := ⟨fun _ given => given, le_max_left _ _, rfl⟩

theorem Plant.raiseDemands_raised (p : Plant) (k : Nat) : ∀ r : Plant, p.Raised r → p.Raised (r.raiseDemands k) := by
  induction k with
  | zero => exact fun _ raised => raised
  | succ k ih =>
    intro r raised
    unfold Plant.raiseDemands
    split
    case isTrue short =>
      split
      case h_1 n next =>
        obtain ⟨only, given, -, -, -, -, desired⟩ := Plant.giveDemand_facts next
        have grown := (Plant.giveDemand_count next).2
        refine ih _ ⟨fun m demand => ?_, ?_, desired.trans raised.desired⟩
        · by_cases own : m = n
          · rw [own]; exact given
          · rw [only.demands m own]; exact raised.demands m demand
        · rw [raised.desired] at short
          exact (by omega : _ ≤ p.desired).trans (le_max_right _ _)
      case h_2 => exact raised
    case isFalse => exact raised

/-- R56: the demands reach the desired count while a pump qualifies. -/
theorem Plant.raiseDemands_end (k : Nat) : ∀ r : Plant, r.askableCount ≤ k →
    (r.raiseDemands k).demandedCount < r.desired → (r.raiseDemands k).nextToDemand = none := by
  have asked {r : Plant} (n : Fin 6) (next : r.nextToDemand = some n) : 0 < r.askableCount := by
    have := Plant.giveDemand_askable next
    omega
  induction k with
  | zero =>
    intro r few _
    show r.nextToDemand = none
    cases next : r.nextToDemand with
    | none => rfl
    | some n => exact absurd (asked n next) (by omega)
  | succ k ih =>
    intro r few short
    unfold Plant.raiseDemands at short ⊢
    by_cases below : r.demandedCount < r.desired
    · rw [if_pos below] at short ⊢
      cases next : r.nextToDemand with
      | some n =>
        rw [next] at short
        dsimp only at short ⊢
        have fewer := Plant.giveDemand_askable next
        exact ih _ (by omega) (by rw [Plant.giveDemand_desired next]; exact short)
      | none =>
        rw [next] at short
        exact next
    · rw [if_neg below] at short
      exact absurd short below

theorem Plant.nextToDemand_none {r : Plant} (nobody : r.nextToDemand = none) (n : Fin 6) :
    ¬ ((r.pump n).state = .running ∧ (r.pump n).deferred = true) ∧
      (n ∈ r.rotation → (r.pump n).state = .off → r.demand n = true ∨ r.atLimit n = true) := by
  unfold Plant.nextToDemand at nobody
  split at nobody
  case h_1 => cases nobody
  case h_2 latest =>
    refine ⟨fun both => ?_, fun mem off => ?_⟩
    · have mem : n ∈ allPumps.filter fun n => (r.pump n).state == .running && (r.pump n).deferred :=
        List.mem_filter.mpr ⟨mem_allPumps n, by rw [both.1, both.2]; rfl⟩
      obtain ⟨m, found, -⟩ := r.latestStart_greatest (List.ne_nil_of_mem mem)
      exact (nomatch latest.symm.trans found)
    · have barred := List.find?_eq_none.mp nobody n mem
      rw [off] at barred
      cases demand : r.demand n with
      | true => exact .inl rfl
      | false =>
        refine .inr ?_
        rw [demand] at barred
        simpa using barred

/-! Demands withdrawn (R57). -/

/-- The plant with some demands withdrawn under R57: the queue's last, then the rotation's last in RESTING, then the
earliest start. -/
structure Plant.Fallen (p r : Plant) : Prop where
  demands  : ∀ n, r.demand n = true → p.demand n = true
  pumps    : ∀ n, r.demand n = true → (r.pump n).state = (p.pump n).state ∧ (r.pump n).lastStart = (p.pump n).lastStart
  queue    : r.queue.Nodup ∧ ∀ n, n ∈ r.queue ↔ (p.pump n).state = .off ∧ r.demand n = true
  rotation : ∀ n, n ∈ r.rotation ↔ n ∈ p.rotation
  order    : ∀ n m, p.demand n = true → r.demand n = false → r.demand m = true →
    ((p.pump n).state.inMotion = true → (p.pump m).state.inMotion = true ∧ p.lastStartN n ≤ p.lastStartN m) ∧
      ((p.pump n).state = .resting → (p.pump m).state ≠ .off)
  desired  : r.desired = p.desired

theorem mem_rotateLead (n : Fin 6) (l : List (Fin 6)) : n ∈ rotateLead l ↔ n ∈ l := by
  cases l with
  | nil => rfl
  | cons m rest =>
    unfold rotateLead
    rw [List.mem_append, List.mem_singleton, List.mem_cons, or_comm]

theorem Plant.setPump_rotation_mem (p : Plant) (n m : Fin 6) (x : Pump) : m ∈ (p.setPump n x).rotation ↔ m ∈ p.rotation := by
  unfold Plant.setPump
  dsimp only
  split
  · exact mem_rotateLead m p.rotation
  · exact Iff.rfl

theorem Plant.stopped_rotation_mem (p : Plant) (n m : Fin 6) (x : Pump) : m ∈ (p.stopped n x).rotation ↔ m ∈ p.rotation := by
  have same : (p.stopped n x).rotation = (p.setPump n x).rotation := (Plant.leaveQueue_kept (p.setPump n x) n).2.rotation
  rw [same]
  exact p.setPump_rotation_mem n m x

theorem Plant.stopPump_rotation_mem (p : Plant) (n m : Fin 6) (why : StopReason) :
    m ∈ (p.stopPump n why).rotation ↔ m ∈ p.rotation := by
  have first := Plant.stopped_rotation_mem (p.logStop n why) n m ((p.logStop n why).restingPump n (p.minOffTime n))
  cases fault : p.faultActive n with
  | false => rw [Plant.stopPump_rests fault]; exact first
  | true =>
    have trips : p.stopPump n why = ((p.logStop n why).stopped n ((p.logStop n why).restingPump n (p.minOffTime n))).trip n .fault :=
      Plant.enterResting_trips (p := p.logStop n why) fault _
    rw [trips, Plant.trip_eq]
    generalize (p.logStop n why).stopped n ((p.logStop n why).restingPump n (p.minOffTime n)) = q at first
    have second := q.stopped_rotation_mem n m (q.trippedPump n .fault)
    have set := (Plant.setRun_starts (q.stopped n (q.trippedPump n .fault)) n false).rotation
    rw [Plant.append_rotation, set]
    exact second.trans first

/-- R57: what the withdrawal of a demand leaves. -/
theorem Plant.withdrawDemand_facts {p : Plant} {n : Fin 6} (given : p.demand n = true) :
    (p.withdrawDemand n).demand n = false ∧ (∀ m, m ∈ (p.withdrawDemand n).rotation ↔ m ∈ p.rotation) ∧
      ((p.withdrawDemand n).queue = p.queue ∧ (p.pump n).state ≠ .off ∨
        (p.withdrawDemand n).queue = p.queue.filter fun m => m != n) := by
  have unset : p.withdrawDemand n = (p.setRun n false).demandCleared n := if_pos given
  have idle : (p.setRun n false).demand n = false := by rw [Plant.demand_setRun, if_pos rfl]
  have cleared := Plant.demandCleared_demand (p.setRun n false) n idle
  have starts := p.setRun_starts n false
  have pump : (p.setRun n false).pump n = p.pump n := congrArg (Vector.get · n) (p.setRun_pumps n false)
  rw [← unset] at cleared
  refine ⟨cleared, ?_⟩
  rw [unset]
  generalize p.setRun n false = q at starts pump
  have stops : (∀ m, m ∈ (q.stopPump n .demand).rotation ↔ m ∈ p.rotation) ∧
      (q.stopPump n .demand).queue = p.queue.filter fun m => m != n := by
    refine ⟨fun m => (q.stopPump_rotation_mem n m .demand).trans (by rw [starts.rotation]), ?_⟩
    rw [← starts.queue]
    exact (Plant.enterResting_out_of_motion (q.logStop n .demand) n (q.minOffTime n)).2.2.1
  unfold Plant.demandCleared
  split
  case h_1 =>
    refine ⟨fun m => ?_, .inr ?_⟩
    · rw [(q.leaveQueue_kept n).2.rotation, starts.rotation]
    · rw [Plant.leaveQueue_queue, starts.queue]
  case h_2 => exact ⟨stops.1, .inr stops.2⟩
  case h_3 running =>
    split
    · refine ⟨fun m => (q.setPump_rotation_mem n m _).trans (by rw [starts.rotation]), .inl ⟨?_, ?_⟩⟩
      · rw [Plant.setPump_queue, starts.queue]
      · rw [← pump, running]
        exact PumpState.noConfusion
    · exact ⟨stops.1, .inr stops.2⟩
  all_goals
    rename_i other
    refine ⟨fun m => by rw [starts.rotation], .inl ⟨starts.queue, ?_⟩⟩
    rw [← pump, other]
    exact PumpState.noConfusion

section
variable {p r : Plant}

theorem Plant.Fallen.start {n : Fin 6} (fallen : p.Fallen r) (given : r.demand n = true) : r.lastStartN n = p.lastStartN n := by
  unfold Plant.lastStartN
  rw [(fallen.pumps n given).2]

/-- R57: a demand more withdrawn, in its turn. -/
theorem Plant.Fallen.withdraw {n : Fin 6} (fallen : p.Fallen r) (given : r.demand n = true)
    (turn : ∀ m, r.demand m = true →
      ((p.pump n).state.inMotion = true → (p.pump m).state.inMotion = true ∧ p.lastStartN n ≤ p.lastStartN m) ∧
        ((p.pump n).state = .resting → (p.pump m).state ≠ .off)) :
    p.Fallen (r.withdrawDemand n) ∧ (r.withdrawDemand n).demandedCount + 1 = r.demandedCount := by
  have only := r.withdrawDemand_only n
  obtain ⟨idle, rotation, queue⟩ := Plant.withdrawDemand_facts given
  have still (m : Fin 6) (demand : (r.withdrawDemand n).demand m = true) : m ≠ n ∧ r.demand m = true := by
    have other : m ≠ n := by
      rintro rfl
      rw [idle] at demand
      cases demand
    exact ⟨other, only.demands m other ▸ demand⟩
  refine ⟨⟨fun m demand => ?_, fun m demand => ?_, ⟨?_, fun m => ?_⟩, fun m => (rotation m).trans (fallen.rotation m),
    fun k m asked gone demand => ?_, ?_⟩, ?_⟩
  · exact fallen.demands m (still m demand).2
  · obtain ⟨other, demand⟩ := still m demand
    rw [only.pumps m other]
    exact fallen.pumps m demand
  · rcases queue with ⟨same, -⟩ | filtered
    · rw [same]; exact fallen.queue.1
    · rw [filtered]; exact fallen.queue.1.filter _
  · by_cases own : m = n
    · subst own
      rw [idle]
      refine iff_of_false (fun mem => ?_) (fun both => Bool.false_ne_true both.2)
      rcases queue with ⟨same, other⟩ | filtered
      · rw [same, fallen.queue.2, ← (fallen.pumps m given).1] at mem
        exact other mem.1
      · rw [filtered] at mem
        exact (mem_filter_ne.mp mem).2 rfl
    · rw [only.queue m own, fallen.queue.2, only.demands m own]
  · obtain ⟨other, stands⟩ := still m demand
    by_cases own : k = n
    · rw [own]
      exact turn m stands
    · rw [only.demands k own] at gone
      exact fallen.order k m asked gone stands
  · exact (r.withdrawDemand_desired n).trans fallen.desired
  · exact (Plant.demandedCount_given idle given fun m other => (only.demands m other).symm).symm

/-- R57: the next demand withdrawn is in its turn. -/
theorem Plant.Fallen.next (fallen : p.Fallen r) (some_ : 0 < r.demandedCount)
    (states : ∀ n, p.demand n = true → (p.pump n).state = .off ∨ (p.pump n).state = .resting ∧ n ∈ p.rotation ∨
      (p.pump n).state.inMotion = true) :
    ∃ n, r.nextToWithdraw = some n ∧ r.demand n = true ∧ ∀ m, r.demand m = true →
      ((p.pump n).state.inMotion = true → (p.pump m).state.inMotion = true ∧ p.lastStartN n ≤ p.lastStartN m) ∧
        ((p.pump n).state = .resting → (p.pump m).state ≠ .off) := by
  unfold Plant.nextToWithdraw
  cases last : r.queue.getLast? with
  | some n =>
    obtain ⟨off, given⟩ := (fallen.queue.2 n).mp (List.mem_of_getLast? last)
    refine ⟨n, rfl, given, fun m _ => ⟨fun moving => ?_, fun resting => ?_⟩⟩
    · rw [off] at moving; cases moving
    · rw [off] at resting; cases resting
  | none =>
    have empty : r.queue = [] := List.getLast?_eq_none_iff.mp last
    have notOff (m : Fin 6) (given : r.demand m = true) : (p.pump m).state ≠ .off := fun off => by
      have mem := (fallen.queue.2 m).mpr ⟨off, given⟩
      rw [empty] at mem
      exact List.not_mem_nil mem
    dsimp only
    cases resting : (r.rotation.filter fun n => (r.pump n).state == .resting && r.demand n).getLast? with
    | some n =>
      have mem := (List.mem_filter.mp (List.mem_of_getLast? resting)).2
      rw [Bool.and_eq_true, beq_iff_eq] at mem
      obtain ⟨rests, given⟩ := mem
      rw [(fallen.pumps n given).1] at rests
      refine ⟨n, rfl, given, fun m given' => ⟨fun moving => ?_, fun _ => notOff m given'⟩⟩
      rw [rests] at moving; cases moving
    | none =>
      have none_ := List.getLast?_eq_none_iff.mp resting
      have moving (m : Fin 6) (given : r.demand m = true) : (p.pump m).state.inMotion = true := by
        rcases states m (fallen.demands m given) with off | ⟨rests, mem⟩ | moving
        · exact absurd off (notOff m given)
        · refine absurd (List.mem_filter.mpr ⟨(fallen.rotation m).mpr mem, ?_⟩) (none_ ▸ List.not_mem_nil)
          rw [(fallen.pumps m given).1, rests, given]
          rfl
        · exact moving
      have mem (m : Fin 6) (given : r.demand m = true) : m ∈ allPumps.filter fun n => (r.pump n).state.inMotion && r.demand n := by
        refine List.mem_filter.mpr ⟨mem_allPumps m, ?_⟩
        rw [(fallen.pumps m given).1, moving m given, given]
        rfl
      obtain ⟨k, -, asked⟩ := List.countP_pos_iff.mp some_
      obtain ⟨n, found, mem', least⟩ := r.earliestStart_least (List.ne_nil_of_mem (mem k asked))
      have given := (Bool.and_eq_true_iff.mp (List.mem_filter.mp mem').2).2
      refine ⟨n, found, given, fun m given' => ⟨fun _ => ⟨moving m given', ?_⟩, fun rests => ?_⟩⟩
      · rw [← fallen.start given, ← fallen.start given']
        exact least m (mem m given')
      · have moves := moving n given
        rw [rests] at moves
        cases moves

/-- R57: the demands fall to the desired count. -/
theorem Plant.Fallen.lower (states : ∀ n, p.demand n = true → (p.pump n).state = .off ∨
    (p.pump n).state = .resting ∧ n ∈ p.rotation ∨ (p.pump n).state.inMotion = true) (k : Nat) :
    ∀ r : Plant, p.Fallen r → p.desired ≤ r.demandedCount → r.demandedCount ≤ p.desired + k →
      p.Fallen (r.lowerDemands k) ∧ (r.lowerDemands k).demandedCount = p.desired := by
  induction k with
  | zero => exact fun r fallen enough few => ⟨fallen, Nat.le_antisymm few enough⟩
  | succ k ih =>
    intro r fallen enough few
    unfold Plant.lowerDemands
    by_cases above : r.desired < r.demandedCount
    · obtain ⟨n, next, given, turn⟩ := fallen.next (by omega) states
      obtain ⟨fallen', count⟩ := fallen.withdraw given turn
      rw [if_pos above, next]
      rw [fallen.desired] at above
      exact ih _ fallen' (by omega) (by omega)
    · rw [if_neg above]
      rw [fallen.desired] at above
      exact ⟨fallen, by omega⟩

end

end Sys2Proof.Machine
end

section
/-! The level-updated event in its parts (R12): O21. -/

namespace Sys2Proof.Machine

/-! The weirs where posture stays (R32, R83, R85). -/

/-- Storm posture and its conditions, the pump unit and the settings are as they were. -/
structure Plant.Still (p q : Plant) : Prop where
  units    : p.SameUnits q
  orders   : p.SameOrders q
  mode     : q.mode = p.mode
  sections : q.sections = p.sections

theorem Plant.Still.refl (p : Plant) : p.Still p := ⟨.refl p, .refl p, rfl, rfl⟩

theorem Plant.Still.trans {p q r : Plant} (first : p.Still q) (second : q.Still r) : p.Still r :=
  ⟨first.units.trans second.units, first.orders.trans second.orders, second.mode.trans first.mode,
    second.sections.trans first.sections⟩

theorem Plant.setWeir_still (p : Plant) (n : Fin 3) (w : Weir) : p.Still (p.setWeir n w) :=
  ⟨⟨rfl, rfl, rfl, rfl, rfl⟩, ⟨rfl, rfl, rfl, rfl⟩, rfl, rfl⟩

/-- The plant with weir `n` as `w`, an entry handed, and its record change taken by the alarm and mode units (R83, R85). -/
def Plant.recordMoved (p : Plant) (n : Fin 3) (w : Weir) (d : Draft) (b : Bool) : Plant :=
  ({ p.setWeir n w with out := p.out ++ [d] } : Plant).hand (overflowPoint n) b |>.evaluateOverflow

/-- A weir takes its event by setting itself, or with a record change (R83, R85). -/
def Plant.WeirShape (p : Plant) (n : Fin 3) (q : Plant) : Prop :=
  ∃ w, q = p.setWeir n w ∨ ∃ d b, q = p.recordMoved n w d b

theorem Plant.WeirShape.of_set {p : Plant} {n : Fin 3} {w : Weir} {q : Plant} (shape : (p.setWeir n w).WeirShape n q) :
    p.WeirShape n q := by
  obtain ⟨w', rfl | ⟨d, b, rfl⟩⟩ := shape
  · exact ⟨w', .inl (p.setWeir_setWeir n w w')⟩
  · refine ⟨w', .inr ⟨d, b, ?_⟩⟩
    unfold Plant.recordMoved
    rw [p.setWeir_setWeir n w w']
    rfl

theorem Plant.openRecord_shape (p : Plant) (n : Fin 3) : p.WeirShape n (p.openRecord n) :=
  ⟨_, .inr ⟨_, _, p.openRecord_eq n⟩⟩

theorem Plant.closeRecord_shape (p : Plant) (n : Fin 3) : p.WeirShape n (p.closeRecord n) := by
  cases opened : (p.weir n).openRecord with
  | none =>
    unfold Plant.closeRecord
    dsimp only
    rw [opened]
    exact ⟨_, .inl rfl⟩
  | some r => exact ⟨_, .inr ⟨_, _, Plant.closeRecord_eq opened⟩⟩

theorem Plant.enterRising_shape (p : Plant) (n : Fin 3) : p.WeirShape n (p.enterRising n) := by
  unfold Plant.enterRising
  dsimp only
  split
  · exact (Plant.openRecord_shape _ n).of_set
  · exact ⟨_, .inl rfl⟩

theorem Plant.enterFalling_shape (p : Plant) (n : Fin 3) : p.WeirShape n (p.enterFalling n) := by
  unfold Plant.enterFalling
  dsimp only
  split
  · exact (Plant.closeRecord_shape _ n).of_set
  · exact ⟨_, .inl rfl⟩

theorem Plant.weirGood_shape (p : Plant) (n : Fin 3) (v : Nat) : p.WeirShape n (p.weirGood n v) := by
  cases state : (p.weir n).state with
  | normal =>
    rw [Plant.weirGood_normal state]
    dsimp only
    split
    · exact (Plant.enterRising_shape _ n).of_set
    · exact ⟨_, .inl rfl⟩
  | rising =>
    rw [Plant.weirGood_rising state]
    split <;> exact ⟨_, .inl rfl⟩
  | overflowing =>
    rw [Plant.weirGood_overflowing state]
    split
    · exact (Plant.enterFalling_shape _ n).of_set
    · exact ⟨_, .inl rfl⟩
  | falling =>
    rw [Plant.weirGood_falling state]
    split <;> exact ⟨_, .inl rfl⟩

theorem Plant.weirFault_shape (p : Plant) (n : Fin 3) : p.WeirShape n (p.weirFault n) := by
  unfold Plant.weirFault
  dsimp only
  split
  · exact ⟨_, .inl (p.setWeir_self n).symm⟩
  all_goals exact ⟨_, .inl rfl⟩

theorem Plant.weirLevel_shape (p : Plant) (n : Fin 3) : p.WeirShape n (p.weirLevel n) := by
  unfold Plant.weirLevel
  dsimp only
  split
  · rw [Plant.deliverWeir_eq]
    refine Plant.WeirShape.of_set (w := p.deliveredWeir n) ?_
    split
    · exact Plant.weirGood_shape _ n _
    · exact Plant.weirFault_shape _ n
  · exact ⟨_, .inl (p.setWeir_self n).symm⟩

theorem Plant.anyRecordOpen_congr {p q : Plant} (same : ∀ n, (q.weir n).openRecord.isSome = (p.weir n).openRecord.isSome) :
    q.anyRecordOpen = p.anyRecordOpen := by
  unfold Plant.anyRecordOpen
  exact congrArg (fun f => allWeirs.any f) (funext same)

theorem Plant.PostureLaw.of_same {p q : Plant} (law : p.PostureLaw) (mode : q.mode = p.mode)
    (same : ∀ n, (q.weir n).openRecord.isSome = (p.weir n).openRecord.isSome) : q.PostureLaw := by
  refine ⟨?_, ?_⟩
  · rw [mode]
    exact law.storm
  · rw [mode, Plant.anyRecordOpen_congr same]
    exact law.overflow

/-- R32: where the law of posture holds and the records are open as before, the overflow condition is taken without a change. -/
theorem Plant.evaluateOverflow_still {p : Plant} (law : p.PostureLaw) : p.Still p.evaluateOverflow := by
  have mode : p.overflowTaken.mode = p.mode := by
    unfold Plant.overflowTaken
    rw [← law.overflow]
  have storm : p.overflowTaken.mode.storm =
      (p.overflowTaken.mode.wetWell || p.overflowTaken.mode.overflow || p.overflowTaken.mode.floatHigh) := by
    rw [mode]
    exact law.storm
  rw [Plant.evaluateOverflow_eq, Plant.stormRecompute_of_posture storm]
  exact ⟨⟨rfl, rfl, rfl, rfl, rfl⟩, ⟨rfl, rfl, rfl, rfl⟩, mode, rfl⟩

/-- R32: a weir whose record stays open or closed leaves posture as it was. -/
theorem Plant.weirLevel_still {p : Plant} {n : Fin 3} (law : p.PostureLaw)
    (same : ((p.weirLevel n).weir n).openRecord.isSome = (p.weir n).openRecord.isSome) :
    p.Still (p.weirLevel n) ∧ (p.weirLevel n).PostureLaw := by
  have all (m : Fin 3) : ((p.weirLevel n).weir m).openRecord.isSome = (p.weir m).openRecord.isSome := by
    by_cases own : m = n
    · rw [own]; exact same
    · rw [p.weirLevel_others own]
  suffices still : p.Still (p.weirLevel n) from ⟨still, law.of_same still.mode all⟩
  obtain ⟨w, shape | ⟨d, b, shape⟩⟩ := p.weirLevel_shape n
  · rw [shape]
    exact p.setWeir_still n w
  · let q : Plant := { p.setWeir n w with out := p.out ++ [d] }
    have moved : p.weirLevel n = (q.hand (overflowPoint n) b).evaluateOverflow := shape
    have kept := q.hand_kept (overflowPoint n) b
    have weirs : (q.hand (overflowPoint n) b).evaluateOverflow.weirs = q.weirs :=
      (Plant.evaluateOverflow_facts _).2.2.2.1.trans kept.acts.inputs.weirs
    have set : p.Still q := ⟨⟨rfl, rfl, rfl, rfl, rfl⟩, ⟨rfl, rfl, rfl, rfl⟩, rfl, rfl⟩
    have handed : p.Still (q.hand (overflowPoint n) b) :=
      set.trans ⟨q.hand_units _ b, kept.2, kept.acts.inputs.mode, kept.acts.inputs.sections⟩
    have lawful : (q.hand (overflowPoint n) b).PostureLaw := by
      refine law.of_same handed.mode fun m => ?_
      rw [← all m, moved]
      exact congrArg (fun weirs => (weirs.get m).openRecord.isSome) (kept.acts.inputs.weirs.trans weirs.symm)
    rw [moved]
    exact handed.trans (Plant.evaluateOverflow_still lawful)

/-- R32: where each weir's record stays open or closed the whole event of the weirs leaves posture as it was. -/
theorem Plant.weirsLevel_still {p : Plant} (law : p.PostureLaw)
    (same : ∀ n, (p.weirsLevel.weir n).openRecord.isSome = (p.weir n).openRecord.isSome) : p.Still p.weirsLevel := by
  have own (n : Fin 3) : ((p.weirLevel n).weir n).openRecord.isSome = (p.weir n).openRecord.isSome := by
    rw [← p.weirsLevel_weir]
    exact same n
  obtain ⟨still, law⟩ := Plant.weirLevel_still law (own 0)
  have first := p.weirLevel_acts 0
  have second := first.trans (Plant.weirLevel_acts (p.weirLevel 0) 1)
  have weir1 : (p.weirLevel 0).weir 1 = p.weir 1 := p.weirLevel_others (by decide)
  have weir2 : ((p.weirLevel 0).weirLevel 1).weir 2 = p.weir 2 :=
    (Plant.weirLevel_others _ (by decide)).trans (p.weirLevel_others (by decide))
  obtain ⟨still', law⟩ := Plant.weirLevel_still (n := 1) law (by
    rw [(first.alike weir1).weirLevel, weir1]
    exact own 1)
  obtain ⟨still'', -⟩ := Plant.weirLevel_still (n := 2) law (by
    rw [(second.alike weir2).weirLevel, weir2]
    exact own 2)
  exact (still.trans still').trans still''

/-! The pumps at the end of the event. -/

theorem Plant.startPump_deferred (p : Plant) (n : Fin 6) : ((p.startPump n).pump n).deferred = false := by
  obtain ⟨pump, -⟩ := p.pumpStarted_facts n
  rw [Plant.startPump_eq]
  split
  · rw [(Plant.enterRunning_facts _ n).1]
    rfl
  · rw [pump]
    rfl

/-- R39: the end of an event leaves a pump as it is, or has started it. -/
theorem Plant.concludeAfter_pump (p : Plant) (views : List Plant) (n : Fin 6) :
    (p.concludeAfter views).pump n = p.pump n ∨
      ((p.concludeAfter views).pump n).state.inMotion = true ∧ ((p.concludeAfter views).pump n).deferred = false := by
  refine Plant.concludeAfter_induct
    (fun q => q.pump n = p.pump n ∨ (q.pump n).state.inMotion = true ∧ (q.pump n).deferred = false)
    (fun q r _ units law => by rw [units.pump n]; exact law) (fun q r law round => ?_) p views (.inl rfl)
  rcases Plant.serveOnce_cases round with ⟨m, _, _, rfl⟩ | ⟨m, _, rfl⟩ | ⟨m, _, _, rfl⟩ | ⟨m, _, _, rfl⟩ | ⟨m, _, rfl⟩
  · by_cases own : m = n
    · subst own
      exact .inr ⟨(q.pump_startPump m m).1 rfl, q.startPump_deferred m⟩
    · rw [(q.pump_startPump m n).2 own]
      exact law
  · rw [q.suspendRakes_samePumps.pump n]; exact law
  · exact law
  · rw [(q.grantRake_samePumps m).pump n]; exact law
  · rw [(q.triggerRake_samePumps m .storm).pump n]; exact law

/-! The event's parts, as they stand in the plant that it leaves. -/

/-- The level-updated event, with its end (R12). -/
def Plant.leveled (p : Plant) (views : List Plant) : Plant :=
  p.evaluateWetWell.evaluateDesired.rakesLevel.weirsLevel.concludeAfter views

/-- What the event leaves of the inputs (R12, R32, R53). -/
structure Plant.LevelTaken (p q : Plant) : Prop where
  clock     : q.clock = p.clock
  levels    : q.levels = p.levels
  sections  : q.sections = p.sections
  debounced : q.lines.debounced = p.lines.debounced
  mode      : q.mode = { p.mode with wetWell := p.wetWellNow, overflow := q.mode.overflow, storm := q.mode.storm }
  desired   : q.desired = p.desiredNow
  storm     : q.mode.wetWell ≠ p.mode.wetWell ∨ q.mode.overflow ≠ p.mode.overflow ∨ p.StormLaw → q.StormLaw

theorem Plant.LevelTaken.loading {p q : Plant} (taken : p.LevelTaken q) : q.loading = p.loading := by
  unfold Plant.loading
  rw [taken.mode]

theorem Plant.evaluateWetWell_storm {p : Plant} (turns : p.wetWellNow ≠ p.mode.wetWell ∨ p.StormLaw) :
    p.evaluateWetWell.StormLaw := by
  unfold Plant.StormLaw at turns ⊢
  rw [p.evaluateWetWell_mode]
  by_cases same : p.wetWellNow = p.mode.wetWell
  · rw [if_pos same, same]
    exact turns.resolve_left (not_not_intro same)
  · rw [if_neg same]

theorem Plant.leveled_taken (p : Plant) (views : List Plant) : p.LevelTaken (p.leveled views) := by
  have well := p.evaluateWetWell_senses
  have mode := p.evaluateWetWell_mode
  have wellDesired := p.evaluateWetWell_desired
  have storm := p.evaluateWetWell_storm
  unfold Plant.leveled
  generalize p.evaluateWetWell = x at *
  have demands := x.evaluateDesired_acts
  have desired : x.evaluateDesired.desired = p.desiredNow :=
    x.evaluateDesired_desired.trans (Plant.desiredNow_congr well.levels well.sections well.1.debounced wellDesired)
  generalize x.evaluateDesired = d at *
  have acts := (demands.trans d.rakesLevel_kept.acts)
  have orders := d.rakesLevel_kept.2.desired.trans desired
  generalize d.rakesLevel = r at *
  have weirs := r.weirsLevel_acts
  have follows := r.weirsLevel_storm
  generalize r.weirsLevel = w at *
  have kept := w.concludeAfter_kept views
  have inputs := kept.acts.inputs
  have modeR : r.mode = x.mode := acts.inputs.mode
  have overflowX : x.mode.overflow = p.mode.overflow := by rw [mode]
  exact
    { clock := inputs.clock.trans (weirs.clock.trans (acts.inputs.clock.trans well.clock))
      levels := inputs.levels.trans (weirs.levels.trans (acts.inputs.levels.trans well.levels))
      sections := inputs.sections.trans (weirs.sections.trans (acts.inputs.sections.trans well.sections))
      debounced := inputs.debounced.trans (weirs.debounced.trans (acts.inputs.debounced.trans well.1.debounced))
      mode := by
        rw [inputs.mode]
        refine weirs.mode.trans ?_
        rw [modeR, mode]
      desired := kept.2.desired.trans (weirs.desired.trans orders)
      storm := fun turns => by
        refine Plant.StormLaw.of_mode ?_ inputs.mode
        by_cases moved : w.mode.overflow = r.mode.overflow
        · refine follows.1 (Plant.StormLaw.of_mode (storm ?_) modeR)
          rw [inputs.mode, moved, modeR, overflowX] at turns
          rw [weirs.mode, modeR, mode] at turns
          dsimp only at turns
          rcases turns with well | same | law
          · exact .inl well
          · exact absurd rfl same
          · exact .inr law
        · exact follows.2 moved }

/-- The entries of the event follow those of the wet-well condition (R32). -/
theorem Plant.leveled_out (p : Plant) (views : List Plant) : ∃ more, (p.leveled views).out = p.evaluateWetWell.out ++ more := by
  unfold Plant.leveled
  generalize p.evaluateWetWell = x
  obtain ⟨more, out⟩ := (x.evaluateDesired_acts.trans x.evaluateDesired.rakesLevel_kept.acts).2
  generalize x.evaluateDesired.rakesLevel = r at *
  obtain ⟨more', out'⟩ := r.weirsLevel_acts.out
  obtain ⟨more'', out''⟩ := (r.weirsLevel.concludeAfter_kept views).1.2
  exact ⟨more ++ more' ++ more'', by rw [out'', out', out]; simp only [List.append_assoc]⟩

theorem Plant.leveled_announced {p : Plant} (running : p.loading = false) (views : List Plant) :
    (p.leveled views).Announced := by
  have loading := (p.leveled_taken views).loading.trans running
  unfold Plant.leveled at loading ⊢
  generalize p.evaluateWetWell.evaluateDesired.rakesLevel.weirsLevel = w at loading ⊢
  have before := (w.concludeAfter_kept views).loading
  rw [loading] at before
  exact Plant.concludeAfter_announced before.symm views

theorem Plant.leveled_weir (p : Plant) (views : List Plant) (n : Fin 3) : (p.leveled views).weir n = (p.weirLevel n).weir n := by
  have well := p.evaluateWetWell_senses
  unfold Plant.leveled
  generalize p.evaluateWetWell = x at *
  have acts := x.evaluateDesired_acts.trans x.evaluateDesired.rakesLevel_kept.acts
  generalize x.evaluateDesired.rakesLevel = r at *
  have kept := r.weirsLevel.concludeAfter_kept views
  have same : (r.weirsLevel.concludeAfter views).weir n = r.weirsLevel.weir n :=
    congrArg (Vector.get · n) kept.acts.inputs.weirs
  rw [same, r.weirsLevel_weir]
  refine Plant.SeesAlike.weirLevel ⟨acts.inputs.clock.trans well.clock, acts.inputs.levels.trans well.levels,
    acts.inputs.sections.trans well.sections, ?_⟩
  exact congrArg (Vector.get · n) (acts.inputs.weirs.trans well.weirs)

theorem Plant.rakesLevel_alarms (p : Plant) : p.rakesLevel.alarms = p.alarms :=
  (Plant.rakeLevel_alarms _ 1).trans (p.rakeLevel_alarms 0)

theorem Plant.leveled_point (p : Plant) (views : List Plant) {j : Fin 40} (low : 21 ≤ j.val) (high : j.val ≤ 30) :
    (p.leveled views).alarms.points.get j = p.evaluateWetWell.alarms.points.get j := by
  have apart (n : Fin 3) : j ≠ overflowPoint n := fun same => by
    have : j.val = 18 + n.val := congrArg Fin.val same
    omega
  unfold Plant.leveled
  rw [Plant.concludeAfter_point _ views (by revert j; decide), Plant.weirsLevel_point _ apart, Plant.rakesLevel_alarms,
    Plant.evaluateDesired_alarms]

/-! The rakes through the event (R64, R65). -/

/-- The rake waits with DIFFERENTIAL (R65). -/
structure Plant.WaitsDiff (p : Plant) (n : Fin 2) : Prop where
  trigger : (p.rake n).trigger = .differential
  state   : (p.rake n).state = .waiting
  claim   : (p.claim (rakeHolder n)).status = .waiting

/-- The plant in which rake `n` takes the event: the pump unit has acted, and storm posture with the wet well. -/
theorem Plant.leveled_rake (p : Plant) (views : List Plant) (n : Fin 2) : ∃ q : Plant,
    p.evaluateWetWell.evaluateDesired.Kept q ∧ q.rake n = p.evaluateWetWell.rake n ∧
    ((q.rakeLevel n).rake n).SameReadings ((p.leveled views).rake n) ∧
    ((q.rakeLevel n).WaitsDiff n → (p.leveled views).DiffCycle n) := by
  obtain ⟨q, kept, rake, reached, claim⟩ := p.evaluateWetWell.evaluateDesired.rakesLevel_rake n
  unfold Plant.leveled
  refine ⟨q, kept, rake.trans (p.evaluateWetWell.evaluateDesired_screens.rake n), ?_, fun waits => ?_⟩
  · have readings := (Plant.weirsLevel_readings p.evaluateWetWell.evaluateDesired.rakesLevel).trans
      (Plant.concludeAfter_readings _ views) n
    rw [reached] at readings
    exact readings
  · generalize p.evaluateWetWell.evaluateDesired.rakesLevel = r at reached claim
    have busy : (r.rake n).state ≠ .idle := by
      rw [reached, waits.state]
      exact RakeState.noConfusion
    obtain ⟨rake', claim'⟩ := r.weirsLevel_busy n busy
    refine Plant.DiffCycle.concludeAfter ?_ views
    unfold Plant.DiffCycle
    rw [rake', claim', reached, claim]
    exact ⟨waits.trigger, .inl ⟨waits.state, waits.claim⟩⟩

theorem Plant.takenRake_waits (p : Plant) (n : Fin 2) (d : Int) :
    ((p.setRake n (p.takenRake n d)).triggerRake n .differential).WaitsDiff n := by
  have rake : ((p.setRake n (p.takenRake n d)).triggerRake n .differential).rake n = { p.takenRake n d with
      state := .waiting, trigger := .differential, interval := .stopped
      hold := .running (p.maximumHold n) } := by
    show ((p.setRake n (p.takenRake n d)).setRake n _).rake n = _
    rw [Plant.rake_setRake, Plant.rake_setRake]
    rfl
  refine ⟨by rw [rake], by rw [rake], ?_⟩
  have claim : ((p.setRake n (p.takenRake n d)).triggerRake n .differential).claim (rakeHolder n) =
      { status := .waiting, units := p.rakeUnits n } := Plant.claim_setClaim_same _ _ _
  rw [claim]

theorem Plant.rakeLevel_taken {p : Plant} {n : Fin 2} {d : Int} (now : p.differentialNow n = some d) :
    (p.takenRake n d).SameReadings ((p.rakeLevel n).rake n) := by
  have taken := p.rake_setRake n (p.takenRake n d)
  rw [Plant.rakeLevel_good now]
  split
  · have readings := (p.setRake n (p.takenRake n d)).triggerRake_readings n .differential n
    rw [taken] at readings
    exact readings
  · rw [taken]
    exact ⟨rfl, rfl, rfl⟩

/-- What the event makes of rake `n` (R64, R65). -/
structure Plant.RakeLeveled (p q : Plant) (n : Fin 2) : Prop where
  blind : (p.levels.channels.get (upstreamChannel n)).state ≠ .good ∨
    (p.levels.channels.get (downstreamChannel n)).state ≠ .good →
    (q.rake n).counts = false ∧ (q.rake n).differential = (p.rake n).differential ∧ (q.rake n).blinded = (p.rake n).blinded
  good  : ∀ d, p.differentialNow n = some d → (q.rake n).counts = true ∧ (q.rake n).differential = d ∧
    (q.rake n).blinded = ((p.rake n).state != .absent && decide ((p.blindLevel n : Int) ≤ d))
  waits : ∀ d, p.differentialNow n = some d → p.evaluateWetWell = p → (p.rake n).state = .idle →
    (p.diffTrigger n : Int) ≤ d → q.DiffCycle n

theorem Plant.differentialNow_congr {p q : Plant} (levels : q.levels = p.levels) (n : Fin 2) :
    q.differentialNow n = p.differentialNow n := by
  unfold Plant.differentialNow
  rw [levels]

theorem Plant.leveled_rakeLeveled (p : Plant) (views : List Plant) (n : Fin 2) : p.RakeLeveled (p.leveled views) n := by
  obtain ⟨q, kept, rake, readings, cycle⟩ := p.leveled_rake views n
  have well := p.evaluateWetWell_senses
  have acts := p.evaluateWetWell.evaluateDesired_acts.trans kept.acts
  have levels : q.levels = p.levels := acts.inputs.levels.trans well.levels
  have sections : q.sections = p.sections := acts.inputs.sections.trans well.sections
  have reads {α : Type} (f : Plant → α) (looks : ∀ p : Plant, f p = f { Plant.reset with sections := p.sections }) : f q = f p := by
    rw [looks q, looks p, sections]
  have before := p.evaluateWetWell_readings n
  have absent : ((q.rake n).state != .absent) = ((p.rake n).state != .absent) := by
    rw [rake]
    rcases p.evaluateWetWell_rake n with same | ⟨idle, waiting⟩
    · rw [same]
    · rw [idle, waiting]
      rfl
  refine ⟨fun blind => ?_, fun d now => ?_, fun d now same idle trigger => cycle ?_⟩
  · rw [Plant.rakeLevel_blind n (by rw [levels]; exact blind)] at readings
    unfold Plant.uncounted at readings
    rw [Plant.rake_setRake, rake] at readings
    exact ⟨readings.counts, readings.differential.trans before.differential, readings.blinded.trans before.blinded⟩
  · have taken := Plant.rakeLevel_taken ((Plant.differentialNow_congr levels n).trans now)
    refine ⟨readings.counts.trans taken.counts, readings.differential.trans taken.differential,
      readings.blinded.trans (taken.blinded.trans ?_)⟩
    show ((q.rake n).state != .absent && decide ((q.blindLevel n : Int) ≤ d)) = _
    rw [absent, reads (fun p => p.blindLevel n) fun _ => rfl]
  · rw [same] at rake
    have level := Plant.rakeLevel_good ((Plant.differentialNow_congr levels n).trans now)
    rw [if_pos ⟨by rw [rake]; exact idle, by rw [reads (fun p => p.diffTrigger n) fun _ => rfl]; exact trigger⟩] at level
    rw [level]
    exact q.takenRake_waits n d

/-! The pumps through the event, where posture stays (R56, R57). -/

/-- What the rest of the event leaves of the pumps as level control has left them. -/
structure Plant.PumpsFollow (p q : Plant) : Prop where
  pump     : ∀ n, q.pump n = p.pump n ∨ (q.pump n).state.inMotion = true ∧ (q.pump n).deferred = false
  demand   : ∀ n, q.demand n = p.demand n
  rotation : q.rotation = p.rotation
  desired  : q.desired = p.desired
  limit    : ∀ n, q.pump n = p.pump n → q.atLimit n = p.atLimit n

theorem Plant.rakeLevel_samePumps (p : Plant) (n : Fin 2) : p.SamePumps (p.rakeLevel n) := by
  have taken : p.SamePumps (p.takeDifferential n) := by
    unfold Plant.takeDifferential
    dsimp only
    split <;> exact p.setRake_samePumps n _
  unfold Plant.rakeLevel
  dsimp only
  split
  · exact taken.trans (Plant.triggerRake_samePumps _ n _)
  · exact taken

theorem Plant.currentLimit_congr {p q : Plant} (mode : q.mode = p.mode) (sections : q.sections = p.sections) (n : Fin 6) :
    q.currentLimit n = p.currentLimit n := by
  have reads {α : Type} (f : Plant → α) (looks : ∀ p : Plant, f p = f { Plant.reset with sections := p.sections }) : f q = f p := by
    rw [looks q, looks p, sections]
  unfold Plant.currentLimit
  rw [reads (fun p => p.startsPerHour n) fun _ => rfl, reads Plant.stormAllowance fun _ => rfl, mode]

section
variable {p : Plant} {views : List Plant}

/-- R32: where posture stays the event is level control, and rounds that leave its pumps to it. -/
theorem Plant.leveled_pumps (law : p.PostureLaw) (well : (p.leveled views).mode.wetWell = p.mode.wetWell)
    (records : ∀ n, ((p.leveled views).weir n).openRecord.isSome = (p.weir n).openRecord.isSome) :
    Plant.PumpsFollow p.evaluateDesired (p.leveled views) := by
  have same : p.evaluateWetWell = p := by
    refine Plant.evaluateWetWell_same ?_
    rw [← well, (p.leveled_taken views).mode]
  have judged (n : Fin 3) : ((p.weirLevel n).weir n).openRecord.isSome = (p.weir n).openRecord.isSome := by
    rw [← p.leveled_weir views]
    exact records n
  unfold Plant.leveled
  rw [same]
  have acts := p.evaluateDesired_acts
  generalize p.evaluateDesired = d at acts
  have kept := d.rakesLevel_kept
  have rakes : d.SamePumps d.rakesLevel := (d.rakeLevel_samePumps 0).trans (Plant.rakeLevel_samePumps _ 1)
  have inputs := (acts.trans kept.acts).inputs
  generalize d.rakesLevel = r at kept rakes inputs
  have weirs (n : Fin 3) : r.weir n = p.weir n := congrArg (Vector.get · n) inputs.weirs
  have still : r.Still r.weirsLevel := by
    refine Plant.weirsLevel_still (law.of_same inputs.mode fun n => by rw [weirs]) fun n => ?_
    rw [r.weirsLevel_weir, weirs, Plant.SeesAlike.weirLevel ⟨inputs.clock, inputs.levels, inputs.sections, weirs n⟩]
    exact judged n
  generalize r.weirsLevel = w at still
  have ends := w.concludeAfter_kept views
  have pumps (n : Fin 6) : w.pump n = d.pump n := (still.units.pump n).trans (rakes.pump n)
  have limits (n : Fin 6) : (w.concludeAfter views).currentLimit n = d.currentLimit n :=
    Plant.currentLimit_congr (ends.acts.inputs.mode.trans (still.mode.trans kept.acts.inputs.mode))
      (ends.acts.inputs.sections.trans (still.sections.trans kept.acts.inputs.sections)) n
  exact
    { pump := fun n => by rw [← pumps]; exact w.concludeAfter_pump views n
      demand := fun n => (Plant.demand_of_shadow ends.2.shadow n).trans
        ((Plant.demand_of_shadow still.orders.shadow n).trans (Plant.demand_of_shadow kept.2.shadow n))
      rotation := ends.2.rotation.trans (still.orders.rotation.trans kept.2.rotation)
      desired := ends.2.desired.trans (still.orders.desired.trans kept.2.desired)
      limit := fun n same => by
        unfold Plant.atLimit
        rw [limits]
        exact congrArg (fun x : Pump => decide (d.currentLimit n ≤ x.history.length)) same }

end

theorem Plant.demandedCount_congr {p q : Plant} (same : ∀ n, q.demand n = p.demand n) : q.demandedCount = p.demandedCount := by
  unfold Plant.demandedCount
  exact congrArg (fun f => allPumps.countP f) (funext same)

section
variable {p q : Plant}

theorem Plant.evaluateDesired_auto (auto : p.mode.mode ≠ .localControl) : p.evaluateDesired = p.putDesired p.desiredNow := by
  have outside : p.inLocal = false := beq_eq_false_iff_ne.mpr auto
  refine if_pos ?_
  rw [outside, Bool.not_false, Bool.or_true]

/-- R56: in LOCAL a rise of the desired count. -/
theorem Plant.evaluateDesired_rises (inLocal : p.mode.mode = .localControl) (rises : p.desired < p.desiredNow) :
    p.evaluateDesired = (p.putDesired p.desiredNow).raiseDemands 6 := by
  have here : p.inLocal = true := beq_iff_eq.mpr inLocal
  unfold Plant.evaluateDesired Plant.setDesired
  dsimp only
  rw [if_neg, if_neg (by omega)]
  rw [here, Bool.not_true, Bool.or_false, decide_eq_true_iff]
  omega

/-- R57: in LOCAL a fall of the desired count. -/
theorem Plant.evaluateDesired_falls (inLocal : p.mode.mode = .localControl) (falls : p.desiredNow < p.desired) :
    p.evaluateDesired = ((p.putDesired p.desiredNow).lowerDemands 6).raiseDemands 6 := by
  have here : p.inLocal = true := beq_iff_eq.mpr inLocal
  unfold Plant.evaluateDesired Plant.setDesired
  dsimp only
  rw [if_neg, if_pos falls]
  rw [here, Bool.not_true, Bool.or_false, decide_eq_true_iff]
  omega

/-- R56: what a rise leaves at the end of the event. -/
theorem Plant.PumpsFollow.rises (follow : Plant.PumpsFollow p.evaluateDesired q) (inLocal : p.mode.mode = .localControl)
    (rises : p.desired < p.desiredNow) :
    (∀ n, p.demand n = true → q.demand n = true) ∧ q.demandedCount ≤ max p.demandedCount q.desired ∧
      (q.demandedCount < q.desired → ∀ n, ¬ ((q.pump n).state = .running ∧ (q.pump n).deferred = true) ∧
        (n ∈ q.rotation → (q.pump n).state = .off → q.demand n = true ∨ q.atLimit n = true)) := by
  have put (n : Fin 6) : (p.putDesired p.desiredNow).demand n = p.demand n := rfl
  have raised := Plant.raiseDemands_raised (p.putDesired p.desiredNow) 6 _ (.refl _)
  have done := Plant.raiseDemands_end 6 (p.putDesired p.desiredNow) (Plant.askableCount_le _)
  rw [← Plant.evaluateDesired_rises inLocal rises] at raised done
  have count := Plant.demandedCount_congr follow.demand
  have desired : q.desired = p.desiredNow := follow.desired.trans p.evaluateDesired_desired
  generalize p.evaluateDesired = d at *
  refine ⟨fun n given => ?_, ?_, fun short n => ?_⟩
  · rw [follow.demand]
    exact raised.demands n given
  · rw [count, desired]
    exact raised.count
  · rw [count, desired] at short
    obtain ⟨running, off⟩ := Plant.nextToDemand_none (done short) n
    rcases follow.pump n with same | ⟨moving, deferred⟩
    · rw [same, follow.rotation, follow.demand, follow.limit n same]
      exact ⟨running, off⟩
    · refine ⟨fun both => ?_, fun _ off => ?_⟩
      · rw [deferred] at both
        exact Bool.false_ne_true both.2
      · rw [off] at moving
        cases moving

/-- R57: what a fall leaves at the end of the event. -/
theorem Plant.PumpsFollow.falls (follow : Plant.PumpsFollow p.evaluateDesired q) (inLocal : p.mode.mode = .localControl)
    (falls : p.desiredNow < p.desired) (above : p.desiredNow < p.demandedCount) (distinct : p.queue.Nodup)
    (queued : ∀ n, n ∈ p.queue ↔ (p.pump n).state = .off ∧ p.demand n = true)
    (states : ∀ n, p.demand n = true → (p.pump n).state = .off ∨ (p.pump n).state = .resting ∧ n ∈ p.rotation ∨
      (p.pump n).state.inMotion = true) :
    q.demandedCount = q.desired ∧ (∀ n, q.demand n = true → p.demand n = true) ∧
      ∀ n m, p.demand n = true → q.demand n = false → q.demand m = true →
        ((p.pump n).state.inMotion = true → (p.pump m).state.inMotion = true ∧ p.lastStartN n ≤ p.lastStartN m) ∧
          ((p.pump n).state = .resting → (p.pump m).state ≠ .off) := by
  let b := p.putDesired p.desiredNow
  have start : b.Fallen b := by
    refine ⟨fun _ given => given, fun _ _ => ⟨rfl, rfl⟩, ⟨distinct, queued⟩, fun _ => Iff.rfl, fun n m given gone => ?_, rfl⟩
    rw [given] at gone
    cases gone
  have few : b.demandedCount ≤ b.desired + 6 := by
    have : b.demandedCount ≤ 6 := List.countP_le_length
    omega
  obtain ⟨fallen, count⟩ := Plant.Fallen.lower (p := b) states 6 b start (show p.desiredNow ≤ p.demandedCount by omega) few
  have lowered := Plant.evaluateDesired_falls inLocal falls
  have raised : (b.lowerDemands 6).raiseDemands 6 = b.lowerDemands 6 :=
    Plant.raiseDemands_enough (by rw [count]; exact fallen.desired.le) 6
  rw [show (p.putDesired p.desiredNow).lowerDemands 6 = b.lowerDemands 6 from rfl, raised] at lowered
  have counts := Plant.demandedCount_congr follow.demand
  have desired : q.desired = p.desiredNow := follow.desired.trans p.evaluateDesired_desired
  have same := follow.demand
  rw [lowered] at counts same
  refine ⟨?_, fun n given => ?_, fun n m asked gone given => ?_⟩
  · rw [counts, desired]
    exact count
  · rw [same] at given
    exact fallen.demands n given
  · rw [same] at gone given
    exact fallen.order n m asked gone given

end

end Sys2Proof.Machine
end

section
/-! A complete scan as a whole: O21. -/

namespace Sys2Proof.Machine

theorem Plant.wetWellNow_good {p : Plant} {v : Nat} (good : (p.levels.channels.get 0).state = .good)
    (value : (p.levels.channels.get 0).value = some v) : p.wetWellNow =
      if p.stormLevel ≤ v then true else if v < p.stormLevel - p.stormHysteresis then false else p.mode.wetWell := by
  unfold Plant.wetWellNow
  dsimp only
  rw [good, value]

theorem Plant.wetWellNow_keeps {p : Plant}
    (blind : (p.levels.channels.get 0).state ≠ .good ∨ (p.levels.channels.get 0).value = none) :
    p.wetWellNow = p.mode.wetWell := by
  unfold Plant.wetWellNow
  dsimp only
  split
  case h_1 good value =>
    rcases blind with other | nothing
    · exact absurd good other
    · rw [nothing] at value
      cases value
  case h_2 => rfl

/-- The channel of the scan's last exchange takes its reply, and the scan is complete (R6). -/
theorem completeScan_run {s : State} {reply : Word} {x : Scan} (scan : s.plant.levels.scan = some x)
    (seven : x.codes.length = 7) (valid : reply.getLsbD 15 = true) (echo : (reply.extractLsb' 12 3).toNat = 7) :
    s.plant.takeReply reply = s.plant.scanSucceeded (x.codes ++ [(reply.extractLsb' 0 12).toNat]) := by
  have good : replyGood reply x.channel = true := by
    unfold replyGood Scan.channel
    rw [valid, echo, seven]
    rfl
  have eight : (x.codes ++ [replyCode reply]).length = 8 := by
    rw [List.length_append, seven]
    rfl
  unfold Plant.takeReply
  rw [scan]
  dsimp only
  rw [if_pos good, if_pos eight]
  rfl

/-- What the conditions and the inputs are after the event of a complete scan (R11, R12): `h` has the level unit's
conditions handed, and `q` the event taken. -/
structure Plant.ScanTaken (p h q : Plant) : Prop where
  kept   : p.Kept h
  units  : p.SameUnits h
  taken  : h.LevelTaken q
  rakes  : ∀ n, h.RakeLeveled q n
  weirs  : ∀ n, q.weir n = (h.weirLevel n).weir n
  pumps  : h.PostureLaw → q.mode.wetWell = h.mode.wetWell →
    (∀ n, (q.weir n).openRecord.isSome = (h.weir n).openRecord.isSome) → Plant.PumpsFollow h.evaluateDesired q
  channels : ∀ c, (q.alarms.points.get (channelPoint c)).condition = p.channelCondition c
  converter : (q.alarms.points.get 29).condition = p.converterCondition
  high   : (q.alarms.points.get 30).condition =
    if h.wetWellNow = h.mode.wetWell then (p.alarms.points.get 30).condition else h.wetWellNow
  blinded : ∀ n, (q.alarms.points.get (blindedPoint n)).condition = (q.rake n).blinded

theorem Plant.levelUpdated_taken {p : Plant} (running : p.loading = false) : ∃ h, p.ScanTaken h p.handLevels.levelUpdated ∧
    ∃ more, p.handLevels.levelUpdated.out = h.evaluateWetWell.out ++ more := by
  have kept := p.handLevels_kept
  have units := p.handLevels_units
  obtain ⟨channels, converter⟩ := Plant.handLevels_announced running
  have point := p.handLevels_point (j := 30) (by decide)
  have running' : p.handLevels.loading = false := kept.loading.trans running
  generalize p.handLevels = h at *
  obtain ⟨views, event⟩ := Plant.levelUpdated_running running'
  have event : h.levelUpdated = h.leveled views := event
  rw [event]
  have below (c : Fin 8) : (channelPoint c).val ≤ 30 ∧ 21 ≤ (channelPoint c).val ∧ channelPoint c ≠ 30 := by revert c; decide
  refine ⟨h, ⟨kept, units, h.leveled_taken views, h.leveled_rakeLeveled views, h.leveled_weir views,
    Plant.leveled_pumps, fun c => ?_, ?_, ?_, ?_⟩, h.leveled_out views⟩
  · obtain ⟨high, low, other⟩ := below c
    rw [h.leveled_point views low high, h.evaluateWetWell_point other, channels]
  · rw [h.leveled_point views (by decide) (by decide), h.evaluateWetWell_point (by decide), converter]
  · rw [h.leveled_point views (by decide) (by decide), Plant.evaluateWetWell_high running', point]
  · exact (Plant.leveled_announced running' views).blinded

/-- The entries handed and the page marks tell nothing of the event's effect. -/
theorem Plant.ScanTaken.left {p h r q : Plant} {marks : List (Fin 16)} (scan : p.ScanTaken h r)
    (left : q = { r with out := [], marks := marks }) : p.ScanTaken h q := by
  subst left
  obtain ⟨kept, units, taken, rakes, weirs, pumps, channels, converter, high, blinded⟩ := scan
  obtain ⟨clock, levels, sections, debounced, mode, desired, storm⟩ := taken
  refine ⟨kept, units, ⟨clock, levels, sections, debounced, mode, desired, storm⟩, fun n => ?_, weirs,
    fun law well records => ?_, channels, converter, high, blinded⟩
  · obtain ⟨blind, good, waits⟩ := rakes n
    exact ⟨blind, good, waits⟩
  · obtain ⟨pump, demand, rotation, desired, limit⟩ := pumps law well records
    exact ⟨pump, demand, rotation, desired, limit⟩

/-- The plant `h` that takes the event sees what `p` had before the scan, but for the levels (R6, R11). -/
structure Plant.Rescanned (p h : Plant) : Prop where
  inputs : ({ p with levels := h.levels } : Plant).SameInputs h
  orders : p.SameOrders h
  units  : p.SameUnits h

section
variable {p g h q : Plant}

theorem Plant.ScanTaken.rescanned (scan : g.ScanTaken h q) (whole : g = { p with levels := g.levels }) : p.Rescanned h := by
  obtain ⟨kept, units⟩ := scan.kept, scan.units
  have levels := kept.acts.inputs.levels
  rw [whole] at kept units
  obtain ⟨clock, -, mode, weirs, sections, raw, debounced, stability⟩ := kept.acts.inputs
  obtain ⟨shadow, corr, desired, rotation⟩ := kept.2
  exact ⟨⟨clock, rfl, mode, weirs, sections, raw, debounced, stability⟩, ⟨shadow, corr, desired, rotation⟩, units⟩

theorem Plant.Rescanned.reads {α : Type} (seen : p.Rescanned h) (f : Plant → α)
    (looks : ∀ p : Plant, f p = f { Plant.reset with sections := p.sections }) : f h = f p := by
  rw [looks h, looks p, seen.inputs.sections]

theorem Plant.Rescanned.mode (seen : p.Rescanned h) : h.mode = p.mode := seen.inputs.mode

theorem Plant.Rescanned.active (seen : p.Rescanned h) (l : Fin 30) : h.active l = p.active l :=
  Plant.SameInputs.active seen.inputs l

theorem Plant.Rescanned.weir (seen : p.Rescanned h) (n : Fin 3) : h.weir n = p.weir n :=
  congrArg (Vector.get · n) seen.inputs.weirs

theorem Plant.Rescanned.demand (seen : p.Rescanned h) (n : Fin 6) : h.demand n = p.demand n :=
  Plant.demand_of_shadow seen.orders.shadow n

theorem Plant.Rescanned.law (seen : p.Rescanned h) (law : p.PostureLaw) : h.PostureLaw :=
  law.of_same seen.mode fun n => by rw [seen.weir]

/-! The wet-well condition and storm posture (R32). -/

theorem Plant.Rescanned.wetWellNow_good (seen : p.Rescanned h) {v : Nat} (good : (h.levels.channels.get 0).state = .good)
    (value : (h.levels.channels.get 0).value = some v) : h.wetWellNow =
      if p.stormLevel ≤ v then true else if v < p.stormLevel - p.stormHysteresis then false else p.mode.wetWell := by
  rw [Plant.wetWellNow_good good value, seen.reads Plant.stormLevel fun _ => rfl,
    seen.reads Plant.stormHysteresis fun _ => rfl, seen.mode]

theorem Plant.ScanTaken.wetWell (scan : g.ScanTaken h q) : q.mode.wetWell = h.wetWellNow :=
  congrArg ModeUnit.wetWell scan.taken.mode

theorem Plant.ScanTaken.floatHigh (scan : g.ScanTaken h q) : q.mode.floatHigh = h.mode.floatHigh := by
  rw [scan.taken.mode]

/-- Storm posture follows its conditions where the wet well or the weirs have moved them. -/
theorem Plant.ScanTaken.storm (scan : g.ScanTaken h q) (seen : p.Rescanned h)
    (turns : q.mode.wetWell ≠ p.mode.wetWell ∨ q.mode.overflow ≠ p.mode.overflow) :
    q.mode.storm = (q.mode.wetWell || q.mode.overflow || p.mode.floatHigh) := by
  rw [← seen.mode] at turns ⊢
  rw [← scan.floatHigh]
  exact scan.taken.storm (turns.imp_right .inl)

/-- R32: where storm posture is off before and after, the wet well has not moved. -/
theorem Plant.ScanTaken.wellStill (scan : g.ScanTaken h q) (seen : p.Rescanned h) (law : p.PostureLaw)
    (before : p.mode.storm = false) (after : q.mode.storm = false) : h.evaluateWetWell = h := by
  have lawful := scan.taken.storm (.inr (.inr (seen.law law).storm))
  have dry : q.mode.wetWell = false := by
    rw [lawful, Bool.or_eq_false_iff, Bool.or_eq_false_iff] at after
    exact after.1.1
  have was : p.mode.wetWell = false := by
    rw [law.storm, Bool.or_eq_false_iff, Bool.or_eq_false_iff] at before
    exact before.1.1
  refine Plant.evaluateWetWell_same ?_
  rw [← scan.wetWell, seen.mode, dry, was]

/-- R32: a turn of storm posture by the wet well is logged. -/
theorem Plant.ScanTaken.logs {s : State} {r : Plant} (scan : g.ScanTaken h r) (seen : s.plant.Rescanned h)
    {act : Plant → Plant} (acted : act s.plant = r) (out : ∃ more, r.out = h.evaluateWetWell.out ++ more)
    (changed : r.mode.wetWell ≠ s.plant.mode.wetWell)
    (turns : (r.mode.wetWell || s.plant.mode.overflow || s.plant.mode.floatHigh) ≠ s.plant.mode.storm) :
    s.Logs (finish s (s.onPlant act))
      { source := srcMode, urgent := false
        kind := if (r.mode.wetWell || s.plant.mode.overflow || s.plant.mode.floatHigh) then 0x11 else 0x12
        detail := detail1 (bit r.mode.wetWell + 2 * bit s.plant.mode.overflow + 4 * bit s.plant.mode.floatHigh) } := by
  obtain ⟨more, out⟩ := out
  rw [scan.wetWell, ← seen.mode] at changed turns ⊢
  obtain ⟨later, well⟩ := Plant.evaluateWetWell_out changed turns
  refine finish_logs acted ⟨h.out, later ++ more, ?_⟩
  rw [out, well, List.append_assoc]
  rfl

/-! The desired count and the demands (R53, R56, R57). -/

section
variable {v : Nat}

theorem Plant.Rescanned.desired_low (seen : p.Rescanned h) (low : p.active 27 = true) : h.desiredNow = 0 :=
  Plant.desiredNow_low ((seen.active 27).trans low)

theorem Plant.Rescanned.desired_high (seen : p.Rescanned h) (low : p.active 27 = false) (high : p.active 26 = true) :
    h.desiredNow = p.presentCount := by
  rw [Plant.desiredNow_high ((seen.active 27).trans low) ((seen.active 26).trans high),
    seen.reads Plant.presentCount fun _ => rfl]

theorem Plant.Rescanned.desired_good (seen : p.Rescanned h) (low : p.active 27 = false) (high : p.active 26 = false)
    (good : (h.levels.channels.get 0).state = .good) (value : (h.levels.channels.get 0).value = some v) :
    h.desiredNow = min (max p.desired (p.startLevels.countP (fun y => y ≤ v))) (p.stopLevels.countP (fun y => y ≤ v)) := by
  rw [Plant.desiredNow_good ((seen.active 27).trans low) ((seen.active 26).trans high) good value, seen.orders.desired,
    seen.reads Plant.startLevels fun _ => rfl, seen.reads Plant.stopLevels fun _ => rfl]

theorem Plant.Rescanned.desired_keeps (seen : p.Rescanned h) (low : p.active 27 = false) (high : p.active 26 = false)
    (blind : (h.levels.channels.get 0).state ≠ .good ∨ (h.levels.channels.get 0).value = none) : h.desiredNow = p.desired := by
  rw [Plant.desiredNow_keeps ((seen.active 27).trans low) ((seen.active 26).trans high) blind, seen.orders.desired]

end

theorem Plant.ScanTaken.follows (scan : g.ScanTaken h q) (seen : p.Rescanned h) (same : p.SamePosture q) :
    Plant.PumpsFollow h.evaluateDesired q := by
  refine scan.pumps (seen.law same.law) ?_ fun n => ?_
  · rw [same.wetWell, seen.mode]
  · rw [same.records, seen.weir]

theorem Plant.ScanTaken.auto (scan : g.ScanTaken h q) (seen : p.Rescanned h) (same : p.SamePosture q)
    (auto : p.mode.mode ≠ .localControl) (n : Fin 6) : q.demand n = p.demand n := by
  rw [(scan.follows seen same).demand, Plant.evaluateDesired_auto (by rw [seen.mode]; exact auto)]
  exact seen.demand n

theorem Plant.ScanTaken.rises (scan : g.ScanTaken h q) (seen : p.Rescanned h) (same : p.SamePosture q)
    (inLocal : p.mode.mode = .localControl) (rises : p.desired < q.desired) :
    (∀ n, p.demand n = true → q.demand n = true) ∧ q.demandedCount ≤ max p.demandedCount q.desired ∧
      (q.demandedCount < q.desired → ∀ n, ¬ ((q.pump n).state = .running ∧ (q.pump n).deferred = true) ∧
        (n ∈ q.rotation → (q.pump n).state = .off → q.demand n = true ∨ q.atLimit n = true)) := by
  have facts := (scan.follows seen same).rises (by rw [seen.mode]; exact inLocal)
    (by rw [seen.orders.desired, ← scan.taken.desired]; exact rises)
  rw [Plant.demandedCount_congr seen.demand] at facts
  simp only [seen.demand] at facts
  exact facts

theorem Plant.ScanTaken.falls (scan : g.ScanTaken h q) (seen : p.Rescanned h) (same : p.SamePosture q)
    (inLocal : p.mode.mode = .localControl) (falls : q.desired < p.desired) (above : q.desired < p.demandedCount)
    (distinct : p.queue.Nodup) (queued : ∀ n, n ∈ p.queue ↔ (p.pump n).state = .off ∧ p.demand n = true)
    (states : ∀ n, p.demand n = true → (p.pump n).state = .off ∨ (p.pump n).state = .resting ∧ n ∈ p.rotation ∨
      (p.pump n).state.inMotion = true) :
    q.demandedCount = q.desired ∧ (∀ n, q.demand n = true → p.demand n = true) ∧
      ∀ n m, p.demand n = true → q.demand n = false → q.demand m = true →
        ((p.pump n).state.inMotion = true → (p.pump m).state.inMotion = true ∧ p.lastStartN n ≤ p.lastStartN m) ∧
          ((p.pump n).state = .resting → (p.pump m).state ≠ .off) := by
  have queue : h.queue = p.queue := seen.units.2.2.2.1
  have facts := (scan.follows seen same).falls (by rw [seen.mode]; exact inLocal)
    (by rw [seen.orders.desired, ← scan.taken.desired]; exact falls)
    (by rw [Plant.demandedCount_congr seen.demand, ← scan.taken.desired]; exact above)
    (by rw [queue]; exact distinct)
    (fun n => by rw [queue, seen.units.pump, seen.demand]; exact queued n)
    (fun n => by rw [seen.orders.rotation, seen.units.pump, seen.demand]; exact states n)
  simp only [seen.demand, Plant.lastStartN, seen.units.pump] at facts
  exact facts

/-! The rakes and the weirs (R64, R65, R78). -/

theorem Plant.ScanTaken.rakeBlind (scan : g.ScanTaken h q) (seen : p.Rescanned h) {n : Fin 2}
    (blind : (q.levels.channels.get (upstreamChannel n)).state ≠ .good ∨
      (q.levels.channels.get (downstreamChannel n)).state ≠ .good) :
    (q.rake n).counts = false ∧ (q.rake n).differential = (p.rake n).differential ∧ (q.rake n).blinded = (p.rake n).blinded := by
  rw [scan.taken.levels] at blind
  rw [← seen.units.rake]
  exact (scan.rakes n).blind blind

section
variable {n : Fin 2} {u v : Nat}

theorem Plant.ScanTaken.rakeGood (scan : g.ScanTaken h q) (seen : p.Rescanned h)
    (up : (q.levels.channels.get (upstreamChannel n)).state = .good)
    (upValue : (q.levels.channels.get (upstreamChannel n)).value = some u)
    (down : (q.levels.channels.get (downstreamChannel n)).state = .good)
    (downValue : (q.levels.channels.get (downstreamChannel n)).value = some v) :
    (q.rake n).counts = true ∧ (q.rake n).differential = (u : Int) - (v : Int) ∧
      (q.rake n).blinded = ((p.rake n).state != .absent && decide ((p.blindLevel n : Int) ≤ (u : Int) - (v : Int))) ∧
      (q.alarms.points.get (blindedPoint n)).condition = (q.rake n).blinded ∧
      ((p.rake n).state = .idle → (p.diffTrigger n : Int) ≤ (u : Int) - (v : Int) → p.PostureLaw →
        p.mode.storm = false → q.mode.storm = false →
        (q.rake n).trigger = .differential ∧ ((q.rake n).state = .waiting ∨ (q.rake n).state = .raking ∨
          (q.rake n).state = .reversing)) := by
  rw [scan.taken.levels] at up upValue down downValue
  have now := Plant.differentialNow_good up upValue down downValue
  obtain ⟨counts, differential, blinded⟩ := (scan.rakes n).good _ now
  rw [seen.units.rake, seen.reads (fun p => p.blindLevel n) fun _ => rfl] at blinded
  refine ⟨counts, differential, blinded, scan.blinded n, fun idle trigger law before after => ?_⟩
  obtain ⟨taken, ⟨waits, -⟩ | ⟨cycle, -⟩⟩ := (scan.rakes n).waits _ now (scan.wellStill seen law before after)
    (by rw [seen.units.rake]; exact idle) (by rw [seen.reads (fun p => p.diffTrigger n) fun _ => rfl]; exact trigger)
  · exact ⟨taken, .inl waits⟩
  · exact ⟨taken, .inr cycle⟩

end

theorem Plant.ScanTaken.weir (scan : g.ScanTaken h q) (seen : p.Rescanned h) (n : Fin 3) :
    q.weir n = ({ p with levels := q.levels }.weirLevel n).weir n := by
  rw [scan.weirs, scan.taken.levels]
  exact Plant.SeesAlike.weirLevel ⟨seen.inputs.clock, rfl, seen.inputs.sections, seen.weir n⟩

end

/-- What each channel makes of its code (R8 to R10). -/
theorem Plant.sampled_judged (p : Plant) (c : Fin 8) (code : Nat) :
    let was := p.levels.channels.get c
    let now := p.sampled c code
    let value (ring : List Nat) := p.zero c + ring.sum * p.span c / (4 * 4095)
    (code < p.lowCode c ∨ p.highCode c < code →
      (was.state = .good → now = { was with state := .fault .badSample, ring := [], goodCount := 0, stale := true }) ∧
      (was.state ≠ .good → now = { was with state := .fault .badSample, ring := [], goodCount := 0 })) ∧
    (p.lowCode c ≤ code → code ≤ p.highCode c →
      (was.state = .good → now = { was with
        ring := was.ring.drop (was.ring.length - 3) ++ [code], stale := false
        value := some (value (was.ring.drop (was.ring.length - 3) ++ [code])) }) ∧
      (was.state ≠ .good → was.goodCount + 1 = 4 → now =
        { ring := was.ring ++ [code], goodCount := 4, state := .good, stale := false
          value := some (value (was.ring ++ [code])) }) ∧
      (was.state ≠ .good → was.goodCount + 1 ≠ 4 → now =
        { was with ring := was.ring ++ [code], goodCount := was.goodCount + 1 })) := by
  intro was now value
  refine ⟨fun out => ⟨fun good => ?_, fun fault => ?_⟩, fun low high => ⟨fun good => ?_, fun fault fourth => ?_, fun fault early => ?_⟩⟩
  · exact (Plant.sampled_bad out).trans (Channel.bad_good good)
  · exact (Plant.sampled_bad out).trans (Channel.bad_fault fault)
  · exact (Plant.sampled_good low high).trans (Plant.goodSample_good good code)
  · exact (Plant.sampled_good low high).trans (Plant.goodSample_fourth fault fourth code)
  · exact (Plant.sampled_good low high).trans (Plant.goodSample_early fault early code)

/-- Settles O21: the scan judges each channel's code, and the level-updated event follows outside LOAD. -/
theorem completeScanFiltersEveryChannel : Obligations.CompleteScanFiltersEveryChannel := by
  intro s reply x out scan seven valid echo
  have run : exec (.exchangeReply reply) s = .next (finish s (s.onPlant fun p => p.takeReply reply)) := rfl
  have acted := (completeScan_run scan seven valid echo).trans (s.plant.scanSucceeded_eq _)
  obtain ⟨whole, count, idle, period, channels⟩ := s.plant.scanned_facts (x.codes ++ [(reply.extractLsb' 0 12).toNat])
  have judged (c : Fin 8) := s.plant.sampled_judged c ((x.codes ++ [(reply.extractLsb' 0 12).toNat]).getD c.val 0)
  simp only [← channels] at judged
  generalize s.plant.scanned (x.codes ++ [(reply.extractLsb' 0 12).toNat]) = g at acted whole count idle period judged
  clear channels
  cases loading : s.plant.loading with
  | true =>
    have loading' : g.loading = true := by rw [whole]; exact loading
    rw [Plant.handLevels_loading loading', Plant.levelUpdated_loading loading'] at acted
    obtain ⟨step, log, plant⟩ := finish_onPlant_silent (act := fun p => p.takeReply reply) out (by rw [acted, whole])
    have plant := plant.trans acted
    generalize finish s (s.onPlant fun p => p.takeReply reply) = t at run step log plant
    subst plant
    refine ⟨t, run, step, count, idle, period, by rw [whole], by rw [whole], by rw [whole],
      fun running => absurd running Bool.noConfusion, fun c => ⟨fun running => absurd running Bool.noConfusion, judged c⟩,
      fun _ => ⟨whole, log⟩, fun running => absurd running Bool.noConfusion⟩
  | false =>
    have running : g.loading = false := by rw [whole]; exact loading
    obtain ⟨h, taken, handed⟩ := Plant.levelUpdated_taken running
    have seen := taken.rescanned whole
    have step := finish_onPlant_step s (fun p => p.takeReply reply) (entries := []) ⟨_, rfl⟩
    have plant := finish_onPlant_plant s fun p => p.takeReply reply
    have logs := taken.logs seen (act := fun p => p.takeReply reply) acted handed
    rw [acted] at plant
    have mode : (finish s (s.onPlant fun p => p.takeReply reply)).plant.mode = g.handLevels.levelUpdated.mode := by rw [plant]
    rw [← mode] at logs
    replace taken := taken.left plant
    clear acted handed plant mode
    generalize finish s (s.onPlant fun p => p.takeReply reply) = t at run step taken logs
    have levels : t.plant.levels = g.levels := taken.taken.levels.trans taken.kept.acts.inputs.levels
    have alarms : g.alarms = s.plant.alarms := by rw [whole]
    have channels := taken.channels
    have converter := taken.converter
    unfold Plant.channelCondition at channels
    unfold Plant.converterCondition at converter
    rw [count] at converter
    rw [← levels] at count idle period judged channels
    clear whole running
    refine ⟨t, run, step, count, idle, period, taken.taken.sections.trans seen.inputs.sections,
      taken.taken.clock.trans seen.inputs.clock, taken.taken.debounced.trans seen.inputs.debounced, fun _ => converter,
      fun c => ⟨fun _ => channels c, judged c⟩, fun load => absurd load Bool.noConfusion, fun _ => ?_⟩
    intro p q well
    have isWell : h.levels.channels.get 0 = well := by rw [← taken.taken.levels]
    have wetWell := taken.wetWell
    have desired := taken.taken.desired
    refine ⟨?_, ?_, taken.storm seen, fun on off before => ?_, fun off on before overflow float => ?_, ?_,
      fun auto same => taken.auto seen same auto, fun here same => taken.rises seen same here,
      fun here same falls above distinct queued states =>
        taken.falls seen same here falls above distinct queued states, fun n =>
        ⟨taken.rakeBlind seen, fun u v up upValue down downValue => taken.rakeGood seen up upValue down downValue⟩,
      taken.weir seen⟩
    · refine wetWell.trans ?_
      cases level : well.state with
      | good =>
        cases value : well.value with
        | none => exact (Plant.wetWellNow_keeps (.inr (by rw [isWell, value]))).trans (congrArg ModeUnit.wetWell seen.mode)
        | some v => exact seen.wetWellNow_good (by rw [isWell, level]) (by rw [isWell, value])
      | _ =>
        exact (Plant.wetWellNow_keeps (.inl (by rw [isWell, level]; exact ChannelState.noConfusion))).trans
          (congrArg ModeUnit.wetWell seen.mode)
    · rw [wetWell, taken.high, seen.mode, alarms]
    · have told := logs (by rw [on, off]; exact Bool.noConfusion) (by rw [on, before]; exact Bool.noConfusion)
      rw [on] at told
      exact told
    · have told := logs (by rw [on, off]; exact Bool.noConfusion) (by rw [off, overflow, float, before]; exact Bool.noConfusion)
      rw [off, overflow, float] at told
      exact told
    · refine desired.trans ?_
      cases low : p.active 27 with
      | true => exact seen.desired_low low
      | false =>
        cases high : p.active 26 with
        | true => exact seen.desired_high low high
        | false =>
          cases level : well.state with
          | good =>
            cases value : well.value with
            | none => exact seen.desired_keeps low high (.inr (by rw [isWell, value]))
            | some v => exact seen.desired_good low high (by rw [isWell, level]) (by rw [isWell, value])
          | _ => exact seen.desired_keeps low high (.inl (by rw [isWell, level]; exact ChannelState.noConfusion))

end Sys2Proof.Machine
end

section
/-! The content checks of the settings sections, word by word (R125, R144): O10. -/

namespace Sys2Proof.Machine

/-! The checks of a word and of a row of words. -/

theorem within_iff {n lo hi : Nat} : within n lo hi = true ↔ lo ≤ n ∧ n ≤ hi := by
  unfold within
  rw [Bool.and_eq_true, decide_eq_true_iff, decide_eq_true_iff]

theorem all_range {n : Nat} {f : Nat → Bool} : (List.range n).all f = true ↔ ∀ k : Fin n, f k.val = true := by
  rw [List.all_eq_true]
  exact ⟨fun all k => all k.val (List.mem_range.mpr k.isLt), fun all k mem => all ⟨k, List.mem_range.mp mem⟩⟩

theorem rising_iff_isChain : ∀ l : List Nat, rising l = true ↔ l.IsChain (· < ·)
  | [] => iff_of_true rfl .nil
  | [x] => iff_of_true rfl (.singleton x)
  | x :: y :: rest => by
    have ih := rising_iff_isChain (y :: rest)
    unfold rising
    rw [Bool.and_eq_true, decide_eq_true_iff, ih, List.isChain_cons_cons]

theorem notFalling_iff_isChain : ∀ l : List Nat, notFalling l = true ↔ l.IsChain (· ≤ ·)
  | [] => iff_of_true rfl .nil
  | [x] => iff_of_true rfl (.singleton x)
  | x :: y :: rest => by
    have ih := notFalling_iff_isChain (y :: rest)
    unfold notFalling
    rw [Bool.and_eq_true, decide_eq_true_iff, ih, List.isChain_cons_cons]

theorem rising_range {n : Nat} {f : Nat → Nat} : rising ((List.range (n + 1)).map f) = true ↔ ∀ k, k < n → f k < f (k + 1) := by
  rw [rising_iff_isChain, List.isChain_map]
  exact List.isChain_range_succ _ n

theorem notFalling_range {n : Nat} {f : Nat → Nat} :
    notFalling ((List.range (n + 1)).map f) = true ↔ ∀ k, k < n → f k ≤ f (k + 1) := by
  rw [notFalling_iff_isChain, List.isChain_map]
  exact List.isChain_range_succ _ n

/-- A rising row stays below its last member. -/
theorem le_last_of_rises {n : Nat} {f : Nat → Nat} (rises : ∀ k, k < n → f k < f (k + 1)) : ∀ k, k ≤ n → f k ≤ f n := by
  intro k low
  induction n with
  | zero => rw [Nat.le_zero.mp low]
  | succ n ih =>
    rcases Nat.lt_or_eq_of_le low with earlier | rfl
    · exact (ih (fun j below => rises j (by omega)) (by omega)).trans (rises n (Nat.lt_succ_self n)).le
    · exact le_rfl

theorem headerContent_iff (ws : List Word) :
    headerContent ws = true ↔ wordN ws 0 = 0x4752 ∧ wordN ws 1 = 1 ∧ wordN ws 2 < 512 := by
  unfold headerContent
  rw [Bool.and_eq_true, Bool.and_eq_true, beq_iff_eq, beq_iff_eq, decide_eq_true_iff, and_assoc]

section
variable (ws : List Word) (b : Nat)

theorem pumpContent_iff : pumpContent ws b = true ↔
    wordN ws b ≤ 1 ∧ (1 ≤ wordN ws (b + 1) ∧ wordN ws (b + 1) ≤ 8) ∧ (10 ≤ wordN ws (b + 2) ∧ wordN ws (b + 2) ≤ 1800) ∧
      (10 ≤ wordN ws (b + 3) ∧ wordN ws (b + 3) ≤ 1800) ∧ (1 ≤ wordN ws (b + 4) ∧ wordN ws (b + 4) ≤ 30) ∧
      (1 ≤ wordN ws (b + 5) ∧ wordN ws (b + 5) ≤ 30) := by
  unfold pumpContent
  simp only [Bool.and_eq_true, within_iff, Nat.zero_le, true_and, and_assoc]

theorem channelContent_iff : channelContent ws b = true ↔
    1 ≤ wordN ws (b + 1) ∧ wordN ws b + wordN ws (b + 1) ≤ 9999 ∧ wordN ws (b + 2) < wordN ws (b + 3) ∧
      wordN ws (b + 3) ≤ 4095 := by
  unfold channelContent
  simp only [Bool.and_eq_true, within_iff, decide_eq_true_iff]
  omega

theorem rakeContent_iff : rakeContent ws b = true ↔
    wordN ws b ≤ 1 ∧ (1 ≤ wordN ws (b + 1) ∧ wordN ws (b + 1) ≤ 8) ∧ (50 ≤ wordN ws (b + 2) ∧ wordN ws (b + 2) ≤ 2000) ∧
      (100 ≤ wordN ws (b + 3) ∧ wordN ws (b + 3) ≤ 3000) ∧ wordN ws (b + 2) < wordN ws (b + 3) ∧
      (wordN ws (b + 4) = 0 ∨ 60 ≤ wordN ws (b + 4) ∧ wordN ws (b + 4) ≤ 14400) ∧
      (30 ≤ wordN ws (b + 5) ∧ wordN ws (b + 5) ≤ 600) ∧ (2 ≤ wordN ws (b + 6) ∧ wordN ws (b + 6) ≤ 30) ∧
      (1 ≤ wordN ws (b + 7) ∧ wordN ws (b + 7) ≤ 5) ∧ (60 ≤ wordN ws (b + 8) ∧ wordN ws (b + 8) ≤ 3600) := by
  unfold rakeContent
  simp only [Bool.and_eq_true, Bool.or_eq_true, beq_iff_eq, within_iff, decide_eq_true_iff, Nat.zero_le, true_and, and_assoc]

theorem weirContent_iff : weirContent ws b = true ↔
    wordN ws b ≤ 1 ∧ wordN ws (b + 2) ≤ 200 ∧ wordN ws (b + 1) + wordN ws (b + 2) ≤ 9999 ∧ wordN ws (b + 3) ≤ 300 ∧
      wordN ws (b + 4) ≤ 1800 := by
  unfold weirContent
  simp only [Bool.and_eq_true, within_iff, decide_eq_true_iff]
  omega

/-- The heads rise, so that the last alone is checked against the limit. -/
theorem curveContent_iff : curveContent ws b = true ↔ wordN ws b = 0xFFFF ∨
    wordN ws (b + 2 * 15) ≤ 9999 ∧ ∀ k, k < 15 → wordN ws (b + 2 * k) < wordN ws (b + 2 * (k + 1)) ∧
      wordN ws (b + 2 * k + 1) ≤ wordN ws (b + 2 * (k + 1) + 1) := by
  unfold curveContent
  simp only [Bool.or_eq_true, Bool.and_eq_true, beq_iff_eq, rising_range (n := 15), notFalling_range (n := 15),
    List.all_map, all_range, Function.comp_apply, decide_eq_true_iff]
  refine or_congr_right ⟨fun ⟨⟨limits, heads⟩, flows⟩ => ⟨limits 15, fun k low => ⟨heads k low, flows k low⟩⟩,
    fun ⟨last, rows⟩ => ⟨⟨fun k => ?_, fun k low => (rows k low).1⟩, fun k low => (rows k low).2⟩⟩
  exact (le_last_of_rises (f := fun k => wordN ws (b + 2 * k)) (fun k low => (rows k low).1) k.val (by omega)).trans last

end

theorem stationContent_iff (ws : List Word) : stationContent ws = true ↔
    (10 ≤ wordN ws 2 ∧ wordN ws 2 ≤ 500) ∧
      (∀ c : Fin 8, 1 ≤ wordN ws (3 + 4 * c.val + 1) ∧ wordN ws (3 + 4 * c.val) + wordN ws (3 + 4 * c.val + 1) ≤ 9999 ∧
        wordN ws (3 + 4 * c.val + 2) < wordN ws (3 + 4 * c.val + 3) ∧ wordN ws (3 + 4 * c.val + 3) ≤ 4095) ∧
      (1 ≤ wordN ws 35 ∧ wordN ws 35 ≤ 60) ∧ (1 ≤ wordN ws 36 ∧ wordN ws 36 ≤ 48) ∧ (1 ≤ wordN ws 37 ∧ wordN ws 37 ≤ 48) ∧
      wordN ws 38 ≤ 9999 ∧ wordN ws 39 ≤ 1000 ∧ wordN ws 39 ≤ wordN ws 38 ∧ wordN ws 40 ≤ 10 ∧
      (2 ≤ wordN ws 41 ∧ wordN ws 41 ≤ 120) ∧ (∀ k, k < 6 → wordN ws (48 + k) < wordN ws (42 + k)) ∧
      ∀ k, k < 5 → wordN ws (42 + k) < wordN ws (42 + (k + 1)) ∧ wordN ws (48 + k) < wordN ws (48 + (k + 1)) := by
  have both : (∀ k, k < 5 → wordN ws (42 + k) < wordN ws (42 + (k + 1)) ∧ wordN ws (48 + k) < wordN ws (48 + (k + 1))) ↔
      (∀ k, k < 5 → wordN ws (42 + k) < wordN ws (42 + (k + 1))) ∧
        ∀ k, k < 5 → wordN ws (48 + k) < wordN ws (48 + (k + 1)) :=
    ⟨fun all => ⟨fun k low => (all k low).1, fun k low => (all k low).2⟩, fun all k low => ⟨all.1 k low, all.2 k low⟩⟩
  unfold stationContent
  simp only [Bool.and_eq_true, within_iff, decide_eq_true_iff, all_range, channelContent_iff, rising_range (n := 5), both,
    Fin.forall_iff, Nat.zero_le, true_and, and_assoc]
  tauto

theorem alarmContent_eq (ws : List Word) : alarmContent ws = true := by
  unfold alarmContent
  refine all_range.mpr fun k => within_iff.mpr ⟨Nat.zero_le _, ?_⟩
  omega

theorem linkContent_iff (ws : List Word) : linkContent ws = true ↔
    wordN ws 0 ≤ 5 ∧ wordN ws 1 ≤ 1 ∧ wordN ws 2 ≤ 500 ∧ (1 ≤ wordN ws 3 ∧ wordN ws 3 ≤ 254) ∧
      (30 ≤ wordN ws 4 ∧ wordN ws 4 ≤ 3600) ∧ (10 ≤ wordN ws 5 ∧ wordN ws 5 ≤ 3600) ∧
      (10 ≤ wordN ws 6 ∧ wordN ws 6 ≤ 600) := by
  unfold linkContent
  simp only [Bool.and_eq_true, within_iff, Nat.zero_le, true_and, and_assoc]

/-! The window table (R125). -/

/-- The kind code of entry `e`. -/
def kindCode (ws : List Word) (e : Nat) : Nat := wordN ws (4 * e)

/-- The base that entry `e` writes. -/
def entryBase (ws : List Word) (e : Nat) : Nat := wordN ws (4 * e + 1) + 65536 * (wordN ws (4 * e + 2) % 256)

theorem windowKind_isSome (x : Nat) : (windowKind x).isSome = true ↔ x ≤ 5 := by
  unfold windowKind
  split
  case h_7 =>
    refine iff_of_false Bool.false_ne_true fun low => ?_
    interval_cases x <;> contradiction
  all_goals exact iff_of_true rfl (by decide)

/-- The kinds by their codes. -/
def kindOf (x : Nat) : WindowKind := [WindowKind.none, .command, .status, .logRing, .logPort, .shield].getD x .none

theorem windowEntry_none {ws : List Word} {e : Nat} (unused : kindCode ws e = 0 ∨ 5 < kindCode ws e) :
    windowEntry ws e = { kind := .none, base := 0, exp := 0 } := by
  unfold windowEntry
  dsimp only
  rcases unused with zero | high
  · rw [show ((ws.getD (4 * e + 0) 0).toNat) = 0 from zero]
    rfl
  · have nothing : windowKind (ws.getD (4 * e + 0) 0).toNat = none := by
      rw [← Option.not_isSome_iff_eq_none, windowKind_isSome]
      exact Nat.not_le.mpr high
    rw [nothing]

theorem windowEntry_used {ws : List Word} {e : Nat} (used : kindCode ws e ≠ 0) (known : kindCode ws e ≤ 5) :
    windowEntry ws e = { kind := kindOf (kindCode ws e), base := entryBase ws e, exp := wordN ws (4 * e + 3) } := by
  unfold windowEntry
  dsimp only
  rw [show ((ws.getD (4 * e + 0) 0).toNat) = kindCode ws e from rfl]
  generalize kindCode ws e = x at used known
  interval_cases x
  · exact absurd rfl used
  all_goals rfl

theorem windowTable_get (ws : List Word) (e : Fin 8) : (windowTable ws)[e.val]? = some (windowEntry ws e.val) := by
  unfold windowTable
  rw [List.getElem?_map, List.getElem?_range e.isLt]
  rfl

/-- An entry has kind `x` where its code is `x`. -/
theorem windowEntry_kind {ws : List Word} {e : Nat} (known : kindCode ws e ≤ 5) {x : Nat} (low : 1 ≤ x) (high : x ≤ 5) :
    ((windowEntry ws e).kind == kindOf x) = (kindCode ws e == x) := by
  by_cases zero : kindCode ws e = 0
  · rw [windowEntry_none (.inl zero), zero]
    interval_cases x <;> rfl
  · rw [windowEntry_used zero known]
    have codes : ∀ y, y ≤ 5 → ∀ x, 1 ≤ x → x ≤ 5 → (kindOf y == kindOf x) = (y == x) := by decide
    exact codes _ known x low high

theorem kindCount_windowTable {ws : List Word} (known : ∀ e : Fin 8, kindCode ws e.val ≤ 5) {x : Nat} (low : 1 ≤ x) (high : x ≤ 5) :
    kindCount (kindOf x) (windowTable ws) = (List.range 8).countP (fun e => kindCode ws e == x) := by
  unfold kindCount windowTable
  rw [List.countP_map]
  refine List.countP_congr fun e mem => ?_
  rw [Function.comp_apply, windowEntry_kind (known ⟨e, List.mem_range.mp mem⟩) low high]

theorem pairwiseApart_iff : ∀ l : List Window, pairwiseApart l = true ↔ l.Pairwise fun x y => windowsApart x y = true
  | [] => iff_of_true rfl .nil
  | w :: rest => by
    unfold pairwiseApart
    rw [Bool.and_eq_true, List.all_eq_true, pairwiseApart_iff rest, List.pairwise_cons]

theorem kindOf_ne_none {x : Nat} (used : x ≠ 0) (known : x ≤ 5) : kindOf x ≠ .none := by
  have codes : ∀ x, x ≤ 5 → x ≠ 0 → kindOf x ≠ .none := by decide
  exact codes x known used

theorem windowsApart_iff (x y : Window) : windowsApart x y = true ↔
    x.kind = .none ∨ y.kind = .none ∨ x.base + x.size ≤ y.base ∨ y.base + y.size ≤ x.base := by
  unfold windowsApart
  rw [Bool.or_eq_true, Bool.or_eq_true, Bool.or_eq_true, beq_iff_eq, beq_iff_eq, decide_eq_true_iff, decide_eq_true_iff,
    or_assoc, or_assoc]

theorem Window.clearOfSettings_iff (w : Window) : w.clearOfSettings = true ↔
    w.kind = .none ∨ w.base + w.size ≤ 0x0FE000 ∨ 0x100000 ≤ w.base := by
  unfold Window.clearOfSettings
  rw [Bool.or_eq_true, Bool.or_eq_true, beq_iff_eq, decide_eq_true_iff, decide_eq_true_iff, or_assoc]

/-- 08 section 8.2: the size exponents of a kind by its code. -/
theorem Window.expAllowed_iff {x base exp : Nat} (used : x ≠ 0) (known : x ≤ 5) :
    ({ kind := kindOf x, base := base, exp := exp } : Window).expAllowed = true ↔
      [0, 8, 10, 10, 8, 8].getD x 0 ≤ exp ∧ exp ≤ [0, 12, 10, 16, 8, 22].getD x 0 := by
  have range (lo hi : Nat) : (decide (lo ≤ exp) && decide (exp ≤ hi)) = true ↔ lo ≤ exp ∧ exp ≤ hi := by
    rw [Bool.and_eq_true, decide_eq_true_iff, decide_eq_true_iff]
  have one (n : Nat) : (exp == n) = true ↔ n ≤ exp ∧ exp ≤ n := by
    rw [beq_iff_eq]
    omega
  interval_cases x
  · exact absurd rfl used
  · exact range 8 12
  · exact one 10
  · exact range 10 16
  · exact one 8
  · exact range 8 22

/-- What R125 asks of an entry in use, but for the others. -/
def EntryFits (ws : List Word) (e : Nat) : Prop :=
  (([0, 8, 10, 10, 8, 8].getD (kindCode ws e) 0 ≤ wordN ws (4 * e + 3) ∧
      wordN ws (4 * e + 3) ≤ [0, 12, 10, 16, 8, 22].getD (kindCode ws e) 0) ∧
    entryBase ws e % 2 ^ wordN ws (4 * e + 3) = 0) ∧
    (entryBase ws e + 2 ^ wordN ws (4 * e + 3) ≤ 0x0FE000 ∨ 0x100000 ≤ entryBase ws e)

/-- Two entries in use do not overlap. -/
def EntriesApart (ws : List Word) (e f : Nat) : Prop :=
  entryBase ws e + 2 ^ wordN ws (4 * e + 3) ≤ entryBase ws f ∨ entryBase ws f + 2 ^ wordN ws (4 * f + 3) ≤ entryBase ws e

section
variable {ws : List Word} {e f : Nat}

theorem windowEntry_fits (known : kindCode ws e ≤ 5) :
    (((windowEntry ws e).expAllowed && ((windowEntry ws e).kind == .none ||
      (windowEntry ws e).base % (windowEntry ws e).size == 0)) && (windowEntry ws e).clearOfSettings) = true ↔
      (kindCode ws e ≠ 0 → EntryFits ws e) := by
  by_cases zero : kindCode ws e = 0
  · rw [windowEntry_none (.inl zero)]
    exact iff_of_true rfl fun used => absurd zero used
  · rw [windowEntry_used zero known, Bool.and_eq_true, Bool.and_eq_true, Window.clearOfSettings_iff, Bool.or_eq_true,
      beq_iff_eq, beq_iff_eq, or_iff_right (kindOf_ne_none zero known), or_iff_right (kindOf_ne_none zero known),
      Window.expAllowed_iff zero known]
    exact ⟨fun fits _ => fits, fun fits => fits zero⟩

theorem windowEntry_apart (known : kindCode ws e ≤ 5) (known' : kindCode ws f ≤ 5) :
    windowsApart (windowEntry ws e) (windowEntry ws f) = true ↔
      (kindCode ws e ≠ 0 → kindCode ws f ≠ 0 → EntriesApart ws e f) := by
  rw [windowsApart_iff]
  by_cases zero : kindCode ws e = 0
  · rw [windowEntry_none (.inl zero)]
    exact iff_of_true (.inl rfl) fun used => absurd zero used
  by_cases zero' : kindCode ws f = 0
  · rw [windowEntry_none (e := f) (.inl zero')]
    exact iff_of_true (.inr (.inl rfl)) fun _ used => absurd zero' used
  rw [windowEntry_used zero known, windowEntry_used zero' known', or_iff_right (kindOf_ne_none zero known),
    or_iff_right (kindOf_ne_none zero' known')]
  exact ⟨fun apart _ _ => apart, fun apart => apart zero zero'⟩

end

theorem windowTable_apart {ws : List Word} (known : ∀ e : Fin 8, kindCode ws e.val ≤ 5) :
    pairwiseApart (windowTable ws) = true ↔ ∀ e : Fin 8, kindCode ws e.val ≠ 0 →
      ∀ f : Fin 8, f ≠ e → kindCode ws f.val ≠ 0 → EntriesApart ws e.val f.val := by
  rw [pairwiseApart_iff, show windowTable ws = List.ofFn fun e : Fin 8 => windowEntry ws e.val from rfl, List.pairwise_ofFn]
  refine ⟨fun apart e used f other used' => ?_, fun apart e f before => ?_⟩
  · rcases Nat.lt_or_gt_of_ne fun same => other (Fin.ext same) with before | after
    · exact ((windowEntry_apart (known f) (known e)).mp (apart before) used' used).symm
    · exact (windowEntry_apart (known e) (known f)).mp (apart after) used used'
  · exact (windowEntry_apart (known e) (known f)).mpr fun used used' => apart e used f before.ne' used'

/-- R125: the rules of a window table, entry by entry. -/
theorem windowTableValid_iff (ws : List Word) : windowTableValid ws = true ↔
    (∀ e : Fin 8, kindCode ws e.val ≤ 5) ∧
      (∀ x, 1 ≤ x ∧ x ≤ 4 → (List.range 8).countP (fun e => kindCode ws e == x) = 1) ∧
      (List.range 8).countP (fun e => kindCode ws e == 5) ≤ 4 ∧
      ∀ e : Fin 8, kindCode ws e.val ≠ 0 → EntryFits ws e.val ∧
        ∀ f : Fin 8, f ≠ e → kindCode ws f.val ≠ 0 → EntriesApart ws e.val f.val := by
  have codes : ((List.range 8).all fun e => (windowKind (ws.getD (4 * e) 0).toNat).isSome) = true ↔
      ∀ e : Fin 8, kindCode ws e.val ≤ 5 := by
    rw [all_range]
    exact forall_congr' fun e => windowKind_isSome _
  have entries (f : Window → Bool) : (windowTable ws).all f = true ↔ ∀ e : Fin 8, f (windowEntry ws e.val) = true := by
    unfold windowTable
    rw [List.all_map, all_range]
    rfl
  unfold windowTableValid
  simp only [Bool.and_eq_true, codes, beq_iff_eq, decide_eq_true_iff, and_assoc]
  refine and_congr_right fun known => ?_
  have count (x : Nat) (low : 1 ≤ x) (high : x ≤ 5) := kindCount_windowTable known low high
  have fits (e : Fin 8) := windowEntry_fits (ws := ws) (known e)
  rw [windowTable_apart known, entries, entries, show WindowKind.command = kindOf 1 from rfl, count 1 (by decide) (by decide),
    show WindowKind.status = kindOf 2 from rfl, count 2 (by decide) (by decide),
    show WindowKind.logRing = kindOf 3 from rfl, count 3 (by decide) (by decide),
    show WindowKind.logPort = kindOf 4 from rfl, count 4 (by decide) (by decide),
    show WindowKind.shield = kindOf 5 from rfl, count 5 (by decide) (by decide)]
  constructor
  · rintro ⟨one, two, three, four, shields, sizes, apart, clear⟩
    refine ⟨fun x inside => ?_, shields, fun e used => ⟨(fits e).mp ?_ used, apart e used⟩⟩
    · obtain ⟨low, high⟩ := inside
      interval_cases x
      · exact one
      · exact two
      · exact three
      · exact four
    · rw [Bool.and_eq_true]
      exact ⟨sizes e, clear e⟩
  · rintro ⟨counts, shields, rest⟩
    have judged (e : Fin 8) := (fits e).mpr fun used => (rest e used).1
    simp only [Bool.and_eq_true] at judged
    exact ⟨counts 1 (by decide), counts 2 (by decide), counts 3 (by decide), counts 4 (by decide), shields,
      fun e => by rw [Bool.and_eq_true]; exact (judged e).1, fun e used => (rest e used).2, fun e => (judged e).2⟩

end Sys2Proof.Machine
end

section
/-! The end of LOAD stage 1 (R148): O10. -/

namespace Sys2Proof.Machine

theorem storedSection_eq (m : Memory) (i : Fin 9) : storedSection m i = m.readWords
    (0x0FF000 + [0x100, 0x200, 0x300, 0x400, 0x480, 0x500, 0x700, 0x800, 0x000].getD i.val 0) (sectionLength i) := by
  have addresses : ∀ i : Fin 9, rangeBase .stored + sectionOffset i =
      0x0FF000 + [0x100, 0x200, 0x300, 0x400, 0x480, 0x500, 0x700, 0x800, 0x000].getD i.val 0 := by decide
  unfold storedSection
  rw [addresses]

/-- A stored section's words pass its check word and its content checks (R148). -/
def Passes (ws : List Word) (i : Fin 9) : Prop := blockSum ws = 0xFFFF ∧ contentGood i ws = true

section
variable {ws : List Word} {i : Fin 9}

theorem loadFailure_check (bad : blockSum ws ≠ 0xFFFF) : loadFailure ws i = some { sec := i, content := false } := by
  refine if_pos ?_
  rw [Bool.not_eq_true', blockValid, beq_eq_false_iff_ne]
  exact bad

theorem loadFailure_content (valid : blockSum ws = 0xFFFF) (bad : contentGood i ws = false) :
    loadFailure ws i = some { sec := i, content := true } := by
  unfold loadFailure blockValid
  rw [valid, beq_self_eq_true, bad]
  rfl

theorem loadFailure_passes (passes : Passes ws i) : loadFailure ws i = none := by
  obtain ⟨valid, good⟩ := passes
  unfold loadFailure blockValid
  rw [valid, beq_self_eq_true, good]
  rfl

theorem loadFailure_eq_some {k : KeptDefault} : loadFailure ws i = some k ↔ k.sec = i ∧
    (k.content = true ∧ blockSum ws = 0xFFFF ∧ contentGood i ws = false ∨ k.content = false ∧ blockSum ws ≠ 0xFFFF) := by
  obtain ⟨sec, content⟩ := k
  by_cases valid : blockSum ws = 0xFFFF
  · cases good : contentGood i ws with
    | true =>
      rw [loadFailure_passes ⟨valid, good⟩]
      refine iff_of_false (Option.some_ne_none _).symm ?_
      rintro ⟨-, ⟨-, -, bad⟩ | ⟨-, bad⟩⟩
      · exact Bool.noConfusion bad
      · exact bad valid
    | false =>
      rw [loadFailure_content valid good]
      constructor
      · rintro ⟨⟩
        exact ⟨rfl, .inl ⟨rfl, valid, rfl⟩⟩
      · rintro ⟨rfl, ⟨rfl, -⟩ | ⟨-, bad⟩⟩
        · rfl
        · exact absurd valid bad
  · rw [loadFailure_check valid]
    constructor
    · rintro ⟨⟩
      exact ⟨rfl, .inr ⟨rfl, valid⟩⟩
    · rintro ⟨rfl, ⟨-, good, -⟩ | ⟨rfl, -⟩⟩
      · exact absurd good valid
      · rfl

end

section
variable {m : Memory}

theorem loadFailures_header {k : KeptDefault} (failed : loadFailure (storedSection m 8) 8 = some k) : loadFailures m = [k] := by
  unfold loadFailures
  rw [failed]

theorem loadFailures_sections (passes : Passes (storedSection m 8) 8) :
    loadFailures m = ([0, 1, 2, 3, 4, 5, 6, 7] : List (Fin 9)).filterMap fun i => loadFailure (storedSection m i) i := by
  unfold loadFailures
  rw [loadFailure_passes passes]

theorem mem_loadFailures (passes : Passes (storedSection m 8) 8) {k : KeptDefault} : k ∈ loadFailures m ↔
    k.sec ≠ 8 ∧ (k.content = true ∧ blockSum (storedSection m k.sec) = 0xFFFF ∧
        contentGood k.sec (storedSection m k.sec) = false ∨
      k.content = false ∧ blockSum (storedSection m k.sec) ≠ 0xFFFF) := by
  have members : ∀ i : Fin 9, i ∈ ([0, 1, 2, 3, 4, 5, 6, 7] : List (Fin 9)) ↔ i ≠ 8 := by decide
  rw [loadFailures_sections passes, List.mem_filterMap]
  constructor
  · rintro ⟨i, mem, failed⟩
    obtain ⟨rfl, cause⟩ := loadFailure_eq_some.mp failed
    exact ⟨(members _).mp mem, cause⟩
  · rintro ⟨other, cause⟩
    exact ⟨k.sec, (members _).mpr other, loadFailure_eq_some.mpr ⟨rfl, cause⟩⟩

theorem loadFailures_ordered (m : Memory) : ((loadFailures m).map fun k => k.sec.val).Pairwise (· < ·) := by
  cases header : loadFailure (storedSection m 8) 8 with
  | some k =>
    rw [loadFailures_header header]
    exact List.pairwise_singleton _ _
  | none =>
    unfold loadFailures
    rw [header]
    rw [List.pairwise_map, List.pairwise_filterMap]
    refine List.Pairwise.imp (R := (· < ·)) (fun {i j} before k failed l failed' => ?_) (by decide)
    rw [(loadFailure_eq_some.mp failed).1, (loadFailure_eq_some.mp failed').1]
    exact before

theorem passes_or_fails (ws : List Word) (i : Fin 9) : Passes ws i ∨ ∃ k, loadFailure ws i = some k := by
  by_cases valid : blockSum ws = 0xFFFF
  · cases good : contentGood i ws with
    | true => exact .inl ⟨valid, good⟩
    | false => exact .inr ⟨_, loadFailure_content valid good⟩
  · exact .inr ⟨_, loadFailure_check valid⟩

/-- R148: a section that has passed is in force as stored. -/
theorem loadedShadow_stored {i : Fin 9} (header : Passes (storedSection m 8) 8) (passes : Passes (storedSection m i) i) :
    loadedShadow m (loadFailures m) i =
      { words := storedSection m i, source := .stored, storedDiffers := false, pendingReset := false } := by
  refine if_neg ?_
  unfold defaulted
  rw [Bool.not_eq_true, List.any_eq_false]
  intro k mem both
  obtain ⟨other, cause⟩ := (mem_loadFailures header).mp mem
  rw [Bool.or_eq_true, beq_iff_eq, beq_iff_eq] at both
  have own : k.sec = i := both.resolve_left other
  obtain ⟨valid, good⟩ := passes
  rw [own] at cause
  rcases cause with ⟨-, -, bad⟩ | ⟨-, bad⟩
  · rw [good] at bad
    exact Bool.noConfusion bad
  · exact bad valid

/-- R148: a section defaults where H has failed, or the section itself. -/
theorem loadedShadow_default {i : Fin 9} (fails : ¬ Passes (storedSection m 8) 8 ∨ ¬ Passes (storedSection m i) i) :
    loadedShadow m (loadFailures m) i =
      { words := defaultSection i, source := .default, storedDiffers := false, pendingReset := false } := by
  refine if_pos ?_
  unfold defaulted
  rw [List.any_eq_true]
  rcases passes_or_fails (storedSection m 8) 8 with header | ⟨k, failed⟩
  · rcases passes_or_fails (storedSection m i) i with passes | ⟨k, failed⟩
    · exact absurd passes (fails.resolve_left (not_not_intro header))
    · obtain ⟨own, cause⟩ := loadFailure_eq_some.mp failed
      refine ⟨k, (mem_loadFailures header).mpr ⟨fun last => ?_, own ▸ cause⟩, ?_⟩
      · rw [← own, last] at fails
        exact fails.elim (fun bad => bad header) fun bad => bad header
      · rw [own, beq_self_eq_true, Bool.or_true]
  · refine ⟨k, ?_, ?_⟩
    · rw [loadFailures_header failed]
      exact List.mem_singleton_self k
    · rw [(loadFailure_eq_some.mp failed).1, beq_self_eq_true, Bool.true_or]

end

/-- Settles O10: each section judged on its own, word by word, and the units placed by the settings in force. -/
theorem loadStage1JudgesSettings : Obligations.LoadStage1JudgesSettings := by
  refine ⟨fun ws => ?_, by decide +kernel, fun s panel loads => ?_⟩
  · intro w between base size
    refine ⟨headerContent_iff ws, ?_, ?_, ?_, ?_, ?_, ?_, alarmContent_eq ws, linkContent_iff ws, ?_, ?_⟩
    · refine (windowTableValid_iff ws).trans ⟨?_, ?_⟩
      · rintro ⟨known, counts, shields, entries⟩
        refine ⟨fun k low => known ⟨k, low⟩, counts, shields, fun e used => ?_⟩
        obtain ⟨⟨⟨sizes, aligned⟩, clear⟩, apart⟩ := entries e used
        exact ⟨sizes, aligned, clear, apart⟩
      · rintro ⟨known, counts, shields, entries⟩
        refine ⟨fun e => known e.val e.isLt, counts, shields, fun e used => ?_⟩
        obtain ⟨sizes, aligned, clear, apart⟩ := entries e used
        exact ⟨⟨⟨sizes, aligned⟩, clear⟩, apart⟩
    · exact all_range.trans (forall_congr' fun n => pumpContent_iff ws _)
    · exact stationContent_iff ws
    · exact all_range.trans (forall_congr' fun n => rakeContent_iff ws _)
    · exact all_range.trans (forall_congr' fun n => weirContent_iff ws _)
    · exact all_range.trans (forall_congr' fun n => curveContent_iff ws _)
    · exact (List.length_map _).trans List.length_range
    · intro e
      rw [windowTable_get]
      refine congrArg some ?_
      by_cases unused : w (4 * e.val) = 0 ∨ 5 < w (4 * e.val)
      · rw [if_pos unused]
        exact windowEntry_none unused
      · rw [if_neg unused]
        obtain ⟨used, known⟩ := not_or.mp unused
        exact windowEntry_used used (Nat.not_lt.mp known)
  · have run : exec .loadStage1End s = .next (s.loadStage1 panel) := by
      show execLoadStage1End s = _
      unfold execLoadStage1End
      rw [loads]
    refine ⟨_, run, ?_⟩
    intro stored passes
    have isStored (i : Fin 9) : stored i = storedSection s.mem i := (storedSection_eq s.mem i).symm
    have isPasses (i : Fin 9) : passes i ↔ Passes (storedSection s.mem i) i := by rw [← isStored]; exact Iff.rfl
    have section_ (i : Fin 9) : (s.loadStage1 panel).plant.sections.get i = loadedShadow s.mem (loadFailures s.mem) i :=
      vector_get_ofFn _ i
    have kept : (s.loadStage1 panel).kept = loadFailures s.mem := rfl
    have lock : (s.loadStage1 panel).settings.lock = loadedLock ((s.loadStage1 panel).plant.sections.get 8) := rfl
    refine ⟨rfl, fun i => ⟨fun header passed => ?_, fun failed => ?_⟩, fun bad => ?_, fun valid bad => ?_, fun header => ⟨?_, fun i b => ?_⟩,
      loadFailures_ordered s.mem, rfl, rfl, rfl, rfl, rfl, fun n => ?_, fun n => ?_, rfl, rfl⟩
    · rw [section_, isStored]
      exact loadedShadow_stored ((isPasses 8).mp header) ((isPasses i).mp passed)
    · rw [section_]
      rw [isPasses, isPasses] at failed
      exact loadedShadow_default failed
    · rw [kept, lock, section_]
      rw [isStored] at bad
      rw [loadedShadow_default (.inl fun passed => bad passed.1)]
      exact ⟨loadFailures_header (loadFailure_check bad), rfl⟩
    · rw [kept, lock, section_]
      rw [isStored] at valid bad
      rw [loadedShadow_default (.inl fun passed => Bool.noConfusion (bad.symm.trans passed.2))]
      exact ⟨loadFailures_header (loadFailure_content valid bad), rfl⟩
    · rw [isPasses] at header
      rw [lock, section_, loadedShadow_stored header header, isStored]
      rfl
    · rw [isPasses] at header
      rw [kept, isStored]
      exact mem_loadFailures header
    · exact vector_get_ofFn _ n
    · exact vector_get_ofFn _ n

end Sys2Proof.Machine
end

section
/-! The log's recovery at the end of LOAD (R91, R119, R120): O11. -/

namespace Sys2Proof.Machine

/-! Bytes and words of memory. -/

theorem bytesWords_readBytes (m : Memory) (k : Nat) : ∀ a, bytesWords (m.readBytes a (2 * k)) = m.readWords a k := by
  induction k with
  | zero => exact fun _ => rfl
  | succ k ih =>
    intro a
    show (m.read (a + 1) ++ m.read a) :: bytesWords (m.readBytes (a + 2) (2 * k)) = _
    rw [ih]
    rfl

theorem readBytes_drop (m : Memory) (i : Nat) : ∀ a n, (m.readBytes a n).drop i = m.readBytes (a + i) (n - i) := by
  induction i with
  | zero => exact fun _ _ => rfl
  | succ i ih =>
    intro a n
    cases n with
    | zero => rw [Nat.zero_sub]; rfl
    | succ n =>
      show (m.readBytes (a + 1) n).drop i = _
      rw [ih, Nat.add_sub_add_right, show a + 1 + i = a + (i + 1) by omega]

theorem readBytes_take (m : Memory) (i : Nat) : ∀ a n, i ≤ n → (m.readBytes a n).take i = m.readBytes a i := by
  induction i with
  | zero => exact fun _ _ _ => List.take_zero
  | succ i ih =>
    intro a n low
    cases n with
    | zero => omega
    | succ n =>
      show m.read a :: (m.readBytes (a + 1) n).take i = _
      rw [ih _ _ (by omega)]
      rfl

/-! The slots (R107, R119). -/

section
variable {m : Memory} {t : List Window}

/-- R119: sequence number `x` lies valid in its slot. -/
def RingHolds (m : Memory) (t : List Window) (x : Nat) : Prop :=
  x ≠ 0 ∧ blockValid (m.readWords (slotAddress t x) 16) = true ∧ bytesNat (m.readBytes (slotAddress t x) 4) = x

theorem slotAddress_congr {x y : Nat} (same : x % ringCapacity t = y % ringCapacity t) : slotAddress t x = slotAddress t y := by
  unfold slotAddress
  rw [same]

theorem slotSequence_iff {i x : Nat} : slotSequence m t i = some x ↔ RingHolds m t x ∧ x % ringCapacity t = i % ringCapacity t := by
  unfold slotSequence
  dsimp only
  constructor
  · intro found
    split_ifs at found with valid
    simp only [Bool.and_eq_true, bne_iff_ne, beq_iff_eq] at valid
    obtain ⟨⟨block, positive⟩, slot⟩ := valid
    cases found
    have address := slotAddress_congr (t := t) slot
    refine ⟨⟨positive, ?_, ?_⟩, slot⟩
    · rw [address]; exact block
    · rw [address]
  · rintro ⟨⟨positive, block, number⟩, slot⟩
    rw [slotAddress_congr slot] at block number
    rw [if_pos, number]
    simp only [Bool.and_eq_true, bne_iff_ne, beq_iff_eq]
    rw [number]
    exact ⟨⟨block, positive⟩, slot⟩

theorem slotSequence_self {x : Nat} : slotSequence m t x = some x ↔ RingHolds m t x :=
  slotSequence_iff.trans (and_iff_left rfl)

theorem slotSequence_le_highest {i x : Nat} (found : slotSequence m t i = some x) :
    ∀ k, i < k → x ≤ highestSequence m t k := by
  intro k low
  induction k with
  | zero => omega
  | succ k ih =>
    unfold highestSequence
    rcases Nat.lt_or_eq_of_le (Nat.le_of_lt_succ low) with earlier | rfl
    · exact (ih earlier).trans (Nat.le_max_left _ _)
    · rw [found]
      exact Nat.le_max_right _ _

/-- R119: the highest number is the one of some slot, if any is valid. -/
theorem highestSequence_found (k : Nat) : highestSequence m t k = 0 ∨ RingHolds m t (highestSequence m t k) := by
  induction k with
  | zero => exact .inl rfl
  | succ k ih =>
    unfold highestSequence
    rcases Nat.le_total ((slotSequence m t k).getD 0) (highestSequence m t k) with low | high
    · rw [Nat.max_eq_left low]
      exact ih
    · rw [Nat.max_eq_right high]
      cases found : slotSequence m t k with
      | none => exact .inl rfl
      | some x => exact .inr (slotSequence_iff.mp found).1

/-- R119: every valid number is at most the highest. -/
theorem RingHolds.le_highest {x : Nat} (valid : RingHolds m t x) (room : 0 < ringCapacity t) :
    x ≤ highestSequence m t (ringCapacity t) :=
  slotSequence_le_highest (slotSequence_iff.mpr ⟨valid, (Nat.mod_mod_of_dvd x (dvd_refl _)).symm⟩) _ (Nat.mod_lt x room)

/-- R119: from the oldest number on every one is valid, and the one before it is not, unless the ring has been gone round. -/
theorem oldestSequence_valid (m : Memory) (t : List Window) (k : Nat) : ∀ x, 1 ≤ x →
    (∀ y, oldestSequence m t x k ≤ y → y < x → RingHolds m t y) ∧
      (¬ RingHolds m t (oldestSequence m t x k - 1) ∨ oldestSequence m t x k + k = x) := by
  induction k with
  | zero =>
    intro x _
    exact ⟨fun y low high => absurd high (Nat.not_lt.mpr low), .inr rfl⟩
  | succ k ih =>
    intro x positive
    unfold oldestSequence
    split
    case isTrue found =>
      have valid := slotSequence_self.mp found
      have := valid.1
      obtain ⟨all, before⟩ := ih (x - 1) (by omega)
      refine ⟨fun y low high => ?_, before.imp_right fun _ => by omega⟩
      by_cases last : y = x - 1
      · rw [last]; exact valid
      · exact all y low (by omega)
    case isFalse other => exact ⟨fun y low high => absurd low (by omega), .inl fun valid => other (slotSequence_self.mpr valid)⟩

/-- R119: what T and O are recovered to. -/
structure Recovered (m : Memory) (t : List Window) (tail oldest : Nat) : Prop where
  above   : ∀ x, RingHolds m t x → x < tail
  highest : RingHolds m t (tail - 1) ∨ tail = 1
  low     : 1 ≤ oldest
  high    : oldest ≤ tail
  between : ∀ x, oldest ≤ x → x < tail → RingHolds m t x
  before  : ¬ RingHolds m t (oldest - 1)

theorem recoverTail_recovered (room : 0 < ringCapacity t) : Recovered m t (recoverTail m t).1 (recoverTail m t).2 := by
  have found := highestSequence_found (m := m) (t := t) (ringCapacity t)
  have above (x : Nat) (valid : RingHolds m t x) := valid.le_highest room
  unfold recoverTail
  dsimp only
  generalize highestSequence m t (ringCapacity t) = high at found above
  split
  case isTrue empty =>
    refine ⟨fun x valid => ?_, .inr rfl, le_rfl, le_rfl, fun x low high => absurd low (by omega), fun valid => valid.1 rfl⟩
    have := above x valid
    exact absurd valid.1 (not_not_intro (by omega))
  case isFalse some_ =>
    have valid := found.resolve_left some_
    obtain ⟨low, below, -⟩ := oldestSequence_bounds m t (high + 1) (ringCapacity t) (by omega)
    obtain ⟨between, before⟩ := oldestSequence_valid m t (ringCapacity t) (high + 1) (by omega)
    refine ⟨fun x valid => Nat.lt_succ_of_le (above x valid), .inl valid, low, below, between, fun early => ?_⟩
    -- the ring has been gone round: the slot of the number before the oldest holds the highest
    have round := before.resolve_left (not_not_intro early)
    generalize oldestSequence m t (high + 1) (ringCapacity t) = oldest at low early round
    have slot : (oldest - 1) % ringCapacity t = high % ringCapacity t := by
      rw [show high = oldest - 1 + ringCapacity t by omega, Nat.add_mod_right]
    have same := early.2.2
    rw [slotAddress_congr slot, valid.2.2] at same
    omega

/-- R120: P and W as page 15 shows them, where they lie within the ring's numbers. -/
theorem recoverCursors_eq (tail oldest : Nat) :
    let page := m.readBytes ((findWindow t .status).base + 960) 64
    let shownP := bytesNat ((page.drop 14).take 4)
    let shownW := bytesNat ((page.drop 18).take 4)
    (blockValid (bytesWords page) = true ∧ oldest ≤ shownP ∧ shownP ≤ tail ∧ oldest ≤ shownW ∧ shownW ≤ tail →
      recoverCursors m t tail oldest = (shownP, shownW)) ∧
    (¬ (blockValid (bytesWords page) = true ∧ oldest ≤ shownP ∧ shownP ≤ tail ∧ oldest ≤ shownW ∧ shownW ≤ tail) →
      recoverCursors m t tail oldest = (oldest, oldest)) := by
  intro page shownP shownW
  have words : bytesWords page = m.readWords ((findWindow t .status).base + 64 * 15) 32 := bytesWords_readBytes m 32 _
  have isP : shownP = bytesNat (m.readBytes ((findWindow t .status).base + 64 * 15 + 2 * 7) 4) := by
    show bytesNat ((page.drop 14).take 4) = _
    rw [readBytes_drop, readBytes_take _ _ _ _ (by decide)]
  have isW : shownW = bytesNat (m.readBytes ((findWindow t .status).base + 64 * 15 + 2 * 9) 4) := by
    show bytesNat ((page.drop 18).take 4) = _
    rw [readBytes_drop, readBytes_take _ _ _ _ (by decide)]
  unfold recoverCursors
  dsimp only
  rw [← words, ← isP, ← isW]
  refine ⟨fun within => if_pos ?_, fun without => if_neg fun within => without ?_⟩
  · simp only [Bool.and_eq_true, decide_eq_true_iff, and_assoc]
    exact within
  · simp only [Bool.and_eq_true, decide_eq_true_iff, and_assoc] at within
    exact within

/-- R91: the entry of number `x` is an OVERFLOW_START, or an OVERFLOW_END, of weir `n`. -/
def RingStarts (m : Memory) (t : List Window) (n : Fin 3) (x : Nat) : Prop :=
  m.read (slotAddress t x + 8) = srcWeir n ∧ m.read (slotAddress t x + 9) = 0x40

def RingEnds (m : Memory) (t : List Window) (n : Fin 3) (x : Nat) : Prop :=
  m.read (slotAddress t x + 8) = srcWeir n ∧ m.read (slotAddress t x + 9) = 0x41

theorem unmatchedStart_starts {n : Fin 3} {x k : Nat} (starts : RingStarts m t n (x - 1)) :
    unmatchedStart m t n x (k + 1) = true := if_pos starts

theorem unmatchedStart_ends {n : Fin 3} {x k : Nat} (starts : ¬ RingStarts m t n (x - 1)) (ends : RingEnds m t n (x - 1)) :
    unmatchedStart m t n x (k + 1) = false := (if_neg starts).trans (if_pos ends)

theorem unmatchedStart_neither {n : Fin 3} {x k : Nat} (starts : ¬ RingStarts m t n (x - 1))
    (ends : ¬ RingEnds m t n (x - 1)) : unmatchedStart m t n x (k + 1) = unmatchedStart m t n (x - 1) k :=
  (if_neg starts).trans (if_neg ends)

/-- R91: the newest OVERFLOW entry of weir `n` among the `k` entries below `x` is a start. -/
theorem unmatchedStart_iff {n : Fin 3} (k : Nat) : ∀ x, k ≤ x → (unmatchedStart m t n x k = true ↔
    ∃ y, x - k ≤ y ∧ y < x ∧ RingStarts m t n y ∧ ∀ z, y < z → z < x → ¬ RingStarts m t n z ∧ ¬ RingEnds m t n z) := by
  induction k with
  | zero =>
    intro x _
    refine iff_of_false Bool.false_ne_true ?_
    rintro ⟨y, low, high, -⟩
    omega
  | succ k ih =>
    intro x low
    by_cases starts : RingStarts m t n (x - 1)
    · rw [unmatchedStart_starts starts]
      exact iff_of_true rfl ⟨x - 1, by omega, by omega, starts, fun z above below => by omega⟩
    by_cases ends : RingEnds m t n (x - 1)
    · rw [unmatchedStart_ends starts ends]
      refine iff_of_false Bool.false_ne_true ?_
      rintro ⟨y, -, below, starts', quiet⟩
      by_cases last : y = x - 1
      · exact starts (last ▸ starts')
      · exact (quiet (x - 1) (by omega) (by omega)).2 ends
    · rw [unmatchedStart_neither starts ends, ih (x - 1) (by omega)]
      constructor
      · rintro ⟨y, above, below, starts', quiet⟩
        refine ⟨y, by omega, by omega, starts', fun z over_ under => ?_⟩
        by_cases last : z = x - 1
        · rw [last]; exact ⟨starts, ends⟩
        · exact quiet z over_ (by omega)
      · rintro ⟨y, above, below, starts', quiet⟩
        have other : y ≠ x - 1 := fun last => starts (last ▸ starts')
        exact ⟨y, by omega, by omega, starts', fun z over_ under => quiet z over_ (by omega)⟩

end

end Sys2Proof.Machine
end

section
/-! The pumps at the end of LOAD (R58, R61): O11. -/

namespace Sys2Proof.Machine

/-! Parts of the pump unit's operations where no pump moves and no demand stands. -/

/-- A RUN field that keeps its value changes nothing (R36). -/
theorem Plant.setRun_same {p : Plant} {n : Fin 6} {b : Bool} (same : p.demand n = b) : p.setRun n b = p := by
  have word : setBit (p.shadow.get (pumpWord n)) 0 b = p.shadow.get (pumpWord n) := by
    refine BitVec.eq_of_getLsbD_eq fun k _ => ?_
    rw [getLsbD_setBit _ _ _ _ (by decide)]
    split
    case isTrue first => rw [first]; exact same.symm
    case isFalse => rfl
  have unchanged : p.correctShadow (pumpWord n) (setBit (p.shadow.get (pumpWord n)) 0 b) = p := if_pos word.symm
  unfold Plant.setRun
  rw [unchanged, if_pos same]
  unfold Plant.mark
  rw [List.append_nil]

/-- No pump is in STARTING or RUNNING. -/
def Plant.AllStill (p : Plant) : Prop := ∀ n, (p.pump n).state.inMotion = false

/-- R55: with no pump in motion the list does not move. -/
theorem Plant.AllStill.setPump_rotation {p : Plant} (still : p.AllStill) (n : Fin 6) (x : Pump) :
    (p.setPump n x).rotation = p.rotation := by
  have idle : p.runningCount = 0 := by
    unfold Plant.runningCount
    rw [List.countP_eq_zero]
    intro m _ moving
    rw [still m] at moving
    exact Bool.false_ne_true moving
  unfold Plant.setPump
  dsimp only
  rw [if_neg]
  rw [idle]
  exact Bool.false_ne_true

theorem Plant.AllStill.stopped_rotation {p : Plant} (still : p.AllStill) (n : Fin 6) (x : Pump) :
    (p.stopped n x).rotation = p.rotation :=
  (Plant.leaveQueue_kept (p.setPump n x) n).2.rotation.trans (still.setPump_rotation n x)

theorem Plant.leaveQueue_stagger (p : Plant) (n : Fin 6) : (p.leaveQueue n).stagger = p.stagger := by
  unfold Plant.leaveQueue
  dsimp only
  split <;> rfl

theorem Plant.stopped_stagger (p : Plant) (n : Fin 6) (x : Pump) : (p.stopped n x).stagger = p.stagger :=
  (Plant.leaveQueue_stagger (p.setPump n x) n).trans (p.setPump_stagger n x)

/-! One pump taken over from LOAD (R61). -/

/-- R61: what the end of LOAD makes of a pump. -/
def Plant.startedPump (p : Plant) (n : Fin 6) : Pump :=
  if p.pumpPresent n then
    if p.pumpOosSet n then { p.pump n with state := .outOfService }
    else if p.faultActive n then
      { p.pump n with state := .tripped, tripCause := .fault, tripUptime := some p.clock.uptime, deferred := false
                      feedback := .stopped, minRun := .stopped, minOff := .stopped }
    else p.restingPump n (p.minOffTime n)
  else p.pump n

/-- R61, R43: the pump trips as it comes to rest. -/
def Plant.tripsAtLoad (p : Plant) (n : Fin 6) : Bool := p.pumpPresent n && !p.pumpOosSet n && p.faultActive n

/-- R61: the pumps of `ns` taken over from LOAD. -/
structure Plant.PumpsTaken (ns : List (Fin 6)) (p q : Plant) : Prop where
  acts     : p.Acts q
  shadow   : q.shadow = p.shadow
  corr     : q.corr = p.corr
  desired  : q.desired = p.desired
  stagger  : q.stagger = p.stagger
  rakes    : q.rakes = p.rakes
  claims   : ∀ n, q.claim (rakeHolder n) = p.claim (rakeHolder n)
  own      : ∀ m ∈ ns, q.pump m = p.startedPump m
  other    : ∀ m, m ∉ ns → q.pump m = p.pump m
  free     : ∀ n, (p.claim (pumpHolder n)).status = .none → (q.claim (pumpHolder n)).status = .none
  queue    : p.queue = [] → q.queue = []
  rotation : p.AllStill → q.rotation = p.rotation
  out      : q.out = p.out ++ (ns.filter p.tripsAtLoad).map fun n => tripDraft n .fault .resting

theorem Plant.PumpsTaken.same {p : Plant} {n : Fin 6} (own : p.startedPump n = p.pump n) (quiet : p.tripsAtLoad n = false) :
    Plant.PumpsTaken [n] p p where
  acts := .refl p
  shadow := rfl
  corr := rfl
  desired := rfl
  stagger := rfl
  rakes := rfl
  claims _ := rfl
  own m mem := by rw [List.mem_singleton.mp mem]; exact own.symm
  other _ _ := rfl
  free _ none_ := none_
  queue empty := empty
  rotation _ := rfl
  out := by rw [List.filter_cons_of_neg (by rw [quiet]; exact Bool.false_ne_true)]; exact (List.append_nil _).symm

theorem pumpHolder_ne (n : Fin 6) (m : Fin 2) : rakeHolder m ≠ pumpHolder n := (pumpHolder_ne_rakeHolder n m).symm

theorem Plant.setPump_taken {p : Plant} {n : Fin 6} {x : Pump} (own : p.startedPump n = x) (quiet : p.tripsAtLoad n = false) :
    Plant.PumpsTaken [n] p (p.setPump n x) where
  acts := p.setPump_acts n x
  shadow := p.setPump_shadow n x
  corr := p.setPump_corr n x
  desired := p.setPump_desired n x
  stagger := p.setPump_stagger n x
  rakes := p.setPump_rakes n x
  claims m := Plant.claim_of_claims (p.setPump_claims n x) _
  own m mem := by rw [List.mem_singleton.mp mem, Plant.pump_setPump_same, own]
  other m out := (p.setPump_only n x).pumps m fun same => out (List.mem_singleton.mpr same)
  free m none_ := by rw [Plant.claim_of_claims (p.setPump_claims n x)]; exact none_
  queue empty := (p.setPump_queue n x).trans empty
  rotation still := still.setPump_rotation n x
  out := by
    rw [List.filter_cons_of_neg (by rw [quiet]; exact Bool.false_ne_true), p.setPump_out]
    exact (List.append_nil _).symm

theorem Plant.stopped_taken {p : Plant} {n : Fin 6} {x : Pump} (own : p.startedPump n = x) (quiet : p.tripsAtLoad n = false) :
    Plant.PumpsTaken [n] p (p.stopped n x) where
  acts := p.stopped_acts n x
  shadow := p.stopped_shadow n x
  corr := p.stopped_corr n x
  desired := p.stopped_desired n x
  stagger := p.stopped_stagger n x
  rakes := (p.stopped_only n x).rakes
  claims m := (p.stopped_only n x).claims _ (pumpHolder_ne n m)
  own m mem := by rw [List.mem_singleton.mp mem, Plant.stopped_pump, own]
  other m out := (p.stopped_only n x).pumps m fun same => out (List.mem_singleton.mpr same)
  free m none_ := by
    by_cases same : m = n
    · rw [same, Plant.stopped_claim]; rfl
    · rw [(p.stopped_only n x).claims _ fun equal => same (pumpHolder_inj equal)]; exact none_
  queue empty := by rw [Plant.stopped_queue, empty]; rfl
  rotation still := still.stopped_rotation n x
  out := by
    rw [List.filter_cons_of_neg (by rw [quiet]; exact Bool.false_ne_true), p.stopped_out]
    exact (List.append_nil _).symm

/-- A pump stopped twice, the second time by its fault, with no demand to withdraw (R43). -/
theorem Plant.tripped_taken {p : Plant} {n : Fin 6} (trips : p.tripsAtLoad n = true) (demand : p.demand n = false) :
    Plant.PumpsTaken [n] p ((p.stopped n (p.restingPump n (p.minOffTime n))).trip n .fault) := by
  have fault : p.pumpPresent n = true ∧ p.pumpOosSet n = false ∧ p.faultActive n = true := by
    unfold Plant.tripsAtLoad at trips
    rw [Bool.and_eq_true, Bool.and_eq_true, Bool.not_eq_true'] at trips
    exact ⟨trips.1.1, trips.1.2, trips.2⟩
  obtain ⟨present, serves, fault⟩ := fault
  have own : p.startedPump n = (p.stopped n (p.restingPump n (p.minOffTime n))).trippedPump n .fault := by
    unfold Plant.startedPump Plant.trippedPump
    rw [present, serves, fault, Plant.stopped_pump, (p.stopped_acts n _).inputs.clock]
    rfl
  have rested : ((p.stopped n (p.restingPump n (p.minOffTime n))).pump n).state = .resting := by
    rw [Plant.stopped_pump]
    rfl
  have only := p.stopped_only n (p.restingPump n (p.minOffTime n))
  have acts := p.stopped_acts n (p.restingPump n (p.minOffTime n))
  have shadow := p.stopped_shadow n (p.restingPump n (p.minOffTime n))
  have corr := p.stopped_corr n (p.restingPump n (p.minOffTime n))
  have desired := p.stopped_desired n (p.restingPump n (p.minOffTime n))
  have stagger := p.stopped_stagger n (p.restingPump n (p.minOffTime n))
  have queue := p.stopped_queue n (p.restingPump n (p.minOffTime n))
  have out := p.stopped_out n (p.restingPump n (p.minOffTime n))
  have rotation (still : p.AllStill) := still.stopped_rotation n (p.restingPump n (p.minOffTime n))
  generalize p.stopped n (p.restingPump n (p.minOffTime n)) = q at *
  have asks : ((q.stopped n (q.trippedPump n .fault)).setRun n false) = q.stopped n (q.trippedPump n .fault) :=
    Plant.setRun_same ((Plant.demand_of_shadow ((q.stopped_shadow n _).trans shadow) n).trans demand)
  have trip := q.trip_eq n .fault
  rw [asks, rested] at trip
  have only' := only.trans (q.trip_only n .fault)
  have trips' := q.trip_trips n .fault
  refine ⟨acts.trans trips'.acts, ?_, ?_, ?_, ?_, only'.rakes, fun m => only'.claims _ (pumpHolder_ne n m), fun m mem => ?_,
    fun m out => only'.pumps m fun same => out (List.mem_singleton.mpr same), fun m none_ => ?_, fun empty => ?_,
    fun still => ?_, ?_⟩
  · rw [trip, Plant.append_shadow, q.stopped_shadow, shadow]
  · rw [trip, Plant.append_corr, q.stopped_corr, corr]
  · rw [trip, Plant.append_desired, q.stopped_desired, desired]
  · rw [trip, Plant.append_stagger, q.stopped_stagger, stagger]
  · rw [List.mem_singleton.mp mem, own, trips'.pump]
  · by_cases same : m = n
    · rw [same, trips'.claim]; rfl
    · rw [only'.claims _ fun equal => same (pumpHolder_inj equal)]; exact none_
  · rw [Plant.trip_queue, queue, empty]; rfl
  · have still' : q.AllStill := fun m => by
      by_cases same : m = n
      · rw [same, rested]; rfl
      · rw [only.pumps m same]; exact still m
    rw [trip, Plant.append_rotation, still'.stopped_rotation, rotation still]
  · rw [trip, List.filter_cons_of_pos trips, List.filter_nil, Plant.append_out, Plant.stopped_out, out]
    rfl

theorem Plant.startPumpUnit_taken {p : Plant} {n : Fin 6} (demand : p.demand n = false) :
    Plant.PumpsTaken [n] p (p.startPumpUnit n) := by
  unfold Plant.startPumpUnit
  cases present : p.pumpPresent n with
  | false =>
    exact Plant.PumpsTaken.same (by unfold Plant.startedPump; rw [present]; rfl)
      (by unfold Plant.tripsAtLoad; rw [present]; rfl)
  | true =>
    rw [Bool.not_true, if_neg Bool.false_ne_true]
    cases oos : p.pumpOosSet n with
    | true =>
      rw [if_pos rfl]
      exact Plant.setPump_taken (by unfold Plant.startedPump; rw [present, oos]; rfl)
        (by unfold Plant.tripsAtLoad; rw [oos, Bool.not_true, Bool.and_false]; rfl)
    | false =>
      rw [if_neg Bool.false_ne_true]
      cases fault : p.faultActive n with
      | false =>
        rw [Plant.enterResting_rests fault]
        exact Plant.stopped_taken (by unfold Plant.startedPump; rw [present, oos, fault]; rfl)
          (by unfold Plant.tripsAtLoad; rw [fault, Bool.and_false])
      | true =>
        rw [Plant.enterResting_trips fault]
        exact Plant.tripped_taken (by unfold Plant.tripsAtLoad; rw [present, oos, fault]; rfl) demand

/-! The six pumps. -/

/-- What is made of a pump looks at it, at the settings, the contacts, the clock and the shadow alone. -/
theorem Plant.startedPump_congr {p q : Plant} {n : Fin 6} (acts : p.Acts q) (shadow : q.shadow = p.shadow)
    (pump : q.pump n = p.pump n) : q.startedPump n = p.startedPump n ∧ q.tripsAtLoad n = p.tripsAtLoad n := by
  have inputs := acts.inputs
  have present : q.pumpPresent n = p.pumpPresent n := inputs.reads (fun p => p.pumpPresent n) fun _ => rfl
  have off : q.minOffTime n = p.minOffTime n := inputs.reads (fun p => p.minOffTime n) fun _ => rfl
  have oos : q.pumpOosSet n = p.pumpOosSet n := by unfold Plant.pumpOosSet; rw [shadow]
  have fault : q.faultActive n = p.faultActive n := acts.active _
  unfold Plant.startedPump Plant.tripsAtLoad Plant.restingPump
  rw [present, oos, fault, off, pump, inputs.clock]
  exact ⟨rfl, rfl⟩

theorem Plant.startedPump_still {p : Plant} {n : Fin 6} (still : (p.pump n).state.inMotion = false) :
    (p.startedPump n).state.inMotion = false := by
  unfold Plant.startedPump
  split
  · split
    · rfl
    · split <;> rfl
  · exact still

theorem Plant.startPumpUnits_taken (ns : List (Fin 6)) : ∀ p : Plant, ns.Nodup → (∀ n, p.demand n = false) →
    Plant.PumpsTaken ns p (ns.foldl (fun q n => q.startPumpUnit n) p) := by
  induction ns with
  | nil =>
    exact fun p _ _ => ⟨.refl p, rfl, rfl, rfl, rfl, rfl, fun _ => rfl, fun _ mem => absurd mem List.not_mem_nil, fun _ _ => rfl,
      fun _ none_ => none_, id, fun _ => rfl, (List.append_nil _).symm⟩
  | cons n ns ih =>
    intro p distinct demands
    obtain ⟨absent, distinct⟩ := List.nodup_cons.mp distinct
    have first := Plant.startPumpUnit_taken (demands n)
    have rest := ih (p.startPumpUnit n) distinct fun m => (Plant.demand_of_shadow first.shadow m).trans (demands m)
    rw [List.foldl_cons]
    generalize p.startPumpUnit n = q at first rest
    generalize ns.foldl (fun q n => q.startPumpUnit n) q = r at rest
    have alike {m : Fin 6} (mem : m ∈ ns) := Plant.startedPump_congr first.acts first.shadow
      (first.other m fun same => absent (List.mem_singleton.mp same ▸ mem))
    exact
      { acts := first.acts.trans rest.acts
        shadow := rest.shadow.trans first.shadow
        corr := rest.corr.trans first.corr
        desired := rest.desired.trans first.desired
        stagger := rest.stagger.trans first.stagger
        rakes := rest.rakes.trans first.rakes
        claims := fun m => (rest.claims m).trans (first.claims m)
        own := fun m mem => by
          rcases List.mem_cons.mp mem with rfl | later
          · exact (rest.other m absent).trans (first.own m (List.mem_singleton_self m))
          · exact (rest.own m later).trans (alike later).1
        other := fun m out => by
          obtain ⟨other, out⟩ := not_or.mp fun mem => out (List.mem_cons.mpr mem)
          exact (rest.other m out).trans (first.other m fun mem => other (List.mem_singleton.mp mem))
        free := fun m none_ => rest.free m (first.free m none_)
        queue := fun empty => rest.queue (first.queue empty)
        rotation := fun still => by
          refine (rest.rotation fun m => ?_).trans (first.rotation still)
          by_cases own : m = n
          · rw [own, first.own n (List.mem_singleton_self n)]
            exact Plant.startedPump_still (still n)
          · rw [first.other m fun mem => own (List.mem_singleton.mp mem)]
            exact still m
        out := by
          have later : ns.filter q.tripsAtLoad = ns.filter p.tripsAtLoad :=
            List.filter_congr fun m mem => (alike mem).2
          rw [rest.out, first.out, later, List.append_assoc, ← List.map_append]
          congr 2
          rw [← List.filter_append]
          rfl }

theorem Plant.allPumps_taken {p : Plant} (demands : ∀ n, p.demand n = false) :
    Plant.PumpsTaken allPumps p (allPumps.foldl (fun q n => q.startPumpUnit n) p) :=
  p.startPumpUnits_taken allPumps allPumps_nodup demands

end Sys2Proof.Machine
end

section
/-! The adoption at the end of LOAD (R58), and the pumps that nothing moves then: O11. -/

namespace Sys2Proof.Machine

/-! The words that the adoption corrects. -/

/-- R58: the correction set gains the words of the pumps whose RUN has changed. -/
theorem mem_correctRuns_iff {before after : Plant} {i : Fin 32} : i ∈ (before.correctRuns after).corr ↔
    i ∈ before.corr ∨ ∃ n, pumpWord n = i ∧ before.demand n ≠ after.demand n := by
  have fold : ∀ (pumps : List (Fin 6)) (corr : List (Fin 32)),
      i ∈ pumps.foldl (fun c n => if before.demand n = after.demand n then c else joinCorr c (pumpWord n)) corr ↔
        i ∈ corr ∨ ∃ n ∈ pumps, pumpWord n = i ∧ before.demand n ≠ after.demand n := by
    intro pumps
    induction pumps with
    | nil => exact fun corr => ⟨.inl, fun either => either.resolve_right fun ⟨n, mem, _⟩ => List.not_mem_nil mem⟩
    | cons n rest ih =>
      intro corr
      rw [List.foldl_cons, ih]
      by_cases same : before.demand n = after.demand n
      · rw [if_pos same]
        refine or_congr_right ⟨fun ⟨m, mem, facts⟩ => ⟨m, List.mem_cons_of_mem _ mem, facts⟩, fun ⟨m, mem, word, moved⟩ => ?_⟩
        rcases List.mem_cons.mp mem with rfl | later
        · exact absurd same moved
        · exact ⟨m, later, word, moved⟩
      · rw [if_neg same, mem_joinCorr, or_assoc]
        refine or_congr_right ⟨?_, ?_⟩
        · rintro (own | ⟨m, mem, facts⟩)
          · exact ⟨n, List.mem_cons_self .., own.symm, same⟩
          · exact ⟨m, List.mem_cons_of_mem _ mem, facts⟩
        · rintro ⟨m, mem, word, moved⟩
          rcases List.mem_cons.mp mem with rfl | later
          · exact .inl word.symm
          · exact .inr ⟨m, later, word, moved⟩
  refine (fold allPumps before.corr).trans (or_congr_right ?_)
  exact ⟨fun ⟨n, _, facts⟩ => ⟨n, facts⟩, fun ⟨n, facts⟩ => ⟨n, mem_allPumps n, facts⟩⟩

/-- R57: the next demand withdrawn is that of a pump in the queue, or of one that has a demand. -/
theorem Plant.nextToWithdraw_cases {p : Plant} {n : Fin 6} (next : p.nextToWithdraw = some n) :
    n ∈ p.queue ∨ p.demand n = true := by
  unfold Plant.nextToWithdraw at next
  split at next
  case h_1 m last => exact .inl (Option.some.inj next ▸ List.mem_of_getLast? last)
  case h_2 =>
    split at next
    case h_1 m last =>
      have mem := List.mem_of_getLast? last
      rw [List.mem_filter, Bool.and_eq_true, Option.some.inj next] at mem
      exact .inr mem.2.2
    case h_2 =>
      by_cases empty : allPumps.filter (fun n => (p.pump n).state.inMotion && p.demand n) = []
      · rw [empty] at next
        cases next
      · obtain ⟨r, found, mem, -⟩ := p.earliestStart_least empty
        rw [found] at next
        rw [List.mem_filter, Bool.and_eq_true, Option.some.inj next] at mem
        exact .inr mem.2.2

/-! A pump aside: neither in OFF nor in motion, with no demand, out of the queue and claiming nothing. -/

/-- The pump stands as `x`, with no demand, out of the queue and with no claim that waits. -/
structure Plant.Aside (p : Plant) (x : Pump) (n : Fin 6) : Prop where
  pump   : p.pump n = x
  demand : p.demand n = false
  queue  : n ∉ p.queue
  claim  : (p.claim (pumpHolder n)).status ≠ .waiting

section
variable {x : Pump} {n : Fin 6} {p q : Plant}

theorem Plant.Aside.only {m : Fin 6} (aside : p.Aside x n) (only : Plant.OnlyPump m p q) (other : n ≠ m) : q.Aside x n where
  pump := (only.pumps n other).trans aside.pump
  demand := (only.demands n other).trans aside.demand
  queue := fun mem => aside.queue ((only.queue n other).mp mem)
  claim := by rw [only.claims _ fun same => other (pumpHolder_inj same)]; exact aside.claim

theorem Plant.Aside.same (aside : p.Aside x n) (same : p.SamePumps q) (shadow : q.shadow = p.shadow) : q.Aside x n where
  pump := (same.pump n).trans aside.pump
  demand := (Plant.demand_of_shadow shadow n).trans aside.demand
  queue := by rw [same.2.1]; exact aside.queue
  claim := by rw [same.2.2.2]; exact aside.claim

theorem Plant.Aside.raise (aside : p.Aside x n) (off : x.state ≠ .off) (still : x.state.inMotion = false) (k : Nat) : (p.raiseDemands k).Aside x n := by
  refine Plant.raiseDemands_induct (fun q => q.Aside x n) (fun q m aside next => ?_) k p aside
  refine aside.only (q.giveDemand_only m) ?_
  rintro rfl
  rcases Plant.nextToDemand_cases next with ⟨running, -⟩ | ⟨isOff, -⟩
  · rw [aside.pump] at running
    rw [running] at still
    cases still
  · rw [aside.pump] at isOff
    exact off isOff

theorem Plant.Aside.lower (k : Nat) : ∀ {p : Plant}, p.Aside x n → (p.lowerDemands k).Aside x n := by
  induction k with
  | zero => exact id
  | succ k ih =>
    intro p aside
    unfold Plant.lowerDemands
    split
    · split
      case h_1 m next =>
        refine ih (aside.only (p.withdrawDemand_only m) ?_)
        rintro rfl
        rcases Plant.nextToWithdraw_cases next with queued | asked
        · exact aside.queue queued
        · rw [aside.demand] at asked
          cases asked
      case h_2 => exact aside
    · exact aside

theorem Plant.Aside.round (aside : p.Aside x n) (round : p.serveOnce = some q) : q.Aside x n := by
  have shadow := (Plant.serveOnce_kept round).2.shadow
  rcases Plant.serveOnce_cases round with ⟨m, found, _, rfl⟩ | ⟨m, _, rfl⟩ | ⟨m, _, found, rfl⟩ | ⟨m, _, _, rfl⟩ | ⟨m, _, rfl⟩
  · have other : n ≠ m := by
      rintro rfl
      have waits := List.find?_some (p := fun n => (p.claim (pumpHolder n)).status == .waiting) found
      exact aside.claim (beq_iff_eq.mp waits)
    refine ⟨((p.pump_startPump m n).2 other.symm).trans aside.pump, (Plant.demand_of_shadow shadow n).trans aside.demand, ?_, ?_⟩
    · rw [Plant.startPump_queue, mem_filter_ne]
      exact fun both => aside.queue both.1
    · rw [Plant.claim_startPump, if_neg fun same => other (pumpHolder_inj same).symm]
      exact aside.claim
  · exact aside.same p.suspendRakes_samePumps shadow
  · have other : n ≠ m := by
      rintro rfl
      unfold Plant.claimToEnter at found
      split at found
      · exact aside.queue (List.mem_of_mem_head? found)
      · cases found
    refine ⟨aside.pump, aside.demand, aside.queue, ?_⟩
    rw [p.claim_setClaim_ne fun same => other (pumpHolder_inj same).symm]
    exact aside.claim
  · exact aside.same (p.grantRake_samePumps m) shadow
  · exact aside.same (p.triggerRake_samePumps m .storm) shadow

theorem Plant.Aside.serve (aside : p.Aside x n) (k : Nat) : (p.serve k).Aside x n :=
  Plant.serve_induct (fun q => q.Aside x n) (fun _ _ aside round => aside.round round) k p aside

end

theorem Plant.Aside.correctRuns {x : Pump} {n : Fin 6} {after : Plant} (aside : after.Aside x n) (before : Plant) :
    (before.correctRuns after).Aside x n := ⟨aside.pump, aside.demand, aside.queue, aside.claim⟩

/-- R58: the adoption leaves a pump alone that is neither in OFF nor in motion, but for its demand. -/
theorem Plant.adopt_aside {p : Plant} {n : Fin 6} (off : (p.pump n).state ≠ .off) (still : (p.pump n).state.inMotion = false) :
    p.adopt.Aside (p.pump n) n := by
  have adopted := p.adoptRunning_adopted
  have aside : p.adoptRunning.flushQueue.Aside (p.pump n) n :=
    { pump := by rw [adopted.pump, still, if_neg Bool.false_ne_true]
      demand := (adopted.demand n).trans still
      queue := by rw [adopted.queue]; exact List.not_mem_nil
      claim := adopted.free n }
  rw [Plant.adopt_eq_adoptRunning]
  exact ((aside.lower 6).raise off still 6).correctRuns p

/-! The adoption where no pump is in OFF or in motion and no demand stands. -/

theorem Plant.raiseDemands_nobody {p : Plant} (nobody : p.nextToDemand = none) (k : Nat) : p.raiseDemands k = p := by
  cases k with
  | zero => rfl
  | succ k =>
    unfold Plant.raiseDemands
    rw [nobody]
    exact ite_self _

theorem Plant.nextToDemand_nobody {p : Plant} (idle : ∀ n, (p.pump n).state ≠ .off ∧ (p.pump n).state.inMotion = false) :
    p.nextToDemand = none := by
  cases next : p.nextToDemand with
  | none => rfl
  | some n =>
    obtain ⟨off, still⟩ := idle n
    rcases Plant.nextToDemand_cases next with ⟨running, -⟩ | ⟨isOff, -⟩
    · rw [running] at still
      cases still
    · exact absurd isOff off

/-- What the adoption leaves where every pump is aside. -/
structure Plant.AdoptedNobody (p q : Plant) : Prop where
  pumps    : q.pumps = p.pumps
  rakes    : q.rakes = p.rakes
  queue    : q.queue = []
  free     : ∀ n, (p.claim (pumpHolder n)).status = .none → (q.claim (pumpHolder n)).status = .none
  claims   : ∀ n, q.claim (rakeHolder n) = p.claim (rakeHolder n)
  rotation : q.rotation = p.rotation
  stagger  : q.stagger = p.stagger
  out      : q.out = p.out

theorem Plant.adopt_nobody {p : Plant} (idle : ∀ n, (p.pump n).state ≠ .off ∧ (p.pump n).state.inMotion = false)
    (demands : ∀ n, p.demand n = false) : p.AdoptedNobody p.adopt := by
  have running : p.adoptRunning = p := by
    have fold : ∀ ns : List (Fin 6), ns.foldl Plant.adoptOne p = p := by
      intro ns
      induction ns with
      | nil => rfl
      | cons n rest ih =>
        have one : p.adoptOne n = p :=
          (if_neg (by rw [(idle n).2]; exact Bool.false_ne_true)).trans (Plant.setRun_same (demands n))
        rwa [List.foldl_cons, one]
    exact p.adoptRunning_eq.trans (fold allPumps)
  have flushed := p.flushQueue_facts
  have kept := p.flushQueue_kept
  have stagger : p.flushQueue.stagger = p.stagger :=
    foldl_rel (fun p q : Plant => q.stagger = p.stagger) (fun _ => rfl) (fun _ _ _ h k => k.trans h) _
      (fun q n => q.leaveQueue_stagger n) allPumps p
  have claims (n : Fin 2) : p.flushQueue.claim (rakeHolder n) = p.claim (rakeHolder n) :=
    foldl_rel (fun p q : Plant => q.claim (rakeHolder n) = p.claim (rakeHolder n)) (fun _ => rfl) (fun _ _ _ h k => k.trans h) _
      (fun q m => (q.leaveQueue_only m).claims _ (pumpHolder_ne m n)) allPumps p
  have eq : p.adopt = p.correctRuns ((p.flushQueue.lowerDemands 6).raiseDemands 6) := by
    rw [Plant.adopt_eq_adoptRunning, running]
  generalize p.flushQueue = q at *
  obtain ⟨pumps, out, queue, rakes, free⟩ := flushed
  have pump (n : Fin 6) : q.pump n = p.pump n := congrArg (Vector.get · n) pumps
  have few : q.demandedCount ≤ q.desired := by
    have none_ : q.demandedCount = 0 := by
      unfold Plant.demandedCount
      rw [List.countP_eq_zero]
      intro n _ asked
      rw [Plant.demand_of_shadow kept.2.shadow, demands] at asked
      exact Bool.false_ne_true asked
    omega
  have done : (q.lowerDemands 6).raiseDemands 6 = q := by
    rw [Plant.lowerDemands_few few]
    exact Plant.raiseDemands_nobody (Plant.nextToDemand_nobody fun n => by rw [pump]; exact idle n) 6
  rw [eq, done]
  exact
    { pumps := pumps, rakes := rakes, queue := queue
      free := fun n none_ => by
        refine (congrArg Claim.status (free n)).trans ?_
        rw [none_, if_neg (by decide), none_]
      claims := claims, rotation := kept.2.rotation, stagger := stagger, out := out }

end Sys2Proof.Machine
end

section
/-! The rakes at the end of LOAD (R29, R64, R65, R67, R77): O11. -/

namespace Sys2Proof.Machine

/-! Storm triggers served one rake after another. -/

/-- R29: nothing that a rake waits for fits. -/
def Plant.RakesShort (p : Plant) : Prop :=
  ∀ m, (p.claim (rakeHolder m)).status = .waiting → p.budget < p.heldUnits + (p.claim (rakeHolder m)).units

/-- R67, R69: the entries of a start with STORM. -/
def Plant.stormStart (p : Plant) (n : Fin 2) : List Draft :=
  { source := srcScreen n, kind := 0x30, urgent := false, detail := detail1 3 ++ detail1 (bit (p.homeActive n)) } ::
    if p.overloadActive n then [{ source := srcScreen n, kind := 0x32, urgent := false, detail := detail2 1 }] else []

/-- R65, R67: a storm trigger has made an idle rake wait, or start where its units fit. -/
def Plant.StormOutcome (p : Plant) (n : Fin 2) (q : Plant) : Prop :=
  (p.budget < q.heldUnits + p.rakeUnits n ∧ q.claim (rakeHolder n) = { status := .waiting, units := p.rakeUnits n } ∧
    q.rake n = { p.rake n with
      state := .waiting, trigger := .storm, interval := .stopped, hold := .running (p.maximumHold n) }) ∨
  q.claim (rakeHolder n) = { status := .held, units := p.rakeUnits n } ∧
    q.rake n = { p.rake n with
      trigger := .storm, interval := .stopped, hold := .stopped, held := false
      homeLeave := !p.homeActive n, cycleStart := some p.clock.uptime
      state := if p.overloadActive n then .reversing else .raking
      attempts := if p.overloadActive n then 1 else 0
      cycle := if p.overloadActive n then .stopped else .running (p.cycleTime n)
      reverse := if p.overloadActive n then .running (p.reverseTime n) else (p.rake n).reverse }

/-- One rake triggered with STORM and its claim judged. -/
structure Plant.StormTaken (p : Plant) (n : Fin 2) (q : Plant) : Prop where
  kept    : p.Kept q
  pumps   : p.SamePumps q
  only    : Plant.OnlyRake n p q
  held    : p.heldUnits ≤ q.heldUnits
  short   : q.RakesShort
  outcome : p.StormOutcome n q
  out     : q.out = p.out ++ if (q.claim (rakeHolder n)).status = .held then p.stormStart n else []

theorem Plant.heldUnits_mono {p q : Plant} (same : ∀ h, q.claim h = p.claim h ∨ (p.claim h).status ≠ .held) :
    p.heldUnits ≤ q.heldUnits := by
  unfold Plant.heldUnits
  refine List.sum_le_sum fun h _ => ?_
  rcases same h with eq | free
  · rw [eq]
  · rw [if_neg free]
    exact Nat.zero_le _

/-- R29: of the claims that wait, the one that fits is granted. -/
theorem Plant.rakeToGrant_fits {p : Plant} {n : Fin 2} (waits : (p.claim (rakeHolder n)).status = .waiting)
    (fits : p.fits (rakeHolder n) = true)
    (others : ∀ m, m ≠ n → (p.claim (rakeHolder m)).status = .waiting → p.fits (rakeHolder m) = false) :
    p.rakeToGrant = some n := by
  unfold Plant.rakeToGrant
  cases found : allRakes.find? (fun n => (p.claim (rakeHolder n)).status == .waiting && p.fits (rakeHolder n)) with
  | none =>
    have barred := List.find?_eq_none.mp found n (mem_allRakes n)
    rw [waits, fits] at barred
    exact absurd rfl barred
  | some m =>
    have waiting := List.find?_some found
    rw [Bool.and_eq_true, beq_iff_eq] at waiting
    by_contra differ
    have short := others m (fun same => differ (congrArg some same)) waiting.1
    rw [waiting.2] at short
    cases short

section
variable {p : Plant} {n : Fin 2}

theorem Plant.RakesShort.serveOnce (short : p.RakesShort) (served : p.PumpsServed) :
    p.serveOnce = p.stormTrigger.map fun n => p.triggerRake n .storm := by
  rw [Plant.serveOnce_served served, Plant.rakeToGrant_none short]
  rfl

/-- With no rake to trigger nothing is left to do. -/
theorem Plant.RakesShort.serve_done (short : p.RakesShort) (served : p.PumpsServed) (calm : p.stormTrigger = none) (k : Nat) :
    p.serve k = p := by
  refine Plant.serve_none ?_ k
  rw [short.serveOnce served, calm]
  rfl

/-- R65, R29: a trigger in one round, and the grant in the next where the units fit. -/
theorem Plant.RakesShort.serve_storm (short : p.RakesShort) (served : p.PumpsServed) (next : p.stormTrigger = some n)
    (free : (p.claim (rakeHolder n)).status = .none) (k : Nat) :
    ∃ q k', p.serve (k + 2) = q.serve k' ∧ k ≤ k' ∧ p.StormTaken n q := by
  have round : p.serveOnce = some (p.triggerRake n .storm) := by
    rw [short.serveOnce served, next]
    rfl
  have first := Plant.serve_some round (k + 1)
  have kept := p.triggerRake_kept n .storm
  have pumps := p.triggerRake_samePumps n .storm
  have only := p.triggerRake_only n .storm
  obtain ⟨rake, claim, claims⟩ := (p.triggerRake_triggered n .storm).facts
  have out : (p.triggerRake n .storm).out = p.out := rfl
  have held : (p.triggerRake n .storm).heldUnits = p.heldUnits := by
    refine Plant.heldUnits_congr fun h => ?_
    by_cases own : h = rakeHolder n
    · rw [own, free, claim]
      exact .inr ⟨ClaimStatus.noConfusion, ClaimStatus.noConfusion⟩
    · exact .inl (claims h own)
  generalize p.triggerRake n .storm = q at *
  have budget : q.budget = p.budget := kept.acts.inputs.budget
  have served' := served.of_samePumps pumps
  have others (m : Fin 2) (other : m ≠ n) (waits : (q.claim (rakeHolder m)).status = .waiting) :
      q.budget < q.heldUnits + (q.claim (rakeHolder m)).units := by
    rw [claims _ fun same => other (rakeHolder_inj same)] at waits ⊢
    rw [budget, held]
    exact short m waits
  by_cases fits : p.heldUnits + p.rakeUnits n ≤ p.budget
  · have grants : q.serveOnce = some (q.grantRake n) := by
      rw [Plant.serveOnce_served served', Plant.rakeToGrant_fits (by rw [claim])
        (decide_eq_true (by rw [held, claim, budget]; exact fits))
        fun m other waits => decide_eq_false (not_le.mpr (others m other waits))]
      rfl
    have granted := q.grantRake_kept n
    have only' := q.grantRake_only n
    have grant := Plant.grantRake_waiting (p := q) (n := n) (by rw [rake])
    generalize isClaimed : q.setClaim (rakeHolder n) { q.claim (rakeHolder n) with status := .held } = claimed at grant
    have inputs : p.SameInputs claimed := by
      rw [← isClaimed]
      exact kept.acts.inputs.trans (q.setClaim_kept _ _).acts.inputs
    have home : claimed.homeActive n = p.homeActive n := inputs.active _
    have overload : claimed.overloadActive n = p.overloadActive n := inputs.active _
    have cycle : claimed.cycleTime n = p.cycleTime n := inputs.reads (fun p => p.cycleTime n) fun _ => rfl
    have reverse : claimed.reverseTime n = p.reverseTime n := inputs.reads (fun p => p.reverseTime n) fun _ => rfl
    have holds : claimed.claim (rakeHolder n) = { status := .held, units := p.rakeUnits n } := by
      rw [← isClaimed, Plant.claim_setClaim_same, claim]
    have rakes : claimed.rake n = q.rake n := by rw [← isClaimed]; rfl
    have handed : claimed.out = p.out := by rw [← isClaimed]; exact out
    obtain ⟨started, same, entries⟩ := claimed.startRake_facts n
    rw [← grant, rakes, rake, home, overload, cycle, reverse, inputs.clock] at started
    rw [← grant, holds] at same
    rw [← grant, rakes, rake, handed, home, overload] at entries
    have more : p.heldUnits ≤ (q.grantRake n).heldUnits := by
      rw [← held]
      refine Plant.heldUnits_mono fun h => ?_
      by_cases own : h = rakeHolder n
      · rw [own, claim]
        exact .inr ClaimStatus.noConfusion
      · exact .inl (only'.2 h own)
    refine ⟨q.grantRake n, k, first.trans (Plant.serve_some grants k), le_rfl, kept.trans granted,
      pumps.trans (q.grantRake_samePumps n), only.trans only', more, fun m waits => ?_, .inr ⟨same, started⟩,
      by rw [same, if_pos rfl]; exact entries⟩
    by_cases own : m = n
    · rw [own, same] at waits
      cases waits
    · rw [only'.2 _ fun equal => own (rakeHolder_inj equal)] at waits ⊢
      have tight := others m own waits
      rw [granted.acts.inputs.budget]
      omega
  · refine ⟨q, k + 1, first, Nat.le_succ k, kept, pumps, only, held.ge, fun m waits => ?_,
      .inl ⟨by rw [held]; exact not_le.mp fits, claim, rake⟩, ?_⟩
    · by_cases own : m = n
      · rw [own, claim, held, budget]
        exact not_le.mp fits
      · exact others m own waits
    · rw [claim, if_neg ClaimStatus.noConfusion, out, List.append_nil]

end

section
variable {p q r : Plant} {n : Fin 2}

theorem Plant.StormOutcome.busy (outcome : p.StormOutcome n q) : (q.rake n).state ≠ .idle := by
  rcases outcome with ⟨-, -, rake⟩ | ⟨-, rake⟩
  · rw [rake]
    exact RakeState.noConfusion
  · rw [rake]
    dsimp only
    split <;> exact RakeState.noConfusion

/-- What another rake does leaves the outcome. -/
theorem Plant.StormOutcome.later {m : Fin 2} (outcome : p.StormOutcome n q) (only : Plant.OnlyRake m q r) (other : n ≠ m)
    (held : q.heldUnits ≤ r.heldUnits) : p.StormOutcome n r := by
  have rake := only.1 n other
  have claim := only.2 (rakeHolder n) fun same => other (rakeHolder_inj same)
  rcases outcome with ⟨tight, waits, same⟩ | ⟨holds, same⟩
  · exact .inl ⟨by omega, claim.trans waits, rake.trans same⟩
  · exact .inr ⟨claim.trans holds, rake.trans same⟩

theorem Plant.stormStart_inputs (inputs : p.SameInputs q) : q.stormStart n = p.stormStart n := by
  have home : q.homeActive n = p.homeActive n := inputs.active _
  have overload : q.overloadActive n = p.overloadActive n := inputs.active _
  unfold Plant.stormStart
  rw [home, overload]

/-- The outcome looks at the rake and at the inputs before the trigger. -/
theorem Plant.StormOutcome.earlier (outcome : q.StormOutcome n r) (inputs : p.SameInputs q) (rake : q.rake n = p.rake n) :
    p.StormOutcome n r := by
  have home : q.homeActive n = p.homeActive n := inputs.active _
  have overload : q.overloadActive n = p.overloadActive n := inputs.active _
  have cycle : q.cycleTime n = p.cycleTime n := inputs.reads (fun p => p.cycleTime n) fun _ => rfl
  have reverse : q.reverseTime n = p.reverseTime n := inputs.reads (fun p => p.reverseTime n) fun _ => rfl
  have hold : q.maximumHold n = p.maximumHold n := inputs.reads (fun p => p.maximumHold n) fun _ => rfl
  have units : q.rakeUnits n = p.rakeUnits n := inputs.reads (fun p => p.rakeUnits n) fun _ => rfl
  unfold Plant.StormOutcome at outcome ⊢
  rw [home, overload, cycle, reverse, hold, units, rake, inputs.clock, inputs.budget] at outcome
  exact outcome

/-- The rake takes a standing storm trigger, if there is one for it. -/
def Plant.StormStage (p : Plant) (n : Fin 2) (q : Plant) : Prop :=
  (p.mode.storm = true ∧ (p.rake n).state = .idle) ∧ p.StormTaken n q ∨
    ¬ (p.mode.storm = true ∧ (p.rake n).state = .idle) ∧ q = p

theorem Plant.stormTrigger_eq (storm : p.mode.storm = true) :
    p.stormTrigger = allRakes.find? fun n => (p.rake n).state == .idle := if_pos storm

end

/-- R65: the second rake's trigger, where the first has none to take and some rounds are left. -/
theorem Plant.RakesShort.second_stage {q : Plant} (served : q.PumpsServed) (short : q.RakesShort)
    (free : (q.claim (rakeHolder 1)).status = .none) (first : q.mode.storm = true → (q.rake 0).state ≠ .idle) (k : Nat)
    (rounds : 2 ≤ k) : q.StormStage 1 (q.serve k) := by
  obtain ⟨k, rfl⟩ := Nat.exists_eq_add_of_le' rounds
  cases storm : q.mode.storm with
  | false =>
    exact .inr ⟨fun both => by rw [storm] at both; exact Bool.false_ne_true both.1,
      short.serve_done served (Plant.stormTrigger_calm storm) _⟩
  | true =>
    have passed : ((q.rake 0).state == RakeState.idle) = false := beq_eq_false_iff_ne.mpr (first storm)
    by_cases idle : (q.rake 1).state = .idle
    · have next : q.stormTrigger = some 1 := by
        rw [Plant.stormTrigger_eq storm, allRakes, List.find?_cons_of_neg (by rw [passed]; exact Bool.false_ne_true)]
        exact List.find?_cons_of_pos (p := fun n => (q.rake n).state == .idle) (beq_iff_eq.mpr idle)
      obtain ⟨r, k', same, -, taken⟩ := short.serve_storm served next free k
      have nobody : r.stormTrigger = none := by
        have other : (r.rake 0).state ≠ .idle := by
          rw [taken.only.1 0 (by decide)]
          exact first storm
        rw [Plant.stormTrigger_eq (by rw [taken.kept.acts.inputs.mode]; exact storm)]
        refine List.find?_eq_none.mpr fun m _ idle => ?_
        rw [beq_iff_eq] at idle
        match m with
        | 0 => exact other idle
        | 1 => exact taken.outcome.busy idle
      rw [same, taken.short.serve_done (served.of_samePumps taken.pumps) nobody]
      exact .inl ⟨⟨storm, idle⟩, taken⟩
    · have nobody : q.stormTrigger = none := by
        rw [Plant.stormTrigger_eq storm]
        refine List.find?_eq_none.mpr fun m _ found => ?_
        rw [beq_iff_eq] at found
        match m with
        | 0 => exact first storm found
        | 1 => exact idle found
      exact .inr ⟨fun both => idle both.2, short.serve_done served nobody _⟩

/-- R65: the rounds at the end of LOAD trigger the first rake and then the second. -/
theorem Plant.serve_stages {p : Plant} (served : p.PumpsServed) (free : ∀ n, (p.claim (rakeHolder n)).status = .none) :
    ∃ q, p.StormStage 0 q ∧ q.StormStage 1 (p.serve serveBound) := by
  have short : p.RakesShort := fun m waits => by rw [free m] at waits; cases waits
  by_cases both : p.mode.storm = true ∧ (p.rake 0).state = .idle
  · obtain ⟨storm, idle⟩ := both
    have next : p.stormTrigger = some 0 := by
      rw [Plant.stormTrigger_eq storm]
      exact List.find?_cons_of_pos (p := fun n => (p.rake n).state == .idle) (beq_iff_eq.mpr idle)
    obtain ⟨q, k', same, rounds, taken⟩ := short.serve_storm served next (free 0) 30
    refine ⟨q, .inl ⟨⟨storm, idle⟩, taken⟩, ?_⟩
    rw [show p.serve serveBound = q.serve k' from same]
    exact Plant.RakesShort.second_stage (served.of_samePumps taken.pumps) taken.short
      (by rw [taken.only.2 _ (by decide)]; exact free 1) (fun _ => taken.outcome.busy) k' (by omega)
  · exact ⟨p, .inr ⟨both, rfl⟩, Plant.RakesShort.second_stage served short (free 1) (fun storm idle => both ⟨storm, idle⟩) serveBound (by decide)⟩

/-- What the storm triggers at the end of LOAD leave. -/
structure Plant.StormServed (p r : Plant) : Prop where
  kept  : p.Kept r
  pumps : p.SamePumps r
  taken : ∀ n, p.mode.storm = true → (p.rake n).state = .idle → p.StormOutcome n r
  still : ∀ n, ¬ (p.mode.storm = true ∧ (p.rake n).state = .idle) →
    r.rake n = p.rake n ∧ r.claim (rakeHolder n) = p.claim (rakeHolder n)
  out   : r.out = p.out ++ allRakes.flatMap fun n =>
    if (r.claim (rakeHolder n)).status = .held then p.stormStart n else []

theorem Plant.StormStage.facts {p q : Plant} {n : Fin 2} (stage : p.StormStage n q)
    (free : (p.claim (rakeHolder n)).status = .none) : p.Kept q ∧ p.SamePumps q ∧ Plant.OnlyRake n p q ∧
      p.heldUnits ≤ q.heldUnits ∧
      q.out = p.out ++ if (q.claim (rakeHolder n)).status = .held then p.stormStart n else [] := by
  rcases stage with ⟨-, taken⟩ | ⟨-, rfl⟩
  · exact ⟨taken.kept, taken.pumps, taken.only, taken.held, taken.out⟩
  · refine ⟨.refl q, .refl q, .refl n q, le_rfl, ?_⟩
    rw [free, if_neg ClaimStatus.noConfusion, List.append_nil]

theorem Plant.serve_stormServed {p : Plant} (served : p.PumpsServed) (free : ∀ n, (p.claim (rakeHolder n)).status = .none) :
    p.StormServed (p.serve serveBound) := by
  obtain ⟨q, first, second⟩ := Plant.serve_stages served free
  generalize p.serve serveBound = r at second
  obtain ⟨kept, pumps, only, held, out⟩ := first.facts (free 0)
  have rake1 : q.rake 1 = p.rake 1 := only.1 1 (by decide)
  have claim1 : q.claim (rakeHolder 1) = p.claim (rakeHolder 1) := only.2 _ (by decide)
  obtain ⟨kept', pumps', only', held', out'⟩ := second.facts (by rw [claim1]; exact free 1)
  have mode : q.mode = p.mode := kept.acts.inputs.mode
  refine ⟨kept.trans kept', pumps.trans pumps', fun n storm idle => ?_, fun n calm => ?_, ?_⟩
  · match n with
    | 0 =>
      obtain ⟨-, taken⟩ := first.resolve_right fun still => still.1 ⟨storm, idle⟩
      exact taken.outcome.later only' (by decide) held'
    | 1 =>
      obtain ⟨-, taken⟩ := second.resolve_right fun still => still.1 ⟨by rw [mode]; exact storm, by rw [rake1]; exact idle⟩
      exact taken.outcome.earlier kept.acts.inputs rake1
  · match n with
    | 0 =>
      obtain ⟨-, same⟩ := first.resolve_left fun taken => calm taken.1
      rw [only'.1 0 (by decide), only'.2 (rakeHolder 0) (by decide), same]
      exact ⟨rfl, rfl⟩
    | 1 =>
      obtain ⟨-, same⟩ := second.resolve_left fun taken => calm (by rw [← mode, ← rake1]; exact taken.1)
      rw [same]
      exact ⟨rake1, claim1⟩
  · have claim0 : r.claim (rakeHolder 0) = q.claim (rakeHolder 0) := only'.2 _ (by decide)
    rw [out', out, Plant.stormStart_inputs kept.acts.inputs, List.append_assoc, ← claim0]
    show _ = p.out ++ (_ ++ (_ ++ []))
    rw [List.append_nil]

end Sys2Proof.Machine
end

section
/-! The rakes and the weirs taken over from LOAD (R64, R77, R91, R92): O11. -/

namespace Sys2Proof.Machine

/-! Acts on the rakes alone. -/

/-- Of the plant, nothing but the rakes and the marks has moved. -/
def Plant.RakesMoved (p q : Plant) : Prop := q = { p with rakes := q.rakes, marks := q.marks }

theorem Plant.RakesMoved.trans {p q r : Plant} (first : p.RakesMoved q) (second : q.RakesMoved r) : p.RakesMoved r := by
  unfold Plant.RakesMoved at first second ⊢
  rw [second, first]

theorem Plant.setRake_moved (p : Plant) (n : Fin 2) (r : Rake) : p.RakesMoved (p.setRake n r) := rfl

/-- The differential taken or not counted, and what stays of the rake. -/
def Rake.shows (r : Rake) (counts : Bool) (differential : Int) (blinded : Bool) : Rake :=
  { r with differential := differential, counts := counts, blinded := blinded }

/-- R64: the rake with its differential taken. -/
def Plant.measuredRake (p : Plant) (n : Fin 2) : Rake :=
  match p.differentialNow n with
  | none => (p.rake n).shows false (p.rake n).differential (p.rake n).blinded
  | some d => (p.rake n).shows true d ((p.rake n).state != .absent && decide ((p.blindLevel n : Int) ≤ d))

theorem Plant.measuredRake_blind {p : Plant} {n : Fin 2} (blind : p.differentialNow n = none) :
    p.measuredRake n = (p.rake n).shows false (p.rake n).differential (p.rake n).blinded := by
  unfold Plant.measuredRake
  rw [blind]

theorem Plant.measuredRake_good {p : Plant} {n : Fin 2} {d : Int} (now : p.differentialNow n = some d) :
    p.measuredRake n = (p.rake n).shows true d ((p.rake n).state != .absent && decide ((p.blindLevel n : Int) ≤ d)) := by
  unfold Plant.measuredRake
  rw [now]

theorem Plant.measuredRake_shows (p : Plant) (n : Fin 2) : p.measuredRake n =
    (p.rake n).shows (p.measuredRake n).counts (p.measuredRake n).differential (p.measuredRake n).blinded := by
  cases now : p.differentialNow n with
  | none => rw [Plant.measuredRake_blind now]; rfl
  | some d => rw [Plant.measuredRake_good now]; rfl

theorem Plant.takeDifferential_eq (p : Plant) (n : Fin 2) : p.takeDifferential n = p.setRake n (p.measuredRake n) := by
  unfold Plant.takeDifferential
  dsimp only
  cases now : p.differentialNow n with
  | none => rw [Plant.measuredRake_blind now]; rfl
  | some d => rw [Plant.measuredRake_good now]; rfl

/-- R77: the rake taken over from LOAD. -/
def Plant.startedRake (p : Plant) (n : Fin 2) : Rake :=
  if p.rakePresent n then
    if p.screenOosSet n then { p.rake n with state := .outOfService }
    else { p.rake n with
      state := .idle, cycle := .stopped, reverse := .stopped, hold := .stopped, held := false
      interval := if p.intervalTime n = 0 then .stopped else .running (p.intervalTime n) }
  else p.rake n

/-- Each of the two rakes takes what `f` makes of it. -/
structure Plant.RakesTake (f : Plant → Fin 2 → Rake) (p q : Plant) : Prop where
  moved : p.RakesMoved q
  rake  : ∀ n, q.rake n = f p n

/-- An act on each rake in its turn, that looks at no other rake. -/
theorem Plant.rakesTake {f : Plant → Fin 2 → Rake} {act : Plant → Fin 2 → Plant}
    (moved : ∀ (p : Plant) (n : Fin 2), p.RakesMoved (act p n)) (own : ∀ p n, (act p n).rake n = f p n)
    (others : ∀ p n m, m ≠ n → (act p n).rake m = p.rake m)
    (looks : ∀ (p q : Plant) (n : Fin 2), p.RakesMoved q → q.rake n = p.rake n → f q n = f p n) (p : Plant) :
    Plant.RakesTake f p (allRakes.foldl act p) := by
  show Plant.RakesTake f p (act (act p 0) 1)
  refine ⟨(moved p 0).trans (moved _ 1), fun n => ?_⟩
  match n with
  | 0 => exact (others _ 1 0 (by decide)).trans (own p 0)
  | 1 => exact (own _ 1).trans (looks _ _ 1 (moved p 0) (others p 0 1 (by decide)))

theorem Plant.takeDifferentials_take (p : Plant) :
    Plant.RakesTake Plant.measuredRake p (allRakes.foldl (fun q n => q.takeDifferential n) p) := by
  refine Plant.rakesTake (fun p n => ?_) (fun p n => ?_) (fun p n m other => ?_) (fun p q n moved rake => ?_) p
  · rw [Plant.takeDifferential_eq]; exact p.setRake_moved n _
  · rw [Plant.takeDifferential_eq, Plant.rake_setRake]
  · rw [Plant.takeDifferential_eq, p.rake_setRake_ne other]
  · unfold Plant.measuredRake
    rw [rake, moved]
    rfl

theorem Plant.startRakeUnits_take (p : Plant) :
    Plant.RakesTake Plant.startedRake p (allRakes.foldl (fun q n => q.startRakeUnit n) p) := by
  have cases_ (p : Plant) (n : Fin 2) : p.startRakeUnit n = p ∧ p.startedRake n = p.rake n ∨
      p.startRakeUnit n = p.setRake n (p.startedRake n) := by
    unfold Plant.startRakeUnit Plant.startedRake
    cases p.rakePresent n with
    | false => exact .inl ⟨rfl, rfl⟩
    | true =>
      cases p.screenOosSet n with
      | true => exact .inr rfl
      | false => exact .inr rfl
  refine Plant.rakesTake (fun p n => ?_) (fun p n => ?_) (fun p n m other => ?_) (fun p q n moved rake => ?_) p
  · rcases cases_ p n with ⟨same, -⟩ | set
    · rw [same]; rfl
    · rw [set]; exact p.setRake_moved n _
  · rcases cases_ p n with ⟨same, own⟩ | set
    · rw [same, own]
    · rw [set, Plant.rake_setRake]
  · rcases cases_ p n with ⟨same, -⟩ | set
    · rw [same]
    · rw [set, p.rake_setRake_ne other]
  · unfold Plant.startedRake
    rw [rake, moved]
    rfl

theorem Plant.RakesMoved.kept {p q : Plant} (moved : p.RakesMoved q) : p.Kept q := by
  rw [moved]
  exact ⟨⟨⟨rfl, rfl, rfl, rfl, rfl, rfl, rfl, rfl⟩, [], (List.append_nil _).symm⟩, ⟨rfl, rfl, rfl, rfl⟩⟩

theorem Plant.RakesMoved.samePumps {p q : Plant} (moved : p.RakesMoved q) : p.SamePumps q := by
  rw [moved]
  exact ⟨rfl, rfl, rfl, fun _ => rfl⟩

theorem Plant.RakesMoved.claim {p q : Plant} (moved : p.RakesMoved q) (h : Fin 8) : q.claim h = p.claim h := by
  rw [moved]
  rfl

/-! The weirs (R91, R92). -/

/-- Of the plant, nothing but the weirs has moved. -/
def Plant.WeirsMoved (p q : Plant) : Prop := q = { p with weirs := q.weirs }

/-- The weir with its resume mark and its channel taken (R91, R92). -/
def Plant.markedWeir (p : Plant) (n : Fin 3) (resume : Bool) : Weir :=
  { p.weir n with
    resume := resume, channelGood := (p.levels.channels.get (weirChannel n)).state == .good
    level := (p.levels.channels.get (weirChannel n)).value }

theorem Plant.startWeir_absent {p : Plant} {n : Fin 3} (absent : p.weirPresent n = false) (resume : Bool) :
    p.startWeir n resume = p.setWeir n { p.weir n with resume := resume } := by
  unfold Plant.startWeir
  rw [absent]
  rfl

theorem Plant.startWeir_present {p : Plant} {n : Fin 3} (present : p.weirPresent n = true) (resume : Bool) :
    (∀ v, (p.levels.channels.get (weirChannel n)).state = .good → (p.levels.channels.get (weirChannel n)).value = some v →
      p.startWeir n resume = p.setWeir n (if p.crest n + p.startMargin n ≤ v
        then { p.markedWeir n resume with state := .rising, startConfirm := .running (p.startConfirmTime n) }
        else p.markedWeir n resume)) ∧
    ((p.levels.channels.get (weirChannel n)).state ≠ .good ∨ (p.levels.channels.get (weirChannel n)).value = none →
      p.startWeir n resume = p.setWeir n (p.markedWeir n resume)) := by
  have marked : (p.setWeir n { p.weir n with resume := resume }).deliverWeir n = p.setWeir n (p.markedWeir n resume) := by
    rw [Plant.deliverWeir_eq, Plant.setWeir_setWeir]
    unfold Plant.deliveredWeir
    rw [Plant.weir_setWeir]
    rfl
  unfold Plant.startWeir
  dsimp only
  rw [present, Bool.not_true, if_neg Bool.false_ne_true, marked, Plant.weir_setWeir]
  refine ⟨fun v good value => ?_, fun blind => ?_⟩
  · have isGood : (p.markedWeir n resume).channelGood = true := beq_iff_eq.mpr good
    have isLevel : (p.markedWeir n resume).level = some v := value
    rw [isGood, isLevel]
    by_cases rises : p.crest n + p.startMargin n ≤ v
    · rw [if_pos rises]
      exact (if_pos rises).trans (p.setWeir_setWeir n _ _)
    · rw [if_neg rises]
      exact if_neg rises
  · split
    case h_1 v isGood isLevel =>
      rcases blind with fault | nothing
      · exact absurd (beq_iff_eq.mp isGood) fault
      · rw [show (p.markedWeir n resume).level = (p.levels.channels.get (weirChannel n)).value from rfl, nothing] at isLevel
        cases isLevel
    case h_2 => rfl

/-- R92: what the end of LOAD makes of a weir. -/
structure Plant.WeirStarted (p : Plant) (n : Fin 3) (resume : Bool) (w : Weir) : Prop where
  absent : p.weirPresent n = false → w = { p.weir n with resume := resume }
  good   : p.weirPresent n = true → ∀ v, (p.levels.channels.get (weirChannel n)).state = .good →
    (p.levels.channels.get (weirChannel n)).value = some v → w = if p.crest n + p.startMargin n ≤ v
      then { p.markedWeir n resume with state := .rising, startConfirm := .running (p.startConfirmTime n) }
      else p.markedWeir n resume
  blind  : p.weirPresent n = true → (p.levels.channels.get (weirChannel n)).state ≠ .good ∨
    (p.levels.channels.get (weirChannel n)).value = none → w = p.markedWeir n resume

theorem Plant.startWeir_started (p : Plant) (n : Fin 3) (resume : Bool) :
    ∃ w, p.startWeir n resume = p.setWeir n w ∧ p.WeirStarted n resume w := by
  cases present : p.weirPresent n with
  | false =>
    refine ⟨_, Plant.startWeir_absent present resume, fun _ => rfl, fun here => ?_, fun here => ?_⟩
    all_goals
      rw [present] at here
      cases here
  | true =>
    obtain ⟨good, blind⟩ := Plant.startWeir_present present resume
    by_cases judged : (p.levels.channels.get (weirChannel n)).state = .good ∧
        (p.levels.channels.get (weirChannel n)).value.isSome = true
    · obtain ⟨isGood, some_⟩ := judged
      obtain ⟨v, value⟩ := Option.isSome_iff_exists.mp some_
      refine ⟨_, good v isGood value, fun absent => ?_, fun _ u _ value' => ?_, fun _ blind => ?_⟩
      · rw [present] at absent
        cases absent
      · rw [Option.some.inj (value.symm.trans value')]
      · rcases blind with fault | nothing
        · exact absurd isGood fault
        · rw [nothing] at value
          cases value
    · have isBlind : (p.levels.channels.get (weirChannel n)).state ≠ .good ∨
          (p.levels.channels.get (weirChannel n)).value = none := by
        by_cases isGood : (p.levels.channels.get (weirChannel n)).state = .good
        · exact .inr (Option.not_isSome_iff_eq_none.mp fun some_ => judged ⟨isGood, some_⟩)
        · exact .inl isGood
      refine ⟨_, blind isBlind, fun absent => ?_, fun _ v isGood value => ?_, fun _ _ => rfl⟩
      · rw [present] at absent
        cases absent
      · exact absurd ⟨isGood, by rw [value]; rfl⟩ judged

theorem Plant.WeirsMoved.trans {p q r : Plant} (first : p.WeirsMoved q) (second : q.WeirsMoved r) : p.WeirsMoved r := by
  unfold Plant.WeirsMoved at first second ⊢
  rw [second, first]

theorem Plant.WeirsMoved.inputs {p q : Plant} (moved : p.WeirsMoved q) : q.sections = p.sections ∧ q.levels = p.levels := by
  rw [moved]
  exact ⟨rfl, rfl⟩

theorem Plant.setWeir_moved (p : Plant) (n : Fin 3) (w : Weir) : p.WeirsMoved (p.setWeir n w) := rfl

/-- What is made of a weir looks at it, at the settings and at the levels alone. -/
theorem Plant.WeirStarted.congr {p q : Plant} {n : Fin 3} {resume : Bool} {w : Weir} (started : q.WeirStarted n resume w)
    (sections : q.sections = p.sections) (levels : q.levels = p.levels) (weir : q.weir n = p.weir n) :
    p.WeirStarted n resume w := by
  have reads {α : Type} (f : Plant → α) (looks : ∀ p : Plant, f p = f { Plant.reset with sections := p.sections }) : f q = f p := by
    rw [looks q, looks p, sections]
  have present : q.weirPresent n = p.weirPresent n := reads (fun p => p.weirPresent n) fun _ => rfl
  have crest : q.crest n = p.crest n := reads (fun p => p.crest n) fun _ => rfl
  have margin : q.startMargin n = p.startMargin n := reads (fun p => p.startMargin n) fun _ => rfl
  have confirm : q.startConfirmTime n = p.startConfirmTime n := reads (fun p => p.startConfirmTime n) fun _ => rfl
  have marked : q.markedWeir n resume = p.markedWeir n resume := by
    unfold Plant.markedWeir
    rw [weir, levels]
  obtain ⟨absent, good, blind⟩ := started
  rw [present, weir] at absent
  rw [present, levels, crest, margin, confirm, marked] at good
  rw [present, levels, marked] at blind
  exact ⟨absent, good, blind⟩

theorem foldl_allWeirs (act : Plant → Fin 3 → Plant) (p : Plant) : allWeirs.foldl act p = act (act (act p 0) 1) 2 := rfl

/-- R91, R92: the three weirs at the end of LOAD. -/
theorem Plant.startWeirs_started (p : Plant) (resume : Fin 3 → Bool) :
    p.WeirsMoved (allWeirs.foldl (fun q n => q.startWeir n (resume n)) p) ∧
      ∀ n, p.WeirStarted n (resume n) ((allWeirs.foldl (fun q n => q.startWeir n (resume n)) p).weir n) := by
  rw [foldl_allWeirs]
  obtain ⟨a, first, startedA⟩ := p.startWeir_started 0 (resume 0)
  rw [first]
  have movedA := p.setWeir_moved 0 a
  have ownA := p.weir_setWeir 0 a
  have othersA (m : Fin 3) (other : 0 ≠ m) := p.weir_setWeir_ne other a
  generalize p.setWeir 0 a = x at *
  obtain ⟨b, second, startedB⟩ := x.startWeir_started 1 (resume 1)
  rw [second]
  have movedB := x.setWeir_moved 1 b
  have ownB := x.weir_setWeir 1 b
  have othersB (m : Fin 3) (other : 1 ≠ m) := x.weir_setWeir_ne other b
  generalize x.setWeir 1 b = y at *
  obtain ⟨c, third, startedC⟩ := y.startWeir_started 2 (resume 2)
  rw [third]
  refine ⟨(movedA.trans movedB).trans (y.setWeir_moved 2 c), fun n => ?_⟩
  match n with
  | 0 =>
    rw [y.weir_setWeir_ne (by decide) c, othersB 0 (by decide), ownA]
    exact startedA
  | 1 =>
    rw [y.weir_setWeir_ne (by decide) c, ownB]
    exact startedB.congr movedA.inputs.1 movedA.inputs.2 (othersA 1 (by decide))
  | 2 =>
    rw [y.weir_setWeir]
    obtain ⟨sections, levels⟩ := (movedA.trans movedB).inputs
    exact startedC.congr sections levels ((othersB 2 (by decide)).trans (othersA 2 (by decide)))

end Sys2Proof.Machine
end

section
/-! The conditions handed at the end of LOAD (R100, R105, R149): O11. -/

namespace Sys2Proof.Machine

/-! Conditions handed one after another. -/

/-- Some point is unacknowledged (R100). -/
def Plant.episode (p : Plant) : Bool := allPoints.any p.pointUnacked

/-- The ALARM_ON entry of a point that was NORMAL, with its first-out byte (R96). -/
def Plant.alarmOn (p : Plant) (k : Fin 40) (first : Bool) : Draft :=
  { source := srcAlarm, kind := 0x50, urgent := p.pointLevel k == 0
    detail := detail1 k.val ++ detail1 (pointClass k) ++ detail1 (pointPlace k) ++ detail1 (p.pointLevel k) ++ detail1 0 ++
      detail1 (bit first) }

section
variable {p : Plant} {k : Fin 40}

theorem Plant.opensEpisode_normal (normal : p.pointUnacked k = false) : p.opensEpisode k = !p.episode := by
  unfold Plant.opensEpisode Plant.episode
  rw [Bool.eq_iff_iff, List.all_eq_true, Bool.not_eq_true', List.any_eq_false]
  refine forall₂_congr fun j _ => ?_
  rw [Bool.or_eq_true, decide_eq_true_iff, Bool.not_eq_true', Bool.not_eq_true]
  refine ⟨fun either => either.elim (fun same => ?_) id, .inr⟩
  rw [same]
  exact normal

/-- What the alarm unit makes of a condition handed ACTIVE at a NORMAL point. -/
structure Plant.PointRaised (p : Plant) (k : Fin 40) (q : Plant) : Prop where
  out      : q.out = p.out ++ [p.alarmOn k (!p.episode)]
  firstOut : q.alarms.firstOut = if p.episode then p.alarms.firstOut else some k
  points   : q.alarms.points = vset p.alarms.points k { condition := true, state := .activeUnack }
  episode  : q.episode = true

theorem Plant.pointOn_raised (normal : p.alarms.points.get k = { condition := false, state := .normal }) :
    p.PointRaised k (p.pointOn k) := by
  have acked : p.pointUnacked k = false := by
    unfold Plant.pointUnacked
    rw [normal]
    rfl
  have points := p.pointOn_points k
  have opens := Plant.opensEpisode_normal acked
  have code : (p.alarms.points.get k).state.code = 0 := by rw [normal]; rfl
  refine ⟨?_, ?_, points, ?_⟩
  · unfold Plant.pointOn
    dsimp only
    rw [opens, code]
    cases p.episode <;> rfl
  · unfold Plant.pointOn
    dsimp only
    rw [opens]
    cases p.episode <;> rfl
  · unfold Plant.episode
    rw [List.any_eq_true]
    refine ⟨k, mem_allPoints k, ?_⟩
    unfold Plant.pointUnacked
    rw [points, vset_get_same]
    rfl

end

/-- Conditions handed to the points of `ks`, each NORMAL before, by `c`. -/
structure Plant.AllHanded (c : Fin 40 → Bool) (ks : List (Fin 40)) (p q : Plant) : Prop where
  out      : q.out = p.out ++ (ks.filter c).map fun k => p.alarmOn k (!p.episode && ks.find? c == some k)
  firstOut : q.alarms.firstOut = if p.episode then p.alarms.firstOut else (ks.find? c).or p.alarms.firstOut
  inside   : ∀ k ∈ ks, q.alarms.points.get k =
    if c k then { condition := true, state := .activeUnack } else { condition := false, state := .normal }
  outside  : ∀ k, k ∉ ks → q.alarms.points.get k = p.alarms.points.get k

section
variable {p : Plant} {k : Fin 40}

/-- A condition that does not hold changes nothing at a NORMAL point. -/
theorem Plant.hand_quiet (normal : p.alarms.points.get k = { condition := false, state := .normal }) : p.hand k false = p := by
  refine if_pos ?_
  rw [normal]
  exact Bool.or_true _

theorem Plant.hand_raised (running : p.loading = false)
    (normal : p.alarms.points.get k = { condition := false, state := .normal }) : p.PointRaised k (p.hand k true) := by
  have raised : p.hand k true = p.pointOn k := by
    unfold Plant.hand
    rw [running, normal]
    rfl
  rw [raised]
  exact Plant.pointOn_raised normal

theorem Plant.alarmOn_sections {q : Plant} (sections : q.sections = p.sections) (first : Bool) :
    q.alarmOn k first = p.alarmOn k first := by
  have looks (p : Plant) : p.pointLevel k = ({ Plant.reset with sections := p.sections } : Plant).pointLevel k := rfl
  have level : q.pointLevel k = p.pointLevel k := by rw [looks q, looks p, sections]
  unfold Plant.alarmOn
  rw [level]

end

section
variable {c : Fin 40 → Bool} {k : Fin 40} {rest : List (Fin 40)} {p q r : Plant}

theorem Plant.AllHanded.quiet (absent : k ∉ rest) (inactive : c k = false)
    (normal : p.alarms.points.get k = { condition := false, state := .normal }) (handed : p.AllHanded c rest r) :
    p.AllHanded c (k :: rest) r := by
  have skip : ¬ c k = true := by rw [inactive]; exact Bool.false_ne_true
  obtain ⟨out, firstOut, inside, outside⟩ := handed
  refine ⟨?_, ?_, fun j mem => ?_, fun j out => outside j fun mem => out (List.mem_cons_of_mem _ mem)⟩
  · rw [List.filter_cons_of_neg skip, List.find?_cons_of_neg skip]
    exact out
  · rw [List.find?_cons_of_neg skip]
    exact firstOut
  · rcases List.mem_cons.mp mem with rfl | later
    · rw [outside j absent, inactive, normal]
      rfl
    · exact inside j later

theorem Plant.AllHanded.raised (absent : k ∉ rest) (active : c k = true) (raised : p.PointRaised k q)
    (sections : q.sections = p.sections) (handed : q.AllHanded c rest r) : p.AllHanded c (k :: rest) r := by
  obtain ⟨out, firstOut, inside, outside⟩ := handed
  rw [raised.episode] at out firstOut
  refine ⟨?_, ?_, fun j mem => ?_, fun j out => ?_⟩
  · rw [List.filter_cons_of_pos active, List.find?_cons_of_pos active, out, raised.out, List.append_assoc, List.map_cons,
      beq_self_eq_true, Bool.and_true]
    refine congrArg (fun l => p.out ++ p.alarmOn k (!p.episode) :: l) (List.map_congr_left fun j mem => ?_)
    have other : (some k == some j) = false :=
      beq_eq_false_iff_ne.mpr fun same => absent (Option.some.inj same ▸ List.mem_of_mem_filter mem)
    rw [Plant.alarmOn_sections sections, other, Bool.and_false]
    rfl
  · rw [List.find?_cons_of_pos active, firstOut, raised.firstOut]
    cases p.episode <;> rfl
  · rcases List.mem_cons.mp mem with rfl | later
    · rw [outside j absent, raised.points, vset_get_same, if_pos active]
    · exact inside j later
  · obtain ⟨other, out⟩ := not_or.mp fun mem => out (List.mem_cons.mpr mem)
    rw [outside j out, raised.points, vset_get_ne _ _ (Ne.symm other)]

end

theorem Plant.AlarmsMoved.sections {p q : Plant} (moved : p.AlarmsMoved q) : q.sections = p.sections := by
  rw [moved]

theorem Plant.AlarmsMoved.loading {p q : Plant} (moved : p.AlarmsMoved q) : q.loading = p.loading := by
  have mode : q.mode = p.mode := by rw [moved]
  unfold Plant.loading
  rw [mode]

/-- R105: conditions handed to NORMAL points, in the order of `ks`. -/
theorem Plant.hands_all (c : Fin 40 → Bool) (ks : List (Fin 40)) : ∀ p : Plant, p.loading = false → ks.Nodup →
    (∀ k ∈ ks, p.alarms.points.get k = { condition := false, state := .normal }) →
    p.AllHanded c ks (ks.foldl (fun q k => q.hand k (c k)) p) := by
  induction ks with
  | nil =>
    intro p _ _ _
    refine ⟨(List.append_nil _).symm, ?_, fun _ mem => absurd mem List.not_mem_nil, fun _ _ => rfl⟩
    exact (ite_self _).symm
  | cons k rest ih =>
    intro p running distinct normal
    obtain ⟨absent, distinct⟩ := List.nodup_cons.mp distinct
    have own := normal k (List.mem_cons_self ..)
    have later (j : Fin 40) (mem : j ∈ rest) := normal j (List.mem_cons_of_mem _ mem)
    rw [List.foldl_cons]
    cases active : c k with
    | false =>
      rw [Plant.hand_quiet own]
      exact (ih p running distinct later).quiet absent active own
    | true =>
      have raised := Plant.hand_raised running own
      have moved := p.hand_moved k true
      generalize p.hand k true = q at raised moved
      refine .raised absent active raised moved.sections (ih q (moved.loading.trans running) distinct fun j mem => ?_)
      have other : k ≠ j := fun same => absent (same ▸ mem)
      rw [raised.points, vset_get_ne _ _ other]
      exact later j mem

/-! The conditions at the end of LOAD. -/

/-- The conditions look at nothing that handing them moves. -/
theorem Plant.conditionAtLoad_congr {p q : Plant} (kept : p.Kept q) (units : p.SameUnits q) (k : Fin 40) :
    q.conditionAtLoad k = p.conditionAtLoad k := by
  obtain ⟨trip, limit, high, lowLow⟩ := kept.conditions units
  have levels := kept.acts.inputs.levels
  have defaulted : q.defaultedCondition = p.defaultedCondition := by
    unfold Plant.defaultedCondition
    rw [kept.acts.inputs.sections]
  unfold Plant.conditionAtLoad Plant.channelCondition Plant.converterCondition
  simp only [trip, limit, high, lowLow, levels, defaulted, units.rake, kept.acts.inputs.mode]

/-- R105: the alarm unit at the end of LOAD, every point NORMAL before. -/
theorem Plant.handAll_handed {p : Plant} (running : p.loading = false)
    (normal : ∀ k, p.alarms.points.get k = { condition := false, state := .normal }) :
    p.AllHanded p.conditionAtLoad allPoints p.handAll := by
  unfold Plant.handAll
  generalize isKs : allPoints = ks
  exact p.hands_all p.conditionAtLoad ks running (by rw [← isKs]; exact allPoints_nodup) fun k _ => normal k

/-- No point is unacknowledged where every point is NORMAL. -/
theorem Plant.episode_normal {p : Plant} (normal : ∀ k, p.alarms.points.get k = { condition := false, state := .normal }) :
    p.episode = false := by
  unfold Plant.episode
  rw [List.any_eq_false]
  intro k _
  unfold Plant.pointUnacked
  rw [normal]
  exact Bool.false_ne_true

/-- R105: the conditions that hold at the end of LOAD, by what they are of. -/
theorem Plant.conditionAtLoad_iff (p : Plant) (k : Fin 40) : p.conditionAtLoad k = true ↔
    (∃ n, tripPoint n = k ∧ p.tripCondition n = true) ∨ (∃ n, limitPoint n = k ∧ p.limitCondition n = true) ∨
      (∃ n, blindedPoint n = k ∧ (p.rake n).blinded = true) ∨ (∃ c, channelPoint c = k ∧ p.channelCondition c = true) ∨
      k = 29 ∧ p.converterCondition = true ∨ k = 30 ∧ p.mode.wetWell = true ∨ k = 31 ∧ p.floatHighActive = true ∨
      k = 32 ∧ p.lowLowActive = true ∨ k = 33 ∧ (p.mode.supply == .generator) = true ∨ k = 36 ∧ p.defaultedCondition = true ∨
      k = 38 := by
  have trips : (∃ n, tripPoint n = k ∧ p.tripCondition n = true) ↔ ∃ h : k.val < 6, p.tripCondition ⟨k.val, h⟩ = true := by
    constructor
    · rintro ⟨n, rfl, holds⟩
      exact ⟨n.isLt, holds⟩
    · rintro ⟨h, holds⟩
      exact ⟨⟨k.val, h⟩, rfl, holds⟩
  have limits : (∃ n, limitPoint n = k ∧ p.limitCondition n = true) ↔
      ∃ h : 6 ≤ k.val ∧ k.val < 12, p.limitCondition ⟨k.val - 6, by omega⟩ = true := by
    constructor
    · rintro ⟨n, rfl, holds⟩
      have place : (⟨(limitPoint n).val - 6, by have : (limitPoint n).val = 6 + n.val := rfl; omega⟩ : Fin 6) = n :=
        Fin.ext (Nat.add_sub_cancel_left 6 n.val)
      exact ⟨⟨Nat.le_add_right 6 _, Nat.add_lt_add_left n.isLt 6⟩, by rw [place]; exact holds⟩
    · rintro ⟨h, holds⟩
      exact ⟨⟨k.val - 6, by omega⟩, Fin.ext (Nat.add_sub_of_le h.1), holds⟩
  have channels : (∃ c, channelPoint c = k ∧ p.channelCondition c = true) ↔
      ∃ h : 21 ≤ k.val ∧ k.val < 29, p.channelCondition ⟨k.val - 21, by omega⟩ = true := by
    constructor
    · rintro ⟨c, rfl, holds⟩
      have place : (⟨(channelPoint c).val - 21, by have : (channelPoint c).val = 21 + c.val := rfl; omega⟩ : Fin 8) = c :=
        Fin.ext (Nat.add_sub_cancel_left 21 c.val)
      exact ⟨⟨Nat.le_add_right 21 _, Nat.add_lt_add_left c.isLt 21⟩, by rw [place]; exact holds⟩
    · rintro ⟨h, holds⟩
      exact ⟨⟨k.val - 21, by omega⟩, Fin.ext (Nat.add_sub_of_le h.1), holds⟩
  have blinds : (∃ n, blindedPoint n = k ∧ (p.rake n).blinded = true) ↔
      k.val = 14 ∧ (p.rake 0).blinded = true ∨ k.val = 15 ∧ (p.rake 1).blinded = true := by
    rw [Fin.exists_fin_two]
    refine or_congr (and_congr_left fun _ => ?_) (and_congr_left fun _ => ?_)
    · exact ⟨fun same => (congrArg Fin.val same).symm, fun same => Fin.ext same.symm⟩
    · exact ⟨fun same => (congrArg Fin.val same).symm, fun same => Fin.ext same.symm⟩
  have number (j : Fin 40) : k = j ↔ k.val = j.val := Fin.ext_iff
  rw [trips, limits, channels, blinds, number 29, number 30, number 31, number 32, number 33, number 36, number 38]
  clear trips limits channels blinds number
  unfold Plant.conditionAtLoad
  generalize p.tripCondition = trip, p.limitCondition = limit, p.channelCondition = channel, (p.rake 0).blinded = b0,
    (p.rake 1).blinded = b1, p.converterCondition = cc, p.mode.wetWell = ww, p.floatHighActive = fh, p.lowLowActive = ll,
    (p.mode.supply == .generator) = gen, p.defaultedCondition = dc
  show _ ↔ _ ∨ _ ∨ _ ∨ _ ∨ k.val = 29 ∧ _ ∨ k.val = 30 ∧ _ ∨ k.val = 31 ∧ _ ∨ k.val = 32 ∧ _ ∨ k.val = 33 ∧ _ ∨ k.val = 36 ∧ _ ∨ k.val = 38
  by_cases low : k.val < 6
  · rw [dif_pos low]
    refine ⟨fun holds => .inl ⟨low, holds⟩, ?_⟩
    rintro (⟨_, holds⟩ | ⟨place, -⟩ | rest)
    · exact holds
    · omega
    · grind
  rw [dif_neg low, or_iff_right fun ⟨h, _⟩ => low h]
  by_cases middle : k.val < 12
  · rw [dif_pos middle]
    refine ⟨fun holds => .inl ⟨⟨by omega, middle⟩, holds⟩, ?_⟩
    rintro (⟨_, holds⟩ | rest)
    · exact holds
    · grind
  rw [dif_neg middle, or_iff_right fun ⟨h, _⟩ => middle h.2]
  by_cases sampled : 21 ≤ k.val ∧ k.val < 29
  · rw [if_neg (by omega), if_neg (by omega), dif_pos sampled]
    refine ⟨fun holds => .inr (.inl ⟨sampled, holds⟩), ?_⟩
    rintro (blinds | ⟨_, holds⟩ | rest)
    · omega
    · exact holds
    · omega
  rw [dif_neg sampled, or_iff_right (a := ∃ h : 21 ≤ k.val ∧ k.val < 29, channel ⟨k.val - 21, by omega⟩ = true)
    fun ⟨h, _⟩ => sampled h]
  grind

end Sys2Proof.Machine
end

section
/-! The units at the end of LOAD (R13, R17, R58, R61, R64, R77, R92): O11. -/

namespace Sys2Proof.Machine

/-! What the start of the units leaves of the inputs and the words. -/

/-- The clock, the levels, the station mode unit, the settings and the debounced contacts are the same, and no word has
changed but for RUN. -/
structure Plant.Starts (p q : Plant) : Prop where
  clock     : q.clock = p.clock
  levels    : q.levels = p.levels
  mode      : q.mode = p.mode
  sections  : q.sections = p.sections
  debounced : q.lines.debounced = p.lines.debounced
  words     : ∀ i : Fin 32, (∀ n : Fin 6, pumpWord n ≠ i) → q.shadow.get i = p.shadow.get i
  bits      : ∀ (n : Fin 6) (k : Nat), k ≠ 0 →
    (q.shadow.get (pumpWord n)).getLsbD k = (p.shadow.get (pumpWord n)).getLsbD k

theorem Plant.Starts.trans {p q r : Plant} (first : p.Starts q) (second : q.Starts r) : p.Starts r where
  clock := second.clock.trans first.clock
  levels := second.levels.trans first.levels
  mode := second.mode.trans first.mode
  sections := second.sections.trans first.sections
  debounced := second.debounced.trans first.debounced
  words i other := (second.words i other).trans (first.words i other)
  bits n k high := (second.bits n k high).trans (first.bits n k high)

theorem Plant.Acts.starts {p q : Plant} (acts : p.Acts q) : p.Starts q := by
  obtain ⟨⟨⟨clock, levels, mode, -, sections, -, debounced, -⟩, words, bits, -⟩, -⟩ := acts
  exact ⟨clock, levels, mode, sections, debounced, words, bits⟩

theorem Plant.WeirsMoved.starts {p q : Plant} (moved : p.WeirsMoved q) : p.Starts q := by
  rw [moved]
  exact ⟨rfl, rfl, rfl, rfl, rfl, fun _ _ => rfl, fun _ _ _ => rfl⟩

/-! The parts of the start. -/

/-- The pump unit taken over, the desired count taken and the pumps in motion adopted (R53, R58, R61). -/
def Plant.pumpsUp (p : Plant) : Plant :=
  let q := allPumps.foldl (fun q n => q.startPumpUnit n) p
  ({ q with desired := q.desiredNow } : Plant).adopt

/-- The rakes measured and taken over (R64, R77). -/
def Plant.rakesUp (p : Plant) : Plant :=
  allRakes.foldl (fun q n => q.startRakeUnit n) (allRakes.foldl (fun q n => q.takeDifferential n) p)

theorem Plant.startUnits_eq (p : Plant) (resume : Fin 3 → Bool) : p.startUnits resume =
    ((allWeirs.foldl (fun q n => q.startWeir n (resume n)) p.pumpsUp.rakesUp).serve serveBound).handAll := by
  unfold Plant.startUnits Plant.pumpsUp Plant.rakesUp
  rfl

/-! The pumps. -/

/-- A pump that LOAD has left present or ABSENT. -/
def Plant.pumpPlaced (p : Plant) (n : Fin 6) : Prop := p.pumpPresent n = true ∨ (p.pump n).state = .absent

theorem Plant.startedPump_placed {p : Plant} {n : Fin 6} (placed : p.pumpPlaced n) :
    (p.startedPump n).state ≠ .off ∧ (p.startedPump n).state.inMotion = false := by
  unfold Plant.startedPump
  split
  · split
    · exact ⟨PumpState.noConfusion, rfl⟩
    · split
      · exact ⟨PumpState.noConfusion, rfl⟩
      · exact ⟨PumpState.noConfusion, rfl⟩
  case isFalse away =>
    have absent := placed.resolve_left away
    rw [absent]
    exact ⟨PumpState.noConfusion, rfl⟩

/-- What the pump unit is where LOAD leaves it (R17, R61). -/
structure Plant.PumpsIdle (p : Plant) : Prop where
  placed : ∀ n, p.pumpPlaced n
  still  : p.AllStill
  queue  : p.queue = []
  free   : ∀ n, (p.claim (pumpHolder n)).status = .none

/-- What the start makes of the pump unit. -/
structure Plant.PumpsUp (p q : Plant) : Prop where
  starts  : p.Starts q
  weirs   : q.weirs = p.weirs
  rakes   : q.rakes = p.rakes
  desired : q.desired = p.desiredNow
  aside   : ∀ n, p.pumpPlaced n → q.Aside (p.startedPump n) n
  corr    : ∀ i, (∀ n, pumpWord n = i → p.pumpPlaced n) → (i ∈ q.corr ↔ i ∈ p.corr)
  alarms  : q.alarms = p.alarms
  out     : ∃ more, q.out = p.out ++ more
  idle    : p.PumpsIdle → (∀ n, q.claim (rakeHolder n) = p.claim (rakeHolder n)) ∧ q.queue = [] ∧
    (∀ n, (q.claim (pumpHolder n)).status = .none) ∧ q.rotation = p.rotation ∧ q.stagger = p.stagger ∧
    q.out = p.out ++ (allPumps.filter p.tripsAtLoad).map fun n => tripDraft n .fault .resting

theorem Plant.putDesired_only (p : Plant) (d : Nat) : p.Acts { p with desired := d } :=
  ⟨⟨⟨rfl, rfl, rfl, rfl, rfl, rfl, rfl, rfl⟩, fun _ _ => rfl, fun _ _ _ => rfl, fun _ mem => mem⟩, [], (List.append_nil _).symm⟩

theorem Plant.startPumpUnit_alarms (p : Plant) (n : Fin 6) : (p.startPumpUnit n).alarms = p.alarms := by
  unfold Plant.startPumpUnit
  split
  · rfl
  · split
    · exact p.setPump_alarms n _
    · exact p.enterResting_alarms n _

theorem Plant.adoptOne_alarms (p : Plant) (n : Fin 6) : (p.adoptOne n).alarms = p.alarms := by
  unfold Plant.adoptOne
  split <;> simp [Plant.setRun]

/-- The adoption leaves the screens, the alarm unit and the desired count (R58). -/
theorem Plant.adopt_beside (p : Plant) : p.SameScreens p.adopt ∧ p.adopt.alarms = p.alarms ∧ p.adopt.desired = p.desired := by
  have adopted := p.adoptRunning_adopted
  have screens : p.SameScreens p.adoptRunning.flushQueue := by
    rw [Plant.adoptRunning_eq]
    exact (foldl_screens Plant.adoptOne (fun q n => (q.adoptOne_only n).screens) allPumps p).trans
      (foldl_screens _ (fun q n => (q.leaveQueue_only n).screens) allPumps _)
  have alarms : p.adoptRunning.flushQueue.alarms = p.alarms := by
    rw [Plant.adoptRunning_eq]
    exact (foldl_alarms _ (fun q n => q.leaveQueue_alarms n) allPumps _).trans
      (foldl_alarms Plant.adoptOne (fun q n => q.adoptOne_alarms n) allPumps p)
  rw [Plant.adopt_eq_adoptRunning]
  generalize p.adoptRunning.flushQueue = q at *
  have screens' := (q.lowerDemands_screens 6).trans (Plant.raiseDemands_screens _ 6)
  have alarms' : ((q.lowerDemands 6).raiseDemands 6).alarms = q.alarms :=
    (Plant.raiseDemands_alarms 6 _).trans (q.lowerDemands_alarms 6)
  have desired' : ((q.lowerDemands 6).raiseDemands 6).desired = q.desired :=
    (Plant.raiseDemands_desired _ 6).trans (q.lowerDemands_desired 6)
  generalize (q.lowerDemands 6).raiseDemands 6 = r at *
  have all := screens.trans screens'
  exact ⟨⟨all.rakes, all.claims⟩, alarms'.trans alarms, desired'.trans adopted.desired⟩

theorem Plant.adopt_corr {p : Plant} {i : Fin 32} (same : ∀ n, pumpWord n = i → p.adopt.demand n = p.demand n) :
    i ∈ p.adopt.corr ↔ i ∈ p.corr := by
  have demand (n : Fin 6) : p.adopt.demand n = ((p.adoptRunning.flushQueue.lowerDemands 6).raiseDemands 6).demand n := rfl
  rw [Plant.adopt_eq_adoptRunning, mem_correctRuns_iff]
  refine or_iff_left ?_
  rintro ⟨n, word, moved⟩
  exact moved ((same n word).symm.trans (demand n))

/-- R53, R58, R61: the pump unit at the end of LOAD. -/
theorem Plant.pumpsUp_up {p : Plant} (demands : ∀ n, p.demand n = false) : p.PumpsUp p.pumpsUp := by
  have taken := Plant.allPumps_taken demands
  have alarms := foldl_alarms (fun q n => q.startPumpUnit n) (fun q n => q.startPumpUnit_alarms n) allPumps p
  unfold Plant.pumpsUp
  dsimp only
  generalize allPumps.foldl (fun q n => q.startPumpUnit n) p = x at *
  have put := x.putDesired_only x.desiredNow
  have desiredNow : x.desiredNow = p.desiredNow :=
    Plant.desiredNow_congr taken.acts.inputs.levels taken.acts.inputs.sections taken.acts.inputs.debounced taken.desired
  have claims (h : Fin 8) : ({ x with desired := x.desiredNow } : Plant).claim h = x.claim h := rfl
  have pump (n : Fin 6) : ({ x with desired := x.desiredNow } : Plant).pump n = p.startedPump n := taken.own n (mem_allPumps n)
  have demand (n : Fin 6) : ({ x with desired := x.desiredNow } : Plant).demand n = false :=
    (Plant.demand_of_shadow taken.shadow n).trans (demands n)
  have rotation : ({ x with desired := x.desiredNow } : Plant).rotation = x.rotation := rfl
  have stagger : ({ x with desired := x.desiredNow } : Plant).stagger = x.stagger := rfl
  have out : ({ x with desired := x.desiredNow } : Plant).out = x.out := rfl
  have rakes : ({ x with desired := x.desiredNow } : Plant).rakes = x.rakes := rfl
  have alarms' : ({ x with desired := x.desiredNow } : Plant).alarms = x.alarms := rfl
  have corr : ({ x with desired := x.desiredNow } : Plant).corr = x.corr := rfl
  have desired : ({ x with desired := x.desiredNow } : Plant).desired = p.desiredNow := desiredNow
  generalize ({ x with desired := x.desiredNow } : Plant) = y at *
  have adopts := y.adopt_acts
  obtain ⟨screens, alarmsKept, desiredKept⟩ := y.adopt_beside
  have aside (n : Fin 6) (placed : p.pumpPlaced n) : y.adopt.Aside (p.startedPump n) n := by
    obtain ⟨off, still⟩ := Plant.startedPump_placed placed
    rw [← pump n] at off still ⊢
    exact Plant.adopt_aside off still
  exact
    { starts := (taken.acts.starts.trans put.starts).trans adopts.starts
      weirs := adopts.inputs.weirs.trans (put.inputs.weirs.trans taken.acts.inputs.weirs)
      rakes := screens.rakes.trans (rakes.trans taken.rakes)
      desired := desiredKept.trans desired
      aside := aside
      corr := fun i placed => by
        rw [Plant.adopt_corr fun n word => (aside n (placed n word)).demand.trans (demand n).symm, corr, taken.corr]
      alarms := alarmsKept.trans (alarms'.trans alarms)
      out := by
        obtain ⟨more, first⟩ := taken.acts.2
        obtain ⟨more', second⟩ := adopts.2
        exact ⟨more ++ more', by rw [second, out, first, List.append_assoc]⟩
      idle := fun idle => by
        have nobody := Plant.adopt_nobody (p := y) (fun n => by rw [pump]; exact Plant.startedPump_placed (idle.placed n)) demand
        refine ⟨fun n => ?_, nobody.queue, fun n => ?_, ?_, ?_, ?_⟩
        · rw [nobody.claims, claims, taken.claims]
        · exact nobody.free n (by rw [claims]; exact taken.free n (idle.free n))
        · rw [nobody.rotation, rotation, taken.rotation idle.still]
        · rw [nobody.stagger, stagger, taken.stagger]
        · rw [nobody.out, out, taken.out] }

/-! The rakes. -/

/-- R64, R77: the rake measured and taken over. -/
def Plant.upRake (p : Plant) (n : Fin 2) : Rake :=
  if p.rakePresent n then
    if p.screenOosSet n then { p.measuredRake n with state := .outOfService }
    else { p.measuredRake n with
      state := .idle, cycle := .stopped, reverse := .stopped, hold := .stopped, held := false
      interval := if p.intervalTime n = 0 then .stopped else .running (p.intervalTime n) }
  else p.measuredRake n

theorem screenWord_not_pump (n : Fin 2) (m : Fin 6) : pumpWord m ≠ screenWord n := by revert n m; decide

theorem Plant.rakesUp_up {p q : Plant} (starts : p.Starts q) (rakes : q.rakes = p.rakes) :
    q.RakesMoved q.rakesUp ∧ ∀ n, q.rakesUp.rake n = p.upRake n := by
  have measured := q.takeDifferentials_take
  unfold Plant.rakesUp
  generalize allRakes.foldl (fun q n => q.takeDifferential n) q = x at *
  have taken := x.startRakeUnits_take
  refine ⟨measured.moved.trans taken.moved, fun n => ?_⟩
  have moved := measured.moved.kept
  have sections : x.sections = p.sections := moved.acts.inputs.sections.trans starts.sections
  have reads {α : Type} (f : Plant → α) (looks : ∀ p : Plant, f p = f { Plant.reset with sections := p.sections }) : f x = f p := by
    rw [looks x, looks p, sections]
  have present : x.rakePresent n = p.rakePresent n := reads (fun p => p.rakePresent n) fun _ => rfl
  have interval : x.intervalTime n = p.intervalTime n := reads (fun p => p.intervalTime n) fun _ => rfl
  have oos : x.screenOosSet n = p.screenOosSet n := by
    unfold Plant.screenOosSet
    rw [moved.2.shadow, starts.words _ (screenWord_not_pump n)]
  have blind : q.blindLevel n = p.blindLevel n := by
    have looks (p : Plant) : p.blindLevel n = ({ Plant.reset with sections := p.sections } : Plant).blindLevel n := rfl
    rw [looks q, looks p, starts.sections]
  have rake : x.rake n = p.measuredRake n := by
    have own : q.rake n = p.rake n := congrArg (Vector.get · n) rakes
    rw [measured.rake n]
    unfold Plant.measuredRake
    rw [Plant.differentialNow_congr starts.levels, blind, own]
  rw [taken.rake n]
  unfold Plant.startedRake Plant.upRake
  rw [present, oos, interval, rake]

theorem Plant.serve_readings (p : Plant) (k : Nat) : p.SameReadings (p.serve k) := by
  refine Plant.serve_induct p.SameReadings (fun q r same round => same.trans ?_) k p (.refl p)
  rcases Plant.serveOnce_cases round with ⟨m, -, -, rfl⟩ | ⟨m, -, rfl⟩ | ⟨m, -, -, rfl⟩ | ⟨m, -, -, rfl⟩ | ⟨m, -, rfl⟩
  · exact Plant.readings_of_rakes fun n => congrArg (Vector.get · n) (q.startPump_rakes m)
  · exact q.suspendRakes_readings
  · exact q.setClaim_readings _ _
  · exact q.grantRake_readings m
  · exact q.triggerRake_readings m .storm

/-- The rake's readings are those measured. -/
theorem Plant.upRake_readings (p : Plant) (n : Fin 2) : (p.measuredRake n).SameReadings (p.upRake n) := by
  unfold Plant.upRake
  split
  · split
    · exact ⟨rfl, rfl, rfl⟩
    · exact ⟨rfl, rfl, rfl⟩
  · exact ⟨rfl, rfl, rfl⟩

/-! The start as a whole. -/

/-- What the start of the units leaves, from whatever state. -/
structure Plant.UnitsUp (p : Plant) (resume : Fin 3 → Bool) (r : Plant) : Prop where
  starts   : p.Starts r
  desired  : r.desired = p.desiredNow
  pumps    : ∀ n, p.pumpPlaced n → r.pump n = p.startedPump n ∧ r.demand n = false
  corr     : ∀ i, (∀ n, pumpWord n = i → p.pumpPlaced n) → (i ∈ r.corr ↔ i ∈ p.corr)
  weirs    : ∀ n, p.WeirStarted n (resume n) (r.weir n)
  readings : ∀ n, (p.measuredRake n).SameReadings (r.rake n)
  out      : ∃ more, r.out = p.out ++ more

/-- What it leaves where LOAD has left the units as R17 says: `y` is the plant with the units taken over, and `z` the one
with the storm triggers served. -/
structure Plant.LawfullyUp (p y z r : Plant) : Prop where
  starts : p.Starts y
  rake   : ∀ n, y.rake n = p.upRake n
  free   : ∀ n, (y.claim (rakeHolder n)).status = .none
  served : y.StormServed z
  out    : y.out = p.out ++ (allPumps.filter p.tripsAtLoad).map fun n => tripDraft n .fault .resting
  pumps  : z.queue = [] ∧ (∀ n, (z.claim (pumpHolder n)).status = .none) ∧ z.rotation = p.rotation ∧ z.stagger = p.stagger
  normal : ∀ k, z.alarms.points.get k = { condition := false, state := .normal }
  handed : z.AllHanded z.conditionAtLoad allPoints r
  kept   : z.Kept r
  units  : z.SameUnits r

/-- The states of LOAD that a run reaches (R17, R61, R105). -/
structure Plant.LoadIdle (p : Plant) : Prop where
  pumps  : p.PumpsIdle
  rakes  : ∀ n, (p.claim (rakeHolder n)).status = .none
  normal : ∀ k, p.alarms.points.get k = { condition := false, state := .normal }

theorem Plant.startUnits_up {p : Plant} (demands : ∀ n, p.demand n = false) (running : p.loading = false)
    (resume : Fin 3 → Bool) : p.UnitsUp resume (p.startUnits resume) ∧
      (p.LoadIdle → ∃ y z, p.LawfullyUp y z (p.startUnits resume)) := by
  have up := Plant.pumpsUp_up demands
  obtain ⟨rakesMoved, rakes⟩ := Plant.rakesUp_up up.starts up.rakes
  rw [Plant.startUnits_eq]
  generalize p.pumpsUp = q at *
  generalize q.rakesUp = x at *
  obtain ⟨weirsMoved, weirs⟩ := x.startWeirs_started resume
  generalize allWeirs.foldl (fun q n => q.startWeir n (resume n)) x = y at *
  have kept := rakesMoved.kept
  have startsX := up.starts.trans kept.acts.starts
  have startsY := startsX.trans weirsMoved.starts
  have rakeY (n : Fin 2) : y.rake n = p.upRake n := by
    have same : y.rake n = x.rake n := by rw [weirsMoved]; rfl
    rw [same, rakes]
  have serve := y.serve_kept serveBound
  have readings := y.serve_readings serveBound
  have sameY : x.SamePumps y := by rw [weirsMoved]; exact ⟨rfl, rfl, rfl, fun _ => rfl⟩
  have ordersY : x.SameOrders y := by rw [weirsMoved]; exact ⟨rfl, rfl, rfl, rfl⟩
  have outY : y.out = q.out := (show y.out = x.out by rw [weirsMoved]).trans (by rw [rakesMoved])
  refine ⟨?_, fun idle => ?_⟩
  · have asides (n : Fin 6) (placed : p.pumpPlaced n) : (y.serve serveBound).Aside (p.startedPump n) n :=
      (((up.aside n placed).same rakesMoved.samePumps kept.2.shadow).same sameY ordersY.shadow).serve serveBound
    generalize y.serve serveBound = z at *
    have hands := z.handAll_kept
    have units := z.handAll_units
    generalize z.handAll = r at *
    exact
      { starts := (startsY.trans serve.acts.starts).trans hands.acts.starts
        desired := hands.2.desired.trans (serve.2.desired.trans (ordersY.desired.trans (kept.2.desired.trans up.desired)))
        pumps := fun n placed => ⟨(units.pump n).trans (asides n placed).pump,
          (Plant.demand_of_shadow hands.2.shadow n).trans (asides n placed).demand⟩
        corr := fun i placed => by
          rw [hands.2.corr, serve.2.corr, ordersY.corr, kept.2.corr]
          exact up.corr i placed
        weirs := fun n => by
          have same : r.weir n = y.weir n :=
            congrArg (Vector.get · n) (hands.acts.inputs.weirs.trans serve.acts.inputs.weirs)
          rw [same]
          exact (weirs n).congr startsX.sections startsX.levels
            (congrArg (Vector.get · n) (kept.acts.inputs.weirs.trans up.weirs))
        readings := fun n => by
          have measured := p.upRake_readings n
          rw [← rakeY n] at measured
          have served := readings n
          rw [← units.rake n] at served
          exact ⟨served.counts.trans measured.counts, served.differential.trans measured.differential,
            served.blinded.trans measured.blinded⟩
        out := by
          obtain ⟨more, first⟩ := up.out
          obtain ⟨more', second⟩ := serve.acts.2
          obtain ⟨more'', third⟩ := hands.acts.2
          exact ⟨more ++ more' ++ more'', by rw [third, second, outY, first]; simp only [List.append_assoc]⟩ }
  · obtain ⟨claims, queue, free, rotation, stagger, out⟩ := up.idle idle.pumps
    have claimsY (h : Fin 8) : y.claim h = q.claim h := by
      have same : y.claim h = x.claim h := by rw [weirsMoved]; rfl
      rw [same, rakesMoved.claim]
    have freeY (n : Fin 2) : (y.claim (rakeHolder n)).status = .none := by
      rw [claimsY, claims]
      exact idle.rakes n
    have pumpsServed : y.PumpsServed := by
      refine ⟨sameY.2.1.trans (rakesMoved.samePumps.2.1.trans queue), fun n => ?_⟩
      rw [claimsY, free n]
      exact ClaimStatus.noConfusion
    have storm := Plant.serve_stormServed pumpsServed freeY
    have alarms := y.serve_alarms serveBound
    have alarmsY : y.alarms = p.alarms := by
      have first : y.alarms = x.alarms := by rw [weirsMoved]
      have second : x.alarms = q.alarms := by rw [rakesMoved]
      rw [first, second, up.alarms]
    generalize y.serve serveBound = z at *
    have normal (k : Fin 40) : z.alarms.points.get k = { condition := false, state := .normal } := by
      rw [alarms, alarmsY]
      exact idle.normal k
    have runningZ : z.loading = false := by
      have mode : z.mode = p.mode := serve.acts.inputs.mode.trans startsY.mode
      unfold Plant.loading at running ⊢
      rw [mode]
      exact running
    refine ⟨y, z, startsY, rakeY, freeY, storm, outY.trans out, ⟨?_, fun n => ?_, ?_, ?_⟩, normal,
      Plant.handAll_handed runningZ normal, z.handAll_kept, z.handAll_units⟩
    · exact storm.pumps.2.1.trans (sameY.2.1.trans (rakesMoved.samePumps.2.1.trans queue))
    · rw [storm.pumps.2.2.2, claimsY]
      exact free n
    · exact serve.2.rotation.trans (ordersY.rotation.trans (kept.2.rotation.trans rotation))
    · exact storm.pumps.2.2.1.trans (sameY.2.2.1.trans (rakesMoved.samePumps.2.2.1.trans stagger))

end Sys2Proof.Machine
end

section
/-! The plant as LOAD hands it to the units (R17, R20, R24, R34, R133, R148, R149): O11. -/

namespace Sys2Proof.Machine

/-! Entries and the station mode unit. -/

/-- R34: the storm condition at the end of LOAD. -/
def Plant.stormAtLoad (p : Plant) : Bool := p.wetWellAtLoad || p.floatHighActive

/-- R17, R20, R24, R34: the station mode unit at the end of LOAD. -/
def Plant.modeAtLoad (p : Plant) (freshLast : Word) : ModeUnit :=
  { ModeUnit.reset with
    mode := .localControl, cause := .start, freshLast := freshLast, supply := supplyOf p.onGenerator
    wetWell := p.wetWellAtLoad, floatHigh := p.floatHighActive, storm := p.stormAtLoad }

/-- R34: the entry of a storm that begins with the end of LOAD. -/
def Plant.stormEntries (p : Plant) : List Draft :=
  if p.stormAtLoad then
    [{ source := srcMode, kind := 0x11, urgent := false, detail := detail1 (bit p.wetWellAtLoad + 4 * bit (p.active 26)) }]
  else []

theorem Plant.startMode_eq (p : Plant) (freshLast : Word) :
    p.startMode freshLast = { p with mode := p.modeAtLoad freshLast, out := p.out ++ p.stormEntries } := by
  unfold Plant.startMode Plant.modeAtLoad Plant.stormEntries Plant.stormAtLoad
  dsimp only
  cases storm : p.wetWellAtLoad || p.floatHighActive with
  | false =>
    simp only [Bool.false_eq_true, if_false, List.append_nil]
  | true =>
    simp only [if_true]
    rfl

/-- R148, R149: the entry of a section that LOAD took the default of. -/
def KeptDefault.entry (k : KeptDefault) : Draft :=
  { source := 0x50, kind := 0x62, urgent := false
    detail := [BitVec.ofNat 8 k.sec.val, if k.content then 6 else 5] ++ (if k.sec = 8 then [0xFF] else []) }

theorem keptDetail_eq (k : KeptDefault) :
    keptDetail k = [BitVec.ofNat 8 k.sec.val, if k.content then 6 else 5] ++ (if k.sec = 8 then [0xFF] else []) := by
  unfold keptDetail
  cases k.content with
  | false => rfl
  | true => rfl

theorem Plant.logDefaults_eq (kept : List KeptDefault) : ∀ p : Plant,
    p.logDefaults kept = { p with out := p.out ++ kept.map KeptDefault.entry } := by
  unfold Plant.logDefaults
  induction kept with
  | nil => intro p; rw [List.map_nil, List.append_nil]; rfl
  | cons k rest ih =>
    intro p
    rw [List.foldl_cons, ih, List.map_cons, ← List.singleton_append, ← List.append_assoc]
    unfold Plant.append KeptDefault.entry
    rw [keptDetail_eq]
    rfl

/-- R149: the POWER_UP or PANEL_RESET entry. -/
def Plant.startEntry (p : Plant) (panel : Bool) (capacity oldest tail : Nat) : Draft :=
  { source := 0x01, kind := if panel then 0x02 else 0x01, urgent := false
    detail := detail1 (if (p.sections.get 8).source = .stored then 1 else 0) ++
      detail1 ((([0, 1, 2, 3, 4, 5, 6, 7] : List (Fin 9)).map (fun i =>
        if (p.sections.get i).source = .default then 2 ^ i.val else 0)).sum) ++
      detail2 capacity ++ detail4 oldest ++ detail4 tail ++ detail4 p.clock.uptime.toNat }

theorem Plant.logStart_eq (p : Plant) (panel : Bool) (capacity oldest tail : Nat) :
    p.logStart panel capacity oldest tail = { p with out := p.out ++ [p.startEntry panel capacity oldest tail] } := by
  have passed : bit ((p.sections.get 8).source == .stored) = if (p.sections.get 8).source = .stored then 1 else 0 := by
    cases (p.sections.get 8).source <;> rfl
  unfold Plant.logStart Plant.startEntry Plant.append
  rw [passed]
  rfl

/-! The command words (R133). -/

/-- R133: a control word with its demand and its self-clearing field cleared. -/
theorem setBit_demand_reset (w : Word) : setBit (setBit w 0 false) 2 false = w &&& 0xFFFA := by
  show w &&& ~~~(BitVec.ofNat 16 (2 ^ 0)) &&& ~~~(BitVec.ofNat 16 (2 ^ 2)) = w &&& 0xFFFA
  rw [BitVec.and_assoc]
  rfl

theorem loadedShadowWord_pump (n : Fin 6) (w : Word) : loadedShadowWord (pumpWord n) w = w &&& 0xFFFA := by
  have inside : 8 ≤ (pumpWord n).val ∧ (pumpWord n).val < 14 := ⟨Nat.le_add_right 8 _, Nat.add_lt_add_left n.isLt 8⟩
  have other : pumpWord n ≠ 0 := fun same => by
    have := congrArg Fin.val same
    have : (pumpWord n).val = 0 := this
    omega
  exact ((if_neg other).trans (if_pos inside)).trans (setBit_demand_reset w)

theorem loadedShadowWord_screen (n : Fin 2) (w : Word) : loadedShadowWord (screenWord n) w = w &&& 0xFFFA := by
  have inside : 16 ≤ (screenWord n).val ∧ (screenWord n).val < 18 := ⟨Nat.le_add_right 16 _, Nat.add_lt_add_left n.isLt 16⟩
  have outside : ¬ (8 ≤ (screenWord n).val ∧ (screenWord n).val < 14) := by omega
  have other : screenWord n ≠ 0 := fun same => by
    have := congrArg Fin.val same
    have : (screenWord n).val = 0 := this
    omega
  exact (((if_neg other).trans (if_neg outside)).trans (if_pos inside)).trans (setBit_demand_reset w)

theorem loadedShadowWord_spare {i : Fin 32} (spare : spareWord i = true) (w : Word) : loadedShadowWord i w = w := by
  unfold spareWord at spare
  simp only [Bool.or_eq_true, Bool.and_eq_true, decide_eq_true_iff] at spare
  unfold loadedShadowWord
  rw [if_neg (fun same => by rw [same] at spare; revert spare; decide), if_neg (by omega), if_neg (by omega)]

theorem getLsbD_cleared (w : Word) : (w &&& 0xFFFA).getLsbD 0 = false ∧ (w &&& 0xFFFA).getLsbD 1 = w.getLsbD 1 ∧
    (w &&& 0xFFFA).getLsbD 2 = false := by
  refine ⟨?_, ?_, ?_⟩
  · rw [BitVec.getLsbD_and]; exact Bool.and_false _
  · rw [BitVec.getLsbD_and]; exact Bool.and_true _
  · rw [BitVec.getLsbD_and]; exact Bool.and_false _

/-! The plant as the units find it. -/

theorem mem_allWords (i : Fin 32) : i ∈ allWords := by revert i; decide

/-- A command word as it stands in memory. -/
def State.commandWord (s : State) (i : Fin 32) : Word := s.mem.readWord (s.commandAddress i)

/-- The plant with its first entries, its command shadow and its station mode unit (R149). -/
structure State.LoadReady (s : State) (first : List Draft) (x : Plant) : Prop where
  clock    : x.clock = s.plant.clock
  lines    : x.lines = s.plant.lines
  levels   : x.levels = s.plant.levels
  pumps    : x.pumps = s.plant.pumps
  rakes    : x.rakes = s.plant.rakes
  weirs    : x.weirs = s.plant.weirs
  queue    : x.queue = s.plant.queue
  claims   : x.claims = s.plant.claims
  rotation : x.rotation = s.plant.rotation
  stagger  : x.stagger = s.plant.stagger
  alarms   : x.alarms = s.plant.alarms
  sections : x.sections = s.plant.sections
  desired  : x.desired = s.plant.desired
  mode     : x.mode = s.plant.modeAtLoad (s.commandWord 1)
  shadow   : ∀ i, x.shadow.get i = loadedShadowWord i (s.commandWord i)
  corr     : ∀ i, i ∈ x.corr ↔ loadedShadowWord i (s.commandWord i) ≠ s.commandWord i
  out      : x.out = s.plant.out ++ first ++ s.plant.stormEntries

theorem Plant.buildShadow_shadow (p : Plant) (read : Fin 32 → Word) (i : Fin 32) :
    (p.buildShadow read).shadow.get i = loadedShadowWord i (read i) := vector_get_ofFn _ i

theorem Plant.mem_buildShadow_corr (p : Plant) (read : Fin 32 → Word) (i : Fin 32) :
    i ∈ (p.buildShadow read).corr ↔ loadedShadowWord i (read i) ≠ read i := by
  show i ∈ allWords.filter (fun i => loadedShadowWord i (read i) != read i) ↔ _
  rw [List.mem_filter, bne_iff_ne, and_iff_right (mem_allWords i)]

/-- The plant that the units find at the end of LOAD. -/
def State.loadPlant (s : State) (panel : Bool) (oldest tail : Nat) : Plant :=
  ((s.plant.logStart panel s.capacity oldest tail).logDefaults s.kept).buildShadow s.commandWord |>.startMode
    (s.commandWord 1)

theorem Plant.modeAtLoad_congr {p q : Plant} (levels : q.levels = p.levels) (lines : q.lines = p.lines)
    (sections : q.sections = p.sections) (freshLast : Word) :
    q.modeAtLoad freshLast = p.modeAtLoad freshLast ∧ q.stormEntries = p.stormEntries := by
  have mode (p : Plant) : p.modeAtLoad freshLast =
    ({ Plant.reset with levels := p.levels, lines := p.lines, sections := p.sections } : Plant).modeAtLoad freshLast := rfl
  have storm (p : Plant) : p.stormEntries =
    ({ Plant.reset with levels := p.levels, lines := p.lines, sections := p.sections } : Plant).stormEntries := rfl
  rw [mode q, mode p, storm q, storm p, levels, lines, sections]
  exact ⟨rfl, rfl⟩

/-- R133, R34: the command shadow and the station mode unit after the first entries. -/
theorem State.LoadReady.of_entries {s : State} {first : List Draft} {q : Plant}
    (start : q = { s.plant with out := s.plant.out ++ first }) :
    s.LoadReady first ((q.buildShadow s.commandWord).startMode (s.commandWord 1)) := by
  have shadow := q.buildShadow_shadow s.commandWord
  have corr := q.mem_buildShadow_corr s.commandWord
  have built : ∃ v c, q.buildShadow s.commandWord = { q with shadow := v, corr := c } := ⟨_, _, rfl⟩
  obtain ⟨v, c, built⟩ := built
  rw [built] at shadow corr ⊢
  clear built
  subst start
  have same := Plant.modeAtLoad_congr (p := s.plant)
    (q := { s.plant with out := s.plant.out ++ first, shadow := v, corr := c }) rfl rfl rfl (s.commandWord 1)
  rw [Plant.startMode_eq]
  exact
    { clock := rfl, lines := rfl, levels := rfl, pumps := rfl, rakes := rfl, weirs := rfl, queue := rfl, claims := rfl
      rotation := rfl, stagger := rfl, alarms := rfl, sections := rfl, desired := rfl, mode := same.1, shadow := shadow
      corr := corr, out := congrArg (s.plant.out ++ first ++ ·) same.2 }

theorem State.loadPlant_ready (s : State) (panel : Bool) (oldest tail : Nat) :
    s.LoadReady (s.plant.startEntry panel s.capacity oldest tail :: s.kept.map KeptDefault.entry)
      (s.loadPlant panel oldest tail) := by
  refine .of_entries ?_
  rw [Plant.logStart_eq, Plant.logDefaults_eq]
  dsimp only
  rw [List.append_assoc, List.singleton_append]

section
variable {s : State} {first : List Draft} {x : Plant}

theorem State.LoadReady.running (ready : s.LoadReady first x) : x.loading = false := by
  unfold Plant.loading
  rw [ready.mode]
  rfl

theorem State.LoadReady.demands (ready : s.LoadReady first x) (n : Fin 6) : x.demand n = false := by
  unfold Plant.demand runField
  rw [ready.shadow, loadedShadowWord_pump]
  exact (getLsbD_cleared _).1

/-- A reading of settings, levels, contacts, pumps, rakes and weirs is the same as before the end of LOAD. -/
theorem State.LoadReady.reads (ready : s.LoadReady first x) {α : Type} (f : Plant → α)
    (looks : ∀ p : Plant, f p = f { Plant.reset with
      sections := p.sections, levels := p.levels, lines := p.lines, pumps := p.pumps, rakes := p.rakes, weirs := p.weirs
      clock := p.clock, desired := p.desired }) : f x = f s.plant := by
  rw [looks x, looks s.plant, ready.sections, ready.levels, ready.lines, ready.pumps, ready.rakes, ready.weirs, ready.clock,
    ready.desired]

theorem State.LoadReady.oos (ready : s.LoadReady first x) (n : Fin 6) : x.pumpOosSet n = (s.commandWord (pumpWord n)).getLsbD 1 := by
  unfold Plant.pumpOosSet oosField
  rw [ready.shadow, loadedShadowWord_pump]
  exact (getLsbD_cleared _).2.1

theorem State.LoadReady.screenOos (ready : s.LoadReady first x) (n : Fin 2) :
    x.screenOosSet n = (s.commandWord (screenWord n)).getLsbD 1 := by
  unfold Plant.screenOosSet oosField
  rw [ready.shadow, loadedShadowWord_screen]
  exact (getLsbD_cleared _).2.1

end

end Sys2Proof.Machine
end

section
/-! What the end of LOAD makes of each unit (R13, R36, R53, R61, R64, R91, R92, R133): O11. -/

namespace Sys2Proof.Machine

/-- What the units looked at before the end of LOAD, their start and the plant they leave. -/
structure State.UnitsStarted (s : State) (resume : Fin 3 → Bool) (x r : Plant) : Prop where
  ready : ∃ first, s.LoadReady first x
  up    : x.UnitsUp resume r

section
variable {s : State} {answer : Fin 3 → Bool} {x r : Plant}

/-! The command words. -/

theorem pumpWord_not_spare {i : Fin 32} (spare : spareWord i = true) (n : Fin 6) : pumpWord n ≠ i := by
  rintro rfl
  revert spare
  revert n
  decide

theorem State.UnitsStarted.word (started : s.UnitsStarted answer x r) {i : Fin 32} (other : ∀ n, pumpWord n ≠ i) :
    r.shadow.get i = loadedShadowWord i (s.commandWord i) := by
  obtain ⟨⟨first, ready⟩, up⟩ := started
  exact (up.starts.words i other).trans (ready.shadow i)

/-- A control word of a pump but for its demand. -/
theorem State.UnitsStarted.highBit (started : s.UnitsStarted answer x r) (n : Fin 6) {k : Nat} (high : k ≠ 0) :
    (r.shadow.get (pumpWord n)).getLsbD k = (s.commandWord (pumpWord n) &&& 0xFFFA).getLsbD k := by
  obtain ⟨⟨first, ready⟩, up⟩ := started
  rw [up.starts.bits n k high, ready.shadow, loadedShadowWord_pump]

theorem State.UnitsStarted.oos (started : s.UnitsStarted answer x r) (n : Fin 6) :
    r.pumpOosSet n = (s.commandWord (pumpWord n)).getLsbD 1 :=
  (started.highBit n (by decide)).trans (getLsbD_cleared _).2.1

theorem State.UnitsStarted.placed (started : s.UnitsStarted answer x r) {n : Fin 6}
    (placed : s.plant.pumpPresent n = true ∨ (s.plant.pump n).state = .absent) : x.pumpPlaced n := by
  obtain ⟨⟨first, ready⟩, -⟩ := started
  have same : x.pumpPlaced n = s.plant.pumpPlaced n := ready.reads (fun p => p.pumpPlaced n) fun _ => rfl
  rw [same]
  exact placed

theorem State.UnitsStarted.pumpWord_cleared (started : s.UnitsStarted answer x r) {n : Fin 6}
    (placed : s.plant.pumpPresent n = true ∨ (s.plant.pump n).state = .absent) :
    r.shadow.get (pumpWord n) = s.commandWord (pumpWord n) &&& 0xFFFA := by
  refine BitVec.eq_of_getLsbD_eq fun k _ => ?_
  by_cases low : k = 0
  · rw [low, (getLsbD_cleared _).1]
    exact (started.up.pumps n (started.placed placed)).2
  · exact started.highBit n low

theorem State.UnitsStarted.pumpCorr (started : s.UnitsStarted answer x r) {n : Fin 6}
    (placed : s.plant.pumpPresent n = true ∨ (s.plant.pump n).state = .absent) :
    pumpWord n ∈ r.corr ↔
      s.commandWord (pumpWord n) &&& 0xFFFA ≠ s.commandWord (pumpWord n) := by
  have places (m : Fin 6) (word : pumpWord m = pumpWord n) : x.pumpPlaced m := by
    rw [pumpWord_inj word]
    exact started.placed placed
  obtain ⟨⟨first, ready⟩, up⟩ := started
  rw [up.corr _ places, ready.corr, loadedShadowWord_pump]

theorem State.UnitsStarted.corr (started : s.UnitsStarted answer x r) {i : Fin 32}
    (other : ∀ n, pumpWord n ≠ i) : i ∈ r.corr ↔ r.shadow.get i ≠ s.commandWord i := by
  rw [started.word other]
  obtain ⟨⟨first, ready⟩, up⟩ := started
  rw [up.corr i fun n word => absurd word (other n), ready.corr]

/-! The pumps (R61) and the desired count (R53). -/

/-- R61: what the end of LOAD makes of a pump, by what stands for it. -/
structure State.PumpTaken (s : State) (n : Fin 6) (now : Pump) : Prop where
  absent  : s.plant.pumpPresent n = false → (s.plant.pump n).state = .absent → now = s.plant.pump n
  oos     : s.plant.pumpPresent n = true → (s.commandWord (pumpWord n)).getLsbD 1 = true →
    now = { s.plant.pump n with state := .outOfService }
  resting : s.plant.pumpPresent n = true → (s.commandWord (pumpWord n)).getLsbD 1 = false →
    s.plant.faultActive n = false → now = { s.plant.pump n with
      state := .resting, deferred := false, feedback := .stopped, minRun := .stopped
      minOff := .running (s.plant.minOffTime n) }
  tripped : s.plant.pumpPresent n = true → (s.commandWord (pumpWord n)).getLsbD 1 = false →
    s.plant.faultActive n = true → now = { s.plant.pump n with
      state := .tripped, tripCause := .fault, tripUptime := some s.plant.clock.uptime, deferred := false
      feedback := .stopped, minRun := .stopped, minOff := .stopped }

theorem State.LoadReady.startedPump {first : List Draft} (ready : s.LoadReady first x) (n : Fin 6) :
    s.PumpTaken n (x.startedPump n) := by
  have present : x.pumpPresent n = s.plant.pumpPresent n := ready.reads (fun p => p.pumpPresent n) fun _ => rfl
  have fault : x.faultActive n = s.plant.faultActive n := ready.reads (fun p => p.faultActive n) fun _ => rfl
  have resting : x.restingPump n (x.minOffTime n) = s.plant.restingPump n (s.plant.minOffTime n) :=
    ready.reads (fun p => p.restingPump n (p.minOffTime n)) fun _ => rfl
  have pump : x.pump n = s.plant.pump n := congrArg (Vector.get · n) ready.pumps
  unfold Plant.startedPump
  rw [present, fault, resting, pump, ready.oos, ready.clock]
  refine ⟨fun here _ => ?_, fun here oos => ?_, fun here oos well => ?_, fun here oos bad => ?_⟩
  · rw [here]; rfl
  · rw [here, oos]; rfl
  · rw [here, oos, well]; rfl
  · rw [here, oos, bad]; rfl

theorem State.UnitsStarted.pump (started : s.UnitsStarted answer x r) (n : Fin 6)
    (placed : s.plant.pumpPresent n = true ∨ (s.plant.pump n).state = .absent) : s.PumpTaken n (r.pump n) := by
  rw [(started.up.pumps n (started.placed placed)).1]
  obtain ⟨⟨first, ready⟩, -⟩ := started
  exact ready.startedPump n

theorem State.UnitsStarted.desired (started : s.UnitsStarted answer x r) : r.desired = s.plant.desiredNow := by
  obtain ⟨⟨first, ready⟩, up⟩ := started
  exact up.desired.trans (Plant.desiredNow_congr ready.levels ready.sections (by rw [ready.lines]) ready.desired)

/-! The station mode unit (R13, R34). -/

theorem State.UnitsStarted.mode (started : s.UnitsStarted answer x r) : r.mode = s.plant.modeAtLoad (s.commandWord 1) := by
  obtain ⟨⟨first, ready⟩, up⟩ := started
  exact up.starts.mode.trans ready.mode

theorem Plant.wetWellAtLoad_iff (p : Plant) : p.wetWellAtLoad = true ↔ (p.levels.channels.get 0).state = .good ∧
    ∃ v, (p.levels.channels.get 0).value = some v ∧ p.stormLevel ≤ v := by
  unfold Plant.wetWellAtLoad
  dsimp only
  constructor
  · intro holds
    split at holds
    case h_1 v good value => exact ⟨good, v, value, of_decide_eq_true holds⟩
    case h_2 => cases holds
  · rintro ⟨good, v, value, high⟩
    rw [good, value]
    exact decide_eq_true high

/-! The weirs (R91, R92). -/

theorem Plant.WeirStarted.resumed {p : Plant} {n : Fin 3} {mark : Bool} {w : Weir} (started : p.WeirStarted n mark w) :
    w.resume = mark := by
  obtain ⟨absent, good, blind⟩ := started
  cases present : p.weirPresent n with
  | false => rw [absent present]
  | true =>
    by_cases judged : (p.levels.channels.get (weirChannel n)).state ≠ .good ∨ (p.levels.channels.get (weirChannel n)).value = none
    · rw [blind present judged]
      rfl
    · obtain ⟨isGood, some_⟩ := not_or.mp judged
      obtain ⟨v, value⟩ := Option.ne_none_iff_exists'.mp some_
      rw [good present v (not_not.mp isGood) value]
      split <;> rfl

theorem State.UnitsStarted.weir (started : s.UnitsStarted answer x r) (n : Fin 3) :
    s.plant.WeirStarted n (r.weir n).resume (r.weir n) := by
  obtain ⟨⟨first, ready⟩, up⟩ := started
  have weir := up.weirs n
  rw [weir.resumed]
  exact weir.congr ready.sections ready.levels (congrArg (Vector.get · n) ready.weirs)

theorem State.UnitsStarted.resumed (started : s.UnitsStarted answer x r) (n : Fin 3) : (r.weir n).resume = answer n :=
  (started.up.weirs n).resumed

/-! The readings of the rakes (R64). -/

theorem State.LoadReady.measuredRake {first : List Draft} (ready : s.LoadReady first x) (n : Fin 2) :
    x.measuredRake n = s.plant.measuredRake n := by
  have rake : x.rake n = s.plant.rake n := congrArg (Vector.get · n) ready.rakes
  have blind : x.blindLevel n = s.plant.blindLevel n := ready.reads (fun p => p.blindLevel n) fun _ => rfl
  unfold Plant.measuredRake
  rw [Plant.differentialNow_congr ready.levels, blind, rake]

theorem State.UnitsStarted.readings (started : s.UnitsStarted answer x r) (n : Fin 2) :
    (s.plant.measuredRake n).SameReadings (r.rake n) := by
  obtain ⟨⟨first, ready⟩, up⟩ := started
  rw [← ready.measuredRake n]
  exact up.readings n

/-- R64: the differential of two good channels. -/
theorem State.UnitsStarted.measured (started : s.UnitsStarted answer x r) {n : Fin 2} {u v : Nat}
    (up : (s.plant.levels.channels.get (upstreamChannel n)).state = .good)
    (upValue : (s.plant.levels.channels.get (upstreamChannel n)).value = some u)
    (down : (s.plant.levels.channels.get (downstreamChannel n)).state = .good)
    (downValue : (s.plant.levels.channels.get (downstreamChannel n)).value = some v) :
    (r.rake n).counts = true ∧ (r.rake n).differential = (u : Int) - (v : Int) ∧
      ((r.rake n).blinded = true ↔
        (s.plant.rake n).state ≠ .absent ∧ (s.plant.blindLevel n : Int) ≤ (u : Int) - (v : Int)) := by
  obtain ⟨counts, differential, blinded⟩ := started.readings n
  rw [Plant.measuredRake_good (Plant.differentialNow_good up upValue down downValue)] at counts differential blinded
  refine ⟨counts, differential, ?_⟩
  rw [blinded]
  show ((s.plant.rake n).state != .absent && decide _) = true ↔ _
  rw [Bool.and_eq_true, bne_iff_ne, decide_eq_true_iff]

theorem State.UnitsStarted.blind (started : s.UnitsStarted answer x r) {n : Fin 2}
    (blind : (s.plant.levels.channels.get (upstreamChannel n)).state ≠ .good ∨
      (s.plant.levels.channels.get (downstreamChannel n)).state ≠ .good) : (r.rake n).counts = false := by
  obtain ⟨counts, -, -⟩ := started.readings n
  rw [counts, Plant.measuredRake_blind (Plant.differentialNow_blind n blind)]
  rfl

end

end Sys2Proof.Machine
end

section
/-! The end of LOAD from the states that a run reaches (R17, R29, R61, R65, R77, R105): O11. -/

namespace Sys2Proof.Machine

/-- A LOAD that a run reaches: its units idle, its contacts and settings as the obligation's state has them. -/
structure State.LoadedLawfully (s : State) (answer : Fin 3 → Bool) (x y z r : Plant) : Prop where
  started : s.UnitsStarted answer x r
  lawful  : s.plant.Lawful
  up      : x.LawfullyUp y z r

section
variable {s : State} {first : List Draft} {answer : Fin 3 → Bool} {x y z r : Plant}

theorem State.Settled.loadIdle (settled : s.Settled) (loads : s.load ≠ .none) (ready : s.LoadReady first x) : x.LoadIdle := by
  obtain ⟨loading, queue, -, rakes, -⟩ := settled.load loads
  obtain ⟨pumpsFree, -, normal⟩ := settled.lawful.load loading
  have claim (h : Fin 8) : x.claim h = s.plant.claim h := congrArg (Vector.get · h) ready.claims
  have pump (n : Fin 6) : x.pump n = s.plant.pump n := congrArg (Vector.get · n) ready.pumps
  have present (n : Fin 6) : x.pumpPresent n = s.plant.pumpPresent n := ready.reads (fun p => p.pumpPresent n) fun _ => rfl
  refine ⟨⟨fun n => ?_, fun n => ?_, ready.queue.trans queue, fun n => ?_⟩, fun n => ?_, fun k => ?_⟩
  · unfold Plant.pumpPlaced
    rw [present, pump]
    cases here : s.plant.pumpPresent n with
    | true => exact .inl rfl
    | false => exact .inr (settled.lawful.absent.1 n here)
  · rw [pump, Bool.eq_false_iff]
    intro moving
    have held := (settled.lawful.pumps n).mpr moving
    rw [pumpsFree n] at held
    cases held
  · rw [claim]
    exact pumpsFree n
  · rw [claim]
    exact (rakes n).1
  · rw [ready.alarms]
    exact normal k

/-! The rakes (R29, R65, R77). -/

/-- The rake with the readings that the end of LOAD has taken (R64). -/
def State.readRake (s : State) (r : Plant) (n : Fin 2) : Rake :=
  { s.plant.rake n with
    differential := (r.rake n).differential, counts := (r.rake n).counts, blinded := (r.rake n).blinded }

theorem State.UnitsStarted.read (started : s.UnitsStarted answer x r) (n : Fin 2) : x.measuredRake n = s.readRake r n := by
  obtain ⟨counts, differential, blinded⟩ := started.readings n
  obtain ⟨⟨first, ready⟩, -⟩ := started
  rw [ready.measuredRake, Plant.measuredRake_shows]
  unfold State.readRake
  rw [counts, differential, blinded]
  rfl

/-- R65, R67, R77: what the end of LOAD makes of a rake, by what stands for it. -/
structure State.RakeTaken (s : State) (r : Plant) (n : Fin 2) : Prop where
  absent  : s.plant.rakePresent n = false → r.rake n = s.readRake r n ∧ (r.claim (rakeHolder n)).status = .none
  oos     : s.plant.rakePresent n = true → (s.commandWord (screenWord n)).getLsbD 1 = true →
    r.rake n = { s.readRake r n with state := .outOfService } ∧ (r.claim (rakeHolder n)).status = .none
  calm    : s.plant.rakePresent n = true → (s.commandWord (screenWord n)).getLsbD 1 = false → r.mode.storm = false →
    (r.claim (rakeHolder n)).status = .none ∧ r.rake n = { s.readRake r n with
      state := .idle, cycle := .stopped, reverse := .stopped, hold := .stopped, held := false
      interval := if s.plant.intervalTime n = 0 then .stopped else .running (s.plant.intervalTime n) }
  storm   : s.plant.rakePresent n = true → (s.commandWord (screenWord n)).getLsbD 1 = false → r.mode.storm = true →
    (r.claim (rakeHolder n)).units = s.plant.rakeUnits n ∧
      ((r.claim (rakeHolder n)).status = .waiting ∧ r.budget < r.heldUnits + (r.claim (rakeHolder n)).units ∧
          r.rake n = { s.readRake r n with
            state := .waiting, trigger := .storm, interval := .stopped, cycle := .stopped, reverse := .stopped
            held := false, hold := .running (s.plant.maximumHold n) } ∨
        (r.claim (rakeHolder n)).status = .held ∧ r.rake n = { s.readRake r n with
            state := if s.plant.overloadActive n then .reversing else .raking
            trigger := .storm, interval := .stopped, hold := .stopped, held := false
            attempts := if s.plant.overloadActive n then 1 else 0
            homeLeave := !s.plant.homeActive n, cycleStart := some s.plant.clock.uptime
            cycle := if s.plant.overloadActive n then .stopped else .running (s.plant.cycleTime n)
            reverse := if s.plant.overloadActive n then .running (s.plant.reverseTime n) else .stopped })

/-- A reading of settings, contacts and the clock is the same once the units are taken over. -/
theorem Plant.Starts.reads {p q : Plant} (starts : p.Starts q) {α : Type} (f : Plant → α)
    (looks : ∀ p : Plant, f p = f { Plant.reset with
      sections := p.sections, clock := p.clock, lines := { Plant.reset.lines with debounced := p.lines.debounced } }) :
    f q = f p := by
  rw [looks q, looks p, starts.sections, starts.clock, starts.debounced]

theorem State.LoadReady.upRake (ready : s.LoadReady first x) (n : Fin 2) :
    (s.plant.rakePresent n = false → x.upRake n = x.measuredRake n) ∧
    (s.plant.rakePresent n = true → (s.commandWord (screenWord n)).getLsbD 1 = true →
      x.upRake n = { x.measuredRake n with state := .outOfService }) ∧
    (s.plant.rakePresent n = true → (s.commandWord (screenWord n)).getLsbD 1 = false →
      x.upRake n = { x.measuredRake n with
        state := .idle, cycle := .stopped, reverse := .stopped, hold := .stopped, held := false
        interval := if s.plant.intervalTime n = 0 then .stopped else .running (s.plant.intervalTime n) }) := by
  have present : x.rakePresent n = s.plant.rakePresent n := ready.reads (fun p => p.rakePresent n) fun _ => rfl
  have interval : x.intervalTime n = s.plant.intervalTime n := ready.reads (fun p => p.intervalTime n) fun _ => rfl
  unfold Plant.upRake
  rw [present, interval, ready.screenOos]
  refine ⟨fun away => ?_, fun here oos => ?_, fun here serves => ?_⟩
  · rw [away]; rfl
  · rw [here, oos]; rfl
  · rw [here, serves]; rfl

theorem State.LoadedLawfully.rake (loaded : s.LoadedLawfully answer x y z r) (n : Fin 2) : s.RakeTaken r n := by
  obtain ⟨started, lawful, up⟩ := loaded
  have read := started.read n
  obtain ⟨⟨first, ready⟩, units⟩ := started
  have upRake := up.rake n
  obtain ⟨absent, oos, idle⟩ := ready.upRake n
  rw [read] at absent oos idle
  have rake : r.rake n = z.rake n := up.units.rake n
  have claim : r.claim (rakeHolder n) = z.claim (rakeHolder n) := up.units.claim _
  have storm : r.mode.storm = y.mode.storm := by rw [units.starts.mode, up.starts.mode]
  have still (calm : ¬ (y.mode.storm = true ∧ (y.rake n).state = .idle)) :
      r.rake n = x.upRake n ∧ (r.claim (rakeHolder n)).status = .none := by
    obtain ⟨same, free⟩ := up.served.still n calm
    rw [rake, claim, same, free]
    exact ⟨upRake, up.free n⟩
  have busy {state : RakeState} (own : (x.upRake n).state = state) (other : state ≠ .idle) :
      ¬ (y.mode.storm = true ∧ (y.rake n).state = .idle) := by
    rintro ⟨-, isIdle⟩
    rw [upRake, own] at isIdle
    exact other isIdle
  refine ⟨fun away => ?_, fun here out => ?_, fun here serves calm => ?_, fun here serves storms => ?_⟩
  · have own := absent away
    have state : (x.upRake n).state = .absent := by
      rw [own]
      exact lawful.absent.2 n away
    rw [← own]
    exact still (busy state RakeState.noConfusion)
  · have own := oos here out
    rw [← own]
    exact still (busy (by rw [own]) (RakeState.noConfusion))
  · rw [← idle here serves]
    refine (still ?_).symm
    rintro ⟨storms, -⟩
    rw [← storm, calm] at storms
    cases storms
  · have own := idle here serves
    have outcome := up.served.taken n (storm.symm.trans storms) (by rw [upRake, own])
    have reads {α : Type} (f : Plant → α)
        (looks : ∀ p : Plant, f p = f { Plant.reset with
          sections := p.sections, clock := p.clock, lines := { Plant.reset.lines with debounced := p.lines.debounced } }) :
        f y = f s.plant := by
      have same : ({ Plant.reset.lines with debounced := x.lines.debounced } : LineUnit) =
        { Plant.reset.lines with debounced := s.plant.lines.debounced } := by rw [ready.lines]
      rw [up.starts.reads f looks, looks x, looks s.plant, ready.sections, ready.clock, same]
    have requested : y.rakeUnits n = s.plant.rakeUnits n := reads (fun p => p.rakeUnits n) fun _ => rfl
    have hold : y.maximumHold n = s.plant.maximumHold n := reads (fun p => p.maximumHold n) fun _ => rfl
    have home : y.homeActive n = s.plant.homeActive n := reads (fun p => p.homeActive n) fun _ => rfl
    have overload : y.overloadActive n = s.plant.overloadActive n := reads (fun p => p.overloadActive n) fun _ => rfl
    have cycle : y.cycleTime n = s.plant.cycleTime n := reads (fun p => p.cycleTime n) fun _ => rfl
    have reverse : y.reverseTime n = s.plant.reverseTime n := reads (fun p => p.reverseTime n) fun _ => rfl
    have clock : y.clock = s.plant.clock := reads (fun p => p.clock) fun _ => rfl
    have budget : r.budget = y.budget := (up.served.kept.trans up.kept).acts.inputs.budget
    have held : r.heldUnits = z.heldUnits := Plant.heldUnits_congr fun h => .inl (up.units.claim h)
    unfold Plant.StormOutcome at outcome
    rw [requested, hold, home, overload, cycle, reverse, clock, upRake, own, ← claim, ← rake, ← budget, ← held] at outcome
    rcases outcome with ⟨short, waits, taken⟩ | ⟨holds, taken⟩
    · rw [waits]
      exact ⟨rfl, .inl ⟨rfl, short, taken⟩⟩
    · rw [holds]
      refine ⟨rfl, .inr ⟨rfl, ?_⟩⟩
      rw [taken]

end

end Sys2Proof.Machine
end

section
/-! The entries and the alarm unit at the end of LOAD (R43, R67, R100, R105, R120): O11. -/

namespace Sys2Proof.Machine

section
variable {s : State} {first : List Draft} {answer : Fin 3 → Bool} {x y z r : Plant}

/-! The conditions (R105). -/

theorem Plant.defaultedCondition_iff (p : Plant) :
    p.defaultedCondition = true ↔ ∃ i, (p.sections.get i).source = .default := by
  have every (i : Fin 9) : i ∈ allSections := by revert i; decide
  unfold Plant.defaultedCondition
  rw [List.any_eq_true]
  exact ⟨fun ⟨i, _, found⟩ => ⟨i, beq_iff_eq.mp found⟩, fun ⟨i, found⟩ => ⟨i, every i, beq_iff_eq.mpr found⟩⟩

theorem supplyOf_generator (b : Bool) : (supplyOf b == .generator) = b := by
  cases b <;> rfl

/-- R105: the condition of a point once the units are up, in the terms of the state before. -/
theorem State.UnitsStarted.condition_iff (started : s.UnitsStarted answer x r) (k : Fin 40) : r.conditionAtLoad k = true ↔
    (∃ n, tripPoint n = k ∧ (r.pump n).state = .tripped) ∨
    (∃ n, limitPoint n = k ∧ (r.pump n).state ≠ .absent ∧
      s.plant.startsPerHour n + (if r.mode.storm then s.plant.stormAllowance else 0) ≤ (r.pump n).history.length) ∨
    (∃ n, blindedPoint n = k ∧ (r.rake n).blinded = true) ∨
    (∃ c, channelPoint c = k ∧ (s.plant.levels.channels.get c).state = .fault .badSample) ∨
    k = 29 ∧ 3 ≤ s.plant.levels.failCount ∨ k = 30 ∧ r.mode.wetWell = true ∨
    k = 31 ∧ s.plant.active 26 = true ∨ k = 32 ∧ s.plant.active 27 = true ∨ k = 33 ∧ s.plant.active 28 = true ∨
    k = 36 ∧ (∃ i, (s.plant.sections.get i).source = .default) ∨ k = 38 := by
  have mode := started.mode
  obtain ⟨⟨first, ready⟩, up⟩ := started
  have levels : r.levels = s.plant.levels := up.starts.levels.trans ready.levels
  have sections : r.sections = s.plant.sections := up.starts.sections.trans ready.sections
  have debounced : r.lines.debounced = s.plant.lines.debounced := up.starts.debounced.trans (by rw [ready.lines])
  have contact (l : Fin 30) : r.active l = s.plant.active l := by
    have looks (p : Plant) : p.openActive l = ({ Plant.reset with sections := p.sections } : Plant).openActive l := rfl
    unfold Plant.active
    rw [debounced, looks r, looks s.plant, sections]
  have starts (n : Fin 6) : r.startsPerHour n = s.plant.startsPerHour n := by
    have looks (p : Plant) : p.startsPerHour n = ({ Plant.reset with sections := p.sections } : Plant).startsPerHour n := rfl
    rw [looks r, looks s.plant, sections]
  have allowance : r.stormAllowance = s.plant.stormAllowance := by
    have looks (p : Plant) : p.stormAllowance = ({ Plant.reset with sections := p.sections } : Plant).stormAllowance := rfl
    rw [looks r, looks s.plant, sections]
  have trip (n : Fin 6) : r.tripCondition n = true ↔ (r.pump n).state = .tripped := beq_iff_eq
  have limit (n : Fin 6) : r.limitCondition n = true ↔ (r.pump n).state ≠ .absent ∧
      s.plant.startsPerHour n + (if r.mode.storm then s.plant.stormAllowance else 0) ≤ (r.pump n).history.length := by
    unfold Plant.limitCondition Plant.atLimit Plant.currentLimit
    rw [Bool.and_eq_true, bne_iff_ne, decide_eq_true_iff, starts, allowance]
    rfl
  have channel (c : Fin 8) : r.channelCondition c = true ↔ (s.plant.levels.channels.get c).state = .fault .badSample := by
    unfold Plant.channelCondition
    rw [levels, beq_iff_eq]
  have converter : r.converterCondition = true ↔ 3 ≤ s.plant.levels.failCount := by
    unfold Plant.converterCondition
    rw [levels, decide_eq_true_iff]
  have generator : (r.mode.supply == .generator) = true ↔ s.plant.active 28 = true := by
    rw [mode]
    exact (congrArg (· = true) (supplyOf_generator _)).to_iff
  have high : r.floatHighActive = true ↔ s.plant.active 26 = true := by rw [← contact 26]; rfl
  have lowLow : r.lowLowActive = true ↔ s.plant.active 27 = true := by rw [← contact 27]; rfl
  have defaulted : r.defaultedCondition = true ↔ ∃ i, (s.plant.sections.get i).source = .default := by
    rw [r.defaultedCondition_iff, sections]
  rw [r.conditionAtLoad_iff]
  simp only [trip, limit, channel, converter, generator, high, lowLow, defaulted]

theorem Plant.LawfullyUp.condition (up : x.LawfullyUp y z r) (k : Fin 40) : r.conditionAtLoad k = z.conditionAtLoad k :=
  Plant.conditionAtLoad_congr up.kept up.units k

/-! The entries. -/

/-- R43, R61: the trips of the pumps. -/
def Plant.tripEntries (r : Plant) : List Draft :=
  (allPumps.filter fun n => (r.pump n).state == .tripped).map fun n =>
    { source := srcPump n, kind := 0x23, urgent := false, detail := [2, 2] }

theorem Plant.startedPump_trips {n : Fin 6} (placed : x.pumpPlaced n) :
    ((x.startedPump n).state == .tripped) = x.tripsAtLoad n := by
  unfold Plant.pumpPlaced at placed
  unfold Plant.startedPump Plant.tripsAtLoad
  cases here : x.pumpPresent n with
  | false =>
    rw [here] at placed
    have absent := placed.resolve_left Bool.false_ne_true
    show ((x.pump n).state == .tripped) = false
    rw [absent]
    rfl
  | true =>
    cases x.pumpOosSet n with
    | true => rfl
    | false => cases x.faultActive n <;> rfl

theorem State.UnitsStarted.trips (started : s.UnitsStarted answer x r) (placed : ∀ n, x.pumpPlaced n) :
    ((allPumps.filter x.tripsAtLoad).map fun n => tripDraft n .fault .resting) = r.tripEntries := by
  have same : x.tripsAtLoad = fun n => (r.pump n).state == .tripped := funext fun n => by
    rw [(started.up.pumps n (placed n)).1, Plant.startedPump_trips (placed n)]
  unfold Plant.tripEntries
  rw [same]
  rfl

/-- R67, R69: the starts of the rakes with STORM. -/
def State.startEntries (s : State) (r : Plant) : List Draft :=
  allRakes.flatMap fun n =>
    if (r.claim (rakeHolder n)).status = .held then
      { source := srcScreen n, kind := 0x30, urgent := false
        detail := detail1 3 ++ detail1 (bit (s.plant.homeActive n)) } ::
      if s.plant.overloadActive n then [{ source := srcScreen n, kind := 0x32, urgent := false, detail := detail2 1 }]
      else []
    else []

theorem State.LoadReady.stormStart (ready : s.LoadReady first x) (starts : x.Starts y) (n : Fin 2) :
    y.stormStart n = s.plant.stormStart n := by
  have same : ({ Plant.reset.lines with debounced := x.lines.debounced } : LineUnit) =
    { Plant.reset.lines with debounced := s.plant.lines.debounced } := by rw [ready.lines]
  have looks (p : Plant) : p.stormStart n = ({ Plant.reset with
    sections := p.sections, clock := p.clock, lines := { Plant.reset.lines with debounced := p.lines.debounced } } : Plant).stormStart n := rfl
  rw [starts.reads (fun p => p.stormStart n) looks, looks x, looks s.plant, ready.sections, ready.clock, same]

/-- R96, R105: the conditions that hold, `holds`, handed one after another. -/
def State.alarmEntries (s : State) (holds : Fin 40 → Bool) : List Draft :=
  (allPoints.filter holds).map fun k => s.plant.alarmOn k (allPoints.find? holds == some k)

/-- R120: the entries of the end of LOAD in their order. -/
theorem State.LoadedLawfully.entries (loaded : s.LoadedLawfully answer x y z r) (placed : ∀ n, x.pumpPlaced n) :
    r.out = x.out ++ (r.tripEntries ++ s.startEntries r ++ s.alarmEntries r.conditionAtLoad) := by
  obtain ⟨started, lawful, up⟩ := loaded
  have trips := started.trips placed
  obtain ⟨⟨first, ready⟩, units⟩ := started
  have starts : (allRakes.flatMap fun n => if (z.claim (rakeHolder n)).status = .held then y.stormStart n else []) =
      s.startEntries r := by
    unfold State.startEntries
    refine congrArg (fun f => allRakes.flatMap f) (funext fun n => ?_)
    rw [ready.stormStart up.starts, up.units.claim]
    rfl
  have sections : z.sections = s.plant.sections :=
    up.served.kept.acts.inputs.sections.trans (up.starts.sections.trans ready.sections)
  have alarms : ((allPoints.filter z.conditionAtLoad).map fun k =>
      z.alarmOn k (!z.episode && allPoints.find? z.conditionAtLoad == some k)) = s.alarmEntries r.conditionAtLoad := by
    have same : r.conditionAtLoad = z.conditionAtLoad := funext up.condition
    unfold State.alarmEntries
    rw [same, Plant.episode_normal up.normal]
    exact List.map_congr_left fun k _ => Plant.alarmOn_sections sections _
  rw [up.handed.out, up.served.out, up.out, trips, starts, alarms]
  simp only [List.append_assoc]

/-- R100, R105: the points and the first-out. -/
theorem Plant.LawfullyUp.points (up : x.LawfullyUp y z r) :
    r.alarms.firstOut = allPoints.find? r.conditionAtLoad ∧ ∀ k, r.alarms.points.get k =
      if r.conditionAtLoad k then { condition := true, state := .activeUnack } else { condition := false, state := .normal } := by
  have same : r.conditionAtLoad = z.conditionAtLoad := funext up.condition
  -- point 38 holds at every end of LOAD
  have found : (allPoints.find? z.conditionAtLoad).isSome = true := by
    rw [List.find?_isSome]
    exact ⟨38, mem_allPoints 38, rfl⟩
  rw [same]
  refine ⟨?_, fun k => up.handed.inside k (mem_allPoints k)⟩
  rw [up.handed.firstOut, Plant.episode_normal up.normal, if_neg Bool.false_ne_true]
  exact Option.or_of_isSome found

end

end Sys2Proof.Machine
end

section
/-! The end of LOAD (R13, R17, R120, R149): O11. -/

namespace Sys2Proof.Machine

/-! The state at the end of LOAD. -/

/-- The state that the end of LOAD leaves, with its units in `r`. -/
def State.afterLoad (s : State) (r : Plant) : State :=
  takeMarks s (flush
    { s with
      load := .none, kept := [], log := recoverLog s.mem s.windows, plant := r
      deposits := { s.deposits with dirty := Vector.replicate 16 true }
      link := { s.link with ldcd := s.ldcdPin } })

theorem execLoadEnd_stage2 {s : State} {panel : Bool} (load : s.load = .stage2 panel) :
    exec .loadEnd s = .next (s.loadEnd panel) := by
  show execLoadEnd s = _
  unfold execLoadEnd
  rw [load]

/-- R149: the units that the end of LOAD starts, with the log's cursors and its answers for the weirs. -/
theorem State.loadEnd_starts (s : State) (panel : Bool) : ∃ x r,
    s.loadEnd panel = s.afterLoad r ∧
    s.LoadReady (s.plant.startEntry panel s.capacity (recoverLog s.mem s.windows).o (recoverLog s.mem s.windows).t ::
      s.kept.map KeptDefault.entry) x ∧
    s.UnitsStarted (s.resumeAnswer (recoverLog s.mem s.windows)) x r ∧
    (x.LoadIdle → ∃ y z, x.LawfullyUp y z r) := by
  have ended : s.loadEnd panel = s.afterLoad ((s.loadPlant panel (recoverLog s.mem s.windows).o
    (recoverLog s.mem s.windows).t).startUnits (s.resumeAnswer (recoverLog s.mem s.windows))) := rfl
  have ready := s.loadPlant_ready panel (recoverLog s.mem s.windows).o (recoverLog s.mem s.windows).t
  generalize s.loadPlant panel (recoverLog s.mem s.windows).o (recoverLog s.mem s.windows).t = x at ended ready
  obtain ⟨up, lawful⟩ := Plant.startUnits_up ready.demands ready.running (s.resumeAnswer (recoverLog s.mem s.windows))
  exact ⟨x, _, ended, ready, ⟨⟨_, ready⟩, up⟩, lawful⟩

theorem recoverLog_eq (m : Memory) (t : List Window) : recoverLog m t =
    { a := (recoverTail m t).1, t := (recoverTail m t).1, o := (recoverTail m t).2
      p := (recoverCursors m t (recoverTail m t).1 (recoverTail m t).2).1
      w := (recoverCursors m t (recoverTail m t).1 (recoverTail m t).2).2
      s := (recoverCursors m t (recoverTail m t).1 (recoverTail m t).2).2, pmiss := 0, tmiss := 0
      dropped := false, dropCount := 0, queue := [], staging := none, lastCommit := .none } := by
  unfold recoverLog
  obtain ⟨tail, oldest⟩ := recoverTail m t
  rfl

section
variable {s : State} {answer : Fin 3 → Bool} {x r : Plant}

/-- R13, R17, R20, R24, R34: the station mode unit once the units are up. -/
theorem State.UnitsStarted.modes (started : s.UnitsStarted answer x r) :
    r.mode.mode = .localControl ∧ r.mode.cause = .start ∧ r.mode.fresh = false ∧ r.mode.freshTimer = .stopped ∧
    r.mode.freshLast = s.commandWord 1 ∧ r.mode.supply = (if s.plant.active 28 then .generator else .mains) ∧
    r.mode.floatHigh = s.plant.active 26 ∧ r.mode.overflow = false ∧
    (r.mode.wetWell = true ↔ (s.plant.levels.channels.get 0).state = .good ∧
      ∃ v, (s.plant.levels.channels.get 0).value = some v ∧ s.plant.stormLevel ≤ v) ∧
    r.mode.storm = (r.mode.wetWell || s.plant.active 26) := by
  rw [started.mode]
  exact ⟨rfl, rfl, rfl, rfl, rfl, rfl, rfl, rfl, s.plant.wetWellAtLoad_iff, rfl⟩

/-- R34: the entry of a storm, in the terms of the station mode unit. -/
theorem State.UnitsStarted.stormEntries (started : s.UnitsStarted answer x r) : s.plant.stormEntries =
    if r.mode.storm then
      [{ source := srcMode, kind := 0x11, urgent := false
         detail := detail1 (bit r.mode.wetWell + 4 * bit (s.plant.active 26)) }] else [] := by
  rw [started.mode]
  rfl

/-- R91, R120: the resume mark of a weir is that of an unmatched OVERFLOW_START among the log's entries. -/
theorem State.UnitsStarted.resume_iff (started : s.UnitsStarted (s.resumeAnswer (recoverLog s.mem s.windows)) x r)
    (n : Fin 3) : (r.weir n).resume = true ↔
      ∃ k, (recoverTail s.mem s.windows).2 ≤ k ∧ k < (recoverTail s.mem s.windows).1 ∧ RingStarts s.mem s.windows n k ∧
        ∀ y, k < y → y < (recoverTail s.mem s.windows).1 →
          ¬ RingStarts s.mem s.windows n y ∧ ¬ RingEnds s.mem s.windows n y := by
  obtain ⟨-, below, -⟩ := recoverTail_bounds s.mem s.windows
  rw [started.resumed]
  unfold State.resumeAnswer
  rw [recoverLog_eq, unmatchedStart_iff _ _ (Nat.sub_le _ _)]
  dsimp only
  rw [Nat.sub_sub_self below]

end

/-- What the end of LOAD leaves of a state as a run reaches it (R17, R61, R105). -/
theorem State.Settled.loaded {s : State} {first : List Draft} {answer : Fin 3 → Bool} {x r : Plant} (settled : s.Settled)
    (loads : s.load ≠ .none) (ready : s.LoadReady first x) (started : s.UnitsStarted answer x r)
    (lawful : x.LoadIdle → ∃ y z, x.LawfullyUp y z r) :
    (∀ n, x.pumpPlaced n) ∧ ∃ y z, s.LoadedLawfully answer x y z r := by
  have idle := settled.loadIdle loads ready
  obtain ⟨y, z, up⟩ := lawful idle
  exact ⟨idle.pumps.placed, y, z, started, settled.lawful, up⟩

end Sys2Proof.Machine
end

section
/-! The units of the plant at the end of LOAD, clause by clause: O11. -/

namespace Sys2Proof.Machine

/-- Settles O11: R149. LOAD_END hands the units the words, the mode and the recovered log; each unit's clause is that of the
units started (`State.UnitsStarted`), and where LOAD was reached by a run the rakes, the alarms and the entries are those
of the stages taken one after another (`Plant.LawfullyUp`). -/
theorem loadEndEntersLocal : Obligations.LoadEndEntersLocal := by
  unfold Obligations.LoadEndEntersLocal
  intro s panel load handed room
  obtain ⟨x, r, ended, ready, started, lawful⟩ := s.loadEnd_starts panel
  refine ⟨s.afterLoad r, (execLoadEnd_stage2 load).trans (congrArg Host.Outcome.next ended), ?_⟩
  clear ended
  intro holds storm trips starts alarms
  have loads : s.load ≠ .none := by rw [load]; exact LoadStage.noConfusion
  have loaded (settled : s.Settled) := settled.loaded loads ready started lawful
  have isHolds : r.conditionAtLoad = holds := funext fun k =>
    Bool.eq_iff_iff.mpr ((started.condition_iff k).trans decide_eq_true_iff.symm)
  obtain ⟨mode, cause, fresh, freshTimer, freshLast, supply, floatHigh, overflow, wetWell, storms⟩ := started.modes
  have sections : r.sections = s.plant.sections := started.up.starts.sections.trans ready.sections
  have levels : r.levels = s.plant.levels := started.up.starts.levels.trans ready.levels
  have clock : r.clock = s.plant.clock := started.up.starts.clock.trans ready.clock
  refine ⟨rfl, rfl, rfl, clock, levels, sections, mode, cause, fresh, freshTimer, freshLast, supply, floatHigh, overflow,
    wetWell, storms, started.word pumpWord_ne_zero, fun i spare => ?_, fun n => ⟨?_, started.oos n⟩, fun n => ?_,
    started.desired, fun n => ?_, fun settled => ?_, fun settled => ?_, fun n => ?_, fun i other => started.corr other,
    fun i => ?_, rfl, rfl, ?_, fun n => ⟨fun u v up upValue down downValue => started.measured up upValue down downValue,
      fun blind => started.blind blind⟩, rfl⟩
  case refine_1 =>
    exact (started.word (pumpWord_not_spare spare)).trans (loadedShadowWord_spare spare _)
  case refine_2 =>
    exact (started.highBit n (by decide)).trans (getLsbD_cleared _).2.2
  case refine_3 =>
    refine ⟨fun placed => ⟨started.pumpWord_cleared placed, started.pumpCorr placed⟩, fun away absent => ?_,
      fun here => ?_, fun here => ?_, fun here => ?_⟩
    · exact (started.pump n (.inr absent)).absent away absent
    · exact (started.pump n (.inl here)).oos here
    · exact (started.pump n (.inl here)).resting here
    · exact (started.pump n (.inl here)).tripped here
  case refine_4 =>
    exact ⟨(started.weir n).absent, (started.weir n).good, (started.weir n).blind⟩
  case refine_5 =>
    obtain ⟨-, y, z, up⟩ := loaded settled
    obtain ⟨queue, free, rotation, stagger⟩ := up.up.pumps
    obtain ⟨-, -, -, sameQueue, sameStagger⟩ := up.up.units
    refine ⟨sameQueue.trans queue, up.up.kept.2.rotation.trans (rotation.trans ready.rotation),
      sameStagger.trans (stagger.trans ready.stagger), fun n => ?_, fun n => ?_⟩
    · have claim := up.up.units.claim (pumpHolder n)
      exact (congrArg Claim.status claim).trans (free n)
    · exact ⟨(up.rake n).absent, (up.rake n).oos, (up.rake n).calm, (up.rake n).storm⟩
  case refine_6 =>
    obtain ⟨-, y, z, up⟩ := loaded settled
    rw [← isHolds]
    exact up.up.points
  case refine_7 =>
    exact (started.word (screenWord_not_pump n)).trans (loadedShadowWord_screen n _)
  case refine_8 =>
    exact Vector.getElem_replicate _
  case refine_9 =>
    intro slot valid page shownP shownW
    have recovered := recoverTail_recovered (m := s.mem) room
    have resume := started.resume_iff
    obtain ⟨taken, kept⟩ := recoverCursors_eq (m := s.mem) (t := s.windows) (recoverTail s.mem s.windows).1
      (recoverTail s.mem s.windows).2
    have log := recoverLog_eq s.mem s.windows
    rw [log] at ready
    generalize recoverCursors s.mem s.windows (recoverTail s.mem s.windows).1 (recoverTail s.mem s.windows).2 = cursors at log taken kept
    generalize (recoverTail s.mem s.windows).1 = tail at *
    generalize (recoverTail s.mem s.windows).2 = oldest at *
    refine ⟨tail, oldest, recovered.above, recovered.highest, recovered.low, recovered.high, recovered.between,
      recovered.before, ?_, resume⟩
    intro within first default
    obtain ⟨more, out⟩ := started.up.out
    refine ⟨s.plant.stormEntries ++ more, fun settled => ?_, ?_⟩
    · obtain ⟨placed, y, z, up⟩ := loaded settled
      have entries := up.entries placed
      rw [isHolds] at entries
      rw [List.append_cancel_left (out.symm.trans entries), started.stormEntries]
      exact (List.append_assoc storm (trips ++ starts) alarms).symm.trans
        (congrArg (· ++ alarms) (List.append_assoc storm trips starts).symm)
    · have all : r.out = first :: s.kept.map default ++ (s.plant.stormEntries ++ more) := by
        rw [out, ready.out, handed, List.nil_append, List.append_assoc]
        rfl
      show r.out.foldl (fun l d => l.append r.clock d) (recoverLog s.mem s.windows) = _
      rw [clock, all, log]
      by_cases lies : within
      · rw [if_pos lies, if_pos lies, taken lies]
        rfl
      · rw [if_neg lies, if_neg lies, kept lies]

end Sys2Proof.Machine
end
